-- ==== Sys2Proof/Word.lean ====
section
/-! DEFINITION. The machine's words and the plainest arithmetic on them. -/
namespace Sys2Proof

/-- One byte of memory. -/
abbrev Byte := BitVec 8
/-- One 32-bit register or instruction word. -/
abbrev Word := BitVec 32
/-- A register pair or a thread mask. -/
abbrev DWord := BitVec 64

end Sys2Proof
end

