-- ==== Sys2Proof/Syntax.lean ====
section
/-! DEFINITION. The instruction type: one constructor for each row of the table of operations and events, with the
data that its event brings (a message, a packet, the names of the units that act) or the fields of its encoding. -/
namespace Sys2Proof

/-- A Coltos message: the header fields of R49, its payload, and the port and fabric endpoint it arrived by (R48). -/
structure Msg where
  seq     : BitVec 32
  ackseq  : BitVec 32
  cmd     : BitVec 8
  flags   : BitVec 8
  sess    : BitVec 8
  stat    : BitVec 8
  rseq    : BitVec 32
  len     : BitVec 16
  arg0    : BitVec 64
  arg1    : BitVec 48
  payload : List (BitVec 8)
  port    : Nat
  ep      : Nat
  deriving DecidableEq, Repr

/-- A fabric packet: the header flit of R28 and the bytes of its data flits. -/
structure Packet where
  inl   : BitVec 384
  cls   : BitVec 2
  op    : BitVec 6
  src   : BitVec 7
  dst   : BitVec 7
  ndata : BitVec 3
  slack : BitVec 7
  pa    : BitVec 38
  smask : BitVec 4
  arena : BitVec 12
  gen   : BitVec 4
  regn  : BitVec 2
  txn   : BitVec 12
  core  : BitVec 8
  grp   : BitVec 6
  thr   : BitVec 6
  hint  : BitVec 4
  data  : List (BitVec 8)
  deriving DecidableEq, Repr

/-- The blocks that manage their own power (R23). -/
inductive Block where
  | core (n : Nat)
  | slice (n : Nat)
  | port (n : Nat)
  | decoder (n : Nat)
  | mgmt (die : Nat)
  deriving DecidableEq, Repr

/-- The engines whose commands run as READ, LAND and FINISH steps (R182): a copy slot, a decoder, or the matrix
store of a partition. -/
inductive Engine where
  | copy (core slot : Nat)
  | decoder (n : Nat)
  | mstore (core part : Nat)
  deriving DecidableEq, Repr

/-- What self-test, training and the helper data find at one boot (R14 steps 7 to 10, R18, R12). Physical cores are
numbered 68 for each die as R409 gives; an empty list means that no unit of the kind failed. -/
structure BistReport where
  badCores    : List Nat
  badSlices   : List Nat
  badDecoders : List Nat
  badPorts    : List Nat
  badMgmt     : List Nat
  badChannels : List Nat
  lanes       : List Nat
  deriving DecidableEq, Repr

/-- The operations and events of the table, one constructor for each row. -/
inductive Instr where
  /-- BRA (R244). -/
  | bra (o : BitVec 24)
  /-- BRP (R244). -/
  | brp (q : BitVec 2) (n : BitVec 1) (p : BitVec 3) (o : BitVec 16)
  /-- JMPR (R244). -/
  | jmpr (a : BitVec 8)
  /-- CALL (R244). -/
  | call (o : BitVec 24)
  /-- JPUSH (R246). -/
  | jpush (o : BitVec 24)
  /-- BDIV (R247). -/
  | bdiv (n : BitVec 1) (p : BitVec 3) (o : BitVec 16)
  /-- TRAP (R352). -/
  | trap (i : BitVec 16)
  /-- SETMODE_I (R251). -/
  | setmodeI (i : BitVec 15)
  /-- SETMODE (R251). -/
  | setmode (a : BitVec 8)
  /-- SETFMT (R251). -/
  | setfmt (a : BitVec 8)
  /-- GETMODE (R251). -/
  | getmode (d : BitVec 8) (m : BitVec 1)
  /-- LDTAB (R252). -/
  | ldtab (k : BitVec 4) (a : BitVec 8)
  /-- REGACQ (R265). -/
  | regacq (n : BitVec 16)
  /-- REGREL (R265). -/
  | regrel (n : BitVec 16)
  /-- RVDONATE (R266). -/
  | rvdonate (d a b : BitVec 8)
  /-- ADD (R255). -/
  | add (d a b : BitVec 8)
  /-- SUB (R255). -/
  | sub (d a b : BitVec 8)
  /-- MUL (R255). -/
  | mul (d a b : BitVec 8)
  /-- MULHI (R255). -/
  | mulhi (d a b : BitVec 8)
  /-- MAD (R255). -/
  | mad (d a b : BitVec 8)
  /-- MIN (R255). -/
  | min (d a b : BitVec 8)
  /-- MAX (R255). -/
  | max (d a b : BitVec 8)
  /-- ABS (R255). -/
  | abs (d a : BitVec 8)
  /-- NEG (R255). -/
  | neg (d a : BitVec 8)
  /-- AND (R257). -/
  | and (d a b : BitVec 8)
  /-- OR (R257). -/
  | or (d a b : BitVec 8)
  /-- XOR (R257). -/
  | xor (d a b : BitVec 8)
  /-- NOT (R257). -/
  | not (d a : BitVec 8)
  /-- SHL (R256). -/
  | shl (d a b : BitVec 8)
  /-- SHR (R256). -/
  | shr (d a b : BitVec 8)
  /-- SRA (R256). -/
  | sra (d a b : BitVec 8)
  /-- POPC (R257). -/
  | popc (d a : BitVec 8)
  /-- CLZ (R257). -/
  | clz (d a : BitVec 8)
  /-- BREV (R257). -/
  | brev (d a : BitVec 8)
  /-- BFX (R257). -/
  | bfx (d a b : BitVec 8)
  /-- BFI (R257). -/
  | bfi (d a b : BitVec 8)
  /-- SEL (R260). -/
  | sel (d a b : BitVec 8)
  /-- CMPEQ (R259). -/
  | cmpeq (d a b : BitVec 8)
  /-- CMPNE (R259). -/
  | cmpne (d a b : BitVec 8)
  /-- CMPLT (R259). -/
  | cmplt (d a b : BitVec 8)
  /-- CMPLE (R259). -/
  | cmple (d a b : BitVec 8)
  /-- CMPLTN (R259). -/
  | cmpltn (d a b : BitVec 8)
  /-- CMPLEN (R259). -/
  | cmplen (d a b : BitVec 8)
  /-- LDI (R257). -/
  | ldi (d : BitVec 8) (i : BitVec 16)
  /-- LDIH (R257). -/
  | ldih (d : BitVec 8) (i : BitVec 16)
  /-- MOV (R258). -/
  | mov (d a : BitVec 8)
  /-- LEAS (R258). -/
  | leas (d a b : BitVec 8)
  /-- ADD_I (R228). -/
  | addI (d a i : BitVec 8)
  /-- MUL_I (R228). -/
  | mulI (d a i : BitVec 8)
  /-- AND_I (R228). -/
  | andI (d a i : BitVec 8)
  /-- OR_I (R228). -/
  | orI (d a i : BitVec 8)
  /-- XOR_I (R228). -/
  | xorI (d a i : BitVec 8)
  /-- SHL_I (R228). -/
  | shlI (d a : BitVec 8) (i : BitVec 5)
  /-- SHR_I (R228). -/
  | shrI (d a : BitVec 8) (i : BitVec 5)
  /-- SRA_I (R228). -/
  | sraI (d a : BitVec 8) (i : BitVec 5)
  /-- CMPEQ_I (R228). -/
  | cmpeqI (d a i : BitVec 8)
  /-- CMPNE_I (R228). -/
  | cmpneI (d a i : BitVec 8)
  /-- CMPLT_I (R228). -/
  | cmpltI (d a i : BitVec 8)
  /-- CMPLE_I (R228). -/
  | cmpleI (d a i : BitVec 8)
  /-- CMPLTN_I (R228). -/
  | cmpltnI (d a i : BitVec 8)
  /-- CMPLEN_I (R228). -/
  | cmplenI (d a i : BitVec 8)
  /-- FADD (R271). -/
  | fadd (d a b : BitVec 8)
  /-- FSUB (R271). -/
  | fsub (d a b : BitVec 8)
  /-- FMUL (R271). -/
  | fmul (d a b : BitVec 8)
  /-- FMA (R271). -/
  | fma (d a b : BitVec 8)
  /-- FMIN (R272). -/
  | fmin (d a b : BitVec 8)
  /-- FMAX (R272). -/
  | fmax (d a b : BitVec 8)
  /-- FNEG (R273). -/
  | fneg (d a : BitVec 8)
  /-- FABS (R273). -/
  | fabs (d a : BitVec 8)
  /-- FCMPEQ (R274). -/
  | fcmpeq (d a b : BitVec 8)
  /-- FCMPLT (R274). -/
  | fcmplt (d a b : BitVec 8)
  /-- FCMPLE (R274). -/
  | fcmple (d a b : BitVec 8)
  /-- FCMPUN (R274). -/
  | fcmpun (d a b : BitVec 8)
  /-- FRCP (R275). -/
  | frcp (d a : BitVec 8)
  /-- FRSQ (R275). -/
  | frsq (d a : BitVec 8)
  /-- FSIN (R275). -/
  | fsin (d a : BitVec 8)
  /-- FCOS (R275). -/
  | fcos (d a : BitVec 8)
  /-- FEXP2 (R275). -/
  | fexp2 (d a : BitVec 8)
  /-- FLOG2 (R275). -/
  | flog2 (d a : BitVec 8)
  /-- CVT (R276). -/
  | cvt (d a : BitVec 8) (t f : BitVec 4)
  /-- QNT (R278). -/
  | qnt (d a : BitVec 8)
  /-- DQNT (R279). -/
  | dqnt (d a : BitVec 8)
  /-- PACK (R280). -/
  | pack (d a b : BitVec 8)
  /-- UNPACK (R281). -/
  | unpack (d a : BitVec 8) (e : BitVec 3)
  /-- SHFL (R261). -/
  | shfl (d a b : BitVec 8)
  /-- SHFLX (R261). -/
  | shflx (d a b : BitVec 8)
  /-- BALLOT (R262). -/
  | ballot (d a : BitVec 8)
  /-- VANY (R262). -/
  | vany (d a : BitVec 8)
  /-- VALL (R262). -/
  | vall (d a : BitVec 8)
  /-- MATCH (R261). -/
  | matchv (d a : BitVec 8)
  /-- RDUNI (R262). -/
  | rduni (d a b : BitVec 8)
  /-- BCAST (R261). -/
  | bcast (d a b : BitVec 8)
  /-- XPAIR (R263). -/
  | xpair (a b : BitVec 8)
  /-- XSHFL (R264). -/
  | xshfl (d a : BitVec 8)
  /-- LDB (R285). -/
  | ldb (d a b : BitVec 8)
  /-- LDH (R285). -/
  | ldh (d a b : BitVec 8)
  /-- LDW (R285). -/
  | ldw (d a b : BitVec 8)
  /-- LDD (R285). -/
  | ldd (d a b : BitVec 8)
  /-- LDQ (R285). -/
  | ldq (d a b : BitVec 8)
  /-- STB (R285). -/
  | stb (d a b : BitVec 8)
  /-- STH (R285). -/
  | sth (d a b : BitVec 8)
  /-- STW (R285). -/
  | stw (d a b : BitVec 8)
  /-- STD (R285). -/
  | std (d a b : BitVec 8)
  /-- STQ (R285). -/
  | stq (d a b : BitVec 8)
  /-- LDS (R287). -/
  | lds (d a : BitVec 8) (w : BitVec 3)
  /-- STS (R287). -/
  | sts (d a : BitVec 8) (w : BitVec 3)
  /-- LDACQ (R286). -/
  | ldacq (d a b : BitVec 8)
  /-- STREL (R286). -/
  | strel (d a b : BitVec 8)
  /-- PREF (R288). -/
  | pref (a b : BitVec 8)
  /-- AADD (R290). -/
  | aadd (d a b : BitVec 8)
  /-- AFADD (R290). -/
  | afadd (d a b : BitVec 8)
  /-- AMIN (R290). -/
  | amin (d a b : BitVec 8)
  /-- AMAX (R290). -/
  | amax (d a b : BitVec 8)
  /-- AAND (R290). -/
  | aand (d a b : BitVec 8)
  /-- AOR (R290). -/
  | aor (d a b : BitVec 8)
  /-- AXOR (R290). -/
  | axor (d a b : BitVec 8)
  /-- AXCHG (R290). -/
  | axchg (d a b : BitVec 8)
  /-- ACAS (R290). -/
  | acas (d a b : BitVec 8)
  /-- REDADD (R292). -/
  | redadd (a b : BitVec 8)
  /-- REDFADD (R292). -/
  | redfadd (a b : BitVec 8)
  /-- REDMIN (R292). -/
  | redmin (a b : BitVec 8)
  /-- REDMAX (R292). -/
  | redmax (a b : BitVec 8)
  /-- REDOR (R292). -/
  | redor (a b : BitVec 8)
  /-- CPY (R294). -/
  | cpy (a b : BitVec 8)
  /-- CPYS (R294). -/
  | cpys (a b : BitVec 8)
  /-- TAGWANY (R295). -/
  | tagwany (a : BitVec 8)
  /-- TAGWALL (R295). -/
  | tagwall (a : BitVec 8)
  /-- TAGFF (R295). -/
  | tagff (d a : BitVec 8)
  /-- TAGCLR (R295). -/
  | tagclr (a : BitVec 8)
  /-- BARINIT (R297). -/
  | barinit (a b : BitVec 8)
  /-- BARARR (R297). -/
  | bararr (a b : BitVec 8)
  /-- BAREXP (R297). -/
  | barexp (a b : BitVec 8)
  /-- WAITPH (R298). -/
  | waitph (d a b : BitVec 8)
  /-- CNTWAIT (R299). -/
  | cntwait (k : BitVec 3) (n : BitVec 16)
  /-- ENQ (R300). -/
  | enq (d a : BitVec 8) (q : BitVec 3)
  /-- DEQ (R300). -/
  | deq (d a : BitVec 8) (q : BitVec 3)
  /-- MONITOR (R301). -/
  | monitor (a : BitVec 8)
  /-- MWAIT (R301). -/
  | mwait (a : BitVec 8)
  /-- ANEW (R168). -/
  | anew (d a b : BitVec 8)
  /-- ADROP (R166). -/
  | adrop (d a : BitVec 8) (l r : BitVec 1)
  /-- ASEAL (R165). -/
  | aseal (d a : BitVec 8)
  /-- AQUOTA (R302). -/
  | aquota (d a b : BitVec 8)
  /-- AQUERY (R302). -/
  | aquery (d a : BitVec 8)
  /-- CBSYNC (R303). -/
  | cbsync (a : BitVec 8)
  /-- MLOADB (R310). -/
  | mloadb (s : BitVec 2) (a : BitVec 8)
  /-- MMA (R312). -/
  | mma (c s : BitVec 2) (a : BitVec 8)
  /-- MMAS (R313). -/
  | mmas (c s : BitVec 2) (a m : BitVec 8) (e : BitVec 3)
  /-- MMAB (R312). -/
  | mmab (c s : BitVec 2)
  /-- MBYP (R314). -/
  | mbyp (c : BitVec 2) (r : BitVec 1)
  /-- MDRAIN (R315). -/
  | mdrain (c : BitVec 2) (a : BitVec 8)
  /-- MSTORE (R316). -/
  | mstore (c : BitVec 2) (a m : BitVec 8)
  /-- MZERO (R317). -/
  | mzero (c : BitVec 2)
  /-- QINIT (R322). -/
  | qinit (q p k : BitVec 1) (t : BitVec 2)
  /-- QAPPEND (R323). -/
  | qappend (q : BitVec 1) (v s : BitVec 8)
  /-- QAPPL (R324). -/
  | qappl (q : BitVec 1) (t : BitVec 2)
  /-- QAPPLT (R324). -/
  | qapplt (q : BitVec 1) (t : BitVec 2)
  /-- QAPPR (R324). -/
  | qappr (q : BitVec 1) (t : BitVec 2)
  /-- QAPPRT (R324). -/
  | qapprt (q : BitVec 1) (t : BitVec 2)
  /-- QCOUNT (R326). -/
  | qcount (q : BitVec 1) (s : BitVec 8)
  /-- QCOMPACT (R325). -/
  | qcompact (q : BitVec 1)
  /-- QDENSE (R326). -/
  | qdense (q : BitVec 1) (t : BitVec 2)
  /-- LOCK (R335). -/
  | lock (d a b : BitVec 8)
  /-- TRYLOCK (R335). -/
  | trylock (d a : BitVec 8)
  /-- UNLOCK (R337). -/
  | unlock (a : BitVec 8)
  /-- LKPROBE (R342). -/
  | lkprobe (d a : BitVec 8)
  /-- LKFREE (R339). -/
  | lkfree (d a : BitVec 8)
  /-- WPSET (R347). -/
  | wpset (n : BitVec 4) (a b : BitVec 8)
  /-- WPCLR (R347). -/
  | wpclr (n : BitVec 4)
  /-- WPRD (R347). -/
  | wprd (d : BitVec 8) (n : BitVec 4)
  /-- HLTRD (R349). -/
  | hltrd (d a b : BitVec 8)
  /-- HLTWR (R349). -/
  | hltwr (d a b : BitVec 8)
  /-- HLTSTEP (R350). -/
  | hltstep (a b : BitVec 8)
  /-- HLTRES (R351). -/
  | hltres (a : BitVec 8)
  /-- TSPAWN (R358). -/
  | tspawn (d a : BitVec 8)
  /-- TDONE_FINAL (R360). -/
  | tdoneFinal (d : BitVec 8)
  /-- TDONE_GRAIN (R360). -/
  | tdoneGrain (d : BitVec 8)
  /-- TDEP (R361). -/
  | tdep (d a b : BitVec 8)
  /-- MBXREG (R362). -/
  | mbxreg (d a b : BitVec 8)
  /-- EVROUTE (R364). -/
  | evroute (n : BitVec 4) (a b : BitVec 8)
  /-- CSRRD (R355). -/
  | csrrd (d : BitVec 8) (c : BitVec 16)
  /-- CSRWR (R356). -/
  | csrwr (s : BitVec 8) (c : BitVec 16)
  /-- MTIMER (R371). -/
  | mtimer (s : BitVec 5)
  /-- MQPUSH (R370). -/
  | mqpush (q : BitVec 3) (s d : BitVec 5)
  /-- MQPOP (R370). -/
  | mqpop (q : BitVec 3) (s d : BitVec 5)
  /-- MQCNT (R367). -/
  | mqcnt (q : BitVec 3) (d : BitVec 5)
  /-- MTAGR (R371). -/
  | mtagr (w : BitVec 1) (d : BitVec 5)
  /-- MCPY (R368). -/
  | mcpy (s d : BitVec 5)
  /-- MBARC (R369). -/
  | mbarc (c b s : BitVec 5)
  /-- MAVDEC (R372). -/
  | mavdec (s d : BitVec 5)
  /-- RV_LUI (R366). -/
  | rvLui (d : BitVec 5) (i : BitVec 20)
  /-- RV_AUIPC (R366). -/
  | rvAuipc (d : BitVec 5) (i : BitVec 20)
  /-- RV_JAL (R366). -/
  | rvJal (d : BitVec 5) (i : BitVec 20)
  /-- RV_JALR (R366). -/
  | rvJalr (d s : BitVec 5) (i : BitVec 12)
  /-- RV_BEQ (R366). -/
  | rvBeq (s t : BitVec 5) (i : BitVec 12)
  /-- RV_BNE (R366). -/
  | rvBne (s t : BitVec 5) (i : BitVec 12)
  /-- RV_BLT (R366). -/
  | rvBlt (s t : BitVec 5) (i : BitVec 12)
  /-- RV_BGE (R366). -/
  | rvBge (s t : BitVec 5) (i : BitVec 12)
  /-- RV_BLTU (R366). -/
  | rvBltu (s t : BitVec 5) (i : BitVec 12)
  /-- RV_BGEU (R366). -/
  | rvBgeu (s t : BitVec 5) (i : BitVec 12)
  /-- RV_LB (R366). -/
  | rvLb (d s : BitVec 5) (i : BitVec 12)
  /-- RV_LH (R366). -/
  | rvLh (d s : BitVec 5) (i : BitVec 12)
  /-- RV_LW (R366). -/
  | rvLw (d s : BitVec 5) (i : BitVec 12)
  /-- RV_LBU (R366). -/
  | rvLbu (d s : BitVec 5) (i : BitVec 12)
  /-- RV_LHU (R366). -/
  | rvLhu (d s : BitVec 5) (i : BitVec 12)
  /-- RV_SB (R366). -/
  | rvSb (s t : BitVec 5) (i : BitVec 12)
  /-- RV_SH (R366). -/
  | rvSh (s t : BitVec 5) (i : BitVec 12)
  /-- RV_SW (R366). -/
  | rvSw (s t : BitVec 5) (i : BitVec 12)
  /-- RV_ADDI (R366). -/
  | rvAddi (d s : BitVec 5) (i : BitVec 12)
  /-- RV_SLTI (R366). -/
  | rvSlti (d s : BitVec 5) (i : BitVec 12)
  /-- RV_SLTIU (R366). -/
  | rvSltiu (d s : BitVec 5) (i : BitVec 12)
  /-- RV_XORI (R366). -/
  | rvXori (d s : BitVec 5) (i : BitVec 12)
  /-- RV_ORI (R366). -/
  | rvOri (d s : BitVec 5) (i : BitVec 12)
  /-- RV_ANDI (R366). -/
  | rvAndi (d s : BitVec 5) (i : BitVec 12)
  /-- RV_SLLI (R366). -/
  | rvSlli (d s i : BitVec 5)
  /-- RV_SRLI (R366). -/
  | rvSrli (d s i : BitVec 5)
  /-- RV_SRAI (R366). -/
  | rvSrai (d s i : BitVec 5)
  /-- RV_ADD (R366). -/
  | rvAdd (d s t : BitVec 5)
  /-- RV_SUB (R366). -/
  | rvSub (d s t : BitVec 5)
  /-- RV_SLL (R366). -/
  | rvSll (d s t : BitVec 5)
  /-- RV_SLT (R366). -/
  | rvSlt (d s t : BitVec 5)
  /-- RV_SLTU (R366). -/
  | rvSltu (d s t : BitVec 5)
  /-- RV_XOR (R366). -/
  | rvXor (d s t : BitVec 5)
  /-- RV_SRL (R366). -/
  | rvSrl (d s t : BitVec 5)
  /-- RV_SRA (R366). -/
  | rvSra (d s t : BitVec 5)
  /-- RV_OR (R366). -/
  | rvOr (d s t : BitVec 5)
  /-- RV_AND (R366). -/
  | rvAnd (d s t : BitVec 5)
  /-- RV_FENCE (R366). -/
  | rvFence (f : BitVec 17) (d : BitVec 5)
  /-- RV_MUL (R366). -/
  | rvMul (d s t : BitVec 5)
  /-- RV_MULH (R366). -/
  | rvMulh (d s t : BitVec 5)
  /-- RV_MULHSU (R366). -/
  | rvMulhsu (d s t : BitVec 5)
  /-- RV_MULHU (R366). -/
  | rvMulhu (d s t : BitVec 5)
  /-- RV_DIV (R366). -/
  | rvDiv (d s t : BitVec 5)
  /-- RV_DIVU (R366). -/
  | rvDivu (d s t : BitVec 5)
  /-- RV_REM (R366). -/
  | rvRem (d s t : BitVec 5)
  /-- RV_REMU (R366). -/
  | rvRemu (d s t : BitVec 5)
  /-- ILLEGAL_ENCODING (R215). -/
  | illegalEncoding (word : BitVec 32)
  /-- SIDE_UNSUPPORTED_ENCODING (R366). -/
  | sideUnsupportedEncoding (word : BitVec 32)
  /-- RET (R244). -/
  | ret
  /-- JOIN (R248). -/
  | join
  /-- EXIT (R249). -/
  | exit
  /-- YIELD (R245). -/
  | yield
  /-- NOP (R245). -/
  | nop
  /-- RTE (R353). -/
  | rte
  /-- RTE_SKIP (R353). -/
  | rteSkip
  /-- FENCE_A (R289). -/
  | fenceA
  /-- FENCE_R (R289). -/
  | fenceR
  /-- FENCE_AR (R289). -/
  | fenceAr
  /-- EVROUTE_SIGNAL (R364). -/
  | evrouteSignal
  /-- PREACK (R357). -/
  | preack
  /-- MHALT (R367). -/
  | mhalt
  /-- MEVWAIT (R371). -/
  | mevwait
  /-- MSIGNAL (R367). -/
  | msignal
  /-- POWER_ON (R14). -/
  | powerOn (lanes : Nat)
  /-- PORT_TRAINING_RETRY (R14). -/
  | portTrainingRetry (lanes : Nat)
  /-- BOOTWAIT (R53). -/
  | bootwait
  /-- FWLOAD (R53). -/
  | fwload (m : Msg)
  /-- IMAGE_VERIFY (R15). -/
  | imageVerify
  /-- BOOT_BRINGUP (R14). -/
  | bootBringup (r : BistReport)
  /-- STOPPED (R56). -/
  | stopped
  /-- RESET (R16). -/
  | reset (m : Msg)
  /-- WARM_RESTART (R58). -/
  | warmRestart
  /-- CLOCK_GATED_ENTRY (R23). -/
  | clockGatedEntry (k : Block)
  /-- RETENTION_ENTRY (R23). -/
  | retentionEntry (k : Block)
  /-- OFF_ENTRY (R23). -/
  | offEntry (k : Block)
  /-- WAKE_REQUEST (R23). -/
  | wakeRequest (k : Block)
  /-- THERMAL_THROTTLE (R24). -/
  | thermalThrottle (k : Block) (temp : Int)
  /-- THERMTRIP (R24). -/
  | thermtrip
  /-- STATUS (R408). -/
  | status (m : Msg)
  /-- RESEND (R53). -/
  | resend (m : Msg)
  /-- MEMWR (R53). -/
  | memwr (m : Msg)
  /-- MEMRD (R53). -/
  | memrd (m : Msg)
  /-- PTWR (R411). -/
  | ptwr (m : Msg)
  /-- ARTWR (R161). -/
  | artwr (m : Msg)
  /-- CBWR (R411). -/
  | cbwr (m : Msg)
  /-- LAUNCH (R75). -/
  | launch (m : Msg)
  /-- MAIL (R59). -/
  | mail (m : Msg)
  /-- ATOM (R60). -/
  | atom (m : Msg)
  /-- PREEMPT (R91). -/
  | preempt (m : Msg)
  /-- QUERY (R410). -/
  | query (m : Msg)
  /-- ATTEST (R22). -/
  | attest (m : Msg)
  /-- RECCTL_OFF (R64). -/
  | recctlOff (m : Msg)
  /-- RECCTL_RECORD (R64). -/
  | recctlRecord (m : Msg)
  /-- RECCTL_REPLAY (R66). -/
  | recctlReplay (m : Msg)
  /-- REPLAY_APPLY (R66). -/
  | replayApply
  /-- REPLAY_MONITOR_TIMEOUT (R66). -/
  | replayMonitorTimeout
  /-- BADCMD (R53). -/
  | badcmd (m : Msg)
  /-- REMOTE_WRITE (R47). -/
  | remoteWrite (port ep addr : Nat) (data : List (BitVec 8))
  /-- REMOTE_READ (R47). -/
  | remoteRead (port ep addr len : Nat)
  /-- PGREQ (R62). -/
  | pgreq (m : Msg)
  /-- PGRECALL (R45). -/
  | pgrecall (m : Msg)
  /-- PGINV (R63). -/
  | pginv (m : Msg)
  /-- PGIACK (R62). -/
  | pgiack (m : Msg)
  /-- PGXFER (R63). -/
  | pgxfer (m : Msg)
  /-- PGDONE (R62). -/
  | pgdone (m : Msg)
  /-- PGREFUSE (R63). -/
  | pgrefuse (m : Msg)
  /-- PGACK (R63). -/
  | pgack (m : Msg)
  /-- PAGEWAIT_TIMEOUT (R201). -/
  | pagewaitTimeout (page : Nat)
  /-- RDS (R39). -/
  | rds (p : Packet)
  /-- RDX (R39). -/
  | rdx (p : Packet)
  /-- UPG (R40). -/
  | upg (p : Packet)
  /-- WRB (R38). -/
  | wrb (p : Packet)
  /-- EVC (R35). -/
  | evc (p : Packet)
  /-- EVD (R35). -/
  | evd (p : Packet)
  /-- OWNW (R39). -/
  | ownw (p : Packet)
  /-- FABRIC_ATOM (R176). -/
  | fabricAtom (p : Packet)
  /-- REDN (R176). -/
  | redn (p : Packet)
  /-- LKRQ_LOCK (R335). -/
  | lkrqLock (p : Packet)
  /-- LKRQ_TRYLOCK (R335). -/
  | lkrqTrylock (p : Packet)
  /-- LKRQ_UNLOCK (R337). -/
  | lkrqUnlock (p : Packet)
  /-- LKRQ_PROBE (R342). -/
  | lkrqProbe (p : Packet)
  /-- LKRQ_FREE (R339). -/
  | lkrqFree (p : Packet)
  /-- LKRQ_UNLINK (R336). -/
  | lkrqUnlink (p : Packet)
  /-- LKRQ_ABSENT (R338). -/
  | lkrqAbsent (p : Packet)
  /-- LKRQ_RESUME (R338). -/
  | lkrqResume (p : Packet)
  /-- LKRQ_HOLDMOVE (R338). -/
  | lkrqHoldmove (p : Packet)
  /-- PFLR (R43). -/
  | pflr (p : Packet)
  /-- DATS (R37). -/
  | dats (p : Packet)
  /-- DATX (R40). -/
  | datx (p : Packet)
  /-- GNTX (R39). -/
  | gntx (p : Packet)
  /-- ACK (R38). -/
  | ack (p : Packet)
  /-- NACK (R40). -/
  | nack (p : Packet)
  /-- REQUEST_RETRY (R40). -/
  | requestRetry (core txn : Nat)
  /-- RESERVATION_LAPSE (R40). -/
  | reservationLapse (line : Nat)
  /-- IACK (R39). -/
  | iack (p : Packet)
  /-- RCD (R40). -/
  | rcd (p : Packet)
  /-- ARES (R38). -/
  | ares (p : Packet)
  /-- PACK_MESSAGE (R43). -/
  | packMessage (p : Packet)
  /-- DACK (R166). -/
  | dack (p : Packet)
  /-- INV (R40). -/
  | inv (p : Packet)
  /-- DWN (R39). -/
  | dwn (p : Packet)
  /-- RCL (R39). -/
  | rcl (p : Packet)
  /-- OWNX (R39). -/
  | ownx (p : Packet)
  /-- PFL (R43). -/
  | pfl (p : Packet)
  /-- DROP (R166). -/
  | drop (p : Packet)
  /-- QSW (R169): the token that stands in register `reg`. A loop has 112 of them, one for each of its places. -/
  | qsw (reg : Nat)
  /-- QUIESCE_SWEEP_DONE (R169). -/
  | quiesceSweepDone
  /-- UNASSIGNED_MESSAGE (R38). -/
  | unassignedMessage (p : Packet)
  /-- LOAD (R173); `soft`: the data have an uncorrectable soft error (R191). -/
  | load (core slot acc : Nat) (soft : Bool)
  /-- DRAIN (R175). -/
  | drain (core slot acc : Nat)
  /-- WQPERF (R176). -/
  | wqperf (line : Nat)
  /-- EVICT (R177). -/
  | evict (core word : Nat)
  /-- CPWB (R177). -/
  | cpwb (core line : Nat)
  /-- WBACK (R177). -/
  | wback (line : Nat)
  /-- DISCARD (R177). -/
  | discard (core word : Nat)
  /-- READ (R182). -/
  | read (e : Engine)
  /-- LAND (R182). -/
  | land (e : Engine)
  /-- FINISH (R154). -/
  | finish (e : Engine)
  /-- DISPATCH (R80). -/
  | dispatch (die : Nat)
  /-- TILE_PROBE_TIMEOUT (R80). -/
  | tileProbeTimeout (die cand : Nat)
  /-- PLACEMENT (R81). -/
  | placement (die : Nat) (bad : List Nat)
  /-- HALVING (R84). -/
  | halving (core : Nat)
  /-- GRAIN_CLAIM (R83). -/
  | grainClaim (inst : Nat)
  /-- FINAL_TDONE_MARK (R360). -/
  | finalTdoneMark (core slot : Nat)
  /-- INSTANCE_FINISH (R77). -/
  | instanceFinish (inst : Nat)
  /-- QUOTA_CROSSING (R72). -/
  | quotaCrossing (rcb : Nat)
  /-- FAULT_PARK (R88). -/
  | faultPark (inst : Nat)
  /-- ENGINE_STOP (R90). -/
  | engineStop (inst : Nat)
  /-- PRENOTE_TIMEOUT (R90). -/
  | prenoteTimeout (core slot : Nat)
  /-- COLLECTOR_COMPLETE (R91). -/
  | collectorComplete (die : Nat)
  /-- WALK_COMPLETE (R211). -/
  | walkComplete (core root va : Nat)
  /-- WAITPH_END (R186). -/
  | waitphEnd (core slot : Nat)
  /-- TAG_WAIT_END (R184). -/
  | tagWaitEnd (core slot : Nat)
  /-- CNTWAIT_END (R183). -/
  | cntwaitEnd (core slot : Nat)
  /-- REGACQ_GRANT (R108). -/
  | regacqGrant (core slot : Nat)
  /-- RVDONATE_TRANSFER (R109). -/
  | rvdonateTransfer (core slot : Nat)
  /-- XPAIR_BIND (R263). -/
  | xpairBind (core slot : Nat)
  /-- XSHFL_EXCHANGE (R264). -/
  | xshflExchange (core slot : Nat)
  /-- LOCK_TIMEOUT (R336). -/
  | lockTimeout (core slot : Nat)
  /-- LOCKHOLD_TIMEOUT (R335). -/
  | lockholdTimeout (core slot acc : Nat)
  /-- DEADLOCK_WALK (R341). -/
  | deadlockWalk (line node : Nat)
  /-- MWAIT_TIMEOUT (R200). -/
  | mwaitTimeout (core slot : Nat)
  /-- EVENT_FIRING (R120). -/
  | eventFiring (core sink : Nat)
  /-- SIDE_TIMER_EXPIRY (R371). -/
  | sideTimerExpiry (core : Nat)
  /-- FRAME_LANDING (R159). -/
  | frameLanding (dec : Nat) (data : List (BitVec 8))
  /-- FRAME_DECODE_FAILURE (R160). -/
  | frameDecodeFailure (dec : Nat) (boff : BitVec 32) (ecode : BitVec 8)
  /-- MATRIX_UNIT_EXECUTE (R308). -/
  | matrixUnitExecute (core part : Nat)
  /-- ORTHOGONAL_UNIT_EXECUTE (R308). -/
  | orthogonalUnitExecute (core part : Nat)
  /-- POWER_REMOVED (R24). -/
  | powerRemoved
  /-- PORT_FAILURE (R48). -/
  | portFailure (port : Nat)
  /-- COLTOS_REPLY (R52). -/
  | coltosReply (m : Msg)
  /-- SEAL_BROADCAST (R165). -/
  | sealBroadcast (core arena : Nat)
  /-- RECCTL_BADARG (R64). -/
  | recctlBadarg (m : Msg)
  /-- UNRELIABLE_DELIVERY_REQUEST (R46). -/
  | unreliableDeliveryRequest (port ep : Nat)
  /-- DEVICE_ONLY_CODE (R49). -/
  | deviceOnlyCode (m : Msg)
  deriving DecidableEq, Repr

/-- Which step the machine takes: the next instruction of a group, the next instruction of a side core (the storer
or the loader), or one of the other steps of the table. -/
inductive Turn where
  | group (core slot : Nat)
  | side (core : Nat) (storer : Bool)
  | event (i : Instr)
  deriving DecidableEq, Repr, Inhabited

end Sys2Proof
end

