-- ==== Sys2Proof/Config.lean ====
section
/-! DEFINITION. What an implementation or the outside world fixes, and the free values: constants with no body, so
that nothing can be proved of the value they give. Each names the log entry that marks it. -/
namespace Sys2Proof.Config

/-- The power-on response of the PUF array, one reading for each value of the state's counter (R16, R20; log entry 6). -/
opaque pufArray : Nat → BitVec 32768
/-- The 256-bit seed that the fuzzy extractor gives for the device's array and helper data that fits it: the same for every reading of
the array (R16, R20, R21; log entry 6). -/
opaque pufSeed : List (BitVec 8) → BitVec 256
/-- The code part of fresh helper data, for a raw response and the number of the enrolment (R20; log entry 6). -/
opaque helperCode : BitVec 32768 → Nat → List (BitVec 8)
/-- Whether the check value of the seed matches helper data that another reading of the array has made (R20; log entry 6). -/
opaque helperFits : BitVec 32768 → List (BitVec 8) → Bool
/-- The key hashes that mask ROM holds: the RSA key (0) and the SLH-DSA key (1) (R14 step 4). -/
opaque romKeyHash : Nat → BitVec 384
/-- Whether an image has a form that step 3 of R14 accepts; the header's layout is not given (log entry 6). -/
opaque imageWellFormed : List (BitVec 8) → Bool
/-- The two public keys in an image header (R14 step 4). -/
opaque imageKey : List (BitVec 8) → Nat → List (BitVec 8)
/-- Whether the RSASSA-PSS signature (R14 step 5) of an image verifies. -/
opaque rsaVerifies : List (BitVec 8) → Bool
/-- Whether the SLH-DSA signature (R14 step 6) of an image verifies. -/
opaque slhVerifies : List (BitVec 8) → Bool
/-- The helper-data appendix of an image, empty where it has none (R14 step 3, R20). -/
opaque imageHelper : List (BitVec 8) → List (BitVec 8)
/-- The public key of the ECDSA P-384 pair that is derived from key material (R21; log entry 6). -/
opaque ecPublic : List (BitVec 8) → List (BitVec 8)
/-- The ECDSA P-384 signature of a byte string under a pair's key material (R22; log entry 6). -/
opaque ecSign : List (BitVec 8) → List (BitVec 8) → List (BitVec 8)
/-- The ML-DSA-65 signature of a byte string under a pair's key material (R22; log entry 6). -/
opaque mlSign : List (BitVec 8) → List (BitVec 8) → List (BitVec 8)
/-- The bytes 16 to 4,095 of a core record: which byte stands at each offset, of the contents in the order in which R203 lists
them (log entry 16). -/
opaque recordPage : List (BitVec 8) → Nat → BitVec 8
/-- Whether a line's data have an uncorrectable soft error when they are read at a value of the state's counter (R11, R191; log
entry 62). -/
opaque softError : Nat → Nat → Bool
/-- The random boot nonce of R204, one for each value of the state's counter at a boot. -/
opaque bootNonce : Nat → Nat

/-- The step that the machine takes when its agenda is empty, for each value of the state's counter: R172 lets any
enabled step come next (log entry 1). -/
opaque schedule : Nat → Turn
/-- A fresh 32-bit value for which the spec gives no rule, one for each value of the state's counter (log entry 7). -/
opaque freeWord : Nat → BitVec 32
/-- A candidate result of FRCP, FRSQ, FSIN, FCOS, FEXP2 or FLOG2 outside the exact cases of R144 (log entry 8):
the state's counter, the function's number and the operand. -/
opaque special : Nat → Nat → BitVec 32 → BitVec 32
/-- Whether an instruction starts before a fixed latency of R104 has passed, at a value of the counter (log entry 9). -/
opaque earlyStart : Nat → Bool
/-- Whether a group's stall count or a resource of R101 holds its next instruction back in a cycle: the counter, the core and the slot
(R101, R102; log entry 9). -/
opaque issueHeld : Nat → Nat → Nat → Bool
/-- Core cycles that pass in one step of the model (R7, R220; log entry 10). -/
opaque stepCycles : Nat → Nat
/-- The free range of the save pool that the distributor takes (R202: not fixed): the counter and the size. -/
opaque saveArea : Nat → Nat → Nat
/-- The directory set of a line (R34 gives 1,024 sets and no index function; log entry 11). -/
opaque dirSet : Nat → Nat
/-- Whether the queue that a packet is offered to is full, at a time of the loops, for a packet (R30, R40 give no sizes; log entry 88). -/
opaque queueFull : Nat → Nat → Bool
/-- Which of the free transaction numbers a requester takes (R28 names the field; log entry 11). -/
opaque freeTxn : Nat → Nat

end Sys2Proof.Config
end

