-- ==== Sys2Proof/WellFormed.lean ====
section
/-! DEFINITION. What an encoding must satisfy beyond the widths of its fields: the extension codes that R217, R226,
R229, R231 and R232 call ILLEGAL. The checks that depend on MODE, on FMT or on the class of a register field are made
when the instruction starts (R193). -/
namespace Sys2Proof

/-- Only BRP with QNT 3 is ILLEGAL (R217). -/
def wfQnt (q : BitVec 2) : Bool := q != 3#2

/-- CNTWAIT takes the classes 0 to 4 (R226). -/
def wfClass (k : BitVec 3) : Bool := decide (k.toNat ≤ 4)

/-- A CVT nibble names one of eight formats, and the two differ (R229). -/
def wfCvt (t f : BitVec 4) : Bool := decide (t.toNat < 8) && decide (f.toNat < 8) && t != f

/-- LDS and STS take the width codes 0 to 4 (R229). -/
def wfWidth (w : BitVec 3) : Bool := decide (w.toNat ≤ 4)

/-- MMAS takes the selectors 0 to 2 (R231). -/
def wfSel (e : BitVec 3) : Bool := decide (e.toNat ≤ 2)

/-- QINIT: AUTOCOMPACT needs SPILLT, and the spill tile is zero without SPILLT (R232). -/
def wfQinit (spill auto : BitVec 1) (t : BitVec 2) : Bool :=
  if spill = 1#1 then true else auto = 0#1 && t = 0#2

/-- A syntactically well-formed instruction. -/
def Instr.wf (i : Instr) : Bool :=
  match i with
  | .brp q _ _ _ => wfQnt q
  | .cntwait k _ => wfClass k
  | .cvt _ _ t f => wfCvt t f
  | .lds _ _ w => wfWidth w
  | .sts _ _ w => wfWidth w
  | .mmas _ _ _ _ e => wfSel e
  | .qinit _ p k t => wfQinit p k t
  | _ => true

end Sys2Proof
end

