-- ==== Sys2Proof/Decode.lean ====
section
/-! DEFINITION. The decoder, total on every word, and the encoder, both written from the encoding tables of R213 to
R232 (groups), R367 (Mbadun) and the RISC-V base formats that R366 names (side cores). -/
namespace Sys2Proof

/-! ### Fields of a group word (R217) -/

def fieldOp (w : Word) : BitVec 8 := w.extractLsb' 24 8
def fieldD (w : Word) : BitVec 8 := w.extractLsb' 16 8
def fieldA (w : Word) : BitVec 8 := w.extractLsb' 8 8
def fieldB (w : Word) : BitVec 8 := w.extractLsb' 0 8
def fieldImm (w : Word) : BitVec 16 := w.extractLsb' 0 16
def fieldOff (w : Word) : BitVec 24 := w.extractLsb' 0 24
def fieldQnt (w : Word) : BitVec 2 := w.extractLsb' 22 2
def fieldNeg (w : Word) : BitVec 1 := w.extractLsb' 21 1
def fieldBpZero (w : Word) : BitVec 2 := w.extractLsb' 19 2
def fieldPred (w : Word) : BitVec 3 := w.extractLsb' 16 3
def fieldAcc (w : Word) : BitVec 2 := w.extractLsb' 22 2
def fieldSlot (w : Word) : BitVec 2 := w.extractLsb' 20 2
def fieldMZero (w : Word) : BitVec 1 := w.extractLsb' 19 1
def fieldAreg (w : Word) : BitVec 8 := w.extractLsb' 11 8
def fieldMeta (w : Word) : BitVec 8 := w.extractLsb' 3 8
def fieldSel (w : Word) : BitVec 3 := w.extractLsb' 0 3
def fieldQ (w : Word) : BitVec 1 := w.extractLsb' 23 1
def fieldF (w : Word) : BitVec 5 := w.extractLsb' 18 5
def fieldTile (w : Word) : BitVec 2 := w.extractLsb' 16 2

/-! ### Words of the six formats (R217) -/

def wordT3 (op d a b : BitVec 8) : BitVec (8 + 8 + 8 + 8) := op ++ d ++ a ++ b
def wordI16 (op d : BitVec 8) (imm : BitVec 16) : BitVec (8 + 8 + 16) := op ++ d ++ imm
def wordB24 (op : BitVec 8) (off : BitVec 24) : BitVec (8 + 24) := op ++ off
def wordBP (op : BitVec 8) (qnt : BitVec 2) (neg : BitVec 1) (zero : BitVec 2) (pred : BitVec 3) (off : BitVec 16) :
    BitVec (8 + 2 + 1 + 2 + 3 + 16) := op ++ qnt ++ neg ++ zero ++ pred ++ off
def wordM (op : BitVec 8) (acc slot : BitVec 2) (zero : BitVec 1) (areg mreg : BitVec 8) (sel : BitVec 3) :
    BitVec (8 + 2 + 2 + 1 + 8 + 8 + 3) := op ++ acc ++ slot ++ zero ++ areg ++ mreg ++ sel
def wordQ (op : BitVec 8) (q : BitVec 1) (f : BitVec 5) (tile : BitVec 2) (v s : BitVec 8) :
    BitVec (8 + 1 + 5 + 2 + 8 + 8) := op ++ q ++ f ++ tile ++ v ++ s

/-- The instruction of a group word (R225 to R232): `none` where the opcode is unassigned or a field that the
instruction does not use is not zero (R218). -/
def decodeGroup (w : Word) : Option Instr :=
  match (fieldOp w).toNat with
  | 0x01 => some (.bra (fieldOff w))
  | 0x02 => if (fieldBpZero w) = 0#2 then some (.brp (fieldQnt w) (fieldNeg w) (fieldPred w) (fieldImm w)) else none
  | 0x03 => if (fieldD w) = 0#8 ∧ (fieldB w) = 0#8 then some (.jmpr (fieldA w)) else none
  | 0x04 => some (.call (fieldOff w))
  | 0x05 => if (fieldD w) = 0#8 ∧ (fieldA w) = 0#8 ∧ (fieldB w) = 0#8 then some (.ret) else none
  | 0x06 => some (.jpush (fieldOff w))
  | 0x07 => if (fieldQnt w) = 0#2 ∧ (fieldBpZero w) = 0#2 then some (.bdiv (fieldNeg w) (fieldPred w) (fieldImm w)) else none
  | 0x08 => if (fieldD w) = 0#8 ∧ (fieldA w) = 0#8 ∧ (fieldB w) = 0#8 then some (.join) else none
  | 0x09 => if (fieldD w) = 0#8 ∧ (fieldA w) = 0#8 ∧ (fieldB w) = 0#8 then some (.exit) else none
  | 0x0A => if (fieldD w) = 0#8 ∧ (fieldA w) = 0#8 ∧ (fieldB w) = 0#8 then some (.yield) else none
  | 0x0B => if (fieldD w) = 0#8 ∧ (fieldA w) = 0#8 ∧ (fieldB w) = 0#8 then some (.nop) else none
  | 0x0C => if (fieldD w) = 0#8 then some (.trap (fieldImm w)) else none
  | 0x0D => if (fieldD w) = 0#8 ∧ (fieldA w) = 0#8 ∧ (fieldB w) = 0#8 then some (.rte) else if (fieldD w) = 0#8 ∧ (fieldA w) = 0#8 ∧ (fieldB w) = 1#8 then some (.rteSkip) else none
  | 0x10 => if (fieldD w) = 0#8 ∧ ((fieldImm w).extractLsb' 0 1) = 0#1 then some (.setmodeI ((fieldImm w).extractLsb' 1 15)) else none
  | 0x11 => if (fieldD w) = 0#8 ∧ (fieldB w) = 0#8 then some (.setmode (fieldA w)) else none
  | 0x12 => if (fieldD w) = 0#8 ∧ (fieldB w) = 0#8 then some (.setfmt (fieldA w)) else none
  | 0x13 => if (fieldA w) = 0#8 ∧ ((fieldB w).extractLsb' 1 7) = 0#7 then some (.getmode (fieldD w) ((fieldB w).extractLsb' 0 1)) else none
  | 0x14 => if ((fieldD w).extractLsb' 4 4) = 0#4 ∧ (fieldB w) = 0#8 then some (.ldtab ((fieldD w).extractLsb' 0 4) (fieldA w)) else none
  | 0x15 => if (fieldD w) = 0#8 then some (.regacq (fieldImm w)) else none
  | 0x16 => if (fieldD w) = 0#8 then some (.regrel (fieldImm w)) else none
  | 0x17 => some (.rvdonate (fieldD w) (fieldA w) (fieldB w))
  | 0x20 => some (.add (fieldD w) (fieldA w) (fieldB w))
  | 0x21 => some (.sub (fieldD w) (fieldA w) (fieldB w))
  | 0x22 => some (.mul (fieldD w) (fieldA w) (fieldB w))
  | 0x23 => some (.mulhi (fieldD w) (fieldA w) (fieldB w))
  | 0x24 => some (.mad (fieldD w) (fieldA w) (fieldB w))
  | 0x25 => some (.min (fieldD w) (fieldA w) (fieldB w))
  | 0x26 => some (.max (fieldD w) (fieldA w) (fieldB w))
  | 0x27 => if (fieldB w) = 0#8 then some (.abs (fieldD w) (fieldA w)) else none
  | 0x28 => if (fieldB w) = 0#8 then some (.neg (fieldD w) (fieldA w)) else none
  | 0x29 => some (.and (fieldD w) (fieldA w) (fieldB w))
  | 0x2A => some (.or (fieldD w) (fieldA w) (fieldB w))
  | 0x2B => some (.xor (fieldD w) (fieldA w) (fieldB w))
  | 0x2C => if (fieldB w) = 0#8 then some (.not (fieldD w) (fieldA w)) else none
  | 0x2D => some (.shl (fieldD w) (fieldA w) (fieldB w))
  | 0x2E => some (.shr (fieldD w) (fieldA w) (fieldB w))
  | 0x2F => some (.sra (fieldD w) (fieldA w) (fieldB w))
  | 0x30 => if (fieldB w) = 0#8 then some (.popc (fieldD w) (fieldA w)) else none
  | 0x31 => if (fieldB w) = 0#8 then some (.clz (fieldD w) (fieldA w)) else none
  | 0x32 => if (fieldB w) = 0#8 then some (.brev (fieldD w) (fieldA w)) else none
  | 0x33 => some (.bfx (fieldD w) (fieldA w) (fieldB w))
  | 0x34 => some (.bfi (fieldD w) (fieldA w) (fieldB w))
  | 0x35 => some (.sel (fieldD w) (fieldA w) (fieldB w))
  | 0x36 => some (.cmpeq (fieldD w) (fieldA w) (fieldB w))
  | 0x37 => some (.cmpne (fieldD w) (fieldA w) (fieldB w))
  | 0x38 => some (.cmplt (fieldD w) (fieldA w) (fieldB w))
  | 0x39 => some (.cmple (fieldD w) (fieldA w) (fieldB w))
  | 0x3A => some (.cmpltn (fieldD w) (fieldA w) (fieldB w))
  | 0x3B => some (.cmplen (fieldD w) (fieldA w) (fieldB w))
  | 0x3C => some (.ldi (fieldD w) (fieldImm w))
  | 0x3D => some (.ldih (fieldD w) (fieldImm w))
  | 0x3E => if (fieldB w) = 0#8 then some (.mov (fieldD w) (fieldA w)) else none
  | 0x3F => some (.leas (fieldD w) (fieldA w) (fieldB w))
  | 0x40 => some (.addI (fieldD w) (fieldA w) (fieldB w))
  | 0x41 => some (.mulI (fieldD w) (fieldA w) (fieldB w))
  | 0x42 => some (.andI (fieldD w) (fieldA w) (fieldB w))
  | 0x43 => some (.orI (fieldD w) (fieldA w) (fieldB w))
  | 0x44 => some (.xorI (fieldD w) (fieldA w) (fieldB w))
  | 0x45 => if ((fieldB w).extractLsb' 5 3) = 0#3 then some (.shlI (fieldD w) (fieldA w) ((fieldB w).extractLsb' 0 5)) else none
  | 0x46 => if ((fieldB w).extractLsb' 5 3) = 0#3 then some (.shrI (fieldD w) (fieldA w) ((fieldB w).extractLsb' 0 5)) else none
  | 0x47 => if ((fieldB w).extractLsb' 5 3) = 0#3 then some (.sraI (fieldD w) (fieldA w) ((fieldB w).extractLsb' 0 5)) else none
  | 0x48 => some (.cmpeqI (fieldD w) (fieldA w) (fieldB w))
  | 0x49 => some (.cmpneI (fieldD w) (fieldA w) (fieldB w))
  | 0x4A => some (.cmpltI (fieldD w) (fieldA w) (fieldB w))
  | 0x4B => some (.cmpleI (fieldD w) (fieldA w) (fieldB w))
  | 0x4C => some (.cmpltnI (fieldD w) (fieldA w) (fieldB w))
  | 0x4D => some (.cmplenI (fieldD w) (fieldA w) (fieldB w))
  | 0x50 => some (.fadd (fieldD w) (fieldA w) (fieldB w))
  | 0x51 => some (.fsub (fieldD w) (fieldA w) (fieldB w))
  | 0x52 => some (.fmul (fieldD w) (fieldA w) (fieldB w))
  | 0x53 => some (.fma (fieldD w) (fieldA w) (fieldB w))
  | 0x54 => some (.fmin (fieldD w) (fieldA w) (fieldB w))
  | 0x55 => some (.fmax (fieldD w) (fieldA w) (fieldB w))
  | 0x56 => if (fieldB w) = 0#8 then some (.fneg (fieldD w) (fieldA w)) else none
  | 0x57 => if (fieldB w) = 0#8 then some (.fabs (fieldD w) (fieldA w)) else none
  | 0x58 => some (.fcmpeq (fieldD w) (fieldA w) (fieldB w))
  | 0x59 => some (.fcmplt (fieldD w) (fieldA w) (fieldB w))
  | 0x5A => some (.fcmple (fieldD w) (fieldA w) (fieldB w))
  | 0x5B => some (.fcmpun (fieldD w) (fieldA w) (fieldB w))
  | 0x5C => if (fieldB w) = 0#8 then some (.frcp (fieldD w) (fieldA w)) else none
  | 0x5D => if (fieldB w) = 0#8 then some (.frsq (fieldD w) (fieldA w)) else none
  | 0x5E => if (fieldB w) = 0#8 then some (.fsin (fieldD w) (fieldA w)) else none
  | 0x5F => if (fieldB w) = 0#8 then some (.fcos (fieldD w) (fieldA w)) else none
  | 0x60 => if (fieldB w) = 0#8 then some (.fexp2 (fieldD w) (fieldA w)) else none
  | 0x61 => if (fieldB w) = 0#8 then some (.flog2 (fieldD w) (fieldA w)) else none
  | 0x62 => some (.cvt (fieldD w) (fieldA w) ((fieldB w).extractLsb' 4 4) ((fieldB w).extractLsb' 0 4))
  | 0x63 => if (fieldB w) = 0#8 then some (.qnt (fieldD w) (fieldA w)) else none
  | 0x64 => if (fieldB w) = 0#8 then some (.dqnt (fieldD w) (fieldA w)) else none
  | 0x65 => some (.pack (fieldD w) (fieldA w) (fieldB w))
  | 0x66 => if ((fieldB w).extractLsb' 3 5) = 0#5 then some (.unpack (fieldD w) (fieldA w) ((fieldB w).extractLsb' 0 3)) else none
  | 0x70 => some (.shfl (fieldD w) (fieldA w) (fieldB w))
  | 0x71 => some (.shflx (fieldD w) (fieldA w) (fieldB w))
  | 0x72 => if (fieldB w) = 0#8 then some (.ballot (fieldD w) (fieldA w)) else none
  | 0x73 => if (fieldB w) = 0#8 then some (.vany (fieldD w) (fieldA w)) else none
  | 0x74 => if (fieldB w) = 0#8 then some (.vall (fieldD w) (fieldA w)) else none
  | 0x75 => if (fieldB w) = 0#8 then some (.matchv (fieldD w) (fieldA w)) else none
  | 0x76 => some (.rduni (fieldD w) (fieldA w) (fieldB w))
  | 0x77 => some (.bcast (fieldD w) (fieldA w) (fieldB w))
  | 0x78 => if (fieldD w) = 0#8 then some (.xpair (fieldA w) (fieldB w)) else none
  | 0x79 => if (fieldB w) = 0#8 then some (.xshfl (fieldD w) (fieldA w)) else none
  | 0x80 => some (.ldb (fieldD w) (fieldA w) (fieldB w))
  | 0x81 => some (.ldh (fieldD w) (fieldA w) (fieldB w))
  | 0x82 => some (.ldw (fieldD w) (fieldA w) (fieldB w))
  | 0x83 => some (.ldd (fieldD w) (fieldA w) (fieldB w))
  | 0x84 => some (.ldq (fieldD w) (fieldA w) (fieldB w))
  | 0x85 => some (.stb (fieldD w) (fieldA w) (fieldB w))
  | 0x86 => some (.sth (fieldD w) (fieldA w) (fieldB w))
  | 0x87 => some (.stw (fieldD w) (fieldA w) (fieldB w))
  | 0x88 => some (.std (fieldD w) (fieldA w) (fieldB w))
  | 0x89 => some (.stq (fieldD w) (fieldA w) (fieldB w))
  | 0x8A => if ((fieldB w).extractLsb' 3 5) = 0#5 then some (.lds (fieldD w) (fieldA w) ((fieldB w).extractLsb' 0 3)) else none
  | 0x8B => if ((fieldB w).extractLsb' 3 5) = 0#5 then some (.sts (fieldD w) (fieldA w) ((fieldB w).extractLsb' 0 3)) else none
  | 0x8C => some (.ldacq (fieldD w) (fieldA w) (fieldB w))
  | 0x8D => some (.strel (fieldD w) (fieldA w) (fieldB w))
  | 0x8E => if (fieldD w) = 0#8 then some (.pref (fieldA w) (fieldB w)) else none
  | 0x90 => if (fieldD w) = 0#8 ∧ (fieldA w) = 0#8 ∧ (fieldB w) = 0#8 then some (.fenceA) else none
  | 0x91 => if (fieldD w) = 0#8 ∧ (fieldA w) = 0#8 ∧ (fieldB w) = 0#8 then some (.fenceR) else none
  | 0x92 => if (fieldD w) = 0#8 ∧ (fieldA w) = 0#8 ∧ (fieldB w) = 0#8 then some (.fenceAr) else none
  | 0x93 => some (.aadd (fieldD w) (fieldA w) (fieldB w))
  | 0x94 => some (.afadd (fieldD w) (fieldA w) (fieldB w))
  | 0x95 => some (.amin (fieldD w) (fieldA w) (fieldB w))
  | 0x96 => some (.amax (fieldD w) (fieldA w) (fieldB w))
  | 0x97 => some (.aand (fieldD w) (fieldA w) (fieldB w))
  | 0x98 => some (.aor (fieldD w) (fieldA w) (fieldB w))
  | 0x99 => some (.axor (fieldD w) (fieldA w) (fieldB w))
  | 0x9A => some (.axchg (fieldD w) (fieldA w) (fieldB w))
  | 0x9B => some (.acas (fieldD w) (fieldA w) (fieldB w))
  | 0x9C => if (fieldD w) = 0#8 then some (.redadd (fieldA w) (fieldB w)) else none
  | 0x9D => if (fieldD w) = 0#8 then some (.redfadd (fieldA w) (fieldB w)) else none
  | 0x9E => if (fieldD w) = 0#8 then some (.redmin (fieldA w) (fieldB w)) else none
  | 0x9F => if (fieldD w) = 0#8 then some (.redmax (fieldA w) (fieldB w)) else none
  | 0xA0 => if (fieldD w) = 0#8 then some (.redor (fieldA w) (fieldB w)) else none
  | 0xA1 => if (fieldD w) = 0#8 then some (.cpy (fieldA w) (fieldB w)) else none
  | 0xA2 => if (fieldD w) = 0#8 then some (.cpys (fieldA w) (fieldB w)) else none
  | 0xA3 => if (fieldD w) = 0#8 ∧ (fieldB w) = 0#8 then some (.tagwany (fieldA w)) else none
  | 0xA4 => if (fieldD w) = 0#8 ∧ (fieldB w) = 0#8 then some (.tagwall (fieldA w)) else none
  | 0xA5 => if (fieldB w) = 0#8 then some (.tagff (fieldD w) (fieldA w)) else none
  | 0xA6 => if (fieldD w) = 0#8 ∧ (fieldB w) = 0#8 then some (.tagclr (fieldA w)) else none
  | 0xA7 => if (fieldD w) = 0#8 then some (.barinit (fieldA w) (fieldB w)) else none
  | 0xA8 => if (fieldD w) = 0#8 then some (.bararr (fieldA w) (fieldB w)) else none
  | 0xA9 => if (fieldD w) = 0#8 then some (.barexp (fieldA w) (fieldB w)) else none
  | 0xAA => some (.waitph (fieldD w) (fieldA w) (fieldB w))
  | 0xAB => if ((fieldD w).extractLsb' 3 5) = 0#5 then some (.cntwait ((fieldD w).extractLsb' 0 3) (fieldImm w)) else none
  | 0xAC => if ((fieldB w).extractLsb' 3 5) = 0#5 then some (.enq (fieldD w) (fieldA w) ((fieldB w).extractLsb' 0 3)) else none
  | 0xAD => if ((fieldB w).extractLsb' 3 5) = 0#5 then some (.deq (fieldD w) (fieldA w) ((fieldB w).extractLsb' 0 3)) else none
  | 0xAE => if (fieldD w) = 0#8 ∧ (fieldB w) = 0#8 then some (.monitor (fieldA w)) else none
  | 0xAF => if (fieldD w) = 0#8 ∧ (fieldB w) = 0#8 then some (.mwait (fieldA w)) else none
  | 0xB0 => some (.anew (fieldD w) (fieldA w) (fieldB w))
  | 0xB1 => if ((fieldB w).extractLsb' 2 6) = 0#6 then some (.adrop (fieldD w) (fieldA w) ((fieldB w).extractLsb' 1 1) ((fieldB w).extractLsb' 0 1)) else none
  | 0xB2 => if (fieldB w) = 0#8 then some (.aseal (fieldD w) (fieldA w)) else none
  | 0xB3 => some (.aquota (fieldD w) (fieldA w) (fieldB w))
  | 0xB4 => if (fieldB w) = 0#8 then some (.aquery (fieldD w) (fieldA w)) else none
  | 0xB5 => if (fieldD w) = 0#8 ∧ (fieldB w) = 0#8 then some (.cbsync (fieldA w)) else none
  | 0xC0 => if (fieldAcc w) = 0#2 ∧ (fieldMZero w) = 0#1 ∧ (fieldMeta w) = 0#8 ∧ (fieldSel w) = 0#3 then some (.mloadb (fieldSlot w) (fieldAreg w)) else none
  | 0xC1 => if (fieldMZero w) = 0#1 ∧ (fieldMeta w) = 0#8 ∧ (fieldSel w) = 0#3 then some (.mma (fieldAcc w) (fieldSlot w) (fieldAreg w)) else none
  | 0xC2 => if (fieldMZero w) = 0#1 then some (.mmas (fieldAcc w) (fieldSlot w) (fieldAreg w) (fieldMeta w) (fieldSel w)) else none
  | 0xC3 => if (fieldMZero w) = 0#1 ∧ (fieldAreg w) = 0#8 ∧ (fieldMeta w) = 0#8 ∧ (fieldSel w) = 0#3 then some (.mmab (fieldAcc w) (fieldSlot w)) else none
  | 0xC4 => if (fieldSlot w) = 0#2 ∧ (fieldMZero w) = 0#1 ∧ (fieldAreg w) = 0#8 ∧ (fieldMeta w) = 0#8 ∧ ((fieldSel w).extractLsb' 1 2) = 0#2 then some (.mbyp (fieldAcc w) ((fieldSel w).extractLsb' 0 1)) else none
  | 0xC5 => if (fieldSlot w) = 0#2 ∧ (fieldMZero w) = 0#1 ∧ (fieldMeta w) = 0#8 ∧ (fieldSel w) = 0#3 then some (.mdrain (fieldAcc w) (fieldAreg w)) else none
  | 0xC6 => if (fieldSlot w) = 0#2 ∧ (fieldMZero w) = 0#1 ∧ (fieldSel w) = 0#3 then some (.mstore (fieldAcc w) (fieldAreg w) (fieldMeta w)) else none
  | 0xC7 => if (fieldSlot w) = 0#2 ∧ (fieldMZero w) = 0#1 ∧ (fieldAreg w) = 0#8 ∧ (fieldMeta w) = 0#8 ∧ (fieldSel w) = 0#3 then some (.mzero (fieldAcc w)) else none
  | 0xC8 => if ((fieldF w).extractLsb' 2 3) = 0#3 ∧ (fieldA w) = 0#8 ∧ (fieldB w) = 0#8 then some (.qinit (fieldQ w) ((fieldF w).extractLsb' 1 1) ((fieldF w).extractLsb' 0 1) (fieldTile w)) else none
  | 0xC9 => if (fieldF w) = 0#5 ∧ (fieldTile w) = 0#2 then some (.qappend (fieldQ w) (fieldA w) (fieldB w)) else none
  | 0xCA => if (fieldF w) = 0#5 ∧ (fieldA w) = 0#8 ∧ (fieldB w) = 0#8 then some (.qappl (fieldQ w) (fieldTile w)) else none
  | 0xCB => if (fieldF w) = 0#5 ∧ (fieldA w) = 0#8 ∧ (fieldB w) = 0#8 then some (.qapplt (fieldQ w) (fieldTile w)) else none
  | 0xCC => if (fieldF w) = 0#5 ∧ (fieldA w) = 0#8 ∧ (fieldB w) = 0#8 then some (.qappr (fieldQ w) (fieldTile w)) else none
  | 0xCD => if (fieldF w) = 0#5 ∧ (fieldA w) = 0#8 ∧ (fieldB w) = 0#8 then some (.qapprt (fieldQ w) (fieldTile w)) else none
  | 0xCE => if (fieldF w) = 0#5 ∧ (fieldTile w) = 0#2 ∧ (fieldA w) = 0#8 then some (.qcount (fieldQ w) (fieldB w)) else none
  | 0xCF => if (fieldF w) = 0#5 ∧ (fieldTile w) = 0#2 ∧ (fieldA w) = 0#8 ∧ (fieldB w) = 0#8 then some (.qcompact (fieldQ w)) else none
  | 0xD0 => if (fieldF w) = 0#5 ∧ (fieldA w) = 0#8 ∧ (fieldB w) = 0#8 then some (.qdense (fieldQ w) (fieldTile w)) else none
  | 0xD1 => some (.lock (fieldD w) (fieldA w) (fieldB w))
  | 0xD2 => if (fieldB w) = 0#8 then some (.trylock (fieldD w) (fieldA w)) else none
  | 0xD3 => if (fieldD w) = 0#8 ∧ (fieldB w) = 0#8 then some (.unlock (fieldA w)) else none
  | 0xD4 => if (fieldB w) = 0#8 then some (.lkprobe (fieldD w) (fieldA w)) else none
  | 0xD5 => if (fieldB w) = 0#8 then some (.lkfree (fieldD w) (fieldA w)) else none
  | 0xE0 => if ((fieldD w).extractLsb' 4 4) = 0#4 then some (.wpset ((fieldD w).extractLsb' 0 4) (fieldA w) (fieldB w)) else none
  | 0xE1 => if ((fieldD w).extractLsb' 4 4) = 0#4 ∧ (fieldA w) = 0#8 ∧ (fieldB w) = 0#8 then some (.wpclr ((fieldD w).extractLsb' 0 4)) else none
  | 0xE2 => if ((fieldA w).extractLsb' 4 4) = 0#4 ∧ (fieldB w) = 0#8 then some (.wprd (fieldD w) ((fieldA w).extractLsb' 0 4)) else none
  | 0xE3 => some (.hltrd (fieldD w) (fieldA w) (fieldB w))
  | 0xE4 => some (.hltwr (fieldD w) (fieldA w) (fieldB w))
  | 0xE5 => if (fieldD w) = 0#8 then some (.hltstep (fieldA w) (fieldB w)) else none
  | 0xE6 => if (fieldD w) = 0#8 ∧ (fieldB w) = 0#8 then some (.hltres (fieldA w)) else none
  | 0xF0 => if (fieldB w) = 0#8 then some (.tspawn (fieldD w) (fieldA w)) else none
  | 0xF1 => if (fieldA w) = 0#8 ∧ (fieldB w) = 0#8 then some (.tdoneFinal (fieldD w)) else if (fieldA w) = 0#8 ∧ (fieldB w) = 1#8 then some (.tdoneGrain (fieldD w)) else none
  | 0xF2 => some (.tdep (fieldD w) (fieldA w) (fieldB w))
  | 0xF3 => some (.mbxreg (fieldD w) (fieldA w) (fieldB w))
  | 0xF4 => if ((fieldD w).extractLsb' 4 4) = 0#4 then some (.evroute ((fieldD w).extractLsb' 0 4) (fieldA w) (fieldB w)) else if (fieldD w) = 0x80#8 ∧ (fieldA w) = 0#8 ∧ (fieldB w) = 0#8 then some (.evrouteSignal) else none
  | 0xF5 => some (.csrrd (fieldD w) (fieldImm w))
  | 0xF6 => some (.csrwr (fieldD w) (fieldImm w))
  | 0xF7 => if (fieldD w) = 0#8 ∧ (fieldA w) = 0#8 ∧ (fieldB w) = 0#8 then some (.preack) else none
  | _ => none

/-! ### Side-core words -/

def sideOp (w : Word) : BitVec 7 := w.extractLsb' 0 7
def sideRd (w : Word) : BitVec 5 := w.extractLsb' 7 5
def sideF3 (w : Word) : BitVec 3 := w.extractLsb' 12 3
def sideRs1 (w : Word) : BitVec 5 := w.extractLsb' 15 5
def sideRs2 (w : Word) : BitVec 5 := w.extractLsb' 20 5
def sideF7 (w : Word) : BitVec 7 := w.extractLsb' 25 7
def sideImmI (w : Word) : BitVec 12 := w.extractLsb' 20 12
def sideImmS (w : Word) : BitVec 12 := w.extractLsb' 25 7 ++ w.extractLsb' 7 5
/-- Bits 12:1 of a branch offset. -/
def sideImmB (w : Word) : BitVec 12 :=
  w.extractLsb' 31 1 ++ w.extractLsb' 7 1 ++ w.extractLsb' 25 6 ++ w.extractLsb' 8 4
def sideImmU (w : Word) : BitVec 20 := w.extractLsb' 12 20
/-- Bits 20:1 of a jump offset. -/
def sideImmJ (w : Word) : BitVec 20 :=
  w.extractLsb' 31 1 ++ w.extractLsb' 12 8 ++ w.extractLsb' 20 1 ++ w.extractLsb' 21 10

def wordR (f7 : BitVec 7) (rs2 rs1 : BitVec 5) (f3 : BitVec 3) (rd : BitVec 5) (op : BitVec 7) :
    BitVec (7 + 5 + 5 + 3 + 5 + 7) := f7 ++ rs2 ++ rs1 ++ f3 ++ rd ++ op
def wordI (imm : BitVec 12) (rs1 : BitVec 5) (f3 : BitVec 3) (rd : BitVec 5) (op : BitVec 7) :
    BitVec (12 + 5 + 3 + 5 + 7) := imm ++ rs1 ++ f3 ++ rd ++ op
def wordS (imm : BitVec 12) (rs2 rs1 : BitVec 5) (f3 : BitVec 3) (op : BitVec 7) :
    BitVec (7 + 5 + 5 + 3 + 5 + 7) :=
  imm.extractLsb' 5 7 ++ rs2 ++ rs1 ++ f3 ++ imm.extractLsb' 0 5 ++ op
def wordB (imm : BitVec 12) (rs2 rs1 : BitVec 5) (f3 : BitVec 3) (op : BitVec 7) :
    BitVec (1 + 6 + 5 + 5 + 3 + 4 + 1 + 7) :=
  imm.extractLsb' 11 1 ++ imm.extractLsb' 4 6 ++ rs2 ++ rs1 ++ f3 ++ imm.extractLsb' 0 4 ++ imm.extractLsb' 10 1 ++ op
def wordU (imm : BitVec 20) (rd : BitVec 5) (op : BitVec 7) : BitVec (20 + 5 + 7) := imm ++ rd ++ op
def wordJ (imm : BitVec 20) (rd : BitVec 5) (op : BitVec 7) : BitVec (1 + 10 + 1 + 8 + 5 + 7) :=
  imm.extractLsb' 19 1 ++ imm.extractLsb' 0 10 ++ imm.extractLsb' 10 1 ++ imm.extractLsb' 11 8 ++ rd ++ op

/-- The Mbadun instruction of a side-core word (R367): `none` where the table lists no such encoding. -/
def decodeMbadun (w : Word) : Option Instr :=
  match (sideOp w).toNat, (sideF3 w).toNat with
  | 0x0B, 0 =>
    if sideRd w = 0 ∧ sideRs2 w = 0 then
      match (sideF7 w).toNat with
      | 0 => if sideRs1 w = 0 then some .mhalt else none
      | 1 => if sideRs1 w = 0 then some .mevwait else none
      | 2 => if sideRs1 w = 0 then some .msignal else none
      | 3 => some (.mtimer (sideRs1 w))
      | _ => none
    else none
  | 0x0B, 1 =>
    if w.extractLsb' 28 4 = 0#4 ∧ sideRs2 w = 0 then some (.mqpush (w.extractLsb' 25 3) (sideRs1 w) (sideRd w)) else none
  | 0x0B, 2 =>
    if w.extractLsb' 28 4 = 0#4 ∧ sideRs2 w = 0 then some (.mqpop (w.extractLsb' 25 3) (sideRs1 w) (sideRd w)) else none
  | 0x0B, 3 =>
    if w.extractLsb' 28 4 = 0#4 ∧ sideRs2 w = 0 ∧ sideRs1 w = 0 then some (.mqcnt (w.extractLsb' 25 3) (sideRd w)) else none
  | 0x0B, 4 =>
    if w.extractLsb' 26 6 = 0#6 ∧ sideRs2 w = 0 ∧ sideRs1 w = 0 then some (.mtagr (w.extractLsb' 25 1) (sideRd w)) else none
  | 0x2B, 0 => if sideF7 w = 0 ∧ sideRs2 w = 0 then some (.mcpy (sideRs1 w) (sideRd w)) else none
  | 0x2B, 1 =>
    if w.extractLsb' 25 2 = 0#2 ∧ sideRd w = 0 then some (.mbarc (w.extractLsb' 27 5) (sideRs2 w) (sideRs1 w)) else none
  | 0x2B, 2 => if sideF7 w = 0 ∧ sideRs2 w = 0 then some (.mavdec (sideRs1 w) (sideRd w)) else none
  | _, _ => none

/-- The RV32IM instruction of a side-core word (R366): `none` for every encoding that R366 does not list. -/
def decodeRv (w : Word) : Option Instr :=
  match (sideOp w).toNat with
  | 0x37 => some (.rvLui (sideRd w) (sideImmU w))
  | 0x17 => some (.rvAuipc (sideRd w) (sideImmU w))
  | 0x6F => some (.rvJal (sideRd w) (sideImmJ w))
  | 0x67 => if sideF3 w = 0 then some (.rvJalr (sideRd w) (sideRs1 w) (sideImmI w)) else none
  | 0x63 =>
    match (sideF3 w).toNat with
    | 0 => some (.rvBeq (sideRs1 w) (sideRs2 w) (sideImmB w))
    | 1 => some (.rvBne (sideRs1 w) (sideRs2 w) (sideImmB w))
    | 4 => some (.rvBlt (sideRs1 w) (sideRs2 w) (sideImmB w))
    | 5 => some (.rvBge (sideRs1 w) (sideRs2 w) (sideImmB w))
    | 6 => some (.rvBltu (sideRs1 w) (sideRs2 w) (sideImmB w))
    | 7 => some (.rvBgeu (sideRs1 w) (sideRs2 w) (sideImmB w))
    | _ => none
  | 0x03 =>
    match (sideF3 w).toNat with
    | 0 => some (.rvLb (sideRd w) (sideRs1 w) (sideImmI w))
    | 1 => some (.rvLh (sideRd w) (sideRs1 w) (sideImmI w))
    | 2 => some (.rvLw (sideRd w) (sideRs1 w) (sideImmI w))
    | 4 => some (.rvLbu (sideRd w) (sideRs1 w) (sideImmI w))
    | 5 => some (.rvLhu (sideRd w) (sideRs1 w) (sideImmI w))
    | _ => none
  | 0x23 =>
    match (sideF3 w).toNat with
    | 0 => some (.rvSb (sideRs1 w) (sideRs2 w) (sideImmS w))
    | 1 => some (.rvSh (sideRs1 w) (sideRs2 w) (sideImmS w))
    | 2 => some (.rvSw (sideRs1 w) (sideRs2 w) (sideImmS w))
    | _ => none
  | 0x13 =>
    match (sideF3 w).toNat with
    | 0 => some (.rvAddi (sideRd w) (sideRs1 w) (sideImmI w))
    | 1 => if sideF7 w = 0 then some (.rvSlli (sideRd w) (sideRs1 w) (sideRs2 w)) else none
    | 2 => some (.rvSlti (sideRd w) (sideRs1 w) (sideImmI w))
    | 3 => some (.rvSltiu (sideRd w) (sideRs1 w) (sideImmI w))
    | 4 => some (.rvXori (sideRd w) (sideRs1 w) (sideImmI w))
    | 5 =>
      if sideF7 w = 0 then some (.rvSrli (sideRd w) (sideRs1 w) (sideRs2 w))
      else if sideF7 w = 0x20 then some (.rvSrai (sideRd w) (sideRs1 w) (sideRs2 w)) else none
    | 6 => some (.rvOri (sideRd w) (sideRs1 w) (sideImmI w))
    | 7 => some (.rvAndi (sideRd w) (sideRs1 w) (sideImmI w))
    | _ => none
  | 0x33 =>
    match (sideF7 w).toNat, (sideF3 w).toNat with
    | 0x00, 0 => some (.rvAdd (sideRd w) (sideRs1 w) (sideRs2 w))
    | 0x20, 0 => some (.rvSub (sideRd w) (sideRs1 w) (sideRs2 w))
    | 0x00, 1 => some (.rvSll (sideRd w) (sideRs1 w) (sideRs2 w))
    | 0x00, 2 => some (.rvSlt (sideRd w) (sideRs1 w) (sideRs2 w))
    | 0x00, 3 => some (.rvSltu (sideRd w) (sideRs1 w) (sideRs2 w))
    | 0x00, 4 => some (.rvXor (sideRd w) (sideRs1 w) (sideRs2 w))
    | 0x00, 5 => some (.rvSrl (sideRd w) (sideRs1 w) (sideRs2 w))
    | 0x20, 5 => some (.rvSra (sideRd w) (sideRs1 w) (sideRs2 w))
    | 0x00, 6 => some (.rvOr (sideRd w) (sideRs1 w) (sideRs2 w))
    | 0x00, 7 => some (.rvAnd (sideRd w) (sideRs1 w) (sideRs2 w))
    | 0x01, 0 => some (.rvMul (sideRd w) (sideRs1 w) (sideRs2 w))
    | 0x01, 1 => some (.rvMulh (sideRd w) (sideRs1 w) (sideRs2 w))
    | 0x01, 2 => some (.rvMulhsu (sideRd w) (sideRs1 w) (sideRs2 w))
    | 0x01, 3 => some (.rvMulhu (sideRd w) (sideRs1 w) (sideRs2 w))
    | 0x01, 4 => some (.rvDiv (sideRd w) (sideRs1 w) (sideRs2 w))
    | 0x01, 5 => some (.rvDivu (sideRd w) (sideRs1 w) (sideRs2 w))
    | 0x01, 6 => some (.rvRem (sideRd w) (sideRs1 w) (sideRs2 w))
    | 0x01, 7 => some (.rvRemu (sideRd w) (sideRs1 w) (sideRs2 w))
    | _, _ => none
  | 0x0F => if sideF3 w = 0 then some (.rvFence (w.extractLsb' 15 17) (sideRd w)) else none
  | _ => none

/-- The instruction of a side-core word (R366, R367). -/
def decodeSide (w : Word) : Option Instr :=
  match decodeMbadun w with
  | some i => some i
  | none => decodeRv w

/-- The word of the four bytes at rising addresses, low byte first (R5). -/
def wordOfBytes (b0 b1 b2 b3 : Byte) : Word := (b3 ++ b2 ++ b1 ++ b0 : BitVec (8 + 8 + 8 + 8))

/-- Byte `k` of a word, byte 0 at the lowest address (R5). -/
def byteOfWord (w : Word) (k : Nat) : Byte := w.extractLsb' (8 * k) 8

/-- The instruction of a word that is not known to belong to a group or to a side core: an Mbadun word is read as
one, then a group word, then an RV32IM word. A machine never needs it, because a group fetches group words and a
side core fetches side-core words; the two encodings overlap. -/
def decodeTable (w : Word) : Option Instr :=
  match decodeMbadun w with
  | some i => some i
  | none =>
    match decodeGroup w with
    | some i => some i
    | none => decodeRv w

/-- The instruction that the decoder reads from the word `w` of `nbits` bits, its four bytes laid out as R5 lays
them out and read back; every instruction of this machine has 32 bits. -/
def decodeTableWord (nbits w : Nat) : Option Instr :=
  if nbits ≤ 32 ∧ w < 2 ^ 32 then
    let v : Word := BitVec.ofNat 32 w
    decodeTable (wordOfBytes (byteOfWord v 0) (byteOfWord v 1) (byteOfWord v 2) (byteOfWord v 3))
  else none

/-- The word of an instruction, from the encoding tables; `none` for the steps that have no encoding (R14 and the
other events of the table). -/
def encode (i : Instr) : Option Word :=
  match i with
  | .bra o => some (wordB24 0x01#8 o)
  | .brp q n p o => some (wordBP 0x02#8 q n 0#2 p o)
  | .jmpr a => some (wordT3 0x03#8 0#8 a 0#8)
  | .call o => some (wordB24 0x04#8 o)
  | .ret => some (wordT3 0x05#8 0#8 0#8 0#8)
  | .jpush o => some (wordB24 0x06#8 o)
  | .bdiv n p o => some (wordBP 0x07#8 0#2 n 0#2 p o)
  | .join => some (wordT3 0x08#8 0#8 0#8 0#8)
  | .exit => some (wordT3 0x09#8 0#8 0#8 0#8)
  | .yield => some (wordT3 0x0A#8 0#8 0#8 0#8)
  | .nop => some (wordT3 0x0B#8 0#8 0#8 0#8)
  | .trap i => some (wordI16 0x0C#8 0#8 i)
  | .rte => some (wordT3 0x0D#8 0#8 0#8 0#8)
  | .rteSkip => some (wordT3 0x0D#8 0#8 0#8 1#8)
  | .setmodeI i => some (wordI16 0x10#8 0#8 (i ++ 0#1))
  | .setmode a => some (wordT3 0x11#8 0#8 a 0#8)
  | .setfmt a => some (wordT3 0x12#8 0#8 a 0#8)
  | .getmode d m => some (wordT3 0x13#8 d 0#8 (0#7 ++ m))
  | .ldtab k a => some (wordT3 0x14#8 (0#4 ++ k) a 0#8)
  | .regacq n => some (wordI16 0x15#8 0#8 n)
  | .regrel n => some (wordI16 0x16#8 0#8 n)
  | .rvdonate d a b => some (wordT3 0x17#8 d a b)
  | .add d a b => some (wordT3 0x20#8 d a b)
  | .sub d a b => some (wordT3 0x21#8 d a b)
  | .mul d a b => some (wordT3 0x22#8 d a b)
  | .mulhi d a b => some (wordT3 0x23#8 d a b)
  | .mad d a b => some (wordT3 0x24#8 d a b)
  | .min d a b => some (wordT3 0x25#8 d a b)
  | .max d a b => some (wordT3 0x26#8 d a b)
  | .abs d a => some (wordT3 0x27#8 d a 0#8)
  | .neg d a => some (wordT3 0x28#8 d a 0#8)
  | .and d a b => some (wordT3 0x29#8 d a b)
  | .or d a b => some (wordT3 0x2A#8 d a b)
  | .xor d a b => some (wordT3 0x2B#8 d a b)
  | .not d a => some (wordT3 0x2C#8 d a 0#8)
  | .shl d a b => some (wordT3 0x2D#8 d a b)
  | .shr d a b => some (wordT3 0x2E#8 d a b)
  | .sra d a b => some (wordT3 0x2F#8 d a b)
  | .popc d a => some (wordT3 0x30#8 d a 0#8)
  | .clz d a => some (wordT3 0x31#8 d a 0#8)
  | .brev d a => some (wordT3 0x32#8 d a 0#8)
  | .bfx d a b => some (wordT3 0x33#8 d a b)
  | .bfi d a b => some (wordT3 0x34#8 d a b)
  | .sel d a b => some (wordT3 0x35#8 d a b)
  | .cmpeq d a b => some (wordT3 0x36#8 d a b)
  | .cmpne d a b => some (wordT3 0x37#8 d a b)
  | .cmplt d a b => some (wordT3 0x38#8 d a b)
  | .cmple d a b => some (wordT3 0x39#8 d a b)
  | .cmpltn d a b => some (wordT3 0x3A#8 d a b)
  | .cmplen d a b => some (wordT3 0x3B#8 d a b)
  | .ldi d i => some (wordI16 0x3C#8 d i)
  | .ldih d i => some (wordI16 0x3D#8 d i)
  | .mov d a => some (wordT3 0x3E#8 d a 0#8)
  | .leas d a b => some (wordT3 0x3F#8 d a b)
  | .addI d a i => some (wordT3 0x40#8 d a i)
  | .mulI d a i => some (wordT3 0x41#8 d a i)
  | .andI d a i => some (wordT3 0x42#8 d a i)
  | .orI d a i => some (wordT3 0x43#8 d a i)
  | .xorI d a i => some (wordT3 0x44#8 d a i)
  | .shlI d a i => some (wordT3 0x45#8 d a (0#3 ++ i))
  | .shrI d a i => some (wordT3 0x46#8 d a (0#3 ++ i))
  | .sraI d a i => some (wordT3 0x47#8 d a (0#3 ++ i))
  | .cmpeqI d a i => some (wordT3 0x48#8 d a i)
  | .cmpneI d a i => some (wordT3 0x49#8 d a i)
  | .cmpltI d a i => some (wordT3 0x4A#8 d a i)
  | .cmpleI d a i => some (wordT3 0x4B#8 d a i)
  | .cmpltnI d a i => some (wordT3 0x4C#8 d a i)
  | .cmplenI d a i => some (wordT3 0x4D#8 d a i)
  | .fadd d a b => some (wordT3 0x50#8 d a b)
  | .fsub d a b => some (wordT3 0x51#8 d a b)
  | .fmul d a b => some (wordT3 0x52#8 d a b)
  | .fma d a b => some (wordT3 0x53#8 d a b)
  | .fmin d a b => some (wordT3 0x54#8 d a b)
  | .fmax d a b => some (wordT3 0x55#8 d a b)
  | .fneg d a => some (wordT3 0x56#8 d a 0#8)
  | .fabs d a => some (wordT3 0x57#8 d a 0#8)
  | .fcmpeq d a b => some (wordT3 0x58#8 d a b)
  | .fcmplt d a b => some (wordT3 0x59#8 d a b)
  | .fcmple d a b => some (wordT3 0x5A#8 d a b)
  | .fcmpun d a b => some (wordT3 0x5B#8 d a b)
  | .frcp d a => some (wordT3 0x5C#8 d a 0#8)
  | .frsq d a => some (wordT3 0x5D#8 d a 0#8)
  | .fsin d a => some (wordT3 0x5E#8 d a 0#8)
  | .fcos d a => some (wordT3 0x5F#8 d a 0#8)
  | .fexp2 d a => some (wordT3 0x60#8 d a 0#8)
  | .flog2 d a => some (wordT3 0x61#8 d a 0#8)
  | .cvt d a t f => some (wordT3 0x62#8 d a (t ++ f))
  | .qnt d a => some (wordT3 0x63#8 d a 0#8)
  | .dqnt d a => some (wordT3 0x64#8 d a 0#8)
  | .pack d a b => some (wordT3 0x65#8 d a b)
  | .unpack d a e => some (wordT3 0x66#8 d a (0#5 ++ e))
  | .shfl d a b => some (wordT3 0x70#8 d a b)
  | .shflx d a b => some (wordT3 0x71#8 d a b)
  | .ballot d a => some (wordT3 0x72#8 d a 0#8)
  | .vany d a => some (wordT3 0x73#8 d a 0#8)
  | .vall d a => some (wordT3 0x74#8 d a 0#8)
  | .matchv d a => some (wordT3 0x75#8 d a 0#8)
  | .rduni d a b => some (wordT3 0x76#8 d a b)
  | .bcast d a b => some (wordT3 0x77#8 d a b)
  | .xpair a b => some (wordT3 0x78#8 0#8 a b)
  | .xshfl d a => some (wordT3 0x79#8 d a 0#8)
  | .ldb d a b => some (wordT3 0x80#8 d a b)
  | .ldh d a b => some (wordT3 0x81#8 d a b)
  | .ldw d a b => some (wordT3 0x82#8 d a b)
  | .ldd d a b => some (wordT3 0x83#8 d a b)
  | .ldq d a b => some (wordT3 0x84#8 d a b)
  | .stb d a b => some (wordT3 0x85#8 d a b)
  | .sth d a b => some (wordT3 0x86#8 d a b)
  | .stw d a b => some (wordT3 0x87#8 d a b)
  | .std d a b => some (wordT3 0x88#8 d a b)
  | .stq d a b => some (wordT3 0x89#8 d a b)
  | .lds d a w => some (wordT3 0x8A#8 d a (0#5 ++ w))
  | .sts d a w => some (wordT3 0x8B#8 d a (0#5 ++ w))
  | .ldacq d a b => some (wordT3 0x8C#8 d a b)
  | .strel d a b => some (wordT3 0x8D#8 d a b)
  | .pref a b => some (wordT3 0x8E#8 0#8 a b)
  | .fenceA => some (wordT3 0x90#8 0#8 0#8 0#8)
  | .fenceR => some (wordT3 0x91#8 0#8 0#8 0#8)
  | .fenceAr => some (wordT3 0x92#8 0#8 0#8 0#8)
  | .aadd d a b => some (wordT3 0x93#8 d a b)
  | .afadd d a b => some (wordT3 0x94#8 d a b)
  | .amin d a b => some (wordT3 0x95#8 d a b)
  | .amax d a b => some (wordT3 0x96#8 d a b)
  | .aand d a b => some (wordT3 0x97#8 d a b)
  | .aor d a b => some (wordT3 0x98#8 d a b)
  | .axor d a b => some (wordT3 0x99#8 d a b)
  | .axchg d a b => some (wordT3 0x9A#8 d a b)
  | .acas d a b => some (wordT3 0x9B#8 d a b)
  | .redadd a b => some (wordT3 0x9C#8 0#8 a b)
  | .redfadd a b => some (wordT3 0x9D#8 0#8 a b)
  | .redmin a b => some (wordT3 0x9E#8 0#8 a b)
  | .redmax a b => some (wordT3 0x9F#8 0#8 a b)
  | .redor a b => some (wordT3 0xA0#8 0#8 a b)
  | .cpy a b => some (wordT3 0xA1#8 0#8 a b)
  | .cpys a b => some (wordT3 0xA2#8 0#8 a b)
  | .tagwany a => some (wordT3 0xA3#8 0#8 a 0#8)
  | .tagwall a => some (wordT3 0xA4#8 0#8 a 0#8)
  | .tagff d a => some (wordT3 0xA5#8 d a 0#8)
  | .tagclr a => some (wordT3 0xA6#8 0#8 a 0#8)
  | .barinit a b => some (wordT3 0xA7#8 0#8 a b)
  | .bararr a b => some (wordT3 0xA8#8 0#8 a b)
  | .barexp a b => some (wordT3 0xA9#8 0#8 a b)
  | .waitph d a b => some (wordT3 0xAA#8 d a b)
  | .cntwait k n => some (wordI16 0xAB#8 (0#5 ++ k) n)
  | .enq d a q => some (wordT3 0xAC#8 d a (0#5 ++ q))
  | .deq d a q => some (wordT3 0xAD#8 d a (0#5 ++ q))
  | .monitor a => some (wordT3 0xAE#8 0#8 a 0#8)
  | .mwait a => some (wordT3 0xAF#8 0#8 a 0#8)
  | .anew d a b => some (wordT3 0xB0#8 d a b)
  | .adrop d a l r => some (wordT3 0xB1#8 d a (0#6 ++ l ++ r))
  | .aseal d a => some (wordT3 0xB2#8 d a 0#8)
  | .aquota d a b => some (wordT3 0xB3#8 d a b)
  | .aquery d a => some (wordT3 0xB4#8 d a 0#8)
  | .cbsync a => some (wordT3 0xB5#8 0#8 a 0#8)
  | .mloadb s a => some (wordM 0xC0#8 0#2 s 0#1 a 0#8 0#3)
  | .mma c s a => some (wordM 0xC1#8 c s 0#1 a 0#8 0#3)
  | .mmas c s a m e => some (wordM 0xC2#8 c s 0#1 a m e)
  | .mmab c s => some (wordM 0xC3#8 c s 0#1 0#8 0#8 0#3)
  | .mbyp c r => some (wordM 0xC4#8 c 0#2 0#1 0#8 0#8 (0#2 ++ r))
  | .mdrain c a => some (wordM 0xC5#8 c 0#2 0#1 a 0#8 0#3)
  | .mstore c a m => some (wordM 0xC6#8 c 0#2 0#1 a m 0#3)
  | .mzero c => some (wordM 0xC7#8 c 0#2 0#1 0#8 0#8 0#3)
  | .qinit q p k t => some (wordQ 0xC8#8 q (0#3 ++ p ++ k) t 0#8 0#8)
  | .qappend q v s => some (wordQ 0xC9#8 q 0#5 0#2 v s)
  | .qappl q t => some (wordQ 0xCA#8 q 0#5 t 0#8 0#8)
  | .qapplt q t => some (wordQ 0xCB#8 q 0#5 t 0#8 0#8)
  | .qappr q t => some (wordQ 0xCC#8 q 0#5 t 0#8 0#8)
  | .qapprt q t => some (wordQ 0xCD#8 q 0#5 t 0#8 0#8)
  | .qcount q s => some (wordQ 0xCE#8 q 0#5 0#2 0#8 s)
  | .qcompact q => some (wordQ 0xCF#8 q 0#5 0#2 0#8 0#8)
  | .qdense q t => some (wordQ 0xD0#8 q 0#5 t 0#8 0#8)
  | .lock d a b => some (wordT3 0xD1#8 d a b)
  | .trylock d a => some (wordT3 0xD2#8 d a 0#8)
  | .unlock a => some (wordT3 0xD3#8 0#8 a 0#8)
  | .lkprobe d a => some (wordT3 0xD4#8 d a 0#8)
  | .lkfree d a => some (wordT3 0xD5#8 d a 0#8)
  | .wpset n a b => some (wordT3 0xE0#8 (0#4 ++ n) a b)
  | .wpclr n => some (wordT3 0xE1#8 (0#4 ++ n) 0#8 0#8)
  | .wprd d n => some (wordT3 0xE2#8 d (0#4 ++ n) 0#8)
  | .hltrd d a b => some (wordT3 0xE3#8 d a b)
  | .hltwr d a b => some (wordT3 0xE4#8 d a b)
  | .hltstep a b => some (wordT3 0xE5#8 0#8 a b)
  | .hltres a => some (wordT3 0xE6#8 0#8 a 0#8)
  | .tspawn d a => some (wordT3 0xF0#8 d a 0#8)
  | .tdoneFinal d => some (wordT3 0xF1#8 d 0#8 0#8)
  | .tdoneGrain d => some (wordT3 0xF1#8 d 0#8 1#8)
  | .tdep d a b => some (wordT3 0xF2#8 d a b)
  | .mbxreg d a b => some (wordT3 0xF3#8 d a b)
  | .evroute n a b => some (wordT3 0xF4#8 (0#4 ++ n) a b)
  | .evrouteSignal => some (wordT3 0xF4#8 0x80#8 0#8 0#8)
  | .csrrd d c => some (wordI16 0xF5#8 d c)
  | .csrwr s c => some (wordI16 0xF6#8 s c)
  | .preack => some (wordT3 0xF7#8 0#8 0#8 0#8)
  | .mhalt => some (wordR 0 0 0 0 0 0x0B)
  | .mevwait => some (wordR 1 0 0 0 0 0x0B)
  | .msignal => some (wordR 2 0 0 0 0 0x0B)
  | .mtimer s => some (wordR 3 0 s 0 0 0x0B)
  | .mqpush q s d => some (wordR (0#4 ++ q) 0 s 1 d 0x0B)
  | .mqpop q s d => some (wordR (0#4 ++ q) 0 s 2 d 0x0B)
  | .mqcnt q d => some (wordR (0#4 ++ q) 0 0 3 d 0x0B)
  | .mtagr w d => some (wordR (0#6 ++ w) 0 0 4 d 0x0B)
  | .mcpy s d => some (wordR 0 0 s 0 d 0x2B)
  | .mbarc c b s => some (wordR (c ++ 0#2) b s 1 0 0x2B)
  | .mavdec s d => some (wordR 0 0 s 2 d 0x2B)
  | .rvLui d i => some (wordU i d 0x37)
  | .rvAuipc d i => some (wordU i d 0x17)
  | .rvJal d i => some (wordJ i d 0x6F)
  | .rvJalr d s i => some (wordI i s 0 d 0x67)
  | .rvBeq s t i => some (wordB i t s 0 0x63)
  | .rvBne s t i => some (wordB i t s 1 0x63)
  | .rvBlt s t i => some (wordB i t s 4 0x63)
  | .rvBge s t i => some (wordB i t s 5 0x63)
  | .rvBltu s t i => some (wordB i t s 6 0x63)
  | .rvBgeu s t i => some (wordB i t s 7 0x63)
  | .rvLb d s i => some (wordI i s 0 d 0x03)
  | .rvLh d s i => some (wordI i s 1 d 0x03)
  | .rvLw d s i => some (wordI i s 2 d 0x03)
  | .rvLbu d s i => some (wordI i s 4 d 0x03)
  | .rvLhu d s i => some (wordI i s 5 d 0x03)
  | .rvSb s t i => some (wordS i t s 0 0x23)
  | .rvSh s t i => some (wordS i t s 1 0x23)
  | .rvSw s t i => some (wordS i t s 2 0x23)
  | .rvAddi d s i => some (wordI i s 0 d 0x13)
  | .rvSlti d s i => some (wordI i s 2 d 0x13)
  | .rvSltiu d s i => some (wordI i s 3 d 0x13)
  | .rvXori d s i => some (wordI i s 4 d 0x13)
  | .rvOri d s i => some (wordI i s 6 d 0x13)
  | .rvAndi d s i => some (wordI i s 7 d 0x13)
  | .rvSlli d s i => some (wordR 0 i s 1 d 0x13)
  | .rvSrli d s i => some (wordR 0 i s 5 d 0x13)
  | .rvSrai d s i => some (wordR 32 i s 5 d 0x13)
  | .rvAdd d s t => some (wordR 0 t s 0 d 0x33)
  | .rvSub d s t => some (wordR 32 t s 0 d 0x33)
  | .rvSll d s t => some (wordR 0 t s 1 d 0x33)
  | .rvSlt d s t => some (wordR 0 t s 2 d 0x33)
  | .rvSltu d s t => some (wordR 0 t s 3 d 0x33)
  | .rvXor d s t => some (wordR 0 t s 4 d 0x33)
  | .rvSrl d s t => some (wordR 0 t s 5 d 0x33)
  | .rvSra d s t => some (wordR 32 t s 5 d 0x33)
  | .rvOr d s t => some (wordR 0 t s 6 d 0x33)
  | .rvAnd d s t => some (wordR 0 t s 7 d 0x33)
  | .rvMul d s t => some (wordR 1 t s 0 d 0x33)
  | .rvMulh d s t => some (wordR 1 t s 1 d 0x33)
  | .rvMulhsu d s t => some (wordR 1 t s 2 d 0x33)
  | .rvMulhu d s t => some (wordR 1 t s 3 d 0x33)
  | .rvDiv d s t => some (wordR 1 t s 4 d 0x33)
  | .rvDivu d s t => some (wordR 1 t s 5 d 0x33)
  | .rvRem d s t => some (wordR 1 t s 6 d 0x33)
  | .rvRemu d s t => some (wordR 1 t s 7 d 0x33)
  | .rvFence f d => some (wordI (f.extractLsb' 5 12) (f.extractLsb' 0 5) 0 d 0x0F)
  | .powerOn _ => none
  | .portTrainingRetry _ => none
  | .bootwait => none
  | .fwload _ => none
  | .imageVerify => none
  | .bootBringup _ => none
  | .stopped => none
  | .reset _ => none
  | .warmRestart => none
  | .clockGatedEntry _ => none
  | .retentionEntry _ => none
  | .offEntry _ => none
  | .wakeRequest _ => none
  | .thermalThrottle _ _ => none
  | .thermtrip => none
  | .status _ => none
  | .resend _ => none
  | .memwr _ => none
  | .memrd _ => none
  | .ptwr _ => none
  | .artwr _ => none
  | .cbwr _ => none
  | .launch _ => none
  | .mail _ => none
  | .atom _ => none
  | .preempt _ => none
  | .query _ => none
  | .attest _ => none
  | .recctlOff _ => none
  | .recctlRecord _ => none
  | .recctlReplay _ => none
  | .replayApply => none
  | .replayMonitorTimeout => none
  | .badcmd _ => none
  | .remoteWrite _ _ _ _ => none
  | .remoteRead _ _ _ _ => none
  | .pgreq _ => none
  | .pgrecall _ => none
  | .pginv _ => none
  | .pgiack _ => none
  | .pgxfer _ => none
  | .pgdone _ => none
  | .pgrefuse _ => none
  | .pgack _ => none
  | .pagewaitTimeout _ => none
  | .rds _ => none
  | .rdx _ => none
  | .upg _ => none
  | .wrb _ => none
  | .evc _ => none
  | .evd _ => none
  | .ownw _ => none
  | .fabricAtom _ => none
  | .redn _ => none
  | .lkrqLock _ => none
  | .lkrqTrylock _ => none
  | .lkrqUnlock _ => none
  | .lkrqProbe _ => none
  | .lkrqFree _ => none
  | .lkrqUnlink _ => none
  | .lkrqAbsent _ => none
  | .lkrqResume _ => none
  | .lkrqHoldmove _ => none
  | .pflr _ => none
  | .dats _ => none
  | .datx _ => none
  | .gntx _ => none
  | .ack _ => none
  | .nack _ => none
  | .requestRetry _ _ => none
  | .reservationLapse _ => none
  | .iack _ => none
  | .rcd _ => none
  | .ares _ => none
  | .packMessage _ => none
  | .dack _ => none
  | .inv _ => none
  | .dwn _ => none
  | .rcl _ => none
  | .ownx _ => none
  | .pfl _ => none
  | .drop _ => none
  | .qsw _ => none
  | .quiesceSweepDone => none
  | .unassignedMessage _ => none
  | .load _ _ _ _ => none
  | .drain _ _ _ => none
  | .wqperf _ => none
  | .evict _ _ => none
  | .cpwb _ _ => none
  | .wback _ => none
  | .discard _ _ => none
  | .read _ => none
  | .land _ => none
  | .finish _ => none
  | .dispatch _ => none
  | .tileProbeTimeout _ _ => none
  | .placement _ _ => none
  | .halving _ => none
  | .grainClaim _ => none
  | .finalTdoneMark _ _ => none
  | .instanceFinish _ => none
  | .quotaCrossing _ => none
  | .faultPark _ => none
  | .engineStop _ => none
  | .prenoteTimeout _ _ => none
  | .collectorComplete _ => none
  | .walkComplete _ _ _ => none
  | .waitphEnd _ _ => none
  | .tagWaitEnd _ _ => none
  | .cntwaitEnd _ _ => none
  | .regacqGrant _ _ => none
  | .rvdonateTransfer _ _ => none
  | .xpairBind _ _ => none
  | .xshflExchange _ _ => none
  | .lockTimeout _ _ => none
  | .lockholdTimeout _ _ _ => none
  | .deadlockWalk _ _ => none
  | .mwaitTimeout _ _ => none
  | .eventFiring _ _ => none
  | .sideTimerExpiry _ => none
  | .frameLanding _ _ => none
  | .frameDecodeFailure _ _ _ => none
  | .matrixUnitExecute _ _ => none
  | .orthogonalUnitExecute _ _ => none
  | .powerRemoved => none
  | .portFailure _ => none
  | .coltosReply _ => none
  | .sealBroadcast _ _ => none
  | .illegalEncoding _ => none
  | .sideUnsupportedEncoding _ => none
  | .recctlBadarg _ => none
  | .unreliableDeliveryRequest _ _ => none
  | .deviceOnlyCode _ => none

/-- The row is a step of the table that no word of a program encodes. -/
def isEvent (i : Instr) : Bool :=
  match i with
  | .illegalEncoding _ => false
  | .sideUnsupportedEncoding _ => false
  | _ => (encode i).isNone

end Sys2Proof
end

