-- ==== Sys2Proof/Machine/Bits.lean ====
section
/-! DEFINITION. Bit fields, bytes and byte order (R5). -/
namespace Sys2Proof.Machine

/-- Bits `hi : lo` of a register (R5). -/
def fget {n : Nat} (x : BitVec n) (hi lo : Nat) : BitVec (hi - lo + 1) := x.extractLsb' lo (hi - lo + 1)

/-- Bits `hi : lo` of a register as a number. -/
def fnat {n : Nat} (x : BitVec n) (hi lo : Nat) : Nat := (x.toNat >>> lo) % 2 ^ (hi - lo + 1)

/-- The register with bits `hi : lo` replaced by the low bits of a number. -/
def fput {n : Nat} (x : BitVec n) (hi lo : Nat) (v : Nat) : BitVec n :=
  let m : BitVec n := BitVec.ofNat n ((2 ^ (hi - lo + 1) - 1) <<< lo)
  (x &&& ~~~m) ||| (BitVec.ofNat n ((v % 2 ^ (hi - lo + 1)) <<< lo))

/-- One bit of a register. -/
def bit {n : Nat} (x : BitVec n) (i : Nat) : Bool := x.getLsbD i

/-- The register with one bit replaced. -/
def setBit {n : Nat} (x : BitVec n) (i : Nat) (b : Bool) : BitVec n := fput x i i (if b then 1 else 0)

/-- A Bool as a number. -/
def b2n (b : Bool) : Nat := if b then 1 else 0

/-- The `n` bytes of a value, low byte first (R5). -/
def toBytes {w : Nat} (x : BitVec w) (n : Nat) : List Byte := (List.range n).map (fun i => x.extractLsb' (8 * i) 8)

/-- The number whose bytes are listed, low byte first (R5). -/
def natOfBytes (bs : List Byte) : Nat :=
  match bs with
  | [] => 0
  | b :: r => b.toNat + 256 * natOfBytes r

/-- The value of width `w` whose bytes are listed, low byte first. -/
def ofBytes (w : Nat) (bs : List Byte) : BitVec w := BitVec.ofNat w (natOfBytes bs)

/-- The bytes of a number, low byte first. -/
def natBytes (v n : Nat) : List Byte := (List.range n).map (fun i => BitVec.ofNat 8 (v / 256 ^ i))

/-- The indices of the set bits of a mask, ascending. -/
def bitsOf {n : Nat} (m : BitVec n) : List Nat := (List.range n).filter (fun i => m.getLsbD i)

/-- The mask whose set bits are listed. -/
def maskOf (n : Nat) (l : List Nat) : BitVec n := l.foldl (fun m i => m ||| BitVec.ofNat n (2 ^ i)) 0

/-- The number of set bits. -/
def popcount {n : Nat} (m : BitVec n) : Nat := (bitsOf m).length

/-- The lowest set bit, or 0 for an empty mask. -/
def lowest {n : Nat} (m : BitVec n) : Nat := (bitsOf m).headD 0

/-- A quotient rounded up. -/
def ceilDiv (a b : Nat) : Nat := (a + b - 1) / b

/-- Bits 63:48 equal bit 47 (R145). -/
def canonical (va : BitVec 64) : Bool := va = (va.setWidth 48).signExtend 64

/-- Replaces the first entry that satisfies a test. -/
def replaceFirst {α : Type} (p : α → Bool) (f : α → α) (l : List α) : List α :=
  match l with
  | [] => []
  | x :: r => if p x then f x :: r else x :: replaceFirst p f r

/-- Removes the first entry that satisfies a test. -/
def removeFirst {α : Type} (p : α → Bool) (l : List α) : List α :=
  match l with
  | [] => []
  | x :: r => if p x then r else x :: removeFirst p r

/-- The entry with the least measure, the first of several. -/
def argmin {α : Type} (f : α → Nat) (l : List α) : Option α :=
  match l with
  | [] => none
  | x :: r =>
    match argmin f r with
    | none => some x
    | some y => if f y < f x then some y else some x

end Sys2Proof.Machine
end

