-- ==== Sys2Proof/Machine/Sparse.lean ====
section
/-! DEFINITION. Sparse data by key, as lists of pairs with strictly rising keys. A map of bit vectors lists no entry
that equals what an unlisted key reads as, so that equal maps are equal lists. -/
namespace Sys2Proof.Machine

/-- A table keyed by natural numbers, its keys strictly rising. -/
abbrev Tbl (α : Type) := List (Nat × α)

/-- The entry at a key, if one is listed. -/
def find {α : Type} (m : Tbl α) (k : Nat) : Option α :=
  match m with
  | [] => none
  | (j, v) :: r => if j = k then some v else find r k

/-- Puts an entry at a key and keeps the keys rising. -/
def put {α : Type} (m : Tbl α) (k : Nat) (v : α) : Tbl α :=
  match m with
  | [] => [(k, v)]
  | (j, w) :: r => if k < j then (k, v) :: (j, w) :: r else if k = j then (k, v) :: r else (j, w) :: put r k v

/-- Removes the entry at a key. -/
def del {α : Type} (m : Tbl α) (k : Nat) : Tbl α :=
  match m with
  | [] => []
  | (j, w) :: r => if k = j then r else (j, w) :: del r k

/-- The keys are strictly rising and all above a bound. -/
def sortedAbove {α : Type} (lo : Option Nat) (m : Tbl α) : Bool :=
  match m with
  | [] => true
  | (j, _) :: r => (match lo with | none => true | some b => decide (b < j)) && sortedAbove (some j) r

/-- A table's keys are strictly rising. -/
def sorted {α : Type} (m : Tbl α) : Bool := sortedAbove none m

/-- A map from natural numbers to bit vectors; an unlisted key reads as zero. -/
abbrev ZMap (w : Nat) := List (Nat × BitVec w)

/-- What the map gives at a key. -/
def zget {w : Nat} (m : ZMap w) (k : Nat) : BitVec w := (find m k).getD 0#w

/-- Writes a map; writing zero removes the entry. -/
def zset {w : Nat} (m : ZMap w) (k : Nat) (v : BitVec w) : ZMap w := if v = 0#w then del m k else put m k v

/-- The canonical form of a map: keys rising and no entry equal to zero. -/
def zwf {w : Nat} (m : ZMap w) : Bool := sorted m && m.all (fun e => e.2 != 0#w)

/-- Writes a run of consecutive keys. -/
def zsetRun {w : Nat} (m : ZMap w) (k : Nat) (vs : List (BitVec w)) : ZMap w :=
  match vs with
  | [] => m
  | v :: r => zsetRun (zset m k v) (k + 1) r

/-- Reads a run of consecutive keys. -/
def zgetRun {w : Nat} (m : ZMap w) (k n : Nat) : List (BitVec w) := (List.range n).map (fun i => zget m (k + i))

/-- Keeps the entries whose keys satisfy a test. -/
def keepKeys {α : Type} (p : Nat → Bool) (m : Tbl α) : Tbl α := m.filter (fun e => p e.1)

end Sys2Proof.Machine
end

