-- ==== Sys2Proof/Machine/State.lean ====
section
/-! DEFINITION. The state of the machine, plain data that holds everything the spec gives the device, the reasons a
step can stop, and the state after reset. -/
namespace Sys2Proof.Machine

/-- Why the machine stops with a fault. It has no constructor: every trap, fault and park of R191 is a next state, and
every access outside device memory is answered by a status or a cause (R54, R191), so no step stops so. -/
inductive Fault where
  deriving DecidableEq, Repr

/-- Why a step has no meaning. -/
inductive Refusal where
  /-- Raised by an arm of `exec` whose instruction has no meaning yet. Safe. -/
  | notModelled (mnemonic : String)
  deriving DecidableEq, Repr

/-! ### Memory -/

/-- Memory: the listed bytes, canonical (`zwf`). -/
abbrev Memory := List Host.Cell

/-- What an unlisted address reads as (R11 defines no value; log entry 3). -/
def Memory.unlisted : Byte := 0#8

/-- The canonical form of a memory. -/
def Memory.wf (m : Memory) : Bool := zwf m

/-! ### Groups -/

/-- A reconvergence stack entry (R110). KIND: 0 RECONV, 1 PATH, 2 STEP. -/
structure Entry where
  pc   : BitVec 48
  kind : BitVec 2
  mask : BitVec 64
  mode : BitVec 32
  fmt  : BitVec 32
  deriving DecidableEq, Repr

/-- The operation of an atomic or reduction (R60, R290, R292). -/
inductive AtomOp where
  | add | fadd | minS | maxS | minU | maxU | and | or | xor | xchg | cas
  deriving DecidableEq, Repr

/-- What an access does when it is performed (R171, R175, R185, R187); an unlock sends its message (R337). -/
inductive AccKind where
  | load
  | store
  | atomic (op : AtomOp)
  | reduce (op : AtomOp)
  | barInit | barArr (arrivals : Nat) | barExp
  | push (q : Nat) | pop (q : Nat)
  | fence (acq rel : Bool)
  | unlock
  deriving DecidableEq, Repr

/-- One access of a group, from its translation check until it is performed (R171 to R176). `dst` lists the
registers that receive the result, `uni` says that they are scalars; `pred` is the predicate register of ENQ, `words` its
entries and `mask` its threads;
`sent` says that the access has left the store buffer for its home (R175), `perf` that it is performed and only its
result is still to arrive, `step` that a step of HLTSTEP made it (R350), and `born` the step in which its instruction started (R347). -/
structure Access where
  id    : Nat
  op    : Nat
  kind  : AccKind
  scr   : Bool
  addr  : Nat
  size  : Nat
  thr   : Nat
  val   : BitVec 128
  cmp   : BitVec 32
  dst   : List (BitVec 8)
  pred  : Option (BitVec 8)
  uni   : Bool
  arena : BitVec 12
  gen   : BitVec 4
  regn  : BitVec 2
  va    : BitVec 64
  acq   : Bool
  rel   : Bool
  sent  : Bool
  perf  : Bool
  mask  : BitVec 64
  mail  : Bool
  words : List Word
  pc    : BitVec 48
  step  : Bool
  born  : Nat
  deriving DecidableEq, Repr

/-- What a translation waits for: a coherence page, and whether to write it (R44); a walk for a missing page, by its root and its number
of 4 KiB (R211); the end of a change of its page's attribute (R43); or the fill of a page of an instance's scratchpad on a core (R149). -/
inductive Hold where
  | page (page : Nat) (write : Bool)
  | walk (root : BitVec 30) (page : Nat)
  | fill (core inst page : Nat)
  | sync
  deriving DecidableEq, Repr

/-- What a group waits for inside an instruction (R90, R203 WAIT, R304). The registers named are destinations. `xlat` is a
translation, `held` a read at a physical address that older accesses or a lock hold back (R112, R190, R252), `refused` what it has waited for in vain (R191, R201), and
`gate` the firing of a gated start (R413). -/
inductive Wait where
  | none
  | lock (line : Nat) (dst : BitVec 8) (thr : Nat) (expired : Bool)
  | lkrq (code : Nat) (line : Nat) (dst : BitVec 8) (thr : Nat)
  | waitph (addr : Nat) (scr : Bool) (phase : BitVec 16) (dst : BitVec 8)
  | tags (mask : BitVec 64) (all : Bool)
  | cnt (cls : Nat) (n : Nat)
  | mwait
  | regacq (k : Nat)
  | rvdonate (mask : BitVec 16) (offer ask : Nat) (dst : BitVec 8)
  | xpair (core grp : Nat)
  | xshfl (a d : BitVec 8) (act : BitVec 64)
  | tdone (dst : BitVec 8)
  | grain (dst : BitVec 8)
  | anew (num : Nat) (dst : BitVec 8)
  | adrop (all todo : List Nat) (release : Bool) (dst : BitVec 8)
  | aseal (num : Nat) (dst : BitVec 8)
  | sync (stage : Nat) (addr : Nat)
  | xlat (l : List Hold)
  | refused (h : Hold)
  | held (pa : Nat) (va : BitVec 64) (thr : Nat) (arena : BitVec 12)
  | gate (sink : Nat)
  | busy
  deriving DecidableEq, Repr

/-- The halted state of a group (R346, R349). SCOPE: 0 thread, 1 group, 2 herd origin, 3 herd follower. While a step is
in progress `stepThr` names its thread until the step has started, and `undo` keeps the stack, SPILL and the active mask that a step
that waits puts back if it fails (R350). -/
structure Halt where
  scope    : BitVec 2
  wp       : BitVec 4
  thr      : BitVec 6
  stepErr  : Bool
  cause    : BitVec 8
  stepWait : Bool
  stepThr  : Option Nat
  undo     : Option (List Entry × BitVec 64 × BitVec 64)
  loadPc   : BitVec 48
  flags    : BitVec 6
  deriving DecidableEq, Repr

/-- What a trap, a fault or a park records (R87, R191, R194). -/
structure FaultInfo where
  cause : BitVec 8
  fva   : BitVec 64
  pc    : BitVec 48
  thr   : Nat
  arena : BitVec 12
  word  : Word
  kill  : Bool
  core  : Nat
  slot  : Nat
  deriving DecidableEq, Repr

/-- An operation of one of the five counter classes (R183). -/
structure ClassOp where
  id   : Nat
  left : Nat
  deriving DecidableEq, Repr

/-- A register written by a uniform instruction whose fixed latency has not passed (R104): its code and the value
that an instruction started too early reads. -/
structure Hazard where
  reg : BitVec 8
  old : BitVec 64
  deriving DecidableEq, Repr

/-- A resident group of a core (R2, R76, R203). `rest` holds the threads of SPLIT that the instruction in progress leaves (R350),
`far` the target address of a transfer outside the canonical range (R243), `started` the step in which the instruction that it waits in has
started (R347), `redo` says that it runs again the instruction whose operation others carry out (R346), `entry` a handler entry that waits for a page, and for
which handler (R196, R199), `owed` the fault that a finished command has left to the group (R155, R157). -/
structure Group where
  resident : Bool
  ended    : Bool
  inst     : Nat
  herdIdx  : Nat
  pc       : BitVec 48
  mode     : BitVec 32
  fmt      : BitVec 32
  amask    : BitVec 64
  split    : BitVec 64
  rest     : BitVec 64
  far      : Option (BitVec 64)
  scalars  : ZMap 32
  vectors  : ZMap 32
  preds    : ZMap 64
  xheld    : BitVec 8
  stack    : List Entry
  spill    : BitVec 64
  hndl     : BitVec 192
  xop      : Word
  xd       : Word
  xa       : Word
  xb       : Word
  xword    : Word
  save     : BitVec 30
  wait     : Wait
  redo     : Bool
  waited   : BitVec 4
  pair     : Option (Nat × Nat)
  locks    : List Nat
  mon      : Option Nat
  monArena : BitVec 12
  monHit   : Bool
  mrem     : BitVec 32
  lkgr     : Bool
  lkst     : BitVec 4
  accs     : List Access
  nextAcc  : Nat
  ld       : List ClassOp
  st       : List ClassOp
  cp       : List ClassOp
  mx       : List ClassOp
  qx       : List ClassOp
  nextOp   : Nat
  score    : List (Nat × BitVec 8)
  hazards  : List Hazard
  stall    : Nat
  nextPc   : BitVec 48
  started  : Nat
  halt     : Option Halt
  follow   : Option Nat
  stop     : Option FaultInfo
  entry    : Option (FaultInfo × Bool)
  owed     : Option FaultInfo
  fired    : Bool
  preempt  : Bool
  prenote  : BitVec 2
  deriving DecidableEq, Repr

/-! ### Cores -/

/-- A side core (R114 to R116, R365). `status`: 0 halted, 1 running, 2 waiting in MEVWAIT, 3 waiting in MCPY; `held` lists what its
instruction waits for, and `refused` names what it has waited for in vain (R149, R201). -/
structure Side where
  pc     : Word
  regs   : ZMap 32
  istore : ZMap 8
  dstore : ZMap 8
  status : BitVec 2
  held   : List Hold
  refused : Option Hold
  deriving DecidableEq, Repr

/-- A copy slot (R153): its record and how far the command has come. `rd` counts the bytes read, `buf` holds the bytes
read and not yet landed, `after` is the bound on the older accesses of the issuing group that the first READ follows
(R294), `side` names the issuing side core, `stopped` is the cause and address where R155 stopped the command, its `kill` bit set
once its fault has been taken. -/
structure Copy where
  rec_    : BitVec 256
  inst    : Nat
  op      : Nat
  after   : Nat
  rd      : Nat
  buf     : List Byte
  started : Bool
  order   : Nat
  side    : Option Bool
  stopped : Option FaultInfo
  deriving DecidableEq, Repr

/-- A watch predicate (R343), the herd that claims it, and the step in which it was set (R347). -/
structure Watch where
  ctl   : BitVec 64
  opa   : Word
  opb   : Word
  owner : Option Nat
  since : Nat
  deriving DecidableEq, Repr

/-- A hardware queue and its two rotation pointers (R117). -/
structure HwQueue where
  items   : List Word
  pushPtr : Nat
  popPtr  : Nat
  deriving DecidableEq, Repr

/-- An M or Q instruction in a unit, with what it read at its start (R97, R308, R309); `order` is its place among the starts,
`after` the bound on the older accesses of its group, `step` says that a step of HLTSTEP started it (R350), and `lost` marks the
extended slots that the group has released since (R265). -/
structure UnitOp where
  instr : Instr
  slot  : Nat
  inst  : Nat
  op    : Nat
  after : Nat
  order : Nat
  mode  : BitVec 32
  fmt   : BitVec 32
  act   : BitVec 64
  vecs  : ZMap 32
  scal  : Word
  scal2 : Word
  tabA  : List (BitVec 16)
  tabB  : List (BitVec 16)
  pc    : BitVec 48
  step  : Bool
  lost  : BitVec 8
  deriving DecidableEq, Repr

/-- A matrix store between its LAND steps and its FINISH (R316): the rows still to land and the barrier. -/
structure MStore where
  off    : Nat
  rows   : List (Nat × List Word)
  total  : Nat
  bar    : Option Nat
  inst   : Nat
  slot   : Nat
  op     : Nat
  deriving DecidableEq, Repr

/-- A partition's matrix state (R306, R307, R320) and its two units (R308), and its register-block waiters (R108). -/
structure Partition where
  owner   : Option Nat
  bslots  : ZMap 8
  tiles   : ZMap 32
  qv      : ZMap 32
  qt      : ZMap 32
  qhdr    : ZMap 64
  mxstate : BitVec 64
  munit   : List UnitOp
  qunit   : List UnitOp
  mstore  : Option MStore
  regwait : List Nat
  deriving DecidableEq, Repr

/-- A copy of a line in a level-one cache (R147, R171, R173). It stands in a way of its set and was last used at `used`. `st`: 0
none, 1 shared, 2 exclusive; `kind` is REGN, or 3 for a copy of a sealed line; `held` marks the bytes held, `owned` the owned SC words,
`written` the written CP bytes, `sectors` the valid sectors and `dirty` those of an exclusive copy that stores have written. -/
structure L1Line where
  way     : Nat
  used    : Nat
  st      : BitVec 2
  kind    : BitVec 2
  bytes   : ZMap 8
  held    : BitVec 256
  owned   : BitVec 64
  written : BitVec 256
  sectors : BitVec 4
  dirty   : BitVec 4
  arena   : BitVec 12
  gen     : BitVec 4
  pinned  : Bool
  deriving DecidableEq, Repr

/-- A TLB entry (R210): the root it is tagged with, the virtual base of its page, the page's size, its leaf PTE and
the address that PTE was read from. -/
structure TlbEntry where
  root : BitVec 30
  base : Nat
  size : Nat
  pte  : BitVec 64
  src  : Nat
  deriving DecidableEq, Repr

/-- A non-leaf entry that a cluster's TLB holds (R210): the root, its level, the part of the address that selects it, the next table, and
the address it was read from. -/
structure NonLeaf where
  root  : BitVec 30
  level : Nat
  part  : Nat
  table : Nat
  src   : Nat
  deriving DecidableEq, Repr

/-- A missing page of a cluster: the root, the page's number of 4 KiB, and the cores that wait for it (R211). -/
structure Walk where
  root  : BitVec 30
  page  : Nat
  cores : List Nat
  deriving DecidableEq, Repr

/-- A cluster's TLB, its non-leaf entries, and its missing pages in order of arrival (R210, R211). -/
structure Cluster where
  tlb   : List TlbEntry
  upper : List NonLeaf
  walks : List Walk
  deriving DecidableEq, Repr

/-- A request that a core has sent and whose reply it awaits: the sectors whose miss-status entries it has taken (R152), and the
time before which a refused one is not sent again (R30, R40). `acc` is the access that it carries out, `pref` says that a prefetch has
made it (R288), `invd` that an INV has overtaken its data (R40 item 5). -/
structure Request where
  pkt     : Packet
  acc     : Nat
  secs    : BitVec 4
  pref    : Bool
  refused : Bool
  due     : Nat
  invd    : Bool
  deriving DecidableEq, Repr

/-- A request of the coalescer that waits for its lookup, or for a miss that it has joined: one line of one memory instruction, which
`slot` and `op` name, with the sectors touched, and for a store to an SC line its words (R151, R152). -/
structure LineAsk where
  slot  : Nat
  op    : Nat
  thr   : Nat
  line  : Nat
  secs  : BitVec 4
  words : BitVec 64
  write : Bool
  pref  : Bool
  arena : BitVec 12
  gen   : BitVec 4
  regn  : BitVec 2
  deriving DecidableEq, Repr

/-- A herd's scratchpad on a core (R149): the gang member whose pages it holds, its image and, for each 4 KiB page, 0 Absent, 1 Pinned, 2
Unpinned, 3 Absent while its fill is under way; `soft` lists the pages whose fill has met a soft error (R191). -/
structure Scratch where
  size   : Nat
  member : Nat
  image  : ZMap 8
  pages  : ZMap 2
  soft   : List Nat
  deriving DecidableEq, Repr

/-- A core. -/
structure Core where
  groups  : Tbl Group
  clk     : BitVec 64
  scr     : BitVec 3
  scratch : Tbl Scratch
  tags    : BitVec 64
  tagCnt  : ZMap 16
  tabs    : ZMap 16
  tabOwn  : Tbl Nat
  wps     : Tbl Watch
  parts   : Tbl Partition
  sideOwn : Option Nat
  queues  : Tbl HwQueue
  routes  : ZMap 128
  firings : List Nat
  gateM   : List Nat
  gateQ   : List Nat
  loader  : Side
  storer  : Side
  timer   : Option Word
  copies  : Tbl Copy
  nextCpy : Nat
  gens    : ZMap 4
  sealed  : List Nat
  l1      : Tbl L1Line
  tlb     : List TlbEntry
  miss    : List (BitVec 30 × Nat)
  asks    : List LineAsk
  reqs    : List Request
  deriving DecidableEq, Repr

/-! ### Homes -/

/-- A directory entry (R34), with the state that stood before it became BUSY and the acknowledgements it still awaits.
`state`: 0 I, 1 S, 2 M, 3 BUSY, 4 SW; `room` is the request that waits for the way of a victim (R36), and `lapsed` says that a
reservation of the line has lapsed and the next refused request is to be recorded (R40). -/
structure DirEntry where
  state : BitVec 3
  before : BitVec 3
  cvec  : Bool
  ptrs  : List Nat
  clus  : BitVec 32
  arena : BitVec 12
  gen   : BitVec 4
  lk    : Bool
  ncnt  : BitVec 5
  pin   : Bool
  rsv   : Bool
  wait  : List Nat
  req   : Option Packet
  room  : Option Packet
  lapsed : Bool
  used  : Nat
  deriving DecidableEq, Repr

/-- A node of a trail (R330). -/
structure TrailNode where
  absent : Bool
  core   : Nat
  grp    : Nat
  thr    : Nat
  owner  : BitVec 30
  deriving DecidableEq, Repr

/-- A lock-table entry (R329); the trail in arrival order stands for the linked nodes of R330, and the pair `arena` and `regn` is
that of the grant. -/
structure LockEntry where
  hvalid : Bool
  hcore  : Nat
  hgrp   : Nat
  hthr   : Nat
  hown   : BitVec 30
  trail  : List TrailNode
  nextst : BitVec 4
  arena  : BitVec 12
  regn   : BitVec 2
  deriving DecidableEq, Repr

/-- Who receives the result of a write-queue entry; a port is named by its stop and the number of its transaction. -/
inductive WqFrom where
  | group (core slot acc : Nat)
  | port (stop : BitVec 7) (txn : Nat)
  | credit
  deriving DecidableEq, Repr

/-- What a request of a copy engine, of a port or of a scratchpad is for: a command of a copy slot, a remote write, a command of a session, a
remote atomic, a record that replay applies, or the fill of a page of an instance's scratchpad on a core (R149). -/
inductive EngUse where
  | copy (core slot : Nat)
  | remote (id : Nat)
  | session (n : Nat)
  | atom (ep : Nat) (aseq : BitVec 32)
  | replay
  | fill (core inst page : Nat)
  deriving DecidableEq, Repr

/-- A request that a copy engine, a port or a scratchpad has made and whose reply it awaits (R30, R38). One with `due` is to be sent at that loop cycle
or later: it has been refused, or, where it is `fresh`, has found no transaction number. -/
structure EngReq where
  pkt   : Packet
  due   : Option Nat
  fresh : Bool
  use   : EngUse
  deriving DecidableEq, Repr

/-- A write-queue entry of a home (R171, R176, R185): an atomic, a reduction or a barrier operation. -/
structure WqEntry where
  kind  : AccKind
  addr  : Nat
  size  : Nat
  val   : BitVec 128
  cmp   : BitVec 64
  arena : BitVec 12
  gen   : BitVec 4
  regn  : BitVec 2
  poison : Bool
  src   : WqFrom
  deriving DecidableEq, Repr

/-- A line of the second-level cache (R163): the slice's residency record. -/
structure L2Line where
  arena : BitVec 12
  gen   : BitVec 4
  dirty : Bool
  used  : Nat
  deriving DecidableEq, Repr

/-- A replica of a sealed line in the slice of a die that is not its home (R37, R163). -/
structure Replica where
  bytes : ZMap 8
  arena : BitVec 12
  gen   : BitVec 4
  used  : Nat
  deriving DecidableEq, Repr

/-- A replica that a slice fetches from the home of its line: its own RDS, the requests of cores that wait for it, and the time at
which a refused RDS is sent again (R37, R40). -/
structure Fetch where
  pkt  : Packet
  reqs : List Packet
  due  : Option Nat
  deriving DecidableEq, Repr

/-- Where a packet stands (R27, R29): in the injection queue of its source, on its loop with the slot of its header flit and the flits
that have already left the loop, or in the ejection queue of its destination. The counts are loop cycles waited there. -/
inductive Spot where
  | queued (waited : Nat)
  | riding (slot out : Nat)
  | landed (waited : Nat)
  deriving DecidableEq, Repr

/-- A packet under way on its loop; `id` tells packets apart. Loops 0 to 63 are the on-die loops, 16 for each die, and 64 to 71 the
package loops 16 to 23 (R26). -/
structure Transit where
  id   : Nat
  loop : Nat
  spot : Spot
  pkt  : Packet
  deriving DecidableEq, Repr

/-- An arena-table entry (R161), its bits as the table numbers them. -/
abbrev ArenaEntry := BitVec 128

/-- A logged drop (R166, R188): the recipients that have not yet applied it, the answers still to come, and the group
that made it. -/
structure Drop where
  arena  : Nat
  gen    : BitVec 4
  slices : List Nat
  cores  : List Nat
  acks   : Nat
  core   : Nat
  slot   : Nat
  deriving DecidableEq, Repr

/-- A seal in progress (R165): the cores that have still to answer the broadcast, and whether the homes have sent their recalls. -/
structure Seal where
  arena : Nat
  cores : List Nat
  sent  : Bool
  core  : Nat
  slot  : Nat
  deriving DecidableEq, Repr

/-- A quiesce-sweep token (R30, R169) in the register of a stop, given by its place in the loop's visiting order: the stops that it has
still to reach, one more than the loop has while it is yet to be injected; the packets that were queued ahead of it; and the loop cycle
in which it came. -/
structure Token where
  loop  : Nat
  at_   : Nat
  left  : Nat
  ahead : List Nat
  since : Nat
  deriving DecidableEq, Repr

/-- A quiesce sweep in progress (R169): the tokens that have not returned, the units that have not reported, cores 0 to 255 and slices
from 256, the requests of engines and ports from before the sweep, and the group that runs it. -/
structure Sweep where
  arena : Nat
  tokens : List Token
  units : List Nat
  engs  : List Packet
  core  : Nat
  slot  : Nat
  deriving DecidableEq, Repr

/-- A page flush in progress (R43): the pair and the attribute of its page, and the homes and the cores still to answer. One of a
management core, numbered 256 and more, is part of the hand-over of a coherence page (R45). -/
structure Flush where
  page  : Nat
  size  : Nat
  arena : BitVec 12
  gen   : BitVec 4
  regn  : BitVec 2
  homes : List Nat
  cores : List (Nat × Nat)
  core  : Nat
  slot  : Nat
  deriving DecidableEq, Repr

/-! ### Regions, tasks and instances -/

/-- A region's snapshot and HW fields, laid out as R68, with the model's own notes beside it. -/
structure Region where
  rcb     : BitVec 2048
  crossed : Bool
  deriving DecidableEq, Repr

/-- A task's snapshot and HW fields, laid out as R73; `mbx` says that a mailbox has launched it, so that it holds the pool slot in
which its TCB stands (R85). -/
structure Task where
  tcb : BitVec 1024
  mbx : Bool
  deriving DecidableEq, Repr

/-- Where an instance is in its life. -/
inductive IState where
  | running | stopping | stopped | parked | killed | finished
  deriving DecidableEq, Repr

/-- What a core record of a save area holds for an instance (R203, R206). -/
structure CoreSave where
  tags    : BitVec 64
  tagCnt  : ZMap 16
  tabs    : ZMap 16
  tabHeld : List Nat
  routes  : ZMap 128
  copies  : Tbl Copy
  loader  : Side
  storer  : Side
  wps     : Tbl Watch
  queues  : Tbl HwQueue
  parts   : Tbl Partition
  side    : Bool
  timer   : Option Word
  deriving DecidableEq, Repr

/-- A core record that holds nothing. -/
def CoreSave.none : CoreSave := ⟨0, [], [], [], [], [], ⟨0, [], [], [], 0, [], .none⟩, ⟨0, [], [], [], 0, [], .none⟩, [], [], [], false, .none⟩

/-- An instance (R77, R83, R202): its range, its gang, where its groups are, and its save area. `image` is its task's TCB as it was
at its placement, whose fields stay in force for it (R92); `moves` counts the HOLDMOVE messages to be answered before its groups
start (R338); `killer` marks the instance whose group killed the task (R354). -/
structure Inst where
  tcb     : Nat
  image   : BitVec 1024
  next    : BitVec 32
  ihi     : BitVec 32
  gang    : List Nat
  locs    : List (Nat × Nat)
  state   : IState
  marks   : List Nat
  age     : BitVec 64
  area    : Nat
  stops   : BitVec 64
  flt     : Option FaultInfo
  groups  : Tbl Group
  cores   : Tbl CoreSave
  unrest  : List Nat
  moves   : Nat
  killer  : Bool
  deriving DecidableEq, Repr

/-- What waits in a die's ready queues (R79): a task's first instance, a remainder of a range task (R77), or a stopped
instance that rejoins (R91). -/
inductive ReadyKind where
  | first
  | remainder (next ihi : BitVec 32)
  | resume (inst : Nat)
  deriving DecidableEq, Repr

/-- An entry of a die's queues; `image` is the TCB that its placement uses, once it is settled: for a task the one of its dispatch,
for a remainder that of the instance which left it (R92). -/
structure Ready where
  tcb   : Nat
  kind  : ReadyKind
  age   : BitVec 64
  image : Option (BitVec 1024)
  deriving DecidableEq, Repr

/-- A die's dispatcher and distributor (R79, R80), and its mailboxes (R85). -/
structure DieSched where
  age    : BitVec 64
  ready  : List Ready
  chosen : List Ready
  missed : List Nat
  collect : List Nat
  deriving DecidableEq, Repr

/-- A bound mailbox (R85, R362): the TCBs of its pool's slots in order, the ordinals of the arrivals whose launches are pending, and
the count of its arrivals. -/
structure Mailbox where
  line  : Nat
  tmpl  : Nat
  pool  : List Nat
  pend  : List (BitVec 32)
  count : BitVec 32
  deriving DecidableEq, Repr

/-- A pre-emption in progress (R91). -/
structure Preempt where
  rcb  : Nat
  die  : Nat
  sess : Option (Nat × Msg)
  deriving DecidableEq, Repr

/-! ### Host side -/

/-- A session (R48, R50, R52). `running` is the command that executes and has not been accepted; `wrote` says that it has written its
payload, whose ACKs it awaits (R53). -/
structure Session where
  opened  : Bool
  holder  : Option Nat
  lacc    : BitVec 32
  lsent   : BitVec 32
  ackrx   : BitVec 32
  reorder : List Msg
  ring    : List Msg
  running : Option Msg
  wrote   : Bool
  port    : Nat
  deriving DecidableEq, Repr

/-- A message that the device has sent on a port to an endpoint. -/
structure Sent where
  port : Nat
  ep   : Nat
  msg  : Msg
  deriving DecidableEq, Repr

/-- An entry of a port's idempotency cache (R61); `res` is absent while the mark is pending, and `out` marks a pending entry that has
been replaced and stays only for the messages that wait for its result. -/
structure IdemEntry where
  ep   : Nat
  aseq : BitVec 32
  res  : Option (List Byte × BitVec 8)
  wait : List Msg
  out  : Bool
  deriving DecidableEq, Repr

/-- A remote write or read that has arrived and is not complete (R47); `sent` says that a write has been made and awaits its ACKs. -/
structure RemoteOp where
  id    : Nat
  sent  : Bool
  port  : Nat
  ep    : Nat
  addr  : Nat
  len   : Nat
  write : Bool
  data  : List Byte
  deriving DecidableEq, Repr

/-- Completion of a transport operation, as its sender sees it (R46, R47). -/
structure Completion where
  port : Nat
  ep   : Nat
  ok   : Bool
  data : List Byte
  deriving DecidableEq, Repr

/-- Record and replay (R64 to R66). `mode`: 0 off, 1 recording, 2 replaying, 3 stopped by OVERFLOW; `used` counts the bytes of
the ring written or applied, `ctl` is the RECCTL that started the replay and its session, and `busy` says that a record which replay has
begun to apply is not complete. -/
structure Recorder where
  mode  : BitVec 2
  busy  : Bool
  base  : Nat
  size  : Nat
  used  : Nat
  ord   : BitVec 64
  count : BitVec 64
  unrec : BitVec 64
  ctl   : Option (Nat × Msg)
  deriving DecidableEq, Repr

/-- A coherence page's state on this device (R44): 0 Owner, 1 Shared, 2 Absent. `want` says that an access waits for the page,
as Owner or as Shared, `asked` what the PGREQ that is outstanding has asked for; `segs` lists the segments of data that have arrived and `trans` marks
a hand-over in progress. -/
structure CohPage where
  state : BitVec 2
  want  : Option Bool
  asked : Option Bool
  segs  : List Nat
  trans : Bool
  deriving DecidableEq, Repr

/-- What ends a coherence page's recall: its data go to an endpoint, the page then Absent or Shared, or a sharer drops its copy (R45,
R63). -/
inductive HandKind where
  | give (ep : Nat) (away : Bool)
  | drop
  deriving DecidableEq, Repr

/-- A coherence page that is being given up (R45); `sent` says that the recalls of step 3 have been started. -/
structure Hand where
  page : Nat
  kind : HandKind
  sent : Bool
  deriving DecidableEq, Repr

/-- A submission to a decoder (R159, R372); `seen` counts the frames that it has decoded or that have failed, from 0 at BS, and `done`
those from F0 on; `stream` holds what it has read of its bitstream, `fault` says that its next read has failed, `deep` says that its stream is one of 10 bits, once a frame has shown it. -/
structure Submission where
  bar   : Nat
  dst   : Nat
  dcore : Nat
  x     : Nat
  y     : Nat
  w     : Nat
  h     : Nat
  n     : Nat
  f0    : Nat
  seen  : Nat
  done  : Nat
  blen  : BitVec 32
  bs    : BitVec 64
  inst  : Nat
  core  : Nat
  deep   : Option Bool
  failed : Bool
  stream : List Byte
  fault  : Bool
  landed : List Byte
  pos    : Nat
  deriving DecidableEq, Repr

/-- A block's power state (R23): 0 Active, 1 Clock-gated, 2 Retention, 3 Off, and its issue rate under R24: 0 full, 1
half, 2 one cycle in four; `used` says that a decoder or port has been used since boot. -/
structure Power where
  state : BitVec 2
  rate  : BitVec 2
  used  : Bool
  deriving DecidableEq, Repr

/-- The boot sequence (R14, R56). `state`: the code of R56; `ecKey` and `mlKey` are the two attestation key pairs, as the material from
which each is made (R21). -/
structure Boot where
  powered  : Bool
  state    : BitVec 8
  cause    : BitVec 8
  puf      : BitVec 32768
  image    : ZMap 8
  imgLen   : Nat
  accepted : List Byte
  imgHash  : BitVec 384
  helper   : List Byte
  seed     : BitVec 256
  devId    : BitVec 128
  ecKey    : List Byte
  mlKey    : List Byte
  saveKey  : List Byte
  map      : ZMap 8
  thermtrip : Bool
  deriving DecidableEq, Repr

/-- The group or side core on whose behalf an instruction executes, its packet's control word and its word; `step` says
that HLTSTEP makes the instruction run (R350), `refused` names what the group or the engine has waited for in vain (R191, R201). -/
structure Focus where
  core   : Nat
  slot   : Nat
  storer : Bool
  ctl    : Word
  word   : Word
  step   : Bool
  refused : Option Hold
  deriving DecidableEq, Repr

/-- The whole machine. `tick` counts the steps and indexes the free values; `agenda` lists the turns to be taken before
the free schedule is asked; `focus` names the group or side core that executes. `pastLocks` keeps, for each line whose lock entry
has been freed, the arena of its last grant and the status that its next grant reports (R190, R333). `resv` holds a reservation's
requester and the loop cycle in which it was made (R40). `written` marks, for each line, the bytes that have been written since power-up (R11). `replicas` holds those of a slice at slice times 2^30 plus the line, `loopClock`
counts loop cycles, `attrs` holds one more than the attribute in force of each leaf PTE that has been walked (R43), and `barred` the loops whose marker train a
stop may not take again yet, with the stop's place and whether the train is passing it unused (R29). -/
structure State where
  tick     : Nat
  agenda   : List Turn
  focus    : Focus
  boot     : Boot
  ports    : ZMap 4
  power    : Tbl Power
  sessions : Tbl Session
  outbox   : List Sent
  idem     : Tbl (List IdemEntry)
  remotes  : List RemoteOp
  nextRem  : Nat
  comps    : List Completion
  errors   : List Nat
  recorder : Recorder
  pages    : Tbl CohPage
  live     : Memory
  written  : ZMap 256
  back     : Memory
  l2       : Tbl L2Line
  arenas   : ZMap 128
  sliceGen : ZMap 4
  drops    : List Drop
  seals    : List Seal
  sweeps   : List Sweep
  flushes  : List Flush
  dir      : Tbl DirEntry
  own      : Tbl Nat
  wq       : List WqEntry
  locks    : Tbl LockEntry
  pastLocks : Tbl (BitVec 12 × BitVec 4)
  resv     : Tbl (Nat × Nat × Nat)
  replicas : Tbl Replica
  fetches  : List Fetch
  engReqs  : List EngReq
  net      : List Transit
  nextPkt  : Nat
  loopClock : Nat
  barred   : List (Nat × Nat × Bool)
  hands    : List Hand
  cores    : Tbl Core
  clus     : Tbl Cluster
  attrs    : ZMap 3
  regions  : Tbl Region
  tasks    : Tbl Task
  insts    : Tbl Inst
  nextInst : Nat
  sched    : Tbl DieSched
  mailbox  : Tbl Mailbox
  preempts : List Preempt
  decoders : Tbl (List Submission)
  deriving DecidableEq, Repr

/-! ### The state after reset -/

def Halt.zero : Halt := ⟨0, 0, 0, false, 0, false, none, none, 0, 0⟩

def Group.reset : Group :=
  { resident := false, ended := false, inst := 0, herdIdx := 0, pc := 0, mode := 0, fmt := 0, amask := 0, split := 0,
    rest := 0, far := none, scalars := [], vectors := [], preds := [], xheld := 0, stack := [], spill := 0, hndl := 0, xop := 0, xd := 0,
    xa := 0, xb := 0, xword := 0, save := 0, wait := .none, redo := false, waited := 0, pair := none, locks := [], mon := none, monArena := 0,
    monHit := false, mrem := 0, lkgr := false, lkst := 0, accs := [], nextAcc := 0, ld := [], st := [], cp := [],
    mx := [], qx := [], nextOp := 0, score := [], hazards := [], stall := 0, nextPc := 0, started := 0, halt := none,
    follow := none, stop := none, entry := none, owed := none, fired := false, preempt := false, prenote := 0 }

def Side.reset : Side := { pc := 0, regs := [], istore := [], dstore := [], status := 0, held := [], refused := none }

def Watch.reset : Watch := ⟨0, 0, 0, none, 0⟩

def HwQueue.reset : HwQueue := ⟨[], 0, 0⟩

def Partition.reset : Partition :=
  { owner := none, bslots := [], tiles := [], qv := [], qt := [], qhdr := [], mxstate := 0, munit := [], qunit := [],
    mstore := none, regwait := [] }

def Scratch.reset : Scratch := { size := 0, member := 0, image := [], pages := [], soft := [] }

def L1Line.reset : L1Line := ⟨0, 0, 0, 0, [], 0, 0, 0, 0, 0, 0, 0, false⟩

def Core.reset : Core :=
  { groups := [], clk := 0, scr := 0, scratch := [], tags := 0, tagCnt := [], tabs := [], tabOwn := [], wps := [],
    parts := [], sideOwn := none, queues := [], routes := [], firings := [], gateM := [], gateQ := [],
    loader := Side.reset, storer := Side.reset, timer := none, copies := [], nextCpy := 0, gens := [], sealed := [],
    l1 := [], tlb := [], miss := [], asks := [], reqs := [] }

def DirEntry.reset : DirEntry := ⟨0, 0, false, [], 0, 0, 0, false, 0, false, false, [], none, none, false, 0⟩

def DieSched.reset : DieSched := ⟨0, [], [], [], []⟩

def Session.reset : Session := ⟨false, none, 0, 0, 0, [], [], none, false, 0⟩

def Recorder.reset : Recorder := ⟨0, false, 0, 0, 0, 0, 0, 0, none⟩

def CohPage.reset : CohPage := ⟨0, none, none, [], false⟩

def Power.reset : Power := ⟨0, 0, false⟩

def Boot.reset : Boot :=
  { powered := false, state := 0, cause := 0, puf := 0, image := [], imgLen := 0,
    accepted := [], imgHash := 0, helper := [], seed := 0, devId := 0, ecKey := [], mlKey := [], saveKey := [], map := [], thermtrip := false }

def Focus.reset : Focus := ⟨0, 0, false, 0, 0, false, none⟩

/-- The machine right after reset: held in reset before power is applied (R14, R24; log entries 2, 4 and 5). -/
def State.reset : State :=
  { tick := 0, agenda := [], focus := Focus.reset, boot := Boot.reset, ports := [], power := [], sessions := [],
    outbox := [], idem := [], remotes := [], nextRem := 0, comps := [], errors := [], recorder := Recorder.reset, pages := [], live := [], written := [],
    back := [], l2 := [], arenas := [], sliceGen := [], drops := [], seals := [], sweeps := [], flushes := [],
    dir := [], own := [], wq := [], locks := [], pastLocks := [], resv := [], replicas := [],
    fetches := [], engReqs := [], net := [], nextPkt := 0, loopClock := 0, barred := [], hands := [], cores := [], clus := [], attrs := [], regions := [],
    tasks := [], insts := [], nextInst := 0, sched := [], mailbox := [], preempts := [], decoders := [] }

end Sys2Proof.Machine
end

