-- ==== Sys2Proof/Machine/Mem.lean ====
section
/-! DEFINITION. Access to the state's parts, device memory, the arena table, the second-level cache and the drops. -/
namespace Sys2Proof.Machine

/-! ### Parts of the state -/

def State.core (s : State) (c : Nat) : Core := (find s.cores c).getD Core.reset
def State.setCore (s : State) (c : Nat) (v : Core) : State := { s with cores := put s.cores c v }
def State.updCore (s : State) (c : Nat) (f : Core → Core) : State := s.setCore c (f (s.core c))

def Core.group (c : Core) (g : Nat) : Group := (find c.groups g).getD Group.reset
def Core.setGroup (c : Core) (g : Nat) (v : Group) : Core := { c with groups := put c.groups g v }
def Core.part (c : Core) (p : Nat) : Partition := (find c.parts p).getD Partition.reset
def Core.setPart (c : Core) (p : Nat) (v : Partition) : Core := { c with parts := put c.parts p v }
def Core.watch (c : Core) (n : Nat) : Watch := (find c.wps n).getD Watch.reset
def Core.queue (c : Core) (q : Nat) : HwQueue := (find c.queues q).getD HwQueue.reset
def Core.line (c : Core) (l : Nat) : L1Line := (find c.l1 l).getD L1Line.reset
def Core.setLine (c : Core) (l : Nat) (v : L1Line) : Core := { c with l1 := put c.l1 l v }
def Core.side (c : Core) (storer : Bool) : Side := if storer then c.storer else c.loader
def Core.setSide (c : Core) (storer : Bool) (v : Side) : Core :=
  if storer then { c with storer := v } else { c with loader := v }

def State.group (s : State) (c g : Nat) : Group := (s.core c).group g
def State.setGroup (s : State) (c g : Nat) (v : Group) : State := s.setCore c ((s.core c).setGroup g v)
def State.updGroup (s : State) (c g : Nat) (f : Group → Group) : State := s.setGroup c g (f (s.group c g))

/-- The group that executes. -/
def State.cur (s : State) : Group := s.group s.focus.core s.focus.slot
def State.setCur (s : State) (v : Group) : State := s.setGroup s.focus.core s.focus.slot v
def State.updCur (s : State) (f : Group → Group) : State := s.setCur (f s.cur)

def State.cluster (s : State) (k : Nat) : Cluster := (find s.clus k).getD ⟨[], [], []⟩

def State.die (s : State) (d : Nat) : DieSched := (find s.sched d).getD DieSched.reset
def State.setDie (s : State) (d : Nat) (v : DieSched) : State := { s with sched := put s.sched d v }

/-- Every listed core and group. -/
def State.allGroups (s : State) : List (Nat × Nat × Group) :=
  s.cores.flatMap (fun c => c.2.groups.map (fun g => (c.1, g.1, g.2)))

/-! ### Physical addresses (R1, R33, R145, R146, R202) -/

def lineOf (pa : Nat) : Nat := pa / 256
def dieOf (pa : Nat) : Nat := pa / 2 ^ 36 % 4

/-- The home slice of a physical address, numbered 16 for each die (R33). -/
def homeSlice (pa : Nat) : Nat :=
  dieOf pa * 16 +
    Nat.xor (Nat.xor (pa / 2 ^ 8 % 16) (pa / 2 ^ 12 % 16)) (Nat.xor (pa / 2 ^ 16 % 16) (pa / 2 ^ 20 % 16))

def homeOfLine (line : Nat) : Nat := homeSlice (line * 256)

/-- Stop address of a slice (R25). -/
def stopOfSlice (h : Nat) : BitVec 7 := BitVec.ofNat 7 (h / 16 * 32 + 8 + h % 16)
/-- Stop address of a core's cluster (R1, R25). -/
def stopOfCore (c : Nat) : BitVec 7 := BitVec.ofNat 7 (c / 64 * 32 + c / 8 % 8)
/-- Stop address of a port (R25). -/
def stopOfPort (p : Nat) : BitVec 7 := BitVec.ofNat 7 (p / 2 * 32 + 24 + p % 2)

/-- Device memory is 256 GiB (R9, R145). -/
def memBytes : Nat := 2 ^ 38
def inMemory (pa len : Nat) : Bool := decide (pa + len ≤ memBytes)

def arenaBase : Nat := 0xFFFFF0000
def inArenaTable (pa : Nat) : Bool := decide (arenaBase ≤ pa) && decide (pa < arenaBase + 0x10000)
/-- Some byte of a range lies in the arena table. -/
def touchesArenaTable (pa len : Nat) : Bool := decide (pa < arenaBase + 0x10000) && decide (arenaBase < pa + len)
/-- The save pool of the die (R202), which on die 0 leaves out the arena table. -/
def inPool (pa : Nat) : Bool := decide (0xF00000000 ≤ pa % 2 ^ 36) && !(inArenaTable pa)
/-- Some byte of a range lies in a save pool. -/
def touchesPool (pa len : Nat) : Bool :=
  (List.range 4).any (fun d => decide (pa < (d + 1) * 2 ^ 36) && decide (d * 2 ^ 36 + 0xF00000000 < pa + len) &&
    decide (0 < len))

/-! ### The arena table (R161) -/

def State.arena (s : State) (a : Nat) : ArenaEntry := zget s.arenas a
def State.setArena (s : State) (a : Nat) (e : ArenaEntry) : State := { s with arenas := zset s.arenas a e }
def aParent (e : ArenaEntry) : Nat := fnat e 127 116
def aGen (e : ArenaEntry) : Nat := fnat e 115 112
def aDss (e : ArenaEntry) : Nat := fnat e 111 108
def aValid (e : ArenaEntry) : Bool := bit e 107
def aSealed (e : ArenaEntry) : Bool := bit e 106
def aBusy (e : ArenaEntry) : Bool := bit e 105
def aDepth (e : ArenaEntry) : Nat := fnat e 104 101
def aQuota (e : ArenaEntry) : Nat := fnat e 95 76

/-- The arena and its ancestors, nearest first; at most nine levels (R161). -/
def arenaPath (s : State) (fuel a : Nat) : List Nat :=
  match fuel with
  | 0 => []
  | k + 1 => if a = 0 then [] else a :: arenaPath s k (aParent (s.arena a))

/-- The VALID arenas whose path holds the arena, parents before children (R166). -/
def arenaTree (s : State) (a : Nat) : List Nat :=
  let below := (s.arenas.filter (fun e => aValid e.2 && (arenaPath s 16 e.1).contains a)).map Prod.fst
  (List.range 9).flatMap (fun d => below.filter (fun n => aDepth (s.arena n) = d))

/-! ### Power states (R23) -/

/-- The key of a block in the table of power states. -/
def blockKey (k : Block) : Nat :=
  match k with
  | .core n => n
  | .slice n => 256 + n
  | .port n => 320 + n
  | .decoder n => 328 + n
  | .mgmt d => 360 + d

def State.blockPower (s : State) (k : Block) : Power := (find s.power (blockKey k)).getD Power.reset
def setPower (s : State) (k : Block) (p : Power) : State := { s with power := put s.power (blockKey k) p }

/-- Work arrives at a block: it is Active and has been used (R23). -/
def wakeFor (s : State) (k : Block) : State := setPower s k { s.blockPower k with state := 0, used := true }

/-- Work arrives at a block, which leaves its power state if it is not Active (R23). -/
def wakeIf (s : State) (k : Block) : State :=
  { s with power := if (s.blockPower k).state = 0 then s.power else (wakeFor s k).power }

/-! ### Bytes of device memory -/

/-- The live value of a byte (R171); the arena-table window reads the table (R146). -/
def State.byte (s : State) (pa : Nat) : Byte :=
  if inArenaTable pa then (s.arena ((pa - arenaBase) / 16)).extractLsb' (8 * ((pa - arenaBase) % 16)) 8
  else zget s.live pa

def State.bytes (s : State) (pa n : Nat) : List Byte := (List.range n).map (fun i => s.byte (pa + i))

def setBytes (m : Memory) (pa : Nat) (bs : List Byte) : Memory := zsetRun m pa bs

/-- Marks every monitor of a table of groups on a line as hit. -/
def hitIn (gs : Tbl Group) (line : Nat) : Tbl Group :=
  gs.map (fun g => (g.1, if g.2.mon = some line then { g.2 with monHit := true } else g.2))

/-- Marks every monitor on a line as hit, those of stopped groups too (R187, R206, R301). -/
def hitMonitors (s : State) (line : Nat) : State :=
  { s with
    cores := s.cores.map (fun c => (c.1, { c.2 with groups := hitIn c.2.groups line }))
    insts := s.insts.map (fun i => (i.1, { i.2 with groups := hitIn i.2.groups line })) }

/-- The lines of an arena on which groups have armed their monitors, those of stopped groups too. -/
def monitorLines (s : State) (a : Nat) : List Nat :=
  let armed := fun (gs : Tbl Group) => gs.filterMap (fun g => if g.2.monArena.toNat = a then g.2.mon else none)
  (s.cores.flatMap (fun c => armed c.2.groups) ++ s.insts.flatMap (fun i => armed i.2.groups)).dedup

/-- Copies a line's live value to its back value (R177). -/
def writeBack (s : State) (line : Nat) : State :=
  { s with back := setBytes s.back (line * 256) ((List.range 256).map (fun i => zget s.live (line * 256 + i))) }

/-- Copies a line's back value to its live value (R188). -/
def restoreLine (s : State) (line : Nat) : State :=
  { s with live := setBytes s.live (line * 256) ((List.range 256).map (fun i => zget s.back (line * 256 + i))) }

def isLocked (s : State) (line : Nat) : Bool :=
  match find s.locks line with
  | some e => e.hvalid
  | none => false

/-- A drop of the arena is logged and not yet applied at the slice. -/
def dropPending (s : State) (slice a : Nat) : Bool :=
  s.drops.any (fun d => decide (d.arena = a) && d.slices.contains slice)

/-- The lines of an arena or of its descendants that a slice holds (R163). -/
def residents (s : State) (slice a : Nat) : Tbl L2Line :=
  s.l2.filter (fun e => decide (homeOfLine e.1 = slice) && (arenaPath s 16 e.2.arena.toNat).contains a)

/-- The key of a slice's replica of a line, and the slice that a key names. -/
def replicaKey (slice line : Nat) : Nat := slice * 2 ^ 30 + line
def replicaSlice (key : Nat) : Nat := key / 2 ^ 30

/-- The replicas of an arena or of its descendants that a slice holds: they count where they are held (R163). -/
def replicasIn (s : State) (slice a : Nat) : Tbl Replica :=
  s.replicas.filter (fun e => decide (replicaSlice e.1 = slice) && (arenaPath s 16 e.2.arena.toNat).contains a)

/-- The residency of an arena in a slice (R163). -/
def residency (s : State) (slice a : Nat) : Nat := (residents s slice a).length + (replicasIn s slice a).length

/-- A line that an eviction may take: not pinned, and not one whose WBACK must wait for a drop (R163, R177). -/
def mayEvict (s : State) (slice : Nat) (e : Nat × L2Line) : Bool :=
  !(isLocked s e.1) && !(e.2.dirty && dropPending s slice e.2.arena.toNat)

/-- A line leaves the L2, written back if it is dirty. -/
def evictL2 (s : State) (line : Nat) (v : L2Line) : State :=
  let s1 := if v.dirty then writeBack s line else s
  { s1 with l2 := del s1.l2 line }

/-- Evicts the least-recently-used unpinned line of an arena, or of its descendants, in a slice (R163). -/
def evictOne (s : State) (slice a : Nat) : State :=
  match argmin (fun e => e.2.used) ((residents s slice a).filter (mayEvict s slice)), argmin (fun e => e.2.used) (replicasIn s slice a) with
  | none, none => s
  | none, some y => { s with replicas := del s.replicas y.1 }
  | some x, none => evictL2 s x.1 x.2
  | some x, some y => if y.2.used < x.2.used then { s with replicas := del s.replicas y.1 } else evictL2 s x.1 x.2

/-- Makes room in a slice for a fill under the quotas on the arena's path (R163). -/
def makeRoom (s : State) (slice a : Nat) : State :=
  match (arenaPath s 16 a).find? (fun b => decide (aQuota (s.arena b) ≠ 0) &&
      decide (ceilDiv (aQuota (s.arena b)) 16 ≤ residency s slice b)) with
  | none => s
  | some b => evictOne s slice b

/-- Notes that a line is in the L2 under a pair (R162, R163). -/
def touchL2 (s : State) (line : Nat) (a : BitVec 12) (g : BitVec 4) (dirty : Bool) : State :=
  match find s.l2 line with
  | some v => { s with l2 := put s.l2 line { arena := a, gen := g, dirty := v.dirty || dirty, used := s.tick } }
  | none =>
    let s1 := makeRoom s (homeOfLine line) a.toNat
    { s1 with l2 := put s1.l2 line { arena := a, gen := g, dirty := dirty, used := s.tick } }

/-- A slice takes a replica of a sealed line (R37, R163). -/
def putReplica (s : State) (slice line : Nat) (a : BitVec 12) (g : BitVec 4) (bs : List Byte) : State :=
  let s1 := makeRoom s slice a.toNat
  { s1 with replicas := put s1.replicas (replicaKey slice line) { bytes := zsetRun [] 0 bs, arena := a, gen := g, used := s.tick } }

/-- The pair a line carries in the L2, or arena 0 where it is not held (R162: port writes take the current pair). -/
def linePair (s : State) (line : Nat) : BitVec 12 × BitVec 4 :=
  match find s.l2 line with
  | some v => (v.arena, v.gen)
  | none => (0, 0)

/-- Splits a range at line boundaries: the pieces in ascending order. -/
def linePieces (fuel pa len : Nat) : List (Nat × Nat) :=
  match fuel with
  | 0 => []
  | k + 1 =>
    if len = 0 then [] else
      let n := Nat.min len (256 - pa % 256)
      (pa, n) :: linePieces k (pa + n) (len - n)

/-- The `n` bytes of a line from an address on, as a mask. -/
def byteMask (pa n : Nat) : BitVec 256 := ((1#256 <<< n) - 1) <<< (pa % 256)

/-- Some byte of a range has been written since power-up (R11). -/
def writtenAt (s : State) (pa n : Nat) : Bool :=
  (linePieces (n + 1) pa n).any (fun p => zget s.written (lineOf p.1) &&& byteMask p.1 p.2 != 0)

/-- A read of a range meets an uncorrectable soft error: never where nothing has been written since power-up (R11, R191). -/
def softAt (s : State) (pa n : Nat) : Bool :=
  (linePieces (n + 1) pa n).any (fun p =>
    (zget s.written (lineOf p.1) &&& byteMask p.1 p.2 != 0) && Config.softError s.tick (lineOf p.1))

/-- Writes live bytes of one line under a pair: the line is then dirty in the L2, and monitors on it are hit. -/
def writeLive (s : State) (pa : Nat) (bs : List Byte) (a : BitVec 12) (g : BitVec 4) : State :=
  let s1 := touchL2 s (lineOf pa) a g true
  let w := zset s1.written (lineOf pa) (zget s1.written (lineOf pa) ||| byteMask pa bs.length)
  hitMonitors { s1 with live := setBytes s1.live pa bs, written := w } (lineOf pa)

/-- Writes live bytes that may cross lines, each line under the pair it carries (R47, R53). -/
def writeRange (s : State) (pa : Nat) (bs : List Byte) : State :=
  (linePieces (bs.length + 1) pa bs.length).foldl
    (fun t p => let pr := linePair t (lineOf p.1); writeLive t p.1 ((bs.drop (p.1 - pa)).take p.2) pr.1 pr.2) s

/-! ### Generations and drops (R162, R166, R188) -/

def State.sgen (s : State) (slice a : Nat) : BitVec 4 := zget s.sliceGen (slice * 4096 + a)

/-- A generation is older than a copy of it: it differs, and it is not one of those that the logged drops not yet applied there will
give (R162, R167). -/
def olderThan (copy g : BitVec 4) (pending : Nat) : Bool := decide (pending < (g - copy).toNat)

/-- A pair is stale at a home when its generation is older than the home's (R167). -/
def staleAt (s : State) (line : Nat) (a : BitVec 12) (g : BitVec 4) : Bool :=
  let h := homeOfLine line
  olderThan (s.sgen h a.toNat) g (s.drops.filter (fun d => decide (d.arena = a.toNat) && d.slices.contains h)).length

/-- A pair is stale at a core when its generation is older than the core's copy (R167). -/
def staleCore (s : State) (core : Nat) (a : BitVec 12) (g : BitVec 4) : Bool :=
  olderThan (zget (s.core core).gens a.toNat) g (s.drops.filter (fun d => decide (d.arena = a.toNat) && d.cores.contains core)).length

end Sys2Proof.Machine
end

