-- ==== Sys2Proof/Machine/Net.lean ====
section
/-! DEFINITION. The loops: stops, loop choice, packets, injection, movement, the marker train and ejection (R25 to R32, R38). -/
namespace Sys2Proof.Machine

/-! ### Stops (R25) -/

/-- Stop address of the decoders of a die. -/
def stopOfDecoders (d : Nat) : BitVec 7 := BitVec.ofNat 7 (d * 32 + 26)
/-- Stop address of the management core of a die. -/
def stopOfMgmt (d : Nat) : BitVec 7 := BitVec.ofNat 7 (d * 32 + 27)
/-- The die of a stop address. -/
def stopDie (x : BitVec 7) : Nat := x.toNat / 32

/-- The slice that a stop address names, if it is one of a slice. -/
def sliceOfStop (x : BitVec 7) : Option Nat :=
  let k := x.toNat % 32
  if decide (8 ≤ k) && decide (k < 24) then some (x.toNat / 32 * 16 + (k - 8)) else none

/-- The port that a stop address names, if it is one of a port. -/
def portOfStop (x : BitVec 7) : Nat := x.toNat / 32 * 2 + (x.toNat % 32 - 24)
def portOfStop? (x : BitVec 7) : Option Nat :=
  if decide (x.toNat % 32 = 24) || decide (x.toNat % 32 = 25) then some (portOfStop x) else none

/-! ### Loops (R26) -/

/-- The slices of an on-die loop of a die. -/
def loopSlices (k : Nat) : List Nat :=
  match k with
  | 12 => [0, 1, 2, 3]
  | 13 => [4, 5, 6, 7]
  | 14 => [8, 9, 10, 11]
  | 15 => [12, 13, 14, 15]
  | _ =>
    match k / 2 with
    | 0 => [0, 1, 2, 3, 4, 5, 6, 7]
    | 1 => [0, 1, 2, 3, 8, 9, 10, 11]
    | 2 => [0, 1, 2, 3, 12, 13, 14, 15]
    | 3 => [4, 5, 6, 7, 8, 9, 10, 11]
    | 4 => [4, 5, 6, 7, 12, 13, 14, 15]
    | _ => [8, 9, 10, 11, 12, 13, 14, 15]

/-- The stop addresses of a loop in increasing order: on a die, the clusters, the loop's slices, and stops 24 to 27; across the package,
position 28d+s for every stop. -/
def loopMembers (loop : Nat) : List Nat :=
  if loop < 64 then
    ([0, 1, 2, 3, 4, 5, 6, 7] ++ (loopSlices (loop % 16)).map (fun i => i + 8) ++ [24, 25, 26, 27]).map (fun x => loop / 16 * 32 + x)
  else (List.range 4).flatMap (fun d => (List.range 28).map (fun x => d * 32 + x))

/-- The stops of a loop in its visiting order: even loops ascend, odd ones descend. -/
def loopStops (loop : Nat) : List Nat := if loop % 2 = 0 then loopMembers loop else (loopMembers loop).reverse

/-- The place of a stop in a loop's visiting order. -/
def placeOn (loop : Nat) (x : BitVec 7) : Nat := (loopStops loop).idxOf x.toNat

def loopLength (loop : Nat) : Nat := (loopStops loop).length

/-! ### The loop of a packet (R27) -/

/-- The loops that the two stops of a packet share: of their die, or of the package. -/
def sharedLoops (src dst : BitVec 7) : List Nat :=
  if stopDie src = stopDie dst then
    ((List.range 16).map (fun k => stopDie src * 16 + k)).filter (fun l => (loopStops l).contains src.toNat && (loopStops l).contains dst.toNat)
  else [64, 65, 66, 67, 68, 69, 70, 71]

/-- The hop count between two stops of a loop. -/
def hops (loop : Nat) (src dst : BitVec 7) : Nat := (placeOn loop dst + loopLength loop - placeOn loop src) % loopLength loop

/-- The loops with the fewest hops, in ascending order. -/
def bestLoops (src dst : BitVec 7) : List Nat :=
  let l := sharedLoops src dst
  match argmin (fun k => hops k src dst) l with
  | none => []
  | some b => l.filter (fun k => decide (hops k src dst = hops b src dst))

/-- The loop that the source chooses for a packet about a line. -/
def loopFor (src dst : BitVec 7) (line : Nat) : Nat :=
  let l := bestLoops src dst
  l.getD (line % l.length) 0

/-! ### Packets (R28) -/

/-- A packet with no payload and SLACK 0. -/
def mkPkt (cls op : Nat) (src dst : BitVec 7) (pa core grp thr : Nat) : Packet :=
  { inl := 0, cls := BitVec.ofNat 2 cls, op := BitVec.ofNat 6 op, src := src, dst := dst, ndata := 0, slack := 0
    pa := BitVec.ofNat 38 pa, smask := 0, arena := 0, gen := 0, regn := 0, txn := 0, core := BitVec.ofNat 8 core
    grp := BitVec.ofNat 6 grp, thr := BitVec.ofNat 6 thr, hint := 0, data := [] }

/-- The line that a packet concerns. -/
def pktLine (p : Packet) : Nat := p.pa.toNat / 256

/-- The home stop of a line. -/
def homeStop (line : Nat) : BitVec 7 := stopOfSlice (homeOfLine line)

/-- A request of a core to the home of a line. -/
def toHome (op line core grp thr : Nat) : Packet :=
  mkPkt 0 op (stopOfCore core) (homeStop line) (line * 256) core grp thr

/-- The packet with an arena, a generation and a region attribute. -/
def withPair (p : Packet) (a : BitVec 12) (g : BitVec 4) (r : BitVec 2) : Packet := { p with arena := a, gen := g, regn := r }

/-- A control message of a line's home to a core, which CORE names, with the pair of the line and the TXN of the request served. -/
def ctlCore (op line core : Nat) (a : BitVec 12) (g : BitVec 4) (r : BitVec 2) (txn : BitVec 12) : Packet :=
  { withPair (mkPkt 2 op (homeStop line) (stopOfCore core) (line * 256) core 0 0) a g r with txn := txn }

/-- A core's answer to a control message, with the message's own fields. -/
def answerTo (p : Packet) (op : Nat) : Packet :=
  { withPair (mkPkt 1 op p.dst p.src p.pa.toNat p.core.toNat p.grp.toNat p.thr.toNat) p.arena p.gen p.regn with txn := p.txn }

/-- The packet with the sectors of a line that a mask names, of the line's 256 bytes; an empty mask names all of them. -/
def withSectors (p : Packet) (secs : BitVec 4) (bs : List Byte) : Packet :=
  let m := if secs = 0 then 15 else secs
  { p with ndata := BitVec.ofNat 3 (popcount m), smask := m, data := (bitsOf m).flatMap (fun k => (bs.drop (64 * k)).take 64) }

/-! ### Sending (R27, R29 to R31) -/

/-- The SLACK of a core's request until the step in which it is formed has counted the eligible groups (R31, R102); no packet holds it
after that step. -/
def untagged : BitVec 7 := 127

/-- The SLACK of a request at its source: the eligible groups of a core, counted at the end of the step (`tagRequests`), and 64 for
decoders, ports and management cores (R31). -/
def slackTag (src : BitVec 7) : BitVec 7 := if src.toNat % 32 < 8 then untagged else 64

/-- The slack tag of the requests of a core that have none yet. -/
def tagPkt (core n : Nat) (p : Packet) : Packet :=
  if decide (p.slack = untagged) && decide (p.core.toNat = core) then { p with slack := BitVec.ofNat 7 n } else p

/-- The requests that a core has formed in this step carry the number of its eligible groups (R31). -/
def setSlack (s : State) (core n : Nat) : State :=
  { s.updCore core (fun c => { c with reqs := c.reqs.map (fun r => { r with pkt := tagPkt core n r.pkt }) }) with
    net := s.net.map (fun x => { x with pkt := tagPkt core n x.pkt })
    engReqs := s.engReqs.map (fun r => { r with pkt := tagPkt core n r.pkt }) }

/-- The cores whose requests have no slack tag yet. -/
def untaggedCores (s : State) : List Nat :=
  ((s.net.filter (fun x => decide (x.pkt.slack = untagged))).map (fun x => x.pkt.core.toNat)).dedup

/-- A packet that enters its injection queue; one to its own stop is there at once. -/
def transitOf (id : Nat) (p : Packet) : Transit :=
  ⟨id, loopFor p.src p.dst (pktLine p), if p.src = p.dst then .landed 0 else .queued 0, p⟩

/-- Sends a packet. -/
def send (s : State) (p : Packet) : State := { s with net := s.net ++ [transitOf s.nextPkt p], nextPkt := s.nextPkt + 1 }

/-- Sends several packets, in order. -/
def sendAll (s : State) (ps : List Packet) : State :=
  { s with
    net := s.net ++ (ps.zip (List.range ps.length)).map (fun e => transitOf (s.nextPkt + e.2) e.1)
    nextPkt := s.nextPkt + ps.length }

/-- Sends a request with its slack tag. -/
def sendTagged (s : State) (p : Packet) : State := send s { p with slack := slackTag p.src }

/-- A refusal of a request, with its HINT (R40). -/
def nackPkt (p : Packet) (hint : Nat) : Packet :=
  { withPair (mkPkt 1 0x14 p.dst p.src p.pa.toNat p.core.toNat p.grp.toNat p.thr.toNat) p.arena p.gen p.regn with
    txn := p.txn, hint := BitVec.ofNat 4 hint }

/-! ### Queues (R29, R32) -/

def Transit.waited (x : Transit) : Nat :=
  match x.spot with
  | .queued n => n
  | .landed n => n
  | .riding _ _ => 0

def Transit.isQueued (x : Transit) : Bool := match x.spot with | .queued _ => true | _ => false
def Transit.isLanded (x : Transit) : Bool := match x.spot with | .landed _ => true | _ => false

/-- Two packets that arrive in the order in which they were sent (R27). -/
def sameRoute (p q : Packet) : Bool :=
  decide (p.cls = q.cls) && decide (p.src = q.src) && decide (p.dst = q.dst) && decide (pktLine p = pktLine q)

/-- The request of a queue that is served next (R32): one that has waited 256 loop cycles, the longest first, or the one of lowest
SLACK that has waited longest. The list holds them in the order in which they came. -/
def slackChoice (l : List Transit) : Option Transit :=
  match l.filter (fun x => decide (256 ≤ x.waited)) with
  | x :: r => argmin (fun y => (x :: r).foldl (fun m z => Nat.max m z.waited) 0 - y.waited) (x :: r)
  | [] => argmin (fun x => x.pkt.slack.toNat) l

/-- The requests of an injection queue before which no earlier one of their route waits (R27; log entry 89). -/
def routeHeads (l : List Transit) : List Transit :=
  match l with
  | [] => []
  | x :: r => x :: (routeHeads r).filter (fun y => !(sameRoute x.pkt y.pkt))

/-- What a stop injects next on a loop: replies go first, then control messages, then requests (R29). -/
def nextOut (l : List Transit) : Option Transit :=
  match l.find? (fun x => decide (x.pkt.cls = 1)) with
  | some x => some x
  | none =>
    match l.find? (fun x => decide (x.pkt.cls = 2)) with
    | some x => some x
    | none => slackChoice (routeHeads (l.filter (fun x => decide (x.pkt.cls ≠ 1) && decide (x.pkt.cls ≠ 2))))

/-! ### Movement (R27 to R30) -/

/-- The place in visiting order at which a slot of a loop of `n` stops stands; the slots advance one stop per loop cycle. -/
def slotPlace (s : State) (n slot : Nat) : Nat := (slot + s.loopClock) % n

/-- The slot that stands at a place. -/
def slotAt (s : State) (n place : Nat) : Nat := (place + n - s.loopClock % n) % n

/-- The slots of a packet's flits that are on the loop: the header's, and those behind it. -/
def flitSlots (n : Nat) (x : Transit) : List Nat :=
  match x.spot with
  | .riding slot out => ((List.range (x.pkt.ndata.toNat + 1)).filter (fun i => decide (out ≤ i))).map (fun i => (slot + n - i) % n)
  | _ => []

/-- A slot of a loop is occupied as it stands at a place: a flit of a packet is in it that has passed its source's stop. -/
def slotPresent (s : State) (loop slot : Nat) : Bool :=
  let n := loopLength loop
  s.net.any (fun x => match x.spot with
    | .riding h out => decide (x.loop = loop) && (List.range (x.pkt.ndata.toNat + 1)).any (fun i =>
        decide (out ≤ i) && decide (i ≤ (slotPlace s n h + n - placeOn loop x.pkt.src) % n) && decide ((h + n - i) % n = slot))
    | _ => false)

/-- The slots of a loop that hold a flit, or are to take one of a packet that is being injected. -/
def usedSlots (s : State) (loop : Nat) : List Nat :=
  (s.net.filter (fun x => decide (x.loop = loop))).flatMap (flitSlots (loopLength loop))

/-- The marker train of a loop: slots 4 to 0, the header's first. -/
def trainFree (used : List Nat) : Bool := [0, 1, 2, 3, 4].all (fun k => !(used.contains k))

def setSpot (s : State) (id : Nat) (p : Spot) : State :=
  { s with net := s.net.map (fun x => if x.id = id then { x with spot := p } else x) }

def dropTransit (s : State) (id : Nat) : State := { s with net := s.net.filter (fun x => decide (x.id ≠ id)) }

/-- A packet reaches its ejection queue, behind those that have reached theirs before. -/
def landTransit (s : State) (x : Transit) : State :=
  { s with net := s.net.filter (fun y => decide (y.id ≠ x.id)) ++ [{ x with spot := .landed 0 }] }

/-- A packet sent before another of its route is still on the loop or waits for it (R27). -/
def behindRoute (s : State) (x : Transit) : Bool :=
  s.net.any (fun y => decide (y.id < x.id) && !y.isLanded && sameRoute y.pkt x.pkt)

/-- A packet's next flit stands at its destination and leaves the loop. A control message whose queue is full, or before which an earlier
one of its route has had to stay, stays for another revolution, and a request that a slice's queue cannot take is refused with HINT 15, uncounted (R30, R40 item 1). -/
def ejectFlit (s : State) (x : Transit) : State :=
  match x.spot with
  | .riding slot out =>
    let n := loopLength x.loop
    if slotPlace s n ((slot + n - out) % n) ≠ placeOn x.loop x.pkt.dst then s
    else
      let full := decide (out = 0) && Config.queueFull s.loopClock x.id
      if decide (x.pkt.cls = 2) && (full || behindRoute s x) then s
      else if full && decide (x.pkt.cls = 0) && (sliceOfStop x.pkt.dst).isSome then send (dropTransit s x.id) (nackPkt x.pkt 15)
      else if out = x.pkt.ndata.toNat then landTransit s x
      else setSpot s x.id (.riding slot (out + 1))
  | _ => s

/-- A stop injects on a loop: a packet whose flits all find free slots outside the train, or, for a stop whose oldest packet has waited
256 loop cycles, that packet on the train, unless the stop has taken it and it has not passed unused since (R29; log entry 90). -/
def injectAt (s : State) (loop : Nat) (stop : Nat) : State :=
  let n := loopLength loop
  let q := s.net.filter (fun x => decide (x.loop = loop) && x.isQueued && decide (x.pkt.src.toNat = stop))
  let place := (loopStops loop).idxOf stop
  let k := slotAt s n place
  let used := usedSlots s loop
  match q with
  | [] => s
  | first :: _ =>
    if decide (k = 4) && decide (256 ≤ first.waited) && trainFree used && !(s.barred.any (fun b => decide (b.1 = loop) && decide (b.2.1 = place))) then
      { setSpot s first.id (.riding k 0) with barred := s.barred ++ [(loop, place, false)] }
    else
      match nextOut q with
      | none => s
      | some x =>
        let slots := flitSlots n { x with spot := .riding k 0 }
        if slots.all (fun i => decide (5 ≤ i) && !(used.contains i)) then setSpot s x.id (.riding k 0) else s

/-- What a barred stop has seen of the train when this loop cycle is over, or nothing where all five slots have passed it empty, slot 4
first: it may then take the train again. -/
def seeTrain (s : State) (b : Nat × Nat × Bool) : Option (Nat × Nat × Bool) :=
  let k := slotAt s (loopLength b.1) b.2.1
  let free := !(slotPresent s b.1 k)
  if k = 4 then some (b.1, b.2.1, free)
  else if 4 < k then some b
  else if decide (k = 0) && b.2.2 && free then none
  else some (b.1, b.2.1, b.2.2 && free)

/-- The train passes the stops of a loop. -/
def passTrain (s : State) (loop : Nat) : State :=
  { s with barred := s.barred.filterMap (fun b => if b.1 = loop then seeTrain s b else some b) }

/-- One loop cycle of a loop: flits leave it, and stops inject. -/
def loopCycle (s : State) (loop : Nat) : State :=
  let s1 := (s.net.filter (fun x => decide (x.loop = loop))).foldl (fun t x => ejectFlit t x) (passTrain s loop)
  ((s1.net.filter (fun x => decide (x.loop = loop) && x.isQueued)).map (fun x => x.pkt.src.toNat)).dedup.foldl
    (fun t k => injectAt t loop k) s1

/-- The packets in queues have waited one more loop cycle. -/
def ageTransit (x : Transit) : Transit :=
  match x.spot with
  | .queued n => { x with spot := .queued (n + 1) }
  | .landed n => { x with spot := .landed (n + 1) }
  | .riding _ _ => x

/-- One loop cycle. -/
def netCycle (s : State) : State :=
  let s1 := { s with loopClock := s.loopClock + 1, net := s.net.map ageTransit }
  ((s1.net.map (fun x => x.loop)) ++ (s1.barred.map (fun b => b.1))).dedup.foldl loopCycle s1

/-- Loop cycles pass. -/
def moveNet (n : Nat) (s : State) : State :=
  if s.net.isEmpty && s.barred.isEmpty then { s with loopClock := s.loopClock + n }
  else n.repeat netCycle s

/-! ### Quiesce-sweep tokens (R30, R169) -/

/-- The packets that stand in the queues of a stop on a loop. -/
def queuedAt (s : State) (loop : Nat) (x : BitVec 7) : List Nat :=
  (s.net.filter (fun t => decide (t.loop = loop) && ((t.isQueued && decide (t.pkt.src = x)) || (t.isLanded && decide (t.pkt.dst = x))))).map
    (fun t => t.id)

/-- The stop at a place of a loop. -/
def stopAt (loop place : Nat) : BitVec 7 := BitVec.ofNat 7 ((loopStops loop).getD place 0)

/-- Where a token goes next: into the register of its origin, or to the next stop. -/
def nextPlace (t : Token) : Nat := if loopLength t.loop < t.left then t.at_ else (t.at_ + 1) % loopLength t.loop

/-- The register of a stop for a loop holds a token. -/
def tokenAt (s : State) (loop place : Nat) : Bool :=
  s.sweeps.any (fun w => w.tokens.any (fun t => decide (t.loop = loop) && decide (t.at_ = place) && decide (t.left ≤ loopLength loop)))

/-- A token may leave its stop: everything queued ahead of it has left, it moves one stop in a loop cycle, and the register of the next
stop is free, or is that of its origin, which consumes it. -/
def tokenMoves (s : State) (t : Token) : Bool :=
  t.ahead.all (fun i => !((queuedAt s t.loop (stopAt t.loop t.at_)).contains i)) && decide (t.since < s.loopClock) &&
  (decide (t.left ≤ 1) || !(tokenAt s t.loop (nextPlace t)))

/-- A token at its next stop; it is consumed where it has none left. -/
def moveToken (s : State) (t : Token) : List Token :=
  if t.left ≤ 1 then []
  else [{ t with at_ := nextPlace t, left := t.left - 1, ahead := queuedAt s t.loop (stopAt t.loop (nextPlace t)), since := s.loopClock }]

/-! ### Arrival (R27, R30, R32) -/

/-- A reply or a control message is at the head of its ejection queue: the machine without it. -/
def headArrival (s : State) (p : Packet) : Option State :=
  match s.net.find? (fun x => x.isLanded && decide (x.pkt = p)) with
  | none => none
  | some x =>
    match s.net.find? (fun y => y.isLanded && decide (y.pkt.dst = p.dst) && decide (y.loop = x.loop) && decide (y.pkt.cls = p.cls)) with
    | none => none
    | some y => if decide (y.id = x.id) && decide (p.cls ≠ 0) then some (dropTransit s x.id) else none

/-- A request is the next that its slice serves, of those that are ready: the machine without it. -/
def nextRequest (ready : Packet → Bool) (s : State) (p : Packet) : Option State :=
  match slackChoice (s.net.filter (fun x => x.isLanded && decide (x.pkt.cls = 0) && decide (x.pkt.dst = p.dst) && ready x.pkt)) with
  | none => none
  | some x => if x.pkt = p then some (dropTransit s x.id) else none

/-- A packet of any kind that has reached its stop: the machine without it. -/
def anyArrival (s : State) (p : Packet) : Option State :=
  (s.net.find? (fun x => x.isLanded && decide (x.pkt = p))).map (fun x => dropTransit s x.id)

/-- The arrival of a reply or a control message: it leaves the network and has its effect; nothing happens where it has not arrived, or
where the receiver does not consider it. -/
def deliverIf (s : State) (p : Packet) (ok : Bool) (k : State → State) : Host.Outcome State Fault Refusal :=
  match (if ok then headArrival s p else none) with
  | none => .next s
  | some t => .next (k t)

end Sys2Proof.Machine
end

