-- ==== Sys2Proof/Machine/Caches.lean ====
section
/-! DEFINITION. The level-one caches: what their copies hold, ways and victims, miss-status entries and requests, SC ownership, CP
copies, and what a store does to them (R30, R42, R147, R148, R152, R171 to R178). -/
namespace Sys2Proof.Machine

/-! ### What a copy holds (R171, R173) -/

/-- The held byte of a core's copy of an SC, CP or sealed line. -/
def copyByte (c : Core) (pa : Nat) : Option Byte :=
  match find c.l1 (lineOf pa) with
  | none => none
  | some l => if bit l.held (pa % 256) && l.kind != 0 then some (zget l.bytes (pa % 256)) else none

/-- A byte as source 3 or 4 of R173 gives it: the owner's word, or the live value. -/
def homeByte (s : State) (pa : Nat) : Byte :=
  match find s.own (pa / 4) with
  | some c => (copyByte (s.core c) pa).getD (s.byte pa)
  | none => s.byte pa

/-- The slice of a core's own die at which it asks for a sealed line (R37). -/
def localSlice (core line : Nat) : Nat := core / 64 * 16 + homeOfLine line % 16

/-- The replica of a sealed line on a core's die, which counts as an L1 copy of that core; the home itself keeps none (R37, R189). -/
def replicaAt (s : State) (core line : Nat) : Option Replica :=
  if localSlice core line = homeOfLine line then none else find s.replicas (replicaKey (localSlice core line) line)

/-- A global byte for a read of a core that its store buffers do not give: its copy, its die's replica, or what the home serves (R173
sources 2 to 4). -/
def coreByte (s : State) (core pa : Nat) : Byte :=
  match copyByte (s.core core) pa with
  | some v => v
  | none =>
    match replicaAt s core (lineOf pa) with
    | some r => zget r.bytes (pa % 256)
    | none => homeByte s pa

/-- Bytes of memory as a home serves them, owners' words included (R39). -/
def homeBytes (s : State) (pa n : Nat) : List Byte := (List.range n).map (fun i => homeByte s (pa + i))

/-- The mask of the sectors that a mask of bytes, or of words, touches. -/
def sectorsOf (m : BitVec 256) : BitVec 4 := maskOf 4 ((List.range 4).filter (fun k => (m >>> (64 * k)).setWidth 64 != 0))
def wordSectors (m : BitVec 64) : BitVec 4 := maskOf 4 ((List.range 4).filter (fun k => (m >>> (16 * k)).setWidth 16 != 0))

/-! ### Ownership (R175 to R178) -/

/-- Writes an owned word to memory and clears its ownership; the copy becomes unowned (R177 EVICT). -/
def evictWord (s : State) (word : Nat) : State :=
  match find s.own word with
  | none => s
  | some c =>
    let l := (s.core c).line (word / 64)
    let bs := (List.range 4).map (fun i => (copyByte (s.core c) (word * 4 + i)).getD (s.byte (word * 4 + i)))
    let s1 := writeLive s (word * 4) bs l.arena l.gen
    let s2 := { s1 with own := del s1.own word }
    s2.updCore c (fun k => k.setLine (word / 64) { l with owned := l.owned &&& ~~~(maskOf 64 [word % 64]) })

/-- The words that a range of bytes touches. -/
def wordsOf (pa len : Nat) : List Nat := (List.range ((pa + len + 3) / 4 - pa / 4)).map (fun i => pa / 4 + i)

/-- Takes the words of a range back from their owners (R175, R176, R182). -/
def retake (s : State) (pa len : Nat) : State := (wordsOf pa len).foldl (fun t w => evictWord t w) s

/-- The home slices of the lines of a range are Active: work is present there (R23). -/
def wakeHomes (s : State) (pa len : Nat) : State :=
  (linePieces (len + 1) pa len).foldl (fun t p => wakeIf t (.slice (homeOfLine (lineOf p.1)))) s

/-- Writes bytes at their homes, retaking SC ownership first (R47, R53, R68). -/
def hwWrite (s : State) (pa : Nat) (bs : List Byte) : State :=
  wakeHomes (writeRange (retake s pa bs.length) pa bs) pa bs.length

/-- Removes the unowned SC words from a core's level-one cache (R178 SELFINV). -/
def selfInv (s : State) (core : Nat) : State :=
  s.updCore core (fun c => { c with l1 := c.l1.map (fun e =>
    if e.2.kind = 1 then
      (e.1, { e.2 with sectors := 0, held := maskOf 256 ((bitsOf e.2.held).filter (fun i => bit e.2.owned (i / 4))) })
    else e) })

/-- Writes the written bytes of a CP copy to memory and marks them unwritten (R177 CPWB); those of an older generation are discarded
(R167, R188). -/
def cpWriteBack (s : State) (core line : Nat) : State :=
  let l := (s.core core).line line
  if l.kind != 2 || l.written = 0 then s
  else
    let s1 := if staleAt s line l.arena l.gen then s
      else (bitsOf l.written).foldl (fun t i => writeLive t (line * 256 + i) [zget l.bytes i] l.arena l.gen) s
    s1.updCore core (fun c => c.setLine line { l with written := 0 })

def lowestFree (used : List Nat) (fuel k : Nat) : Nat :=
  match fuel with
  | 0 => k
  | f + 1 => if used.contains k then lowestFree used f (k + 1) else k

def missReqs (c : Core) : List Request := c.reqs.filter (fun r => decide (r.pkt.txn.toNat < 3072))

/-- A request keeps a line of the cache for its reply: one of a miss-status entry, or a lock operation that may be granted (R30). -/
def keepsLine (p : Packet) : Bool :=
  decide (p.txn.toNat < 3072) || (decide (p.op = 0x0A) && [0, 1, 7, 8].contains (fnat p.inl 7 0))

/-- A line is reserved while such a request about it awaits its reply (R30). -/
def lineAsked (c : Core) (line : Nat) : Bool := c.reqs.any (fun r => keepsLine r.pkt && decide (pktLine r.pkt = line))

/-- A line leaves the cache; one that is reserved keeps its way, and holds nothing. -/
def clearLine (c : Core) (line : Nat) : Core :=
  match find c.l1 line with
  | none => c
  | some l => if lineAsked c line then c.setLine line { L1Line.reset with way := l.way, used := l.used } else { c with l1 := del c.l1 line }

/-- A core writes back what it holds of a line and drops its copy (R43, R177). -/
def flushLine (s : State) (core line : Nat) : State :=
  match find (s.core core).l1 line with
  | none => s
  | some l =>
    let s1 := (bitsOf l.owned).foldl (fun t i => if find t.own (line * 64 + i) = some core then evictWord t (line * 64 + i) else t) s
    let s2 := cpWriteBack s1 core line
    s2.updCore core (fun c => clearLine c line)

/-! ### Miss-status entries and requests (R30, R152) -/

/-- A request takes an entry for each sector that it misses, and one where it misses none; a lock operation and a page flush have
storage of their own, with transaction numbers from 3,072 (R152, R331). -/
def entriesOf (r : Request) : Nat := if r.secs = 0 then 1 else popcount r.secs

def usedEntries (c : Core) : Nat := ((missReqs c).map entriesOf).sum

/-- So many miss-status entries are free. -/
def reqRoom (s : State) (core n : Nat) : Bool := decide (usedEntries (s.core core) + n ≤ 3072)

/-- A free transaction number: the one that the free choice names, or the lowest free one (R28; log entry 11). -/
def newTxn (s : State) (core : Nat) : Nat :=
  let used := (s.core core).reqs.map (fun r => r.pkt.txn.toNat)
  let t := Config.freeTxn s.tick % 3072
  if used.contains t then lowestFree used (used.length + 1) 0 else t

/-- Sends a request with its slack tag and notes it as awaiting its reply. -/
def sendNoted (s : State) (core : Nat) (r : Request) : State :=
  let q := { r.pkt with slack := slackTag r.pkt.src }
  send (s.updCore core (fun c => { c with reqs := c.reqs ++ [{ r with pkt := q }] })) q

/-- Sends the request of a miss. -/
def sendMiss (s : State) (core : Nat) (p : Packet) (secs : BitVec 4) (pref : Bool) : State :=
  sendNoted s core { pkt := p, acc := 0, secs := secs, pref := pref, refused := false, due := 0, invd := false }

/-- Sends a request that misses no sector, for an access of its group. -/
def sendFor (s : State) (core : Nat) (p : Packet) (acc : Nat) : State :=
  sendNoted s core { pkt := p, acc := acc, secs := 0, pref := false, refused := false, due := 0, invd := false }

/-- Sends a request that misses no sector and carries out no access. -/
def sendReq (s : State) (core : Nat) (p : Packet) : State := sendFor s core p 0

/-- A request's transaction has ended. -/
def endReq (s : State) (core txn : Nat) : State :=
  s.updCore core (fun c => { c with reqs := c.reqs.filter (fun r => decide (r.pkt.txn.toNat ≠ txn)) })

def findReq (s : State) (core txn : Nat) : Option Request :=
  (s.core core).reqs.find? (fun r => decide (r.pkt.txn.toNat = txn))

/-! ### Requests of copy engines and ports (R30, R38, R47, R153) -/

/-- Bytes of one line in their places, zero elsewhere. -/
def lineFor (pa : Nat) (bs : List Byte) : List Byte :=
  List.replicate (pa % 256) 0 ++ bs ++ List.replicate (256 - pa % 256 - bs.length) 0

/-- The packet as WRB of some bytes of one line: their mask in INLINE, and the sectors that they touch (R38). -/
def asWrb (p : Packet) (pa : Nat) (bs : List Byte) : Packet :=
  let m := byteMask pa bs.length
  withSectors { p with inl := m.setWidth 384 } (sectorsOf m) (lineFor pa bs)

/-- The transaction number of the writes of a copy slot. -/
def copyTxn (slot : Nat) : Nat := 3712 + slot

/-- The request is one of a copy engine, of a scratchpad or of a port, not of a group. -/
def engPkt (p : Packet) : Bool :=
  decide (24 ≤ p.src.toNat % 32) || ([0x02, 0x04].contains p.op && decide (3712 ≤ p.txn.toNat))

/-- A request of an engine is outstanding for a use. -/
def engBusy (s : State) (u : EngUse) : Bool := s.engReqs.any (fun r => decide (r.use = u))

/-- An engine sends a request under its transaction number, and keeps it until its reply. -/
def sendEng (s : State) (p : Packet) (u : EngUse) : State :=
  let q := { p with slack := slackTag p.src }
  send { s with engReqs := s.engReqs ++ [⟨q, none, false, u⟩] } q

/-- The transaction numbers that a stop uses. -/
def engTxns (s : State) (x : BitVec 7) : List Nat :=
  (s.engReqs.filter (fun r => decide (r.pkt.src = x) && !r.fresh)).map (fun r => r.pkt.txn.toNat)

/-- The lowest transaction number that a port's stop does not use, if it is one of 4,096. -/
def freeEng (s : State) (x : BitVec 7) : Option Nat :=
  let n := lowestFree (engTxns s x) 4097 0
  if n < 4096 then some n else none

/-- A port sends a request, or keeps it until a transaction number is free. -/
def sendPort (s : State) (p : Packet) (u : EngUse) : State :=
  match freeEng s p.src with
  | some n => sendEng s { p with txn := BitVec.ofNat 12 n } u
  | none => { s with engReqs := s.engReqs ++ [⟨p, some 0, true, u⟩] }

/-- A request of a stop to the home of an address. -/
def engHome (op : Nat) (x : BitVec 7) (pa core grp : Nat) : Packet := mkPkt 0 op x (homeStop (lineOf pa)) pa core grp 0

/-- A port writes bytes as WRB to the homes of their lines, each under the pair that its line carries (R47, R162). -/
def portWrbs (s : State) (port pa : Nat) (bs : List Byte) (u : EngUse) : State :=
  (linePieces (bs.length + 1) pa bs.length).foldl (fun t p =>
    let pr := linePair t (lineOf p.1)
    sendPort t (asWrb (withPair (engHome 0x04 (stopOfPort port) p.1 0 0) pr.1 pr.2 0) p.1 ((bs.drop (p.1 - pa)).take p.2)) u) s

/-- A port's write: the bytes are in memory, and its WRBs are under way (R47, R53; log entry 15). -/
def portWrite (s : State) (port pa : Nat) (bs : List Byte) (u : EngUse) : State := portWrbs (hwWrite s pa bs) port pa bs u

/-- The outstanding request that a reply to a stop answers. -/
def engOf (p : Packet) (r : EngReq) : Bool :=
  decide (r.pkt.src = p.dst) && decide (r.pkt.txn = p.txn) && decide (pktLine r.pkt = pktLine p) && decide (r.pkt.core = p.core) && !r.fresh

/-- A request that is to be sent now. -/
def engDue (s : State) (r : EngReq) : Bool := match r.due with | some d => decide (d ≤ s.loopClock) | none => false

/-- The requests of engines whose back-off has passed, or for which a transaction number is free, are sent (R40). -/
def settleEngines (s : State) : State :=
  (s.engReqs.filter (engDue s)).foldl (fun t r =>
    if r.fresh then
      match freeEng t r.pkt.src with
      | none => t
      | some _ => sendPort { t with engReqs := removeFirst (fun x => decide (x = r)) t.engReqs } r.pkt r.use
    else
      send { t with engReqs := replaceFirst (fun x => decide (x = r)) (fun x => { x with due := none }) t.engReqs } r.pkt) s

/-! ### Ways and victims (R147) -/

/-- The ways of a core's cache under its carve-out. -/
def l1Ways (scr : BitVec 3) : Nat :=
  match scr.toNat with
  | 0 => 16
  | 1 => 14
  | 2 => 12
  | 3 => 8
  | 4 => 4
  | _ => 2

/-- The lines of a line's set: the set is PA[14:8]. -/
def setLines (c : Core) (line : Nat) : Tbl L1Line := c.l1.filter (fun e => decide (e.1 % 128 = line % 128))

/-- Every way of a line's set is pinned. -/
def setPinned (c : Core) (line : Nat) : Bool := decide (l1Ways c.scr ≤ ((setLines c line).filter (fun e => e.2.pinned)).length)

/-- The lowest way of a set that no line stands in. -/
def freeWay (c : Core) (line : Nat) : Option Nat :=
  (List.range (l1Ways c.scr)).find? (fun w => !((setLines c line).any (fun e => decide (e.2.way = w))))

/-- The victim of a set: its least-recently-used line that is neither pinned nor reserved. -/
def wayVictim (c : Core) (line : Nat) : Option (Nat × L1Line) :=
  argmin (fun e => e.2.used) ((setLines c line).filter (fun e => !e.2.pinned && !(lineAsked c e.1)))

/-- The sectors of a copy that memory does not have: those of a written exclusive copy, of owned words and of written CP bytes. -/
def dirtySectors (l : L1Line) : BitVec 4 := l.dirty ||| wordSectors l.owned ||| sectorsOf l.written

/-- The bytes of a line as a core holds them. -/
def coreLine (s : State) (core line : Nat) : List Byte :=
  (List.range 256).map (fun i => (copyByte (s.core core) (line * 256 + i)).getD (homeByte s (line * 256 + i)))

/-- The notice that an eviction sends: EVD with the dirty sectors, EVC for a clean HC copy, none for another (R35, R37, R148). -/
def evictPkt (s : State) (core line : Nat) (l : L1Line) : Option Packet :=
  let p := fun (op : Nat) => withPair (toHome op line core 0 0) l.arena l.gen (if l.kind = 3 then 0 else l.kind)
  if dirtySectors l ≠ 0 then some (withSectors (p 0x06) (dirtySectors l) (coreLine s core line))
  else if decide (l.kind = 0) && decide (l.st ≠ 0) then some (p 0x05)
  else none

/-- A core evicts a line: what it holds goes to memory, and the notice to the home. -/
def evictLine (s : State) (core line : Nat) (l : L1Line) : State :=
  match evictPkt s core line l with
  | none => flushLine s core line
  | some p => sendReq (flushLine s core line) core { p with txn := BitVec.ofNat 12 (newTxn s core) }

/-- The entry of a line that is there, used now, or an empty one in a way. -/
def enterLine (s : State) (core line : Nat) : State :=
  s.updCore core (fun c =>
    match find c.l1 line with
    | some l => c.setLine line { l with used := s.tick }
    | none => c.setLine line { L1Line.reset with way := (freeWay c line).getD 0, used := s.tick })

/-- A line has or gets a way of its set, a victim evicted first: none where every way is pinned or reserved, or no entry is free for the
victim's notice (R30, R147). -/
def takeWay (s : State) (core line : Nat) : Option State :=
  let c := s.core core
  if (find c.l1 line).isSome || (freeWay c line).isSome then some (enterLine s core line)
  else
    match wayVictim c line with
    | none => none
    | some v =>
      if (evictPkt s core v.1 v.2).isSome && !(reqRoom s core 1) then none else some (enterLine (evictLine s core v.1 v.2) core line)

/-- An entry that holds nothing and awaits nothing leaves the cache. -/
def dropEmpty (s : State) (core line : Nat) : State :=
  s.updCore core (fun c =>
    match find c.l1 line with
    | some l => if decide (l.st = 0) && decide (l.held = 0) && !l.pinned && !(lineAsked c line) then { c with l1 := del c.l1 line } else c
    | none => c)

/-! ### Filling copies -/

/-- Notes bytes of a line in a core's level-one cache as held; REGN of the page, or 3 for a sealed line. -/
def holdBytes (c : Core) (kind : BitVec 2) (a : BitVec 12) (gn : BitVec 4) (pa : Nat) (bs : List Byte) : Core :=
  let l := c.line (lineOf pa)
  let m := maskOf 256 ((List.range bs.length).map (fun i => pa % 256 + i))
  c.setLine (lineOf pa) { l with
    kind := kind, bytes := zsetRun l.bytes (pa % 256) bs, held := (l.held ||| m), arena := a, gen := gn }

/-- Holds the bytes of a range that the core does not hold yet, as their home serves them, if the line has a way. -/
def holdFresh (s : State) (core : Nat) (kind : BitVec 2) (a : BitVec 12) (gn : BitVec 4) (base len : Nat) : State :=
  match takeWay s core (lineOf base) with
  | none => s
  | some t =>
    let fresh := (List.range len).filter (fun i => (copyByte (t.core core) (base + i)).isNone)
    t.setCore core (fresh.foldl (fun c i => holdBytes c kind a gn (base + i) [homeByte t (base + i)]) (t.core core))

/-- A load of an SC line that reaches source 3 or 4 places the words it reads as unowned (R173); a fill to a set with no way is not
kept (R147). -/
def placeLoad (s : State) (core : Nat) (a : Access) : State :=
  if a.scr || a.regn != 1 then s
  else
    let base := a.addr / 4 * 4
    holdFresh s core 1 a.arena a.gen base ((a.addr + a.size + 3) / 4 * 4 - base)

/-- Gives a core ownership of an SC word: another owner's value goes to memory first, the core's copy of the word is
filled from memory, and the word is marked owned (R175). -/
def ownWord (s : State) (core : Nat) (a : BitVec 12) (gn : BitVec 4) (word : Nat) : State :=
  if find s.own word = some core then s
  else
    let s1 := evictWord s word
    let s2 := { s1 with own := put s1.own word core }
    s2.updCore core (fun c =>
      let c1 := holdBytes c 1 a gn (word * 4) (s1.bytes (word * 4) 4)
      let l := c1.line (word / 64)
      c1.setLine (word / 64) { l with owned := l.owned ||| maskOf 64 [word % 64] })

/-! ### The coalescer's requests and the lookup (R151, R152) -/

/-- The words of a request for SC ownership that the core does not own. -/
def wordsLacking (s : State) (core : Nat) (k : LineAsk) : BitVec 64 :=
  maskOf 64 ((bitsOf k.words).filter (fun i => decide (find s.own (k.line * 64 + i) ≠ some core)))

/-- The sectors that a request misses: words not owned, a line not exclusive for a store to an HC line, else sectors not valid. -/
def missing (s : State) (core : Nat) (k : LineAsk) : BitVec 4 :=
  let l := (s.core core).line k.line
  if k.regn = 1 ∧ k.write then wordSectors (wordsLacking s core k)
  else if k.regn = 0 ∧ l.kind = 0 ∧ (if k.write then l.st ≠ 2 else l.st = 0) then k.secs
  else k.secs &&& ~~~l.sectors

/-- The sectors of a line that miss-status entries cover. -/
def coveredSectors (c : Core) (line : Nat) : BitVec 4 :=
  (missReqs c).foldl (fun m r => if pktLine r.pkt = line then m ||| r.secs else m) 0

/-- The message of a miss: RDS, RDX, UPG or OWNW; a sealed line is asked for at the slice of the core's own die (R37 to R39). -/
def missPkt (s : State) (core : Nat) (k : LineAsk) (secs : BitVec 4) : Packet :=
  let l := (s.core core).line k.line
  let p := fun (op : Nat) => { withPair (toHome op k.line core k.slot k.thr) k.arena k.gen k.regn with
    smask := secs, txn := BitVec.ofNat 12 (newTxn s core) }
  if aSealed (s.arena k.arena.toNat) then { p 0x01 with dst := stopOfSlice (localSlice core k.line) }
  else if !k.write then p 0x01
  else if k.regn = 1 then { p 0x07 with inl := (wordsLacking s core k).setWidth 384 }
  else if k.regn = 0 ∧ l.st = 1 ∧ k.secs &&& ~~~l.sectors = 0 then p 0x03
  else p 0x02

/-- What a lookup ends in: a hit, or a miss whose request is sent; a join of entries that others have taken; or a wait for entries, for
a way, or for another request about the line. -/
inductive Lookup where
  | done (s : State)
  | joined (s : State)
  | waits
  deriving Repr

/-- A request about a line waits for another one about it: an eviction's notice, or one that either of them makes exclusively. -/
def lineBusy (c : Core) (k : LineAsk) : Bool :=
  (missReqs c).any (fun r => decide (pktLine r.pkt = k.line) && (k.write || decide (r.pkt.op ≠ 0x01)))

/-- The line that a miss reserves: its own, a way that it takes, or none where every way is pinned (R30, R147). -/
def reserveLine (s : State) (core line : Nat) : Option State :=
  if setPinned (s.core core) line && (find (s.core core).l1 line).isNone then some s else takeWay s core line

/-- The lookup of a request. All the entries that its missing sectors need are taken at once; a sector that has an entry joins it; a
prefetch that finds too few is dropped, and a store to a set whose ways are all pinned asks for nothing (R147, R152, R288). -/
def lookup (s : State) (core : Nat) (k : LineAsk) : Lookup :=
  let miss := missing s core k
  let new := miss &&& ~~~(coveredSectors (s.core core) k.line)
  if miss = 0 then .done (enterLine s core k.line)
  else if k.write && setPinned (s.core core) k.line && (find (s.core core).l1 k.line).isNone then .done s
  else if new = 0 then .joined s
  else if !(reqRoom s core (popcount new)) then (if k.pref then .done s else .waits)
  else if lineBusy (s.core core) k then .waits
  else
    match reserveLine s core k.line with
    | none => .waits
    | some t =>
      if !(reqRoom t core (popcount new)) then .waits
      else
        let u := sendMiss t core (missPkt t core k new) new k.pref
        if miss = new then .done u else .joined u

/-- The requests of a core in their order; those behind one that waits, of the same instruction, wait with it (R151, R152). -/
def runAsks (s : State) (core : Nat) (blocked : List (Nat × Nat)) (l : List LineAsk) : State × List LineAsk :=
  match l with
  | [] => (s, [])
  | k :: r =>
    if blocked.contains (k.slot, k.op) then let v := runAsks s core blocked r; (v.1, k :: v.2)
    else
      match lookup s core k with
      | .done t => runAsks t core blocked r
      | .joined t => let v := runAsks t core blocked r; (v.1, k :: v.2)
      | .waits => let v := runAsks s core ((k.slot, k.op) :: blocked) r; (v.1, k :: v.2)

/-- The lookups of a core. -/
def settleAsks (s : State) (core : Nat) : State :=
  if (s.core core).asks.isEmpty then s
  else
    let v := runAsks s core [] (s.core core).asks
    v.1.updCore core (fun c => { c with asks := v.2 })

/-- Adds a request of a thread's access to those of its instruction: one for each line, in the order in which the threads, in ascending
order, first touch them (R151). -/
def coalesce (k : LineAsk) (l : List LineAsk) : List LineAsk :=
  match l with
  | [] => [k]
  | x :: r => if x.line = k.line then { x with secs := x.secs ||| k.secs, words := x.words ||| k.words } :: r else x :: coalesce k r

/-- Requests wait for their lookups, in order (R151). -/
def addAsks (s : State) (core : Nat) (l : List LineAsk) : State :=
  if l.isEmpty then s else s.updCore core (fun c => { c with asks := c.asks ++ l })

/-- A reply serves the requests that wait for its sectors: reads by any, stores by an exclusive one (R40 item 5, R147). -/
def serveAsks (s : State) (core line : Nat) (secs : BitVec 4) (excl : Bool) : State :=
  s.updCore core (fun c => { c with asks := c.asks.filter (fun k =>
    !(decide (k.line = line) && (excl || !k.write) && decide (missing s core k &&& ~~~secs = 0))) })

/-! ### Stores (R175) -/

/-- The core owns every word of a range. -/
def ownsWords (s : State) (core pa len : Nat) : Bool := (wordsOf pa len).all (fun w => decide (find s.own w = some core))

/-- A store that misses in a set whose ways are all pinned is written through (R147). -/
def writesThrough (s : State) (core : Nat) (a : Access) : Bool :=
  setPinned (s.core core) (lineOf a.addr) && (find (s.core core).l1 (lineOf a.addr)).isNone

/-- A store may drain: an SC word once the core owns it, which is OWNREG, and a CP byte once its line has a way (R175; R147). -/
def storeReady (s : State) (core : Nat) (a : Access) : Option State :=
  if a.regn = 1 then (if ownsWords s core a.addr a.size then some s else none)
  else if a.regn = 2 then takeWay s core (lineOf a.addr)
  else some s

/-- The request of a thread's access of some bytes at an address. -/
def askFor (slot op thr pa size : Nat) (write pref : Bool) (a : BitVec 12) (g : BitVec 4) (r : BitVec 2) : LineAsk :=
  { slot := slot, op := op, thr := thr, line := lineOf pa, secs := maskOf 4 [pa % 256 / 64]
    words := if write && decide (r = 1) then maskOf 64 ((wordsOf pa size).map (fun w => w % 64)) else 0
    write := write, pref := pref, arena := a, gen := g, regn := r }

/-- A store to an SC line whose words the core does not own asks for them, unless a request about the line is under way (R39). -/
def askOwned (s : State) (core slot : Nat) (a : Access) : State :=
  if decide (a.regn ≠ 1) || lineAsked (s.core core) (lineOf a.addr) || (s.core core).asks.any (fun k => decide (k.line = lineOf a.addr)) then s
  else addAsks s core [askFor slot a.op a.thr a.addr a.size true false a.arena a.gen 1]

/-- An exclusive copy of an HC line has a dirty sector. -/
def markDirty (s : State) (core pa : Nat) : State :=
  let l := (s.core core).line (lineOf pa)
  if decide (l.st = 2) && decide (l.kind = 0) then
    s.updCore core (fun c => c.setLine (lineOf pa) { l with dirty := l.dirty ||| maskOf 4 [pa % 256 / 64] })
  else s

/-- Performs a global store: HC memory, an owned SC word, or the written bytes of a CP copy (R175). -/
def storeGlobal (s : State) (core : Nat) (a : Access) : State :=
  let bs := toBytes a.val a.size
  if a.regn = 1 then
    let s1 := (wordsOf a.addr a.size).foldl (fun t w => ownWord t core a.arena a.gen w) s
    s1.updCore core (fun c => holdBytes c 1 a.arena a.gen a.addr bs)
  else if a.regn = 2 then
    s.updCore core (fun c =>
      let c1 := holdBytes c 2 a.arena a.gen a.addr bs
      let l := c1.line (lineOf a.addr)
      c1.setLine (lineOf a.addr)
        { l with written := l.written ||| maskOf 256 ((List.range a.size).map (fun i => a.addr % 256 + i)) })
  else markDirty (writeLive s a.addr bs a.arena a.gen) core a.addr

end Sys2Proof.Machine
end

