-- ==== Sys2Proof/Machine/Regs.lean ====
section
/-! DEFINITION. The register files of a group: codes, classes, reads and writes (R4, R107, R219 to R221). -/
namespace Sys2Proof.Machine

/-! ### Register codes (R219) -/

def isVec (r : BitVec 8) : Bool := decide (r.toNat < 160)
def isScal (r : BitVec 8) : Bool := decide (160 ≤ r.toNat) && decide (r.toNat < 224)
def isPred (r : BitVec 8) : Bool := decide (224 ≤ r.toNat) && decide (r.toNat < 232)
def isSpec (r : BitVec 8) : Bool := decide (232 ≤ r.toNat) && decide (r.toNat < 240)
/-- %tid, which a uniform instruction may not read (R220). -/
def isTid (r : BitVec 8) : Bool := r = 233
/-- %zero. -/
def isZero (r : BitVec 8) : Bool := r = 232
/-- A scalar, or a special value other than %tid (R221). -/
def isUni (r : BitVec 8) : Bool := isScal r || (isSpec r && !(isTid r))
/-- A vector, a scalar or a special value. -/
def isSrc (r : BitVec 8) : Bool := isVec r || isScal r || isSpec r
def scalNo (r : BitVec 8) : Nat := r.toNat - 160
def predNo (r : BitVec 8) : Nat := r.toNat - 224
/-- An operand of `n` registers starts at a code divisible by `n` (R221). -/
def alignedTo (n : Nat) (r : BitVec 8) : Bool := decide (r.toNat % n = 0)
def isScalPair (r : BitVec 8) : Bool := isScal r && alignedTo 2 r
def isVecPair (r : BitVec 8) : Bool := isVec r && alignedTo 2 r
/-- `n` consecutive codes from `r`. -/
def runOf (r : BitVec 8) (n : Nat) : List (BitVec 8) := (List.range n).map (fun i => r + BitVec.ofNat 8 i)

/-- The extended slot of a vector register, if it has one (R107). -/
def slotOf (r : BitVec 8) : Option Nat := if 32 ≤ r.toNat ∧ r.toNat < 160 then some ((r.toNat - 32) / 16) else none

/-- The group holds every extended slot that a register needs (R107). -/
def heldReg (g : Group) (r : BitVec 8) : Bool :=
  match slotOf r with
  | none => true
  | some k => bit g.xheld k

/-! ### The files -/

def Group.vec (g : Group) (n t : Nat) : Word := zget g.vectors (64 * n + t)
def Group.setVec (g : Group) (n t : Nat) (v : Word) : Group := { g with vectors := zset g.vectors (64 * n + t) v }
def Group.scal (g : Group) (n : Nat) : Word := zget g.scalars n
def Group.setScal (g : Group) (n : Nat) (v : Word) : Group := { g with scalars := zset g.scalars n v }
def Group.pred (g : Group) (n : Nat) : BitVec 64 := zget g.preds n
def Group.setPred (g : Group) (n : Nat) (v : BitVec 64) : Group := { g with preds := zset g.preds n v }

/-- A scalar named by its code. -/
def Group.s (g : Group) (r : BitVec 8) : Word := g.scal (scalNo r)
/-- A scalar pair named by the code of its low register (R214, R221). -/
def Group.s64 (g : Group) (r : BitVec 8) : BitVec 64 := (g.scal (scalNo r + 1) ++ g.scal (scalNo r) : BitVec (32 + 32))

/-- The threads that take part in an instruction that observes GUARD (R223). -/
def narrowed (g : Group) : BitVec 64 :=
  let code := fnat g.mode 31 28
  if code = 0 then g.amask
  else if code < 8 then g.amask &&& ~~~(g.pred code)
  else g.amask &&& g.pred (code - 8)

/-- The threads whose guard test holds (R223, R260); every thread under GUARD 0. -/
def guardMask (g : Group) : BitVec 64 :=
  let code := fnat g.mode 31 28
  if code = 0 then BitVec.allOnes 64 else if code < 8 then ~~~(g.pred code) else g.pred (code - 8)

/-- What a special value gives to thread `t` (R220): the core, the group, the clock and the group's active mask. -/
def specVal (core slot : Nat) (clk : BitVec 64) (g : Group) (r : BitVec 8) (t : Nat) : Word :=
  match r.toNat with
  | 233 => BitVec.ofNat 32 t
  | 234 => BitVec.ofNat 32 slot
  | 235 => BitVec.ofNat 32 g.herdIdx
  | 236 => BitVec.ofNat 32 core
  | 237 => clk.setWidth 32
  | 238 => BitVec.ofNat 32 (popcount g.amask)
  | 239 =>
    maskOf 32 (((bitsOf g.amask).filter (fun u => decide (u < t) && decide (u / 32 = t / 32))).map (fun u => u % 32))
  | _ => 0

/-- What a special value gives to a uniform instruction (R220). -/
def specUni (core slot : Nat) (clk : BitVec 64) (g : Group) (r : BitVec 8) : Word :=
  if r = 239 then g.amask.setWidth 32 else specVal core slot clk g r 0

/-- A halt that watch predicates ask for: the threads withheld, the widest scope, and the first predicate and thread
(R345, R346). -/
structure Hit where
  held  : BitVec 64
  scope : Nat
  wp    : Nat
  thr   : Nat
  deriving DecidableEq, Repr

/-- What an instruction reads at its start (R97): where it runs, the clock, the registers, the threads that take part,
and the halt that a predicate on the PC asks for. -/
structure Ctx where
  core : Nat
  slot : Nat
  clk  : BitVec 64
  src  : Group
  act  : BitVec 64
  hit  : Option Hit
  deriving DecidableEq, Repr

/-- An operand of thread `t` in a lane instruction (R219, R220): a predicate gives 0 or 1 (R258). -/
def Ctx.lane (x : Ctx) (r : BitVec 8) (t : Nat) : Word :=
  if isVec r then x.src.vec r.toNat t
  else if isScal r then x.src.s r
  else if isPred r then (if bit (x.src.pred (predNo r)) t then 1 else 0)
  else specVal x.core x.slot x.clk x.src r t

/-- An operand of a uniform instruction. -/
def Ctx.uni (x : Ctx) (r : BitVec 8) : Word :=
  if isScal r then x.src.s r else specUni x.core x.slot x.clk x.src r

/-- The lowest thread that takes part (R414). -/
def Ctx.low (x : Ctx) : Nat := lowest x.act

/-- Writes one thread's result register: a vector register of the group. -/
def writeLane (g : Group) (d : BitVec 8) (t : Nat) (v : Word) : Group :=
  match slotOf d with
  | none => g.setVec d.toNat t v
  | some k => if bit g.xheld k then g.setVec d.toNat t v else g

/-- Writes a list of thread results to a vector register. -/
def writeLanes (g : Group) (d : BitVec 8) (vs : List (Nat × Word)) : Group :=
  match vs with
  | [] => g
  | (t, v) :: r => writeLanes (writeLane g d t v) d r

def writeScal (g : Group) (d : BitVec 8) (v : Word) : Group := g.setScal (scalNo d) v

/-- Writes a scalar pair, the low register holding bits 31:0. -/
def writeScal64 (g : Group) (d : BitVec 8) (v : BitVec 64) : Group :=
  (g.setScal (scalNo d) (v.setWidth 32)).setScal (scalNo d + 1) (v.extractLsb' 32 32)

/-- Writes predicate bits of the threads in a mask and keeps the others. -/
def writePred (g : Group) (d : BitVec 8) (m v : BitVec 64) : Group :=
  g.setPred (predNo d) ((g.pred (predNo d) &&& ~~~m) ||| (v &&& m))

end Sys2Proof.Machine
end

