-- ==== Sys2Proof/Machine/Access.lean ====
section
/-! DEFINITION. Accesses under the ordering machine: which may be performed, what a load reads,
barrier objects and the five counters (R157, R170 to R190). -/
namespace Sys2Proof.Machine

/-- An access with nothing set. -/
def Access.zero : Access :=
  { id := 0, op := 0, kind := .load, scr := false, addr := 0, size := 1, thr := 0, val := 0, cmp := 0, dst := [],
    pred := none, uni := false, arena := 0, gen := 0, regn := 0, va := 0, acq := false, rel := false, sent := false,
    perf := false, mask := 0, mail := false, words := [], pc := 0, step := false, born := 0 }

/-! ### Ordering within a group (R179) -/

def Access.overlaps (a b : Access) : Bool :=
  decide (a.scr = b.scr) && decide (a.addr < b.addr + b.size) && decide (b.addr < a.addr + a.size)

def isFence (a : Access) : Bool :=
  match a.kind with
  | .fence _ _ => true
  | _ => false

def isLoadLike (a : Access) : Bool :=
  match a.kind with
  | .load => true
  | .atomic _ => true
  | .pop _ => true
  | _ => false

def isStoreLike (a : Access) : Bool :=
  match a.kind with
  | .load => false
  | .pop _ => false
  | .fence _ _ => false
  | _ => true

/-- A store that a younger load of the same group reads through the store buffer (R173 source 1; log entry 14). -/
def forwards (older younger : Access) : Bool :=
  decide (older.kind = .store) && !older.sent && decide (younger.kind = .load)

/-- An older fence stands between two accesses and orders them (R179 rules 4 to 6). -/
def fenced (l : List Access) (older younger : Access) : Bool :=
  l.any (fun m =>
    decide (older.id < m.id) && decide (m.id < younger.id) &&
    match m.kind with
    | .fence true true => true
    | .fence true false => isLoadLike older && isLoadLike younger
    | .fence false true => isStoreLike younger
    | _ => false)

/-- The older access holds back the younger one (R179). -/
def holdsBack (l : List Access) (older younger : Access) : Bool :=
  !(isFence older) && !older.perf &&
  ((older.overlaps younger && !(forwards older younger)) || older.acq || younger.rel || fenced l older younger)

/-- The ordering rules allow the access to be performed (R179). -/
def mayPerform (l : List Access) (a : Access) : Bool :=
  l.all (fun b => decide (a.id ≤ b.id) || !(holdsBack l b a))

/-- Drops the fences that no older access precedes and whose SELFINV has been made; they order nothing any more. -/
def dropFences (l : List Access) : List Access :=
  match l with
  | [] => []
  | a :: r => if isFence a && a.perf then dropFences r else a :: r

/-! ### Counters (R183) -/

def dropDone (l : List ClassOp) : List ClassOp :=
  match l with
  | [] => []
  | o :: r => if o.left = 0 then dropDone r else o :: r

/-- Counts off one part of an operation; the list shrinks from its old end only (R183). -/
def countOff (l : List ClassOp) (op : Nat) : List ClassOp :=
  dropDone (l.map (fun o => if o.id = op then { o with left := o.left - 1 } else o))

def Group.countLd (g : Group) (op : Nat) : Group := { g with ld := countOff g.ld op }
def Group.countSt (g : Group) (op : Nat) : Group := { g with st := countOff g.st op }
def Group.countCp (g : Group) (op : Nat) : Group := { g with cp := countOff g.cp op }
def Group.countMx (g : Group) (op : Nat) : Group := { g with mx := countOff g.mx op }
def Group.countQx (g : Group) (op : Nat) : Group := { g with qx := countOff g.qx op }

/-- Counts an access off its class: ld for loads, atomics and DEQ, st for the others (R183). -/
def countAccess (g : Group) (a : Access) : Group :=
  if isLoadLike a then g.countLd a.op else g.countSt a.op

/-- The number of outstanding operations of a class: 0 ld, 1 st, 2 cp, 3 mx, 4 qx (R299). -/
def Group.count (g : Group) (cls : Nat) : Nat :=
  match cls with
  | 0 => g.ld.length
  | 1 => g.st.length
  | 2 => g.cp.length
  | 3 => g.mx.length
  | _ => g.qx.length

/-- Every counter is zero (R78, R360). -/
def Group.quiet (g : Group) : Bool :=
  g.ld.isEmpty && g.st.isEmpty && g.cp.isEmpty && g.mx.isEmpty && g.qx.isEmpty

/-- Removes a performed access, with the fences and scoreboard bits that it alone kept (R103). -/
def dropAccess (g : Group) (a : Access) : Group :=
  let l := dropFences (g.accs.filter (fun b => decide (b.id ≠ a.id)))
  let rest := l.any (fun b => decide (b.op = a.op))
  { g with accs := l, score := if rest then g.score else g.score.filter (fun e => decide (e.1 ≠ a.op)) }

/-! ### What a load reads (R173) -/

/-- The youngest entry of the group's own store buffer, older than an access, that covers a byte. -/
def ownStore (g : Group) (id : Nat) (scr : Bool) (at_ : Nat) : Option Access :=
  (g.accs.filter (fun b => decide (b.id < id) && decide (b.kind = .store) && !b.sent && decide (b.scr = scr) &&
    decide (b.addr ≤ at_) && decide (at_ < b.addr + b.size))).getLast?

/-- A global byte for a group's load (R173). -/
def loadByte (s : State) (core : Nat) (g : Group) (id pa : Nat) : Byte :=
  match ownStore g id false pa with
  | some b => b.val.extractLsb' (8 * (pa - b.addr)) 8
  | none => coreByte s core pa

/-- A scratchpad byte for a group's load (R173). -/
def loadScr (sc : Scratch) (g : Group) (id o : Nat) : Byte :=
  match ownStore g id true o with
  | some b => b.val.extractLsb' (8 * (o - b.addr)) 8
  | none => zget sc.image o

/-! ### Barrier objects (R156 to R158) -/

def barBexp (b : BitVec 128) : Nat := fnat b 127 96
def barBgot (b : BitVec 128) : Nat := fnat b 95 64
def barTexp (b : BitVec 128) : Nat := fnat b 63 47
def barTgot (b : BitVec 128) : Nat := fnat b 46 30
def barPhase (b : BitVec 128) : Nat := fnat b 29 14

/-- The completion test of R157. -/
def barComplete (b : BitVec 128) : BitVec 128 :=
  if barTgot b = barTexp b ∧ barBgot b = barBexp b then
    let b1 := setBit (setBit b 12 (bit b 13)) 13 false
    fput (fput (fput b1 46 30 0) 95 64 0) 29 14 (barPhase b + 1)
  else b

/-- A credit of `t` arrivals and `n` bytes, with the POISON flag `p` (R157). -/
def barCredit (b : BitVec 128) (t n : Nat) (p : Bool) : BitVec 128 :=
  let clip := decide (barTexp b < barTgot b + t) || decide (barBexp b < barBgot b + n)
  let b1 := fput (fput b 46 30 (Nat.min (barTgot b + t) (barTexp b))) 95 64 (Nat.min (barBgot b + n) (barBexp b))
  let b2 := if clip then setBit b1 11 true else b1
  barComplete (if p then setBit b2 13 true else b2)

/-- The barrier that BARINIT writes (R297); a TEXP above 65,536 is taken as 65,536. -/
def barInit (bexp texp : Nat) : BitVec 128 := fput (fput 0 127 96 bexp) 63 47 (Nat.min texp 65536)

/-- The step of BAREXP (R297). -/
def barExpect (b : BitVec 128) (bexp texp : Nat) : BitVec 128 :=
  let t := Nat.min texp 65536
  let clip := decide (t < barTgot b) || decide (bexp < barBgot b)
  let b1 := fput (fput b 127 96 bexp) 63 47 t
  let b2 := fput (fput b1 46 30 (Nat.min (barTgot b) t)) 95 64 (Nat.min (barBgot b) bexp)
  barComplete (if clip then setBit b2 11 true else b2)

/-- A wait for phase `p` has ended, with its status: 0 OK, 1 POISON, 2 OLD (R158). -/
def barWait (b : BitVec 128) (p : Nat) : Option Nat :=
  let d := (barPhase b + 65536 - p) % 65536
  if d = 0 ∨ 32767 < d then none
  else if d = 1 then some (if bit b 12 then 1 else 0) else some 2

/-- The barrier operation of an access on a barrier's value (R157, R297): the value field holds BEXP or bytes in bits
31:0 and TEXP in bits 63:32. -/
def barApply (k : AccKind) (v : BitVec 128) (p : Bool) (b : BitVec 128) : BitVec 128 :=
  match k with
  | .barInit => barInit (fnat v 31 0) (fnat v 63 32)
  | .barArr n => barCredit b n (fnat v 31 0) p
  | .barExp => barExpect b (fnat v 31 0) (fnat v 63 32)
  | _ => b

/-! ### Scratchpads (R149, R287) -/

def Core.scratchOf (c : Core) (inst : Nat) : Scratch := (find c.scratch inst).getD Scratch.reset
def Core.setScratch (c : Core) (inst : Nat) (v : Scratch) : Core := { c with scratch := put c.scratch inst v }

/-- The scratchpad of the instance of a core's group. -/
def scratchFor (s : State) (core slot : Nat) : Scratch := (s.core core).scratchOf (s.group core slot).inst

/-- Writes a scratchpad image. -/
def writeScratch (s : State) (core inst o : Nat) (bs : List Byte) : State :=
  s.updCore core (fun c =>
    let sc := c.scratchOf inst
    c.setScratch inst { sc with image := zsetRun sc.image o bs })

def readScratch (s : State) (core inst o n : Nat) : List Byte :=
  let sc := (s.core core).scratchOf inst
  (List.range n).map (fun i => zget sc.image (o + i))

/-- Applies a barrier operation to a scratchpad barrier, as one action of the scratchpad unit (R157). -/
def scratchBarrier (s : State) (core inst o : Nat) (k : AccKind) (v : BitVec 128) (p : Bool) : State :=
  let b : BitVec 128 := ofBytes 128 (readScratch s core inst o 16)
  writeScratch s core inst o (toBytes (barApply k v p b) 16)

/-- Applies a barrier operation to a global barrier at its home (R157, R176). -/
def globalBarrier (s : State) (pa : Nat) (k : AccKind) (v : BitVec 128) (p : Bool) (a : BitVec 12) (g : BitVec 4) :
    State :=
  let s1 := retake s pa 16
  let b : BitVec 128 := ofBytes 128 (s1.bytes pa 16)
  writeLive s1 pa (toBytes (barApply k v p b) 16) a g

/-! ### Locked lines (R190) -/

/-- An access of the group to the line is held because another group holds the line's lock: the holder is known by its place and
by its SAVE value, since a stopped holder keeps its lock (R329, R338). -/
def heldByOther (s : State) (core slot line : Nat) : Bool :=
  match find s.locks line with
  | some e => e.hvalid && !(decide (e.hcore = core) && decide (e.hgrp = slot) && decide (e.hown = (s.group core slot).save))
  | none => false

/-- A read of the group at a physical address may not be made yet: its older accesses come first (R112, R179), or another group holds
one of its lines locked (R190). -/
def readHeld (s : State) (core slot : Nat) (g : Group) (pa size : Nat) : Bool :=
  !(mayPerform g.accs { Access.zero with id := g.nextAcc, addr := pa, size := size }) ||
  (List.range ((pa + size + 255) / 256 - pa / 256)).any (fun i => heldByOther s core slot (pa / 256 + i))

/-- An engine's or a port's access to the line is held (R335). -/
def heldLine (s : State) (line : Nat) : Bool := isLocked s line

end Sys2Proof.Machine
end

