-- ==== Sys2Proof/Machine/HostOps.lean ====
section
/-! DEFINITION. Coltos sessions, sequence numbers, replies and the retransmit ring, records of record mode, and the
idempotency cache (R48 to R54, R60, R61, R64, R65). -/
namespace Sys2Proof.Machine

/-! ### Status codes (R54) -/

def stOK : Nat := 0
def stBADCMD : Nat := 1
def stBADARG : Nat := 2
def stBUSY : Nat := 3
def stSTATE : Nat := 4
def stDUP : Nat := 5
def stGAP : Nat := 6
def stNOSESS : Nat := 7
def stNOMBX : Nat := 8
def stREPLAYING : Nat := 9
def stFAULT : Nat := 10
def stIMGFORMAT : Nat := 11
def stKEYHASH : Nat := 12
def stSIGRSA : Nat := 13
def stSIGSLH : Nat := 14
def stREFUSED : Nat := 15
def stDIVERGED : Nat := 16
def stOVERFLOW : Nat := 17
def stBISTFAIL : Nat := 18
def stCHANFAIL : Nat := 19
def stPUFFAIL : Nat := 20

/-! ### Messages (R49) -/

/-- A message with a command, a session, an address to send it to, and nothing else. -/
def mkMsg (cmd sess stat port ep : Nat) : Msg :=
  { seq := 0, ackseq := 0, cmd := BitVec.ofNat 8 cmd, flags := 0, sess := BitVec.ofNat 8 sess, stat := BitVec.ofNat 8 stat
    rseq := 0, len := 0, arg0 := 0, arg1 := 0, payload := [], port := port, ep := ep }

/-- The message with a payload. -/
def withPayload (m : Msg) (bs : List Byte) : Msg := { m with len := BitVec.ofNat 16 bs.length, payload := bs }

/-- The 32 bytes of a header (R49). -/
def headerBytes (m : Msg) : List Byte :=
  toBytes (m.seq ++ m.ackseq ++ m.cmd ++ m.flags ++ m.sess ++ m.stat ++ m.rseq ++ m.len ++ m.arg0 ++ m.arg1 :
    BitVec (32 + 32 + 8 + 8 + 8 + 8 + 32 + 16 + 64 + 48)) 32

/-- A whole message as bytes. -/
def msgBytes (m : Msg) : List Byte := headerBytes m ++ m.payload

/-- The message that 32 header bytes and a payload hold, arriving by a port from an endpoint. -/
def msgOf (bs : List Byte) (port ep : Nat) : Msg :=
  let h : BitVec 256 := ofBytes 256 (bs.take 32)
  { seq := h.extractLsb' 224 32, ackseq := h.extractLsb' 192 32, cmd := h.extractLsb' 184 8, flags := h.extractLsb' 176 8
    sess := h.extractLsb' 168 8, stat := h.extractLsb' 160 8, rseq := h.extractLsb' 128 32, len := h.extractLsb' 112 16
    arg0 := h.extractLsb' 48 64, arg1 := h.extractLsb' 0 48, payload := bs.drop 32, port := port, ep := ep }

/-! ### Sequence numbers (R50) -/

/-- The successor of a sequence number. -/
def seqSucc (x : BitVec 32) : BitVec 32 := if x = 0xFFFFFFFF then 1 else x + 1

/-- The distance from one sequence number to another. -/
def seqDist (x y : BitVec 32) : Nat :=
  let n := 2 ^ 32 - 1
  let x0 := if x = 0 then n else x.toNat
  (y.toNat + n - x0) % n

/-! ### Sending -/

def State.session (s : State) (n : Nat) : Session := (find s.sessions n).getD Session.reset
def setSession (s : State) (n : Nat) (x : Session) : State := { s with sessions := put s.sessions n x }

/-- Sends a message on a port to an endpoint. -/
def sendMsg (s : State) (m : Msg) : State := { s with outbox := s.outbox ++ [⟨m.port, m.ep, m⟩] }

/-- Sends an unsequenced message of a session (R52). -/
def sendPlain (s : State) (m : Msg) : State :=
  let x := s.session m.sess.toNat
  sendMsg s { m with seq := 0, ackseq := if x.opened then x.lacc else 0 }

/-- Sends a sequenced message of a session: it takes the next SEQ and enters the retransmit ring, which keeps the last 256 (R50, R52). -/
def sendSeq (s : State) (n : Nat) (m : Msg) : State :=
  let x := s.session n
  let q := seqSucc x.lsent
  let m1 := { m with seq := q, ackseq := x.lacc, sess := BitVec.ofNat 8 n }
  sendMsg (setSession s n { x with lsent := q, ring := (x.ring ++ [m1]).drop (x.ring.length + 1 - 256) }) m1

/-- The reply to a message: its command with the REPLY flag, its session and its SEQ in RSEQ (R49). -/
def replyTo (m : Msg) (stat arg0 : Nat) (payload : List Byte) : Msg :=
  withPayload { mkMsg m.cmd.toNat m.sess.toNat stat m.port m.ep with
    flags := 1, rseq := m.seq, arg0 := BitVec.ofNat 64 arg0 } payload

/-- An unsequenced reply or refusal (R50, R52). -/
def answerPlain (s : State) (m : Msg) (stat arg0 : Nat) (payload : List Byte) : State :=
  sendPlain s (replyTo m stat arg0 payload)

/-- Takes in an ACKSEQ: the highest one received, and the messages that it frees (R52). -/
def takeAck (x : Session) (a : BitVec 32) : Session :=
  let newer := a != 0 && decide (0 < seqDist x.ackrx a) && decide (seqDist x.ackrx a < 2 ^ 31)
  let top := if newer then a else x.ackrx
  { x with
    ackrx := top
    ring := x.ring.filter (fun m => top = 0 || (decide (0 < seqDist top m.seq) && decide (seqDist top m.seq < 2 ^ 31))) }

/-- The session executes no further command while its ring is full (R52). -/
def ringFull (x : Session) : Bool := decide (256 ≤ x.ring.length)

/-! ### Records (R64, R65) -/

/-- The body padded to a multiple of 32 bytes. -/
def padBody (bs : List Byte) : List Byte := bs ++ List.replicate ((32 - bs.length % 32) % 32) 0

/-- A record's bytes. LEN has 16 bits: a longer body, which only a remote write can have, is recorded with LEN modulo 2^16 (DESIGN CHOICE,
log entry 82). -/
def recordBytes (ord : BitVec 64) (kind sess port : Nat) (seq : BitVec 32) (addr : Nat) (body : List Byte) : List Byte :=
  toBytes (ord ++ BitVec.ofNat 8 kind ++ BitVec.ofNat 8 sess ++ BitVec.ofNat 8 port ++ seq ++ BitVec.ofNat 16 body.length ++
    BitVec.ofNat 38 addr ++ 0#82 : BitVec (64 + 8 + 8 + 8 + 32 + 16 + 38 + 82)) 32 ++ padBody body

/-- Appends a record in record mode; when it does not fit, recording stops (R64). -/
def appendRecord (s : State) (kind sess port : Nat) (seq : BitVec 32) (addr : Nat) (body : List Byte) : State :=
  let r := s.recorder
  if r.mode != 1 then s
  else
    let bs := recordBytes r.ord kind sess port seq addr body
    if r.used + bs.length ≤ r.size then
      hwWrite { s with recorder := { r with used := r.used + bs.length, ord := r.ord + 1, count := r.count + 1 } }
        (r.base + r.used) bs
    else { s with recorder := { r with mode := 3, unrec := r.ord } }

/-- The commands that record mode exempts: STATUS, RESEND, RESET, MEMRD, QUERY, ATTEST and RECCTL (R64). -/
def exempt (cmd : Nat) : Bool := [0x01, 0x02, 0x04, 0x06, 0x0E, 0x0F, 0x10].contains cmd

/-! ### Replay (R66) -/

/-- A record of the ring that is replayed. -/
structure ReplayRec where
  kind : Nat
  port : Nat
  len  : Nat
  addr : Nat
  body : List Byte
  deriving DecidableEq, Repr

/-- The next record to apply. -/
def nextRecord (s : State) : ReplayRec :=
  let at_ := s.recorder.base + s.recorder.used
  let h : BitVec 256 := ofBytes 256 (homeBytes s at_ 32)
  let n := fnat h 135 120
  { kind := fnat h 191 184, port := fnat h 175 168, len := n, addr := fnat h 119 82, body := homeBytes s (at_ + 32) n }

/-- A record has been applied and is complete: the next one stands after its padding; after the last one the mode is off. -/
def recordApplied (s : State) (n : Nat) : State :=
  let r := s.recorder
  let r1 := { r with used := r.used + 32 + (n + 31) / 32 * 32, ord := r.ord + 1, busy := false }
  if r.mode ≠ 2 then s else { s with recorder := { r1 with mode := if r1.ord = r.count then 0 else 2 } }

/-- Replay begins to apply a record. -/
def recordBegun (s : State) : State := { s with recorder := { s.recorder with busy := true } }

/-- Replay stops: the RECCTL that started it is told DIVERGED, with the ordinal (R66). -/
def replayDiverged (s : State) : State :=
  let s1 := { s with recorder := { s.recorder with mode := 0, busy := false, ctl := none } }
  match s.recorder.ctl with
  | none => s1
  | some (n, m) => if (s.session n).opened then sendSeq s1 n (replyTo m stDIVERGED s.recorder.ord.toNat []) else s1

/-- The number that stands for replay in place of a session: its commands have no reply. -/
def replaySession : Nat := 64

/-- Every command and every request that replay has started is complete. -/
def replayQuiet (s : State) : Bool :=
  (s.session replaySession).running.isNone && s.engReqs.all (fun r => decide (r.use ≠ .replay)) && !s.recorder.busy

/-- A launch by a store (KIND 3) or a copy (KIND 4): it is recorded in record mode, and must be the next record in replay mode
(R64, R66). -/
def noteLaunch (s : State) (kind line : Nat) : State :=
  if s.recorder.mode = 2 then
    let r := nextRecord s
    if decide (r.kind = kind) && decide (r.addr = line * 256) then recordApplied s r.len else replayDiverged s
  else appendRecord s kind 255 255 0 (line * 256) []

/-! ### Acceptance (R51) -/

/-- The record that is in progress is complete; nothing is, where the replay that began it has stopped (R66). -/
def recordDone (s : State) : State := if s.recorder.busy then recordApplied s (nextRecord s).len else s

/-- A replayed command ends, and its record with it. -/
def endReplayed (s : State) : State := recordDone (setSession s replaySession { s.session replaySession with running := none, wrote := false })

/-- The acceptance step of a session's command: its record, its reply in the ring, and LACC. A replayed command just ends. -/
def acceptMsg (s : State) (n : Nat) (m : Msg) (stat arg0 : Nat) (payload : List Byte) : State :=
  if n = replaySession then endReplayed s else
  let s1 := if exempt m.cmd.toNat then s else appendRecord s 0 n m.port m.seq (m.arg0.toNat % 2 ^ 38) (msgBytes m)
  let x := s1.session n
  let s2 := setSession s1 n { x with lacc := m.seq, running := none, wrote := false }
  sendSeq s2 n { replyTo m stat arg0 payload with sess := BitVec.ofNat 8 n }

/-- The acceptance step of a sequenced message that has no reply, such as a reply of the peer. -/
def acceptQuiet (s : State) (n : Nat) (m : Msg) : State :=
  if n = replaySession then endReplayed s else
  let s1 := if exempt m.cmd.toNat then s else appendRecord s 0 n m.port m.seq (m.arg0.toNat % 2 ^ 38) (msgBytes m)
  let x := s1.session n
  setSession s1 n { x with lacc := m.seq, running := none, wrote := false }

/-! ### The idempotency cache (R60, R61) -/

/-- The operation code of a remote atomic (R60). -/
def atomCode (op : AtomOp) : Nat :=
  match op with
  | .add => 0
  | .fadd => 1
  | .minS => 2
  | .maxS => 3
  | .and => 4
  | .or => 5
  | .xor => 6
  | .xchg => 7
  | .cas => 8
  | .minU => 2
  | .maxU => 3

/-- The operation of a code. -/
def atomOf (code : Nat) : Option AtomOp :=
  match code with
  | 0 => some .add
  | 1 => some .fadd
  | 2 => some .minS
  | 3 => some .maxS
  | 4 => some .and
  | 5 => some .or
  | 6 => some .xor
  | 7 => some .xchg
  | 8 => some .cas
  | _ => none

/-- A remote atomic ends: its cache entry holds the result, and every message that waits for it is answered (R61). -/
def atomDone (s : State) (port ep : Nat) (aseq : BitVec 32) (stat : Nat) (result : List Byte) : State :=
  let l := (find s.idem port).getD []
  let mine := fun (e : IdemEntry) => decide (e.ep = ep) && decide (e.aseq = aseq) && e.res.isNone
  let waiting := match l.find? mine with
    | some e => e.wait
    | none => []
  let l1 := (replaceFirst mine (fun e => { e with res := some (result, BitVec.ofNat 8 stat), wait := [] }) l).filter
    (fun e => !(e.out && e.res.isSome))
  waiting.foldl (fun t m => answerPlain t m stat 0 result) { s with idem := put s.idem port l1 }

/-- The body of a record of a remote atomic: ARG1 and the 16 bytes of operands (R60, R65; log entry 24). -/
def atomBody (op : AtomOp) (size : Nat) (aseq : BitVec 32) (val : BitVec 64) (cmp : BitVec 64) : List Byte :=
  toBytes (0#16 ++ aseq ++ 0#11 ++ BitVec.ofBool (size = 8) ++ BitVec.ofNat 4 (atomCode op) : BitVec (16 + 32 + 11 + 1 + 4)) 8 ++
    toBytes val 8 ++ toBytes cmp 8

end Sys2Proof.Machine
end

