-- ==== Sys2Proof/Machine/Regions.lean ====
section
/-! DEFINITION. Region and task control blocks: fields, effective values, write-through, budgets, fault records
(R67 to R93). -/
namespace Sys2Proof.Machine

/-! ### Fields -/

def State.region (s : State) (r : Nat) : Option Region := find s.regions r
def State.task (s : State) (t : Nat) : Option Task := find s.tasks t
def State.rcb (s : State) (r : Nat) : BitVec 2048 := match find s.regions r with | some x => x.rcb | none => 0
def State.tcb (s : State) (t : Nat) : BitVec 1024 := match find s.tasks t with | some x => x.tcb | none => 0

def rState (x : BitVec 2048) : Nat := fnat x 617 615
def rParent (x : BitVec 2048) : Nat := fnat x 703 674
def rDepth (x : BitVec 2048) : Nat := fnat x 607 604
def rLive (x : BitVec 2048) : Nat := fnat x 895 864

def tState (x : BitVec 1024) : Nat := fnat x 383 380
def tRcb (x : BitVec 1024) : Nat := fnat x 575 546
def tHgrp (x : BitVec 1024) : Nat := fnat x 447 437
def tXreg (x : BitVec 1024) : Nat := fnat x 436 433
def tScr (x : BitVec 1024) : Nat := fnat x 432 430
def tGrain (x : BitVec 1024) : Nat := fnat x 831 800
def tPend (x : BitVec 1024) : Nat := fnat x 799 784
def tNsucc (x : BitVec 1024) : Nat := fnat x 783 781
def tInst (x : BitVec 1024) : Nat := fnat x 379 371
def tSucc (x : BitVec 1024) (k : Nat) : Nat :=
  match k with
  | 0 => fnat x 767 737
  | 1 => fnat x 736 706
  | 2 => fnat x 703 673
  | _ => fnat x 672 642
def tPutSucc (x : BitVec 1024) (k v : Nat) : BitVec 1024 :=
  match k with
  | 0 => fput x 767 737 v
  | 1 => fput x 736 706 v
  | 2 => fput x 703 673 v
  | _ => fput x 672 642 v

/-- Scratchpad bytes of an SCR code (R73, R147). -/
def scrBytes (code : Nat) : Nat :=
  match code with
  | 1 => 65536
  | 2 => 131072
  | 3 => 262144
  | 4 => 393216
  | 5 => 458752
  | _ => 0

/-! ### Snapshots and write-through (R68, R73, R92, R93) -/

/-- The bytes of bits `hi : lo` of a control block at `base`, written to memory where they differ in part. -/
def throughBits (s : State) (base : Nat) {n : Nat} (x : BitVec n) (hi lo : Nat) : State :=
  let b0 := lo / 8
  let cnt := hi / 8 - b0 + 1
  let old := natOfBytes (homeBytes s (base + b0) cnt)
  let l := lo - 8 * b0
  let w := hi - lo + 1
  let new := old / 2 ^ (l + w) * 2 ^ (l + w) + fnat x hi lo * 2 ^ l + old % 2 ^ l
  hwWrite s (base + b0) (natBytes new cnt)

/-- Changes an HW field of an admitted region and writes it through to memory (R68). -/
def setRegion (s : State) (r hi lo v : Nat) : State :=
  match find s.regions r with
  | none => s
  | some x =>
    let y := fput x.rcb hi lo v
    throughBits { s with regions := put s.regions r { x with rcb := y } } (r * 256) y hi lo

/-- Changes an HW field of an admitted task and writes it through to memory (R73). -/
def setTask (s : State) (t hi lo v : Nat) : State :=
  match find s.tasks t with
  | none => s
  | some x =>
    let y := fput x.tcb hi lo v
    throughBits { s with tasks := put s.tasks t { x with tcb := y } } (t * 128) y hi lo

def setTaskState (s : State) (t v : Nat) : State := setTask s t 383 380 v

/-! ### The tree (R67, R70) -/

/-- The region and its ancestors, nearest first; at most 16 levels (R67). -/
def regionPath (s : State) (fuel r : Nat) : List Nat :=
  match fuel with
  | 0 => []
  | k + 1 => r :: (if rParent (s.rcb r) = 0 then [] else regionPath s k (rParent (s.rcb r)))

def pathOf (s : State) (r : Nat) : List Nat := regionPath s 17 r

/-- The admitted regions whose path holds `r`, itself included. -/
def subtree (s : State) (r : Nat) : List Nat :=
  (s.regions.filter (fun e => (pathOf s e.1).contains r)).map Prod.fst

/-- The nearest region on the path whose OVR bit is 1 (R70, R86). -/
def ovrRegion (s : State) (r ovr : Nat) : Nat :=
  ((pathOf s r).find? (fun q => bit (s.rcb q) ovr)).getD r

def effPrio (s : State) (r : Nat) : Nat := fnat (s.rcb (ovrRegion s r 614)) 639 636
def effDarena (s : State) (r : Nat) : Nat := fnat (s.rcb (ovrRegion s r 613)) 635 624
def effDieMask (s : State) (r : Nat) : BitVec 4 := fget (s.rcb (ovrRegion s r 612)) 623 620
def effTrapOk (s : State) (r : Nat) : Bool := bit (s.rcb (ovrRegion s r 611)) 619
def effPnote (s : State) (r : Nat) : Bool := bit (s.rcb (ovrRegion s r 611)) 618
def effHndlPc (s : State) (r : Nat) : BitVec 48 := fget (s.rcb (ovrRegion s r 611)) 1023 976
def effRoot (s : State) (r : Nat) : BitVec 30 := fget (s.rcb (ovrRegion s r 609)) 959 930

def State.instOf (s : State) (i : Nat) : Option Inst := find s.insts i
def setInst (s : State) (i : Nat) (x : Inst) : State := { s with insts := put s.insts i x }
def updInst (s : State) (i : Nat) (f : Inst → Inst) : State :=
  match find s.insts i with
  | none => s
  | some x => setInst s i (f x)

/-- The task of an instance, the TCB that is in force for it (R92), its region and its page-table root. -/
def instTask (s : State) (i : Nat) : Nat := match find s.insts i with | some x => x.tcb | none => 0
def instTcb (s : State) (i : Nat) : BitVec 1024 := match find s.insts i with | some x => x.image | none => 0
def instRegion (s : State) (i : Nat) : Nat := tRcb (instTcb s i)
def instRoot (s : State) (i : Nat) : BitVec 30 := effRoot s (instRegion s i)
/-- The arena of an instance's own storage (R73, R149). -/
def instArena (s : State) (i : Nat) : Nat :=
  let t := instTcb s i
  if bit t 417 then fnat t 429 418 else effDarena s (tRcb t)

/-! ### Use counts and budgets (R70 to R72) -/

/-- Adds to a use count of a region and of all its ancestors. -/
def addUse (s : State) (r hi lo : Nat) (d : Int) : State :=
  (pathOf s r).foldl (fun t q => setRegion t q hi lo ((Int.ofNat (fnat (t.rcb q) hi lo) + d).toNat)) s

/-- There is room for `cores`, `groups` and `blks` more under every cap on the path (R70). -/
def hasRoom (s : State) (r cores groups blks : Nat) : Bool :=
  (pathOf s r).all (fun q =>
    let x := s.rcb q
    (decide (fnat x 767 759 = 0) || decide (fnat x 831 823 + cores ≤ fnat x 767 759)) &&
    (decide (fnat x 758 744 = 0) || decide (fnat x 822 808 + groups ≤ fnat x 758 744)) &&
    (decide (fnat x 743 728 = 0) || decide (fnat x 807 792 + blks ≤ fnat x 743 728)))

/-- A quota on the path has been reached (R72). -/
def quotaReached (s : State) (r : Nat) : Bool :=
  (pathOf s r).any (fun q => decide (fnat (s.rcb q) 1215 1152 ≠ 0) &&
    decide (fnat (s.rcb q) 1215 1152 ≤ fnat (s.rcb q) 1279 1216))

/-! ### Fault records (R86, R87) -/

/-- Writes a 64-byte record to the fault queue of a region, or counts it as lost (R86). A region that was never admitted
has no queue to write to. -/
def writeRecord (s : State) (r : Nat) (rec : BitVec 512) : State :=
  let q := ovrRegion s r 610
  let x := s.rcb q
  if (find s.regions q).isNone then s else
  let tail := fnat x 1119 1088
  let log := fnat x 1029 1025
  let head := natOfBytes (homeBytes s (q * 256 + 132) 4)
  if (tail + 2 ^ 32 - head) % 2 ^ 32 = 2 ^ log then setRegion s q 1151 1120 (fnat x 1151 1120 + 1)
  else
    let s1 := hwWrite s (fnat x 1055 1030 * 4096 + 64 * (tail % 2 ^ log)) (toBytes rec 64)
    setRegion s1 q 1119 1088 (tail + 1)

/-- The fields of a record, in the order of R87. -/
def mkRecord (fva : BitVec 64) (pc : BitVec 48) (tcb core grp thr cause arena : Nat) (locks : List Nat)
    (next ihi : BitVec 32) (kind : Nat) (aux : BitVec 128) : BitVec 512 :=
  let l := fun k => BitVec.ofNat 30 (locks.getD k 0)
  (fva ++ pc ++ BitVec.ofNat 31 tcb ++ BitVec.ofNat 8 core ++ BitVec.ofNat 6 grp ++ BitVec.ofNat 6 thr ++
    BitVec.ofNat 8 cause ++ BitVec.ofNat 12 arena ++ BitVec.ofNat 3 (Nat.min 4 locks.length) ++ l 0 ++ l 1 ++ l 2 ++
    l 3 ++ next ++ ihi ++ BitVec.ofNat 4 kind ++ 0#10 ++ aux :
    BitVec (64 + 48 + 31 + 8 + 6 + 6 + 8 + 12 + 3 + 30 + 30 + 30 + 30 + 32 + 32 + 4 + 10 + 128))

/-- A record that fills only KIND, CAUSE and TCB (R87: KIND 3, KIND 4, and KIND 0 with CNTUNDER). -/
def smallRecord (kind cause tcb : Nat) : BitVec 512 := mkRecord 0 0 tcb 0 0 0 cause 0 [] 0 0 kind 0

end Sys2Proof.Machine
end

