-- ==== Sys2Proof/Machine/Translate.lean ====
section
/-! DEFINITION. Translation and the checks of one access (R145, R162, R201, R207 to R212), and the cause codes. -/
namespace Sys2Proof.Machine

/-! ### Cause codes (R191) -/

def cILLEGAL : BitVec 8 := 0x01
def cSWTRAP : BitVec 8 := 0x02
def cMONTIME : BitVec 8 := 0x03
def cPRENOTE : BitVec 8 := 0x04
def cSTALLCHK : BitVec 8 := 0x05
def cADDRFORM : BitVec 8 := 0x10
def cALIGN : BitVec 8 := 0x11
def cSCRRANGE : BitVec 8 := 0x12
def cNOMAP : BitVec 8 := 0x13
def cMAPBAD : BitVec 8 := 0x14
def cPERM : BitVec 8 := 0x15
def cARENAINV : BitVec 8 := 0x16
def cSEALWR : BitVec 8 := 0x17
def cPAGEWAIT : BitVec 8 := 0x18
def cLOCKHOLD : BitVec 8 := 0x19
def cSOFTERR : BitVec 8 := 0x1A
def cREGNOTHELD : BitVec 8 := 0x1B
def cTABNOTHELD : BitVec 8 := 0x1C
def cTABBUSY : BitVec 8 := 0x1D
def cSTACKOVF : BitVec 8 := 0x1E
def cSPILLBUSY : BitVec 8 := 0x1F
def cPAIRINVALID : BitVec 8 := 0x20
def cPAIRBROKEN : BitVec 8 := 0x21
def cSIDENOTHELD : BitVec 8 := 0x22
def cORTHCAP : BitVec 8 := 0x23
def cADMIT : BitVec 8 := 0x24
def cSUPERV : BitVec 8 := 0x25
def cTRAPFETCH : BitVec 8 := 0x30
def cRESTOREFAIL : BitVec 8 := 0x31
def cSIDEFAULT : BitVec 8 := 0x32
def cSIDEIMAGE : BitVec 8 := 0x33
def cCNTUNDER : BitVec 8 := 0x40
def cQUOTA : BitVec 8 := 0x41
def cDECODE : BitVec 8 := 0x42
def cDEADLOCK : BitVec 8 := 0x43
def cMBXFULL : BitVec 8 := 0x44

/-- The U-class causes: the user handler takes them (R191). -/
def isUClass (c : BitVec 8) : Bool := decide (c.toNat ≤ 5)
/-- The P-class causes: the group parks in every region (R191). -/
def isPClass (c : BitVec 8) : Bool := decide (0x30 ≤ c.toNat) && decide (c.toNat ≤ 0x33)

/-! ### The walk (R207, R208) -/

def pteV (p : BitVec 64) : Bool := bit p 63
def pteLeaf (p : BitVec 64) : Bool := bit p 62
def pteS64 (p : BitVec 64) : Bool := bit p 61
def pteRegn (p : BitVec 64) : BitVec 2 := fget p 60 59
def pteArena (p : BitVec 64) : BitVec 12 := fget p 58 47
def pteRd (p : BitVec 64) : Bool := bit p 46
def pteWr (p : BitVec 64) : Bool := bit p 45
def pteEx (p : BitVec 64) : Bool := bit p 44
def ptePage (p : BitVec 64) : Nat := fnat p 37 12 * 4096

def readPte (s : State) (pa : Nat) : BitVec 64 := ofBytes 64 (homeBytes s pa 8)

/-- The bytes of the page that a leaf at a level maps, where the level and S64 allow a leaf (R207, R208). -/
def leafSize (level : Nat) (p : BitVec 64) : Option Nat :=
  if level = 2 then (if pteS64 p then none else some 0x200000)
  else if level = 3 then (if pteS64 p then some 0x10000 else some 0x1000)
  else none

/-- The PTE fields that are zero in every entry (R208). -/
def pteZeros (p : BitVec 64) : Bool := decide (fnat p 43 38 = 0) && decide (fnat p 11 0 = 0)

/-- A leaf is well formed and maps neither the arena table nor a save pool (R146, R202, R208). -/
def leafOk (p : BitVec 64) (size : Nat) : Bool :=
  pteZeros p && pteRegn p != 3 && (pteRd p || !(pteWr p)) && decide (ptePage p % size = 0) &&
  !(touchesArenaTable (ptePage p) size) && !(touchesPool (ptePage p) size)

/-- One level of a walk and those below it (R207): the leaf as a TLB entry, or the cause. -/
def walkFrom (s : State) (root : BitVec 30) (va fuel level table : Nat) : Except (BitVec 8) TlbEntry :=
  match fuel with
  | 0 => .error cMAPBAD
  | k + 1 =>
    let at_ := table + 8 * (va / 2 ^ (39 - 9 * level) % 512)
    let p := readPte s at_
    if !(pteV p) then .error cNOMAP
    else if pteLeaf p then
      match leafSize level p with
      | none => .error cMAPBAD
      | some size =>
        if !(leafOk p size) then .error cMAPBAD
        else if size = 0x10000 &&
            (List.range 16).any (fun i => readPte s (at_ / 128 * 128 + 8 * i) != p) then .error cMAPBAD
        else .ok { root := root, base := va / size * size, size := size, pte := p, src := at_ }
    else if decide (level = 3) || !(pteZeros p) then .error cMAPBAD
    else walkFrom s root va k (level + 1) (ptePage p)

/-- The part of an address that selects the entry of a level and all above it. -/
def levelPart (level va : Nat) : Nat := va / 2 ^ (39 - 9 * level)

/-- The non-leaf entries that a walk reads, from one level on. -/
def upperFrom (s : State) (root : BitVec 30) (va fuel level table : Nat) : List NonLeaf :=
  match fuel with
  | 0 => []
  | k + 1 =>
    let at_ := table + 8 * (levelPart level va % 512)
    let p := readPte s at_
    if !(pteV p) || pteLeaf p || decide (level = 3) || !(pteZeros p) then []
    else ⟨root, level, levelPart level va, ptePage p, at_⟩ :: upperFrom s root va k (level + 1) (ptePage p)

/-- The lowest non-leaf entry held for an address. -/
def upperFor (l : List NonLeaf) (root : BitVec 30) (va : Nat) : Option NonLeaf :=
  argmin (fun u => 3 - u.level) (l.filter (fun u => decide (u.root = root) && decide (u.part = levelPart u.level va)))

/-- A walk from a root, which must be aligned to 4 KiB; it begins below the lowest non-leaf entry held (R207, R210). -/
def walk (s : State) (l : List NonLeaf) (root : BitVec 30) (va : Nat) : Except (BitVec 8) TlbEntry :=
  if root.toNat % 16 ≠ 0 then .error cMAPBAD
  else
    match upperFor l root va with
    | none => walkFrom s root va 4 0 (root.toNat * 256)
    | some u => walkFrom s root va (3 - u.level) (u.level + 1) u.table

/-- The non-leaf entries that such a walk reads. -/
def walkUppers (s : State) (l : List NonLeaf) (root : BitVec 30) (va : Nat) : List NonLeaf :=
  match upperFor l root va with
  | none => upperFrom s root va 4 0 (root.toNat * 256)
  | some u => upperFrom s root va (3 - u.level) (u.level + 1) u.table

def tlbHit (l : List TlbEntry) (root : BitVec 30) (va : Nat) : Option TlbEntry :=
  l.find? (fun e => decide (e.root = root) && decide (e.base ≤ va) && decide (va < e.base + e.size))

/-- The set of a cluster's TLB in which a page stands: VA[28:21] for 2 MiB pages and VA[23:16] for others (R210). -/
def tlbSet (size va : Nat) : Nat := if size = 0x200000 then va / 2 ^ 21 % 256 else va / 2 ^ 16 % 256

/-- A lookup in a cluster's TLB, which probes one set for each of the two (R210). -/
def clusHit (l : List TlbEntry) (root : BitVec 30) (va : Nat) : Option TlbEntry :=
  tlbHit (l.filter (fun e => decide (tlbSet e.size e.base = tlbSet e.size va))) root va

/-- The entry that a core's TLB or its cluster's holds for an address. -/
def tlbFor (s : State) (core : Nat) (root : BitVec 30) (va : Nat) : Option TlbEntry :=
  match tlbHit (s.core core).tlb root va with
  | some e => some e
  | none => clusHit (s.cluster (core / 8)).tlb root va

/-- The leaf a core translates with: that of a TLB, or the one that a walk finds (R210, R212; log entry 12). -/
def leafFor (s : State) (core : Nat) (root : BitVec 30) (va : Nat) : Except (BitVec 8) TlbEntry :=
  match tlbFor s core root va with
  | some e => .ok e
  | none => walk s (s.cluster (core / 8)).upper root va

/-- The physical address of a virtual one. -/
def physical (s : State) (core : Nat) (root : BitVec 30) (va : BitVec 64) : Option Nat :=
  match leafFor s core root (va.toNat % 2 ^ 48) with
  | .ok e => some (ptePage e.pte + (va.toNat % 2 ^ 48 - e.base))
  | .error _ => none

/-! ### Checks (R209) -/

/-- What an access needs. -/
inductive Need where
  | read | write | both | fetch | unlock
  deriving DecidableEq, Repr

/-- The answer of the checks: the place and the pair of an access, a cause with the arena that a record shows (R87), or what the
translation waits for. -/
inductive Xlat where
  | ok (pa : Nat) (arena : BitVec 12) (gen : BitVec 4) (regn : BitVec 2)
  | fault (cause : BitVec 8) (arena : BitVec 12)
  | wait (l : List Hold)
  deriving DecidableEq, Repr

def needWrites (n : Need) : Bool :=
  match n with
  | .write => true
  | .both => true
  | _ => false

def permOk (n : Need) (p : BitVec 64) : Bool :=
  match n with
  | .read => pteRd p
  | .write => pteWr p
  | .both => pteRd p && pteWr p
  | .fetch => pteEx p
  | .unlock => pteRd p

def State.page (s : State) (pg : Nat) : CohPage := (find s.pages pg).getD CohPage.reset

/-- The coherence page of an address lets it be read, or written (R44, R45). -/
def pageAllows (s : State) (pa : Nat) (write : Bool) : Bool :=
  let c := s.page (pa / 65536)
  !(decide (c.state = 2) || (decide (c.state = 1) && write) || c.trans)

/-- A page flush that covers a physical address is in progress (R43). -/
def inFlush (s : State) (pa : Nat) : Bool :=
  s.flushes.any (fun f => decide (f.page ≤ pa) && decide (pa < f.page + f.size))

/-- The addresses of the leaf PTEs of a page, one of which is given: a 64 KiB page has 16 of them (R207). -/
def pteKeys (size src : Nat) : List Nat := if size = 0x10000 then (List.range 16).map (fun i => src / 128 * 128 + 8 * i) else [src]

/-- A page's PTE has been rewritten with another attribute than the one in force: until the CBSYNC on it is complete its translations are
held (R43). -/
def attrHeld (s : State) (e : TlbEntry) : Bool :=
  let r := zget s.attrs e.src
  let p := readPte s e.src
  decide (r ≠ 0) && pteV p && pteLeaf p && decide ((pteRegn p).toNat + 1 ≠ r.toNat)

/-- Two names of one thing that is waited for. -/
def sameHold (a b : Hold) : Bool :=
  match a, b with
  | .page p _, .page q _ => decide (p = q)
  | .fill c i p, .fill d j q => decide (c = d) && decide (i = j) && decide (p = q)
  | _, _ => false

/-- The group or the engine has waited for this in vain, and meets it with a cause (R191, R201). -/
def holdFailed (s : State) (h : Hold) : Bool := match s.focus.refused with | some x => sameHold x h | none => false

/-- The checks that follow the walk, for an address of a page (R43, R44, R209). -/
def leafCheck (s : State) (core v : Nat) (need : Need) (e : TlbEntry) : Xlat :=
  let a := pteArena e.pte
  let pa := ptePage e.pte + (v - e.base)
  if need ≠ .unlock && (attrHeld s e || inFlush s pa) then .wait [.sync]
  else if !(permOk need e.pte) then .fault cPERM a
  else if need = .unlock then .ok pa a (zget (s.core core).gens a.toNat) (pteRegn e.pte)
  else if !(aValid (s.arena a.toNat)) then .fault cARENAINV a
  else if needWrites need && (s.core core).sealed.contains a.toNat then .fault cSEALWR a
  else if !(pageAllows s pa (needWrites need)) then
    if holdFailed s (.page (pa / 65536) false) then .fault cPAGEWAIT a else .wait [.page (pa / 65536) (needWrites need)]
  else .ok pa a (zget (s.core core).gens a.toNat) (pteRegn e.pte)

/-- The checks of one aligned access of `size` bytes at a virtual address, in the order of R209, with the page translated at once. -/
def checkNow (s : State) (core : Nat) (root : BitVec 30) (va : BitVec 64) (size : Nat) (need : Need) : Xlat :=
  if !(canonical va) then .fault cADDRFORM 0
  else if va.toNat % size ≠ 0 then .fault cALIGN 0
  else
    match leafFor s core root (va.toNat % 2 ^ 48) with
    | .error c => .fault c 0
    | .ok e => leafCheck s core (va.toNat % 2 ^ 48) need e

/-- The checks of one aligned access of a core: a page that no TLB holds is a miss, and its walk comes first (R211). -/
def check (s : State) (core : Nat) (root : BitVec 30) (va : BitVec 64) (size : Nat) (need : Need) : Xlat :=
  if !(canonical va) then .fault cADDRFORM 0
  else if va.toNat % size ≠ 0 then .fault cALIGN 0
  else
    let v := va.toNat % 2 ^ 48
    match leafFor s core root v with
    | .error c => .fault c 0
    | .ok e => if (tlbFor s core root v).isNone then .wait [.walk root (v / 4096)] else leafCheck s core v need e

end Sys2Proof.Machine
end

