-- ==== Sys2Proof/Machine/Admit.lean ====
section
/-! DEFINITION. Admission of regions and tasks, ready queues, completion with its successors, and mailboxes (R67, R70,
R74, R75, R77, R79, R85, R92). -/
namespace Sys2Proof.Machine

/-! ### Checks of control blocks (R68, R70, R73, R75) -/

/-- A block as its home serves it. -/
def readBlock (w : Nat) (s : State) (pa : Nat) : BitVec w := ofBytes w (homeBytes s pa (w / 8))

def readRcb (s : State) (r : Nat) : BitVec 2048 := readBlock 2048 s (r * 256)
def readTcb (s : State) (t : Nat) : BitVec 1024 := readBlock 1024 s (t * 128)

/-- The fields marked Zero are zero. -/
def zeroFields {n : Nat} (x : BitVec n) (fs : List (Nat × Nat)) : Bool := fs.all (fun f => decide (fnat x f.1 f.2 = 0))

def tcbZeros : List (Nat × Nat) :=
  [(975, 960), (911, 896), (780, 768), (705, 704), (641, 640), (608, 576), (545, 512), (415, 384), (350, 320)]

def rcbZeros : List (Nat × Nat) :=
  [(1535, 1280), (1024, 1024), (975, 960), (929, 896), (791, 768), (727, 704), (673, 640), (608, 608), (603, 0)]

/-- What R75 asks of a TCB by itself. -/
def tcbOk (x : BitVec 1024) : Bool :=
  zeroFields x tcbZeros && decide (1 ≤ tHgrp x) && decide (tHgrp x ≤ 1024) && decide (tXreg x ≤ 8) && decide (tScr x ≤ 5) &&
  !(bit x 416)

/-- What R70 and R75 ask of an RCB by itself. -/
def rcbOk (x : BitVec 2048) : Bool :=
  zeroFields x rcbZeros &&
  (!(bit x 610) || (decide (4 ≤ fnat x 1029 1025) && decide (fnat x 1029 1025 ≤ 16))) &&
  (decide (rParent x ≠ 0) || decide (fnat x 614 609 = 63))

/-- The regions of a path that are not admitted yet, nearest first, where each region of the whole path passes its checks: one that is
admitted by its snapshot, which CBSYNC may have replaced (R68, R75). -/
def chainOf (s : State) (fuel r : Nat) : Option (List (Nat × BitVec 2048)) :=
  match fuel with
  | 0 => none
  | k + 1 =>
    if (find s.regions r).isSome then (if (pathOf s r).all (fun q => rcbOk (s.rcb q)) then some [] else none)
    else
      let x := readRcb s r
      if !(rcbOk x) then none
      else if rParent x = 0 then some [(r, x)]
      else (chainOf s k (rParent x)).map (fun l => (r, x) :: l)

/-! ### Admission (R67, R75, R92) -/

/-- The HW fields of a region that its admission writes. -/
def rcbWritten : List (Nat × Nat) := [(617, 615), (607, 604), (895, 864), (863, 832), (831, 823), (822, 808), (807, 792)]

/-- Admits a region under its admitted parent: DEPTH, STATE and the counts are set, the rest is the snapshot (R67, R91). -/
def admitRegion (s : State) (r : Nat) (x : BitVec 2048) : State :=
  let p := rParent x
  let depth := if p = 0 then 0 else rDepth (s.rcb p) + 1
  let up := if p = 0 then 0 else rState (s.rcb p)
  let st := if up = 2 ∨ up = 3 then up else 0
  let y := (rcbWritten.drop 2).foldl (fun y f => fput y f.1 f.2 0) (fput (fput x 617 615 st) 607 604 depth)
  rcbWritten.foldl (fun t f => throughBits t (r * 256) y f.1 f.2) { s with regions := put s.regions r { rcb := y, crossed := false } }

/-- Admits the path of a region, the ancestors first; none where it fails (R67, R70, R75). -/
def admitPath (s : State) (r : Nat) : Option State :=
  match chainOf s 17 r with
  | none => none
  | some l =>
    let t := l.reverse.foldl (fun u e => admitRegion u e.1 e.2) s
    if (pathOf t r).length ≤ 16 then some t else none

/-- A snapshot is held in a state other than DONE and KILLED (R75). -/
def taskLive (s : State) (t : Nat) : Bool :=
  match find s.tasks t with
  | none => false
  | some x => decide (tState x.tcb ≠ 3) && decide (tState x.tcb ≠ 5)

/-- Counts a task in LIVE; an IDLE region runs (R67, R69). -/
def countLive (s : State) (r : Nat) : State :=
  let s1 := setRegion s r 895 864 (rLive (s.rcb r) + 1)
  if rState (s1.rcb r) = 0 then setRegion s1 r 617 615 1 else s1

/-- A task leaves LIVE; a RUN region without one is IDLE (R68, R69). -/
def uncountLive (s : State) (r : Nat) : State :=
  let s1 := setRegion s r 895 864 (rLive (s.rcb r) - 1)
  if rState (s1.rcb r) = 1 ∧ rLive (s1.rcb r) = 0 then setRegion s1 r 617 615 0 else s1

/-- The HW fields of a task that its admission resets. -/
def tcbReset : List (Nat × Nat) := [(383, 380), (379, 371), (370, 367), (366, 351), (319, 256)]

/-- Admits a task that waits for nothing further, but for its entry to a ready queue; `within` is the region that must lie on
its path (R358), and `mbx` says that a mailbox launches the task. -/
def admitCore (s : State) (t : Nat) (x : BitVec 1024) (within : Option Nat) (mbx : Bool) : Option State :=
  if !(tcbOk x) || taskLive s t then none
  else
    match admitPath s (tRcb x) with
    | none => none
    | some s1 =>
      let r := tRcb x
      let inside := match within with | none => true | some w => (pathOf s1 r).contains w
      if effDieMask s1 r = 0 || !inside then none
      else
        let y := tcbReset.foldl (fun y f => fput y f.1 f.2 0) x
        let s2 := tcbReset.foldl (fun u f => throughBits u (t * 128) y f.1 f.2) { s1 with tasks := put s1.tasks t { tcb := y, mbx := mbx } }
        some (countLive s2 r)

/-! ### Ready queues (R79) -/

/-- The die whose ready queue an entry of a task joins, with the TCB that the entry goes by (R79, R92). -/
def readyDieOf (s : State) (t : Nat) (x : BitVec 1024) : Nat :=
  let m := effDieMask s (tRcb x)
  let tile := fnat x 639 610 / 2 ^ 28 % 4
  let own := t * 128 / 2 ^ 36 % 4
  if bit x 609 && bit m tile then tile else if bit m own then own else lowest m

/-- The die whose ready queue a task joins when it becomes READY. -/
def readyDie (s : State) (t : Nat) : Nat := readyDieOf s t (s.tcb t)

/-- The next AGE of a die. -/
def takeAge (s : State) (die : Nat) : State := s.setDie die { s.die die with age := (s.die die).age + 1 }

def pushReady (s : State) (die : Nat) (q : Ready) : State :=
  s.setDie die { s.die die with ready := (s.die die).ready ++ [q] }

/-- The TCB with which an entry is placed (R92). -/
def entryTcb (s : State) (q : Ready) : BitVec 1024 := q.image.getD (s.tcb q.tcb)

/-- The effective DIEMASK of an entry's region lets it run on a die (R68, R92). -/
def dieLets (s : State) (die : Nat) (q : Ready) : Bool := bit (effDieMask s (tRcb (entryTcb s q))) die

/-- A task's entry loses the TCB of its dispatch. -/
def unsettled (q : Ready) : Ready := if q.kind = .first then { q with image := none } else q

/-- The entries of a die's queue and of its distributor that a replaced DIEMASK excludes from the die, where it allows another one. -/
def leavesDie (s : State) (die : Nat) (q : Ready) : Bool :=
  !(dieLets s die q) && decide (effDieMask s (tRcb (entryTcb s q)) ≠ 0)

/-- The entries that wait on a die which a replaced DIEMASK excludes join, with their AGE, the queue that R79 gives under the new mask
(R92; DESIGN CHOICE, log entry 99). -/
def moveEntries (s : State) : State :=
  (List.range 4).foldl (fun t die =>
    let d := t.die die
    let l := (d.ready ++ d.chosen).filter (leavesDie t die)
    let t1 := t.setDie die { d with ready := d.ready.filter (fun q => !(leavesDie t die q))
                                    chosen := d.chosen.filter (fun q => !(leavesDie t die q)) }
    l.foldl (fun u q => pushReady u (readyDieOf t q.tcb (entryTcb t q)) (unsettled q)) t1) s

/-! ### Work that follows: completion, successors, mailboxes (R77, R85) -/

/-- What remains to be done about tasks. -/
inductive Work where
  | ready (t : Nat)
  | done (t : Nat)
  | dec (t : Nat)
  | pump (key : Nat)
  deriving DecidableEq, Repr

/-- A task becomes READY; an empty range is DONE at once (R77, R79). -/
def doReady (s : State) (t : Nat) : State × List Work :=
  let d := readyDie s t
  let a := (s.die d).age
  let s1 := setTaskState (setTask (takeAge s d) t 319 256 a.toNat) t 1
  let x := s1.tcb t
  if tGrain x ≠ 0 ∧ fnat x 863 832 ≤ fnat x 895 864 then (s1, [.done t])
  else (pushReady s1 d { tcb := t, kind := .first, age := a, image := none }, [])

/-- The pool slot that a task launched by a mailbox held is free, for every mailbox whose pool has it (R85). -/
def freeSlot (s : State) (t : Nat) : List Work := (s.mailbox.filter (fun e => e.2.pool.contains t)).map (fun e => .pump e.1)

/-- What the end of a task frees. -/
def mailEnd (s : State) (t : Nat) : List Work :=
  match find s.tasks t with
  | none => []
  | some x => if x.mbx then freeSlot s t else []

/-- The successors of a task, in order. -/
def successors (x : BitVec 1024) : List Nat := (List.range (Nat.min 4 (tNsucc x))).map (tSucc x)

/-- The instances of a task are forgotten, and with them their save areas (R202). -/
def dropInsts (s : State) (t : Nat) : State := { s with insts := s.insts.filter (fun e => decide (e.2.tcb ≠ t)) }

/-- A task becomes DONE (R77). -/
def doDone (s : State) (t : Nat) : State × List Work :=
  let x := s.tcb t
  let s1 := uncountLive (setTask (setTaskState s t 3) t 379 371 0) (tRcb x)
  (dropInsts s1 t, (successors x).map Work.dec ++ mailEnd s1 t)

/-- A record of a PEND that was 0 already (R77, R87). -/
def underRecord (s : State) (r t : Nat) : State := writeRecord s r (smallRecord 0 cCNTUNDER.toNat t)

/-- The decrement of a successor's PEND at its home; of one that holds no snapshot, in memory (R77, R361). -/
def doDec (s : State) (t : Nat) : State × List Work :=
  if taskLive s t then
    let x := s.tcb t
    if tPend x = 0 then (underRecord s (tRcb x) t, [])
    else
      let s1 := setTask s t 799 784 (tPend x - 1)
      (s1, if tPend x = 1 ∧ tState x = 0 then [.ready t] else [])
  else
    let x := readTcb s t
    if tPend x = 0 then (underRecord s (tRcb x) t, [])
    else (hwWrite s (t * 128 + 98) (natBytes (tPend x - 1) 2), [])

/-- A live task that a mailbox has launched holds the pool slot in which its TCB stands, whatever has become of the binding
(R85, R362). -/
def holdsSlot (s : State) (t : Nat) : Bool :=
  taskLive s t && (match find s.tasks t with | some x => x.mbx | none => false)

/-- The TCB of a mailbox's lowest free slot. -/
def freeMailSlot (s : State) (b : Mailbox) : Option Nat := b.pool.find? (fun t => !(holdsSlot s t))

/-- The launch of the arrival with an ordinal into a free slot: the template's copy, admitted, or a KIND 4 record (R85, R87). -/
def launchSlot (s : State) (k : Nat) (b : Mailbox) (t : Nat) (ord : BitVec 32) : State × List Work :=
  let tm := readTcb s b.tmpl
  let x := fput (fput (fput tm 416 416 0) 895 864 ord.toNat) 863 832 (ord.toNat + 1)
  let s1 := hwWrite s (t * 128) (toBytes x 128)
  match admitCore s1 t x none true with
  | none => (writeRecord s1 (tRcb tm) (smallRecord 4 cADMIT.toNat b.tmpl), [.pump k])
  | some s2 => (s2, if tPend x = 0 then [.ready t] else [])

def setMailbox (s : State) (k : Nat) (b : Mailbox) : State := { s with mailbox := put s.mailbox k b }

/-- The next arrival of a mailbox takes its ordinal and is launched into a free slot. -/
def arriveAt (s : State) (k : Nat) (b : Mailbox) (t : Nat) : State × List Work :=
  launchSlot (setMailbox s k { b with count := b.count + 1 }) k b t b.count

/-- The pending launch of a mailbox whose slot has become free: the earliest arrival's. -/
def doPump (s : State) (k : Nat) : State × List Work :=
  match find s.mailbox k with
  | none => (s, [])
  | some b =>
    match b.pend, freeMailSlot s b with
    | o :: r, some t => launchSlot (setMailbox s k { b with pend := r }) k b t o
    | _, _ => (s, [])

/-- Adds work after other work; tasks that become READY together do so in ascending TCB address (R79). -/
def addWork (l : List Work) (w : Work) : List Work :=
  match l with
  | [] => [w]
  | x :: r =>
    match x, w with
    | .ready t, .ready u => if u < t then w :: x :: r else x :: addWork r w
    | _, _ => x :: addWork r w

/-- Does the work of a list, and what follows from it, in order. -/
def runWork (fuel : Nat) (s : State) (l : List Work) : State :=
  match fuel with
  | 0 => s
  | n + 1 =>
    match l with
    | [] => s
    | w :: r =>
      let p := match w with
        | .ready t => doReady s t
        | .done t => doDone s t
        | .dec t => doDec s t
        | .pump k => doPump s k
      runWork n p.1 (p.2.foldl addWork r)

/-- More than the work that one event can bring. -/
def workFuel : Nat := 2 ^ 24

def settleWork (s : State) (l : List Work) : State := runWork workFuel s l

/-- Admission of a task, and its entry to a ready queue where nothing is pending (R75). -/
def admitTask (s : State) (t : Nat) (x : BitVec 1024) (within : Option Nat) : Option State :=
  (admitCore s t x within false).map (fun u => settleWork u (if tPend x = 0 then [.ready t] else []))

/-! ### Mail (R85, R363) -/

/-- The mailbox bound to a line. -/
def mailboxOf (s : State) (line : Nat) : Option (Nat × Mailbox) := s.mailbox.find? (fun e => decide (e.2.line = line))

/-- A mail arrival of a store (record kind 3) or of a copy (4): a launch, a pending one, or a KIND 4 record (R64, R85). Each arrival
has its ordinal, also one that launches nothing. The record of a launch that is left pending is appended at the arrival (DESIGN CHOICE, log
entry 106). -/
def mailArrival (s0 : State) (kind line : Nat) : State :=
  match mailboxOf s0 line with
  | none => s0
  | some (k, b) =>
    match freeMailSlot s0 b with
    | some t => let p := arriveAt (noteLaunch s0 kind line) k b t; settleWork p.1 p.2
    | none =>
      let c := { b with count := b.count + 1 }
      if b.pend.length = 65535 then
        writeRecord (setMailbox s0 k c) (tRcb (readTcb s0 b.tmpl)) (smallRecord 4 cMBXFULL.toNat b.tmpl)
      else setMailbox (noteLaunch s0 kind line) k { c with pend := b.pend ++ [b.count] }

end Sys2Proof.Machine
end

