-- ==== Sys2Proof/Machine/Scratchpad.lean ====
section
/-! DEFINITION. The pages of scratchpads and their backing in save areas (R149, R203), and the checks of scratchpad offsets
(R145, R209, R287). -/
namespace Sys2Proof.Machine

/-- The size of a core record of a save area (R203). -/
def coreRecSize (scr : Nat) : Nat := 0xA6000 + scrBytes scr

/-- The gang number of a core in an instance (R82). -/
def gangNo (x : Inst) (core : Nat) : Nat := x.gang.idxOf core

/-- The core record of a gang member in an instance's save area (R203). -/
def coreRecAt (x : Inst) (m : Nat) : Nat := x.area + 0x1000 + m * coreRecSize (tScr x.image)

/-- The backing address of a scratchpad page (R149, R203). -/
def backingAt (s : State) (core inst page : Nat) : Nat :=
  match find s.insts inst with
  | none => 0
  | some x => coreRecAt x (gangNo x core) + 0xA6000 + 4096 * page

def pageState (s : State) (core inst page : Nat) : BitVec 2 := zget ((s.core core).scratchOf inst).pages page

def setPageState (s : State) (core inst page : Nat) (st : BitVec 2) : State :=
  s.updCore core (fun c => let sc := c.scratchOf inst; c.setScratch inst { sc with pages := zset sc.pages page st })

/-- Pins an Unpinned page, without a refill (R149). -/
def pinPage (s : State) (core inst page : Nat) : State :=
  if pageState s core inst page = 2 then setPageState s core inst page 1 else s

/-- RDX of a line of a page's backing, under the instance's arena (R38, R149; log entry 11). -/
def fillPkt (s : State) (core inst page k : Nat) : Packet :=
  let a := BitVec.ofNat 12 (instArena s inst)
  { withPair (engHome 0x02 (stopOfCore core) (backingAt s core inst page + 256 * k) core 0) a (zget (s.core core).gens a.toNat) 0 with
    txn := BitVec.ofNat 12 (3728 + page), smask := 15 }

/-- The first access of an Absent page starts its fill from its backing through the L2, RDX on each line (R149; log entry 101). -/
def startFill (s : State) (core inst page : Nat) : State :=
  if pageState s core inst page ≠ 0 then s
  else (List.range 16).foldl (fun t k => sendEng t (fillPkt s core inst page k) (.fill core inst page)) (setPageState s core inst page 3)

/-- DATX of a line of a fill: its bytes enter the page, which is pinned with the last line. A page that has met a soft error fails then
(`settleFills`), and one that its herd has left takes nothing (R149, R191). -/
def fillLine (s : State) (p : Packet) (core inst page : Nat) : State :=
  let s1 := { s with engReqs := removeFirst (engOf p) s.engReqs }
  if pageState s1 core inst page ≠ 3 then s1
  else
    let s2 := (writeScratch s1 core inst (4096 * page + pktLine p * 256 % 4096) p.data).updCore core (fun c =>
      let sc := c.scratchOf inst
      c.setScratch inst { sc with soft := if softAt s (pktLine p * 256) 256 then sc.soft ++ [page] else sc.soft })
    if engBusy s2 (.fill core inst page) || (((s2.core core).scratchOf inst).soft.contains page) then s2
    else setPageState s2 core inst page 1

/-- DATX of a fill. -/
def filled (s : State) (p : Packet) : State :=
  match s.engReqs.find? (engOf p) with
  | some ⟨_, _, _, .fill core inst page⟩ => fillLine s p core inst page
  | _ => s

/-- A fill of an instance's page on a core is under way. -/
def fillsOf (s : State) (core inst : Nat) : Bool :=
  s.engReqs.any (fun r => match r.use with | .fill c i _ => decide (c = core) && decide (i = inst) | _ => false)

/-- The pages that a range of offsets touches. -/
def pagesOf (o n : Nat) : List Nat := (List.range ((o + n + 4095) / 4096 - o / 4096)).map (fun i => o / 4096 + i)

/-- Pins every page that a range of offsets touches. -/
def pinRange (s : State) (core inst o n : Nat) : State :=
  (pagesOf o n).foldl (fun t p => pinPage t core inst p) s

/-- The checks of one scratchpad access, in order: ALIGN, SCRRANGE, and for an Absent page the checks of a load from its backing, whose
fill the access waits for (R149, R209, R287). -/
def scrCheck (s : State) (core inst o n : Nat) : Xlat :=
  let sc := (s.core core).scratchOf inst
  if o % n ≠ 0 then .fault cALIGN 0
  else if sc.size < o + n then .fault cSCRRANGE 0
  else
    let a := BitVec.ofNat 12 (instArena s inst)
    let pg := backingAt s core inst (o / 4096) / 65536
    if zget sc.pages (o / 4096) = 0 || zget sc.pages (o / 4096) = 3 then
      if !(aValid (s.arena a.toNat)) then .fault cARENAINV a
      else if decide ((s.page pg).state = 2) then (if holdFailed s (.page pg false) then .fault cPAGEWAIT a else .wait [.page pg false])
      else if holdFailed s (.fill core inst (o / 4096)) then .fault cSOFTERR a
      else .wait [.fill core inst (o / 4096)]
    else .ok o 0 0 0

/-- The page checks of a range of offsets inside the scratchpad: the first that fails or waits (R149). -/
def scrPages (s : State) (core inst o n : Nat) : Xlat :=
  ((pagesOf o n).map (fun p => scrCheck s core inst (4096 * p) 1)).foldl
    (fun r x => match r with | .ok _ _ _ _ => x | _ => r) (.ok 0 0 0 0)

/-- A range of offsets with its length and its alignment. -/
structure ScrSpan where
  off   : Nat
  len   : Nat
  align : Nat
  deriving DecidableEq, Repr

/-- The checks of the scratchpad operands of an instruction: ALIGN of each, then SCRRANGE of each, then their pages; with the offset
that a failure names (R209, R309). -/
def scrRanges (s : State) (core inst : Nat) (l : List ScrSpan) : Nat × Xlat :=
  match l.find? (fun r => decide (r.off % r.align ≠ 0)), l.find? (fun r => decide (((s.core core).scratchOf inst).size < r.off + r.len)) with
  | some r, _ => (r.off, .fault cALIGN 0)
  | none, some r => (r.off, .fault cSCRRANGE 0)
  | none, none =>
    l.foldr (fun r x => match scrPages s core inst r.off r.len with
      | .ok _ _ _ _ => x
      | y => (r.off, y)) (0, .ok 0 0 0 0)

/-- The checks of one range. -/
def scrRange (s : State) (core inst o n align : Nat) : Xlat := (scrRanges s core inst [⟨o, n, align⟩]).2

end Sys2Proof.Machine
end

