-- ==== Sys2Proof/Machine/Ops.lean ====
section
/-! DEFINITION. The shared operations of groups: program counters, the reconvergence stack and its spill area, taking a
trap or a fault and returning from it, watch predicates and halts, event sources, and the operations that a
memory instruction issues (R110 to R120, R191 to R199, R343 to R348). -/
namespace Sys2Proof.Machine

abbrev Out := Host.Outcome State Fault Refusal

/-! ### Program counters (R214) -/

def pcPacket (pc : BitVec 48) : Nat := pc.toNat / 32 * 32
def pcSlot (pc : BitVec 48) : Nat := pc.toNat / 4 % 8
/-- The linear index of a slot. -/
def pcLinear (pc : BitVec 48) : Nat := 7 * (pc.toNat / 32) + (pcSlot pc - 1)
/-- The PC of a linear index. -/
def pcOfLinear (l : Int) : BitVec 48 := BitVec.ofInt 48 (l / 7 * 32 + (l % 7 + 1) * 4)
/-- The target of a branch offset. -/
def branchTarget (pc : BitVec 48) (off : Int) : BitVec 48 := pcOfLinear (Int.ofNat (pcLinear pc) + off)
/-- The slot after a slot of a packet with `n` valid slots. After the packet at 0x7FFF_FFFF_FFE0 the 48-bit address goes on to the other half
of the canonical range (DESIGN CHOICE, log entry 103). -/
def pcNext (pc : BitVec 48) (n : Nat) : BitVec 48 :=
  if pcSlot pc < n then pc + 4 else BitVec.ofNat 48 (pcPacket pc + 32 + 4)
/-- N of a control word (R213). -/
def ctlN (c : Word) : Nat := fnat c 30 28
/-- The stall code of a slot (R213). -/
def ctlStall (c : Word) (slot : Nat) : Nat := c.toNat / 2 ^ (4 * slot - 4) % 8
/-- A PC as a register pair holds it: bits 63:48 are copies of bit 47. -/
def pcPair (pc : BitVec 48) : BitVec 64 := pc.signExtend 64

/-! ### Event sources (R118 to R120) -/

def Core.route (c : Core) (sink : Nat) : BitVec 128 := zget c.routes sink

/-- A pulse of a source, judged against each route word in force (R120): an ANY route fires once, an ALL route when
every masked source has pulsed. -/
def pulseSink (c : Core) (src sink : Nat) : Core :=
  let r := c.route sink
  if !(bit r (96 + src)) then c
  else if !(bit r 63) then { c with firings := c.firings ++ [sink] }
  else
    let r1 := setBit r (64 + src) true
    if fget r1 127 96 = fget r1 95 64 then
      { c with routes := zset c.routes sink (fput r1 95 64 0), firings := c.firings ++ [sink] }
    else { c with routes := zset c.routes sink r1 }

def pulse (s : State) (core src : Nat) : State :=
  s.updCore core (fun c => (List.range 16).foldl (fun k sink => pulseSink k src sink) c)

/-- A pulse that fires only for the work of the herd that holds the side resources (R118). -/
def pulseFor (s : State) (core inst src : Nat) : State :=
  if (s.core core).sideOwn = some inst then pulse s core src else s

/-! ### Hardware queues (R117) -/

/-- Pushes entries while space remains, and pulses the source of an empty queue that fills (R118). -/
def queuePush (s : State) (core q agent : Nat) (ws : List Word) : State × Nat :=
  let h := (s.core core).queue q
  let n := Nat.min ws.length (64 - h.items.length)
  let h1 := { h with items := h.items ++ ws.take n, pushPtr := (agent + 1) % 6 }
  let s1 := s.updCore core (fun c => { c with queues := put c.queues q h1 })
  (if h.items.isEmpty && decide (0 < n) then pulse s1 core (8 + q) else s1, n)

/-- Removes entries, and pulses the source of a full queue that empties (R118). -/
def queueTake (s : State) (core q agent n : Nat) : State :=
  let h := (s.core core).queue q
  let h1 := { h with items := h.items.drop n, popPtr := (agent + 1) % 6 }
  let s1 := s.updCore core (fun c => { c with queues := put c.queues q h1 })
  if decide (h.items.length = 64) && decide (0 < n) then pulse s1 core (16 + q) else s1

/-! ### Issuing accesses (R174, R183) -/

/-- Appends an operation to a class list; the class is numbered as CNTWAIT numbers it. -/
def addOp (g : Group) (cls left : Nat) : Group × Nat :=
  let o : ClassOp := { id := g.nextOp, left := left }
  let g1 := { g with nextOp := g.nextOp + 1 }
  let g2 := match cls with
    | 0 => { g1 with ld := g1.ld ++ [o] }
    | 1 => { g1 with st := g1.st ++ [o] }
    | 2 => { g1 with cp := g1.cp ++ [o] }
    | 3 => { g1 with mx := g1.mx ++ [o] }
    | _ => { g1 with qx := g1.qx ++ [o] }
  (g2, g.nextOp)

/-- Appends an access in program order. -/
def addAccess (g : Group) (a : Access) : Group :=
  { g with accs := g.accs ++ [{ a with id := g.nextAcc }], nextAcc := g.nextAcc + 1 }

/-- Sets scoreboard bits for the destinations of an operation (R103). -/
def addScore (g : Group) (op : Nat) (regs : List (BitVec 8)) : Group :=
  { g with score := g.score ++ regs.map (fun r => (op, r)) }

/-! ### The reconvergence stack and its spill area (R110 to R112) -/

/-- The 256-bit record of an entry (R110). -/
def entryBits (e : Entry) : BitVec 256 :=
  (e.pc.extractLsb' 2 46 ++ e.kind ++ 0#16 ++ e.mask ++ e.mode ++ e.fmt ++ 0#64 :
    BitVec (46 + 2 + 16 + 64 + 32 + 32 + 64))

/-- The entry of a 256-bit record. -/
def entryOf (b : BitVec 256) : Entry :=
  { pc := (b.extractLsb' 210 46 ++ 0#2 : BitVec (46 + 2)), kind := b.extractLsb' 208 2, mask := b.extractLsb' 128 64,
    mode := b.extractLsb' 96 32, fmt := b.extractLsb' 64 32 }

def spillCap (g : Group) : Nat := fnat g.spill 63 52
def spillUsed (g : Group) : Nat := fnat g.spill 51 40
/-- The virtual address of spilled block `n` (R112). -/
def spillAddr (g : Group) (n : Nat) : BitVec 64 :=
  (BitVec.ofNat 48 (fnat g.spill 38 0 * 512 + 512 * n)).signExtend 64

/-- A cause with the address and the arena that its record shows. -/
structure Cause where
  code  : BitVec 8
  fva   : BitVec 64
  thr   : Nat
  arena : BitVec 12
  deriving DecidableEq, Repr

/-- What a step of a group gives: a result, a cause, a wait for a page, or a read that is held back. -/
inductive Res (α : Type) where
  | ok (v : α)
  | fault (c : Cause)
  | wait (l : List Hold)
  | held (pa : Nat) (va : BitVec 64) (thr : Nat) (arena : BitVec 12)
  deriving DecidableEq, Repr

/-- The ordinary stores of a byte string at a checked place, 16 bytes each. -/
def storeBytes (g : Group) (op pa : Nat) (va : BitVec 64) (ar : BitVec 12) (gn : BitVec 4) (rg : BitVec 2)
    (bs : List Byte) : Group :=
  (List.range (bs.length / 16)).foldl
    (fun g i => addAccess g { Access.zero with
      op := op, kind := .store, addr := pa + 16 * i, size := 16, val := ofBytes 128 ((bs.drop (16 * i)).take 16),
      arena := ar, gen := gn, regn := rg, va := va + BitVec.ofNat 64 (16 * i), pc := g.pc }) g

/-- Pushes an entry on a group's stack, spilling the 16 oldest entries when 32 are held (R112). -/
def pushEntry (s : State) (core : Nat) (g : Group) (e : Entry) : Res Group :=
  if g.stack.length < 32 then .ok { g with stack := e :: g.stack }
  else if spillUsed g = spillCap g then .fault ⟨cSTACKOVF, 0, lowest g.amask, 0⟩
  else
    let va := spillAddr g (spillUsed g)
    match check s core (instRoot s g.inst) va 16 .write with
    | .fault c a => .fault ⟨c, va, lowest g.amask, a⟩
    | .wait l => .wait l
    | .ok pa ar gn rg =>
      let old := (g.stack.drop 16).reverse
      let o := addOp g 1 32
      let g1 := storeBytes o.1 o.2 pa va ar gn rg (old.flatMap (fun e => toBytes (entryBits e) 32))
      .ok { g1 with stack := e :: g.stack.take 16, spill := fput g.spill 51 40 (spillUsed g + 1) }

/-- Reads the newest spilled block back into an empty stack, as a load of the group in program order (R112, R190). -/
def refill (s : State) (core slot : Nat) (g : Group) : Res Group :=
  let va := spillAddr g (spillUsed g - 1)
  match check s core (instRoot s g.inst) va 16 .read with
  | .fault c a => .fault ⟨c, va, lowest g.amask, a⟩
  | .wait l => .wait l
  | .ok pa a _ _ =>
    if readHeld s core slot g pa 512 then .held pa va (lowest g.amask) a
    else if softAt s pa 512 then .fault ⟨cSOFTERR, va, lowest g.amask, a⟩
    else
      let es := (List.range 16).map (fun i =>
        entryOf (ofBytes 256 ((List.range 32).map (fun k => loadByte s core g g.nextAcc (pa + 32 * i + k)))))
      .ok { g with stack := es.reverse, spill := fput g.spill 51 40 (spillUsed g - 1) }

/-- Removes the top entry; a pop that empties the stack while blocks are spilled reads the newest block back (R112). -/
def popEntry (s : State) (core slot : Nat) (g : Group) : Res (Option Entry × Group) :=
  match g.stack with
  | [] =>
    if spillUsed g = 0 then .ok (none, g)
    else
      match refill s core slot g with
      | .ok h => .ok (h.stack.head?, { h with stack := h.stack.tail })
      | .fault c => .fault c
      | .wait l => .wait l
      | .held pa va t a => .held pa va t a
  | e :: r =>
    if r.isEmpty && decide (spillUsed g ≠ 0) then
      match refill s core slot g with
      | .ok h => .ok (some e, h)
      | .fault c => .fault c
      | .wait l => .wait l
      | .held pa va t a => .held pa va t a
    else .ok (some e, { g with stack := r })

/-! ### HNDL (R195) -/

def hUpc (g : Group) : BitVec 48 := fget g.hndl 191 144
def hSpc (g : Group) : BitVec 48 := fget g.hndl 143 96
def hEpc (g : Group) : BitVec 48 := fget g.hndl 95 48
def hUact (g : Group) : Bool := bit g.hndl 33
def hSact (g : Group) : Bool := bit g.hndl 32

/-! ### Taking a trap or a fault (R191 to R199) -/

/-- HNDL after a cause: EPC, CAUSE and THR (R191, R194, R195). -/
def noteCause (h : BitVec 192) (epc : BitVec 48) (f : FaultInfo) : BitVec 192 :=
  fput (fput (fput h 95 48 epc.toNat) 47 40 f.cause.toNat) 39 34 f.thr

/-- A group stands at its stopping point. -/
def Group.stands (g : Group) (f : FaultInfo) : Group :=
  if f.pc = g.pc then g else { g with pc := f.pc, split := 0, rest := 0, far := none }

/-- The group stops at its stopping point and its instance is to be parked (R88, R191): FAULT_PARK completes it. HNDL shows the cause and
the stopping point, which under TRAPFETCH is the handler's entry, while the group goes on at the original EPC (R199; log entry 102). Where a second group of the herd faults before the
park is complete, the first fault stands and one record is written (DESIGN CHOICE, log entry 81). -/
def parkGroup (s : State) (core slot : Nat) (f : FaultInfo) : State :=
  let epc := if f.cause = cTRAPFETCH then f.fva.setWidth 48 + 4 else f.pc
  let s1 := s.updGroup core slot (fun g => { g.stands f with stop := some f, hndl := noteCause g.hndl epc f })
  updInst s1 (s1.group core slot).inst (fun i => match i.flt with | none => { i with flt := some f } | some _ => i)

/-- What the X registers hold at entry (R197). -/
def setXregs (g : Group) (f : FaultInfo) : Group :=
  if f.cause = cILLEGAL then
    { g with xop := (f.word.extractLsb' 24 8).setWidth 32, xd := (f.word.extractLsb' 16 8).setWidth 32,
             xa := (f.word.extractLsb' 8 8).setWidth 32, xb := (f.word.extractLsb' 0 8).setWidth 32, xword := f.word }
  else
    { g with xop := (f.word.extractLsb' 24 8).setWidth 32, xd := 0, xa := f.fva.setWidth 32,
             xb := f.fva.extractLsb' 32 32, xword := f.word }

/-- The management core of a page's home die is to ask for the page (R44). -/
def wantPage (s : State) (pg : Nat) (w : Bool) : State :=
  let c := s.page pg
  if c.state = 2 || (c.state = 1 && w) then
    let own := w || c.want.getD false
    { s with pages := put s.pages pg { c with want := some own } }
  else s

/-- A check of a core misses a page: it takes one of the core's 32 entries, if it finds one, and the page one of its cluster's 256; a page
that is missing already is joined (R211). -/
def missPage (s : State) (core : Nat) (root : BitVec 30) (pg : Nat) : State :=
  let c := s.core core
  if !(c.miss.contains (root, pg)) && decide (32 ≤ c.miss.length) then s
  else
    let k := core / 8
    let u := s.cluster k
    let here := fun (w : Walk) => decide (w.root = root) && decide (w.page = pg)
    let walks :=
      if u.walks.any here then replaceFirst here (fun w => if w.cores.contains core then w else { w with cores := w.cores ++ [core] }) u.walks
      else if u.walks.length < 256 then u.walks ++ [⟨root, pg, [core]⟩] else u.walks
    ({ s with clus := put s.clus k { u with walks := walks } }).setCore core
      { c with miss := if c.miss.contains (root, pg) then c.miss else c.miss ++ [(root, pg)] }

/-- What an access that waits does meanwhile: it asks for its page, makes its walk, or starts its fill. -/
def noteHolds (s : State) (core : Nat) (l : List Hold) : State :=
  l.foldl (fun t h => match h with
    | .page pg w => wantPage t pg w
    | .walk r v => missPage t core r v
    | .fill c i p => startFill t c i p
    | .sync => t) s

/-- The entry of a group to a handler waits for a translation, and is made when that allows it (R44, R196). -/
def holdEntry (s : State) (core slot : Nat) (f : FaultInfo) (sup : Bool) (l : List Hold) : State :=
  noteHolds (s.updGroup core slot (fun g => { g with wait := .xlat l, entry := some (f, sup) })) core l

/-- What a handler finds at its entry (R196). -/
def atHandler (g : Group) (f : FaultInfo) (sup : Bool) (target : BitVec 48) : Group :=
  setXregs { g with
    hndl := setBit (noteCause g.hndl f.pc f) (if sup then 32 else 33) true, mode := 0, fmt := 0, pc := target + 4, wait := .none, split := 0, rest := 0
    far := none, entry := none, fired := false, hazards := [] } f

/-- Entry to a handler, as one action (R196): the user handler, or the supervisor handler when `sup`. A handler that
cannot be fetched parks the group with TRAPFETCH and no address in an arena (R87, R199), and a push that fails parks it with the
push's own cause. -/
def enterHandler (s : State) (core slot : Nat) (f : FaultInfo) (sup : Bool) : State :=
  let g := s.group core slot
  let target := if sup then hSpc g else hUpc g
  let bad := parkGroup s core slot { f with cause := cTRAPFETCH, fva := target.signExtend 64, arena := 0 }
  if target = 0 then bad
  else
    match check s core (instRoot s g.inst) (target.signExtend 64) 32 .fetch with
    | .fault _ _ => bad
    | .wait l => holdEntry s core slot f sup l
    | .ok _ _ _ _ =>
      match pushEntry s core g { pc := f.pc, kind := 0, mask := g.amask, mode := g.mode, fmt := g.fmt } with
      | .fault c => parkGroup s core slot { f with cause := c.code, fva := c.fva, arena := c.arena }
      | .wait l => holdEntry s core slot f sup l
      | .held _ _ _ _ => s
      | .ok g1 => s.setGroup core slot (atHandler g1 f sup target)

/-- The region's course of a fault: the supervisor handler of a TRAPOK region, or a park (R88, R89). -/
def regionFault (s : State) (core slot : Nat) (f : FaultInfo) : State :=
  if effTrapOk s (instRegion s (s.group core slot).inst) then enterHandler s core slot f true
  else parkGroup s core slot f

/-- Takes a trap, a fault or a park in a group, by the class of its cause (R191, R192, R198). -/
def takeTrap (s : State) (core slot : Nat) (f : FaultInfo) : State :=
  let g := s.group core slot
  if hSact g || isPClass f.cause then parkGroup s core slot f
  else if isUClass f.cause then
    if hUpc g = 0 || hUact g then regionFault s core slot f else enterHandler s core slot f false
  else regionFault s core slot f

/-- A cause of the instruction that executes. -/
def instrFault (s : State) (c : Cause) : FaultInfo :=
  { cause := c.code, fva := c.fva, pc := s.cur.pc, thr := c.thr, arena := c.arena, word := s.focus.word, kill := false,
    core := s.focus.core, slot := s.focus.slot }

/-- The executing instruction stops with a cause and no effect (R193). A step that faults leaves the halted group as it
was and notes the cause (R350). -/
def trap (s : State) (c : Cause) : State :=
  if s.focus.step then
    s.updCur (fun g => { g with halt := g.halt.map (fun h => { h with stepErr := true, cause := c.code }) })
  else takeTrap s s.focus.core s.focus.slot (instrFault s c)

/-- The executing instruction stops with a cause of no thread's access. -/
def trapCode (s : State) (code : BitVec 8) : State := trap s ⟨code, 0, lowest s.cur.amask, 0⟩

/-- The group waits for a translation and runs the instruction again (R43, R44, R211). -/
def waitXlat (s : State) (l : List Hold) : State := noteHolds (s.updCur (fun g => { g with wait := .xlat l })) s.focus.core l

/-! ### Watch predicates (R343 to R346) -/

/-- What one thread shows to a watch point: its values, bits 47:32 beside an address or a PC, and the arena. -/
structure Shown where
  thr   : Nat
  vals  : List Word
  hi    : BitVec 16
  arena : Option (BitVec 12)
  deriving DecidableEq, Repr

def Hit.join (a b : Option Hit) : Option Hit :=
  match a, b with
  | none, h => h
  | h, none => h
  | some x, some y =>
    some ⟨x.held ||| y.held, Nat.max x.scope y.scope, if x.scope < y.scope then y.wp else x.wp, Nat.min x.thr y.thr⟩

/-- One value passes a predicate's test (R343). -/
def watchTest (w : Watch) (x : Word) : Bool :=
  match fnat w.ctl 48 47 with
  | 0 => decide (w.opa.toNat ≤ x.toNat) && decide (x.toNat ≤ w.opb.toNat)
  | 1 => x &&& w.opb = w.opa
  | 2 => x = w.opa
  | _ => x &&& w.opa != 0

/-- A thread hits a predicate (R344). -/
def watchHit (w : Watch) (slot qty : Nat) (sh : Shown) : Bool :=
  decide (fnat w.ctl 51 49 = qty) && decide (fnat w.ctl 44 43 ≠ 3) &&
  sh.vals.any (watchTest w) &&
  (!(decide (qty = 0 ∨ qty = 5)) || fget w.ctl 15 0 = sh.hi) &&
  (!(bit w.ctl 42) || decide (fnat w.ctl 41 36 = slot)) &&
  (!(bit w.ctl 35) || decide (fnat w.ctl 34 29 = sh.thr)) &&
  (!(bit w.ctl 28) || sh.arena = some (fget w.ctl 27 16))

/-- One hit takes its action (R345): HITS counts it, LOG pushes an entry, HALT asks for a halt. -/
def watchAct (s : State) (core slot n : Nat) (pc : BitVec 48) (thr : Nat) : State × Option Hit :=
  let w := (s.core core).watch n
  let w1 := { w with ctl := fput w.ctl 63 56 (Nat.min 255 (fnat w.ctl 63 56 + 1)) }
  let s1 := s.updCore core (fun c => { c with wps := put c.wps n w1 })
  match fnat w.ctl 44 43 with
  | 0 => (s1, some ⟨if fnat w.ctl 46 45 = 0 then maskOf 64 [thr] else 0, fnat w.ctl 46 45, n, thr⟩)
  | 2 =>
    if (s1.core core).sideOwn = some (s1.group core slot).inst then
      let e : Word := (BitVec.ofNat 6 thr ++ BitVec.ofNat 6 slot ++ BitVec.ofNat 4 n ++ pc.extractLsb' 2 16 :
        BitVec (6 + 6 + 4 + 16))
      ((queuePush s1 core (fnat w.ctl 54 52) (2 + slot / 16) [e]).1, none)
    else (s1, none)
  | _ => (s1, none)

/-- A predicate is in force for an instruction: a herd has set it, before that instruction started where `born` names its start, and a
step applies no HALT (R347, R350; log entry 104). -/
def watchLive (step : Bool) (born : Option Nat) (w : Watch) : Bool :=
  w.owner.isSome && !(step && decide (fnat w.ctl 44 43 = 0)) && (match born with | some b => decide (w.since < b) | none => true)

/-- Applies every predicate in force to what the threads show at one watch point of an instruction. Predicates are not evaluated in
supervisor state (R344). -/
def watchFrom (s : State) (born : Option Nat) (core slot qty : Nat) (pc : BitVec 48) (shown : List Shown) : State × Option Hit :=
  if hSact (s.group core slot) || (s.core core).wps.isEmpty then (s, none)
  else
    let live := fun (n : Nat) => watchLive s.focus.step born ((s.core core).watch n)
    let pairs := ((List.range 16).filter live).flatMap (fun n =>
      (shown.filter (fun sh => watchHit ((s.core core).watch n) slot qty sh)).map (fun sh => (n, sh.thr)))
    pairs.foldl (fun (p : State × Option Hit) e =>
      let q := watchAct p.1 core slot e.1 pc e.2
      (q.1, Hit.join p.2 q.2)) (s, none)

/-- A watch point of the instruction in execution. -/
def watch (s : State) (core slot qty : Nat) (pc : BitVec 48) (shown : List Shown) : State × Option Hit :=
  watchFrom s none core slot qty pc shown

/-- A group keeps these waits when it halts: others know of its request (R346). -/
def keepsWaiting (w : Wait) : Bool :=
  match w with
  | .lock _ _ _ _ => true
  | .lkrq _ _ _ _ => true
  | .anew _ _ => true
  | .adrop _ _ _ _ => true
  | .aseal _ _ => true
  | .sync _ _ => true
  | _ => false

/-- The wait of a group that stops in its instruction, which runs again. -/
def stopWait (w : Wait) : Wait := if keepsWaiting w then w else .none

/-- A wait for a unit, a slot, a read or a page is an instruction that runs again; the others are for another agent to end. -/
def mayRetry (w : Wait) : Bool :=
  match w with
  | .none => true
  | .busy => true
  | .xlat _ => true
  | .refused _ => true
  | .held _ _ _ _ => true
  | .gate _ => true
  | .lkrq 7 _ _ _ => true
  | _ => false

/-- A group leaves the list of its partition's register-block waiters (R108). -/
def leaveList (s : State) (core slot : Nat) : State :=
  s.updCore core (fun c =>
    let p := c.part (slot / 16)
    c.setPart (slot / 16) { p with regwait := p.regwait.filter (fun k => decide (k ≠ slot)) })

/-- Stops a follower of a herd-scope halt where it stands; an operation that others carry out goes on to its end, and every latency
passes (R104, R346). -/
def stopFollower (s : State) (core slot : Nat) : State :=
  (leaveList s core slot).updGroup core slot (fun g => { g with
    halt := some { Halt.zero with scope := 3 }, follow := none, wait := stopWait g.wait, hazards := [] })

/-- A group waits in an instruction other than LOCK (R346). -/
def waitsElse (w : Wait) : Bool :=
  match w with
  | .none => false
  | .lock _ _ _ _ => false
  | _ => true

/-- The other groups of a herd stop after at most 2 further starts on the same core and 16 on others; those that wait in
an instruction stop at once, except in LOCK (R346). -/
def followHerd (s : State) (core slot inst : Nat) : State :=
  (s.allGroups.filter (fun e => e.2.2.resident && !e.2.2.ended && decide (e.2.2.inst = inst) && e.2.2.halt.isNone &&
    !(decide (e.1 = core) && decide (e.2.1 = slot)))).foldl (fun t e =>
      if waitsElse e.2.2.wait then stopFollower t e.1 e.2.1
      else t.updGroup e.1 e.2.1 (fun g => { g with follow := some (if e.1 = core then 2 else 16) })) s

/-- Stops a group at a halt, during which every latency passes (R104, R346). -/
def haltGroup (s : State) (core slot : Nat) (h : Hit) (flags : BitVec 6) (loadPc : BitVec 48) : State :=
  let s1 := s.updGroup core slot (fun g => { g with
    hazards := []
    halt := some { Halt.zero with scope := BitVec.ofNat 2 h.scope, wp := BitVec.ofNat 4 h.wp,
                                  thr := BitVec.ofNat 6 h.thr, flags := flags, loadPc := loadPc } })
  if h.scope = 2 then followHerd s1 core slot (s1.group core slot).inst else s1

/-! ### Completing an instruction -/

/-- A group goes on at a PC after its instruction. A step that leaves threads of SPLIT goes back to its instruction
(R350). -/
def Group.goOn (g : Group) (pc : BitVec 48) : Group :=
  let h := g.halt.map (fun h => { h with stepWait := false, stepThr := none, undo := none })
  if g.rest = 0 then { g with pc := pc, split := 0, wait := .none, halt := h, fired := false }
  else { g with split := g.rest, rest := 0, wait := .none, halt := h, fired := false }

/-- The group goes on to a slot; threads withheld at thread scope stay in SPLIT at the instruction (R346). -/
def retireTo (s : State) (h : Option Hit) (flags : BitVec 6) (pc : BitVec 48) : State :=
  match h with
  | none => s.updCur (fun g => g.goOn pc)
  | some x =>
    let s1 := s.updCur (fun g => if x.held = 0 then g.goOn pc else { g with split := x.held, wait := .none })
    haltGroup s1 s1.focus.core s1.focus.slot x flags 0

/-- The group goes on to the next slot. -/
def retire (s : State) (h : Option Hit) (flags : BitVec 6) : State := retireTo s h flags s.cur.nextPc

/-- Completes a wait of a group that is not executing: the group goes on at the slot after its instruction. -/
def endWait (s : State) (core slot : Nat) : State := s.updGroup core slot (fun g => g.goOn g.nextPc)

/-- An operation that others have answered ends: its group takes what it gives and goes on, or, where a late value has stopped the group in
its instruction, runs the instruction again (R346; log entry 105). -/
def endAnswered (s : State) (core slot : Nat) (wr : Group → Group) : State :=
  if (s.group core slot).redo then s.updGroup core slot (fun g => { g with wait := .none, redo := false })
  else endWait (s.updGroup core slot wr) core slot

/-- The group's herd holds the core's side resources (R114). -/
def sideHeld (s : State) (core slot : Nat) : Bool := (s.core core).sideOwn = some (s.group core slot).inst

/-- A side core stops with SIDEFAULT at an address, and the instance that holds the side resources is parked in every region
(R116, R367). -/
def sideFaultAt (s : State) (core : Nat) (storer : Bool) (fva : BitVec 64) : State :=
  let d := (s.core core).side storer
  let s1 := s.updCore core (fun c => c.setSide storer { d with status := 0 })
  match (s.core core).sideOwn with
  | none => s1
  | some i =>
    updInst s1 i (fun x => match x.flt with
      | some _ => x
      | none => { x with flt := some { cause := cSIDEFAULT, fva := fva, pc := d.pc.setWidth 48, thr := b2n storer, arena := 0,
                                       word := s.focus.word, kill := false, core := core, slot := 0 } })

/-- A side core stops with SIDEFAULT that concerns no address. -/
def sideFault (s : State) (core : Nat) (storer : Bool) : State := sideFaultAt s core storer 0

/-- The herd groups of an instance that are resident, with their places. -/
def herdGroups (s : State) (inst : Nat) : List (Nat × Nat × Group) :=
  match find s.insts inst with
  | none => []
  | some x => x.locs.map (fun l => (l.1, l.2, s.group l.1 l.2))

end Sys2Proof.Machine
end

