-- ==== Sys2Proof/Machine/Dir.lean ====
section
/-! DEFINITION. Lock messages and the directory and lock table of a home: refusals and reservations, sharers, recalls,
grants and releases, and the answers that complete them (R28, R30, R33 to R40, R147, R190, R329 to R341). -/
namespace Sys2Proof.Machine

/-! ### Lock messages (R28, R331, R332) -/

/-- The transaction number of a lock operation of a group: it uses the group's waiter entry and no miss-status entry (R331;
log entry 11). -/
def lockTxn (code grp : Nat) : Nat := 3072 + 64 * code + grp
def txnCode (t : Nat) : Nat := (t - 3072) / 64
def txnGrp (t : Nat) : Nat := (t - 3072) % 64

/-- The pair and the region attribute of a lock message about a line that its group holds or waits for: those of the line's lock entry
under the core's generation, or of the core's copy (R28, R41). -/
def lockPair (s : State) (core line : Nat) : BitVec 12 × BitVec 4 × BitVec 2 :=
  match find s.locks line with
  | some e => (e.arena, zget (s.core core).gens e.arena.toNat, e.regn)
  | none => let l := (s.core core).line line; (l.arena, l.gen, if l.kind = 3 then 0 else l.kind)

/-- The lock message of a group: the operation in INLINE bits 135:128 and OWNER in bits 165:136 of the flit (R332). -/
def lockMsg (code line core grp thr : Nat) (owner : BitVec 30) : Packet :=
  { toHome 0x0A line core grp thr with
    inl := (0#346 ++ owner ++ BitVec.ofNat 8 code : BitVec (346 + 30 + 8)), txn := BitVec.ofNat 12 (lockTxn code grp) }

def lockCode (p : Packet) : Nat := fnat p.inl 7 0
def lockOwner (p : Packet) : BitVec 30 := p.inl.extractLsb' 8 30

/-- Sends a lock message with the pair and the attribute that its line's PTE gives; the core keeps one request of each kind for a group
(R28, R41). -/
def sendLockAs (s : State) (code line core grp thr : Nat) (owner : BitVec 30) (ar : BitVec 12) (gn : BitVec 4) (rg : BitVec 2) : State :=
  sendReq (endReq s core (lockTxn code grp)) core (withPair (lockMsg code line core grp thr owner) ar gn rg)

/-- Sends a lock message about a line that the group holds or waits for. -/
def sendLock (s : State) (code line core grp thr : Nat) (owner : BitVec 30) : State :=
  let pr := lockPair s core line
  sendLockAs s code line core grp thr owner pr.1 pr.2.1 pr.2.2

/-! ### The level-one cache's lines (R147) -/

/-- Installs the sectors and the state of an HC copy in the line that its request has reserved; an exclusive copy stays so. -/
def installLine (s : State) (core line : Nat) (st : BitVec 2) (secs : BitVec 4) (a : BitVec 12) (g : BitVec 4) : State :=
  s.updCore core (fun c =>
    match find c.l1 line with
    | none => c
    | some l => c.setLine line { l with
        st := if l.st = 2 then 2 else st, sectors := l.sectors ||| secs, kind := if l.held = 0 then 0 else l.kind, arena := a, gen := g })

/-- Installs a locked line, exclusive and pinned, in the way that its request has reserved, with the live data that come with it: of a
CP copy only the written bytes stay (R30, R190, R335). -/
def pinLine (s : State) (core line : Nat) (a : BitVec 12) (g : BitVec 4) : State :=
  s.updCore core (fun c =>
    match find c.l1 line with
    | none => c
    | some l => c.setLine line { l with
        st := 2, sectors := 15, arena := a, gen := g, pinned := true, used := s.tick, held := if l.kind = 2 then l.written else l.held })

/-- Drops the HC state of a copy; a line that holds nothing else leaves the cache. -/
def dropLine (s : State) (core line : Nat) : State :=
  s.updCore core (fun c =>
    match find c.l1 line with
    | none => c
    | some l =>
      if l.held = 0 then clearLine c line else c.setLine line { l with st := 0, sectors := 0, dirty := 0, pinned := false })

/-! ### Directory entries (R34 to R36) -/

def State.dirAt (s : State) (line : Nat) : DirEntry := (find s.dir line).getD DirEntry.reset

/-- Writes an entry; one that says nothing is freed. -/
def setDir (s : State) (line : Nat) (d : DirEntry) : State :=
  { s with dir := if decide (d.state = 0) && !d.lk && decide (d.ncnt = 0) && !d.rsv then del s.dir line else put s.dir line d }

/-- The cores that the entry may name: the exact ones, or all of the marked clusters (R35). -/
def sharersOf (d : DirEntry) : List Nat :=
  if d.cvec then (bitsOf d.clus).flatMap (fun k => (List.range 8).map (fun i => 8 * k + i)) else d.ptrs

/-- Adds a sharer; a fifth one switches to clusters (R35). -/
def addSharer (d : DirEntry) (c : Nat) : DirEntry :=
  if d.cvec then { d with clus := setBit d.clus (c / 8) true }
  else if d.ptrs.contains c then d
  else if d.ptrs.length < 4 then { d with ptrs := d.ptrs ++ [c] }
  else { d with cvec := true, ptrs := [], clus := maskOf 32 ((d.ptrs ++ [c]).map (fun k => k / 8)) }

/-- The entry with one exclusive copy. -/
def exclusiveTo (d : DirEntry) (c : Nat) : DirEntry := { d with state := 2, cvec := false, clus := 0, ptrs := [c], wait := [], req := none }

/-- The directory set of a line, one of 1,024 (R34; log entry 11). -/
def dirSetOf (line : Nat) : Nat := Config.dirSet line % 1024

/-- The other entries of a line's set at its home: every one that says something takes a way (R34). -/
def dirPeers (s : State) (line : Nat) : Tbl DirEntry :=
  s.dir.filter (fun e => decide (e.1 ≠ line) && decide (homeOfLine e.1 = homeOfLine line) && decide (dirSetOf e.1 = dirSetOf line))

/-- A line has entries in its home's write queue (R40 item 7). -/
def wqHas (s : State) (line : Nat) : Bool := s.wq.any (fun e => decide (lineOf e.addr = line))

/-! ### Refusals (R40) -/

/-- The reservations of a line's home. -/
def resvCount (s : State) (line : Nat) : Nat := (s.resv.filter (fun e => decide (homeOfLine e.1 = homeOfLine line))).length

/-- The requester of a packet, as a reservation records it, with the loop cycle in which it is made (R40). -/
def resvFor (s : State) (p : Packet) : Nat × Nat × Nat := (p.core.toNat, p.txn.toNat, s.loopClock)

/-- The line's reservation is one for the requester of a packet. -/
def reservedFor (s : State) (line : Nat) (p : Packet) : Bool :=
  match find s.resv line with
  | some v => decide (v.1 = p.core.toNat) && decide (v.2.1 = p.txn.toNat)
  | none => false

/-- A reservation that has not been taken within 4,096 loop cycles since it was made (R40 item 2; log entry 30). -/
def resvOver (s : State) (v : Nat × Nat × Nat) : Bool := decide (v.2.2 + 4096 ≤ s.loopClock)

/-- A refusal. `count` says that it counts as a conflict. The one with which NCNT leaves 0, and the next one after a reservation has
lapsed, is recorded if the slice's table has room; without a reservation the count alone goes on. -/
def refuse (s : State) (p : Packet) (line : Nat) (count : Bool) : State :=
  let d := s.dirAt line
  let n := if count then Nat.min 31 (d.ncnt.toNat + 1) else d.ncnt.toNat
  let first := count && (decide (d.ncnt = 0) || d.lapsed) && (find s.resv line).isNone
  let resv := if first && decide (resvCount s line < 16) then put s.resv line (resvFor s p) else s.resv
  let s1 := { s with resv := resv }
  let rsv := d.rsv || (decide (16 ≤ n) && (find resv line).isSome)
  let hint := if rsv && reservedFor s1 line p then 0 else Nat.min 15 n
  send (setDir s1 line { d with ncnt := BitVec.ofNat 5 n, rsv := rsv, lapsed := d.lapsed && !first }) (nackPkt p hint)

/-- The home may serve a request now: the line is not busy, and not reserved for another requester. -/
def mayServe (s : State) (p : Packet) (line : Nat) : Bool :=
  let d := s.dirAt line
  decide (d.state ≠ 3) && (!d.rsv || reservedFor s line p)

/-- A reservation of a line lapses: the next refused request is recorded (R40 item 2). -/
def lapse (s : State) (line : Nat) : State :=
  setDir { s with resv := del s.resv line } line { s.dirAt line with rsv := false, lapsed := true }

/-- The reservations whose time is over lapse. -/
def settleResv (s : State) : State := (s.resv.filter (fun e => resvOver s e.2)).foldl (fun t e => lapse t e.1) s

/-- Service clears the reservation and the count. -/
def serviced (s : State) (line : Nat) : State :=
  let d := s.dirAt line
  setDir { s with resv := del s.resv line } line { d with ncnt := 0, rsv := false, lapsed := false, used := s.tick }

/-! ### Replies -/

/-- A reply of a line's home to a request, with the request's pair (R28). -/
def replyPkt (op line : Nat) (p : Packet) : Packet :=
  { withPair (mkPkt 1 op p.dst p.src (line * 256) p.core.toNat p.grp.toNat p.thr.toNat) p.arena p.gen p.regn with txn := p.txn }

/-- The pair of a line at its home, the request's own where the L2 does not hold the line. -/
def pairFor (s : State) (line : Nat) (p : Packet) : BitVec 12 × BitVec 4 :=
  match find s.l2 line with
  | some v => (v.arena, v.gen)
  | none => (p.arena, s.sgen (homeOfLine line) p.arena.toNat)

/-- The bytes of a line as a home serves them, owners' words included (R39). -/
def lineBytes (s : State) (line : Nat) : List Byte := (List.range 256).map (fun i => homeByte s (line * 256 + i))

/-- A reply with the data of the line's sectors that the request names. -/
def dataReply (s : State) (op line : Nat) (p : Packet) : Packet :=
  let pr := pairFor s line p
  withPair (withSectors (replyPkt op line p) p.smask (lineBytes s line)) pr.1 pr.2 p.regn

/-- An ACK with a status in INLINE bits 131:128 of the flit (R332). -/
def ackPkt (line : Nat) (p : Packet) (status : Nat) : Packet :=
  { replyPkt 0x13 line p with inl := BitVec.ofNat 384 status }

/-! ### The lock table (R190, R329, R330, R337) -/

/-- Rotates absent heads to the tail, at most as often as there are nodes. -/
def rotateTrail (fuel : Nat) (l : List TrailNode) : List TrailNode :=
  match fuel with
  | 0 => l
  | k + 1 =>
    match l with
    | [] => []
    | n :: r => if n.absent then rotateTrail k (r ++ [n]) else n :: r

def lockEntries (s : State) (line : Nat) : Tbl LockEntry := s.locks.filter (fun e => decide (homeOfLine e.1 = homeOfLine line))

/-- No entry is left for another line, or no trail node. -/
def lockFull (s : State) (line : Nat) : Bool := (find s.locks line).isNone && decide (1024 ≤ (lockEntries s line).length)
def trailFull (s : State) (line : Nat) : Bool := decide (4096 ≤ ((lockEntries s line).map (fun e => e.2.trail.length)).sum)

/-- The status that the next grant of a line without a lock entry reports (R190, R333). -/
def pastStatus (s : State) (line : Nat) : BitVec 4 :=
  match find s.pastLocks line with
  | some v => v.2
  | none => 0

/-- A lock entry is freed: what a drop or LKFREE has noted for the next grant stays with the line (R190, R329, R333). -/
def freeLock (s : State) (line : Nat) (e : LockEntry) : State :=
  { s with locks := del s.locks line, pastLocks := put s.pastLocks line (e.arena, e.nextst) }

/-- GRANT: the holder receives the line with its live data and the status kept for this grant (R190). -/
def grantTo (s : State) (line core grp thr : Nat) (ar : BitVec 12) (rg : BitVec 2) (own : BitVec 30) (trail : List TrailNode)
    (status : BitVec 4) : State :=
  let s0 := retake s (line * 256) 256
  let e : LockEntry := { hvalid := true, hcore := core, hgrp := grp, hthr := thr, hown := own, trail := trail, nextst := 0, arena := ar
                         regn := rg }
  let p := { toHome 0x0A line core grp thr with txn := BitVec.ofNat 12 (lockTxn 0 grp), arena := ar }
  let d := s0.dirAt line
  let pr := pairFor s0 line p
  let s1 := setDir { s0 with locks := put s0.locks line e, pastLocks := del s0.pastLocks line } line { exclusiveTo d core with lk := true, pin := true, used := s.tick, arena := ar }
  send s1 { withPair (withSectors (replyPkt 0x11 line p) 15 (lineBytes s1 line)) pr.1 pr.2 rg with hint := status }

/-- The grant to the first present waiter, or the line becomes unlocked (R337 steps 2 and 3). -/
def grantNext (s : State) (line : Nat) (e : LockEntry) : State :=
  match rotateTrail e.trail.length e.trail with
  | [] =>
    let d := s.dirAt line
    setDir (freeLock s line e) line { d with state := 2, lk := false, pin := false, wait := [], req := none }
  | n :: r =>
    if n.absent then
      let d := s.dirAt line
      setDir { s with locks := put s.locks line { e with hvalid := false, trail := n :: r } } line
        { d with state := 2, lk := false, pin := false, wait := [], req := none }
    else grantTo s line n.core n.grp n.thr e.arena e.regn n.owner r e.nextst

/-! ### Service of requests that need other copies (R39, R337) -/

/-- The request is completed once every other copy has been dealt with. A read of the line's own exclusive owner, for a sector that it
does not hold, leaves it the owner (log entry 91). -/
def completeReq (s : State) (line : Nat) (p : Packet) : State :=
  let d := { s.dirAt line with arena := p.arena, gen := if staleAt s line p.arena p.gen then s.sgen (homeOfLine line) p.arena.toNat else p.gen }
  let c := p.core.toNat
  match p.op.toNat with
  | 0x01 =>
    if p.regn = 1 then send (setDir s line { d with state := 4, wait := [], req := none }) (dataReply s 0x10 line p)
    else if d.state = 2 ∧ d.ptrs = [c] then send (setDir s line { d with wait := [], req := none, used := s.tick }) (dataReply s 0x10 line p)
    else
      send (setDir s line { addSharer { d with state := 1, wait := [], req := none } c with used := s.tick }) (dataReply s 0x10 line p)
  | 0x02 => send (setDir s line (exclusiveTo d c)) (dataReply s 0x11 line p)
  | 0x03 => send (setDir s line (exclusiveTo d c)) (replyPkt 0x12 line p)
  | 0x07 =>
    let ws := (bitsOf (p.inl.extractLsb' 0 64)).map (fun i => line * 64 + i)
    let s1 := ws.foldl (fun t w => ownWord t c p.arena p.gen w) s
    send (setDir s1 line { d with state := 4, wait := [], req := none }) (replyPkt 0x13 line p)
  | _ =>
    match lockCode p, find s.locks line with
    | 2, some e => send (grantNext s line e) (ackPkt line p 0)
    | 4, some e => send (grantNext s line e) (ackPkt line p 0)
    | 7, some e => grantNext s line e
    | _, some e => grantTo s line c p.grp.toNat p.thr.toNat p.arena p.regn (lockOwner p) e.trail e.nextst
    | _, none => grantTo s line c p.grp.toNat p.thr.toNat p.arena p.regn (lockOwner p) [] (pastStatus s line)

/-- The entry awaits answers of some cores for a request, or for a recall on the home's own account, which may make room for another
request. -/
def awaitCores (s : State) (line : Nat) (cs : List Nat) (p room : Option Packet) (msgs : List Packet) : State :=
  let d := s.dirAt line
  sendAll (setDir s line { d with state := 3, before := d.state, wait := cs, req := p, room := room, used := s.tick }) msgs

/-- A control message about a line of a directory entry, for a request or on the home's own account. -/
def ctlMsg (s : State) (op line : Nat) (txn : BitVec 12) (core : Nat) : Packet :=
  let d := s.dirAt line
  ctlCore op line core d.arena d.gen (if d.state = 4 then 1 else 0) txn

/-- The owners of a line's words other than a core. -/
def otherOwners (s : State) (line core : Nat) (words : BitVec 64) : List Nat :=
  ((bitsOf words).filterMap (fun i => find s.own (line * 64 + i))).foldl
    (fun l c => if c = core ∨ l.contains c then l else l ++ [c]) []

/-- The words of a line that a core owns, as a mask. -/
def ownedMask (s : State) (line core : Nat) (words : BitVec 64) : BitVec 64 :=
  maskOf 64 ((bitsOf words).filter (fun i => decide (find s.own (line * 64 + i) = some core)))

/-- DWN or OWNX to an SC owner, with its words in INLINE. -/
def wordsMsg (s : State) (op line : Nat) (words : BitVec 64) (txn : BitVec 12) (core : Nat) : Packet :=
  { ctlMsg s op line txn core with regn := 1, inl := (ownedMask s line core words).setWidth 384 }

/-- INV to sharers, RCL to the owner, or OWNX to the owners of SC words, other than a core (R36, R39, R45). -/
def recallOthers (s : State) (line c : Nat) (txn : BitVec 12) : List Nat × List Packet :=
  let d := s.dirAt line
  let cs := (sharersOf d).filter (fun k => decide (k ≠ c))
  let all : BitVec 64 := BitVec.allOnes 64
  if d.state = 1 then (cs, cs.map (ctlMsg s 0x20 line txn))
  else if d.state = 2 then (cs, cs.map (ctlMsg s 0x22 line txn))
  else if d.state = 4 then (otherOwners s line c all, (otherOwners s line c all).map (wordsMsg s 0x23 line all txn))
  else ([], [])

/-- Serves a request once no other core holds a copy: at once, or after the recalls. It waits for the line's write queue
first (R40 item 7). -/
def serveExclusive (s : State) (line : Nat) (p : Packet) : State :=
  let r := recallOthers s line p.core.toNat p.txn
  if r.1.isEmpty then completeReq s line p else awaitCores s line r.1 (some p) none r.2

/-- The recalls of such a request may be sent. -/
def mayRecall (s : State) (line c : Nat) : Bool := (recallOthers s line c 0).1.isEmpty || !(wqHas s line)

/-! ### Room for a new entry (R36) -/

/-- What the home does about a line that has no entry: it has room, it must recall a victim first, or it must refuse. -/
inductive DirRoom where
  | room
  | victim (line : Nat)
  | none
  deriving DecidableEq, Repr

def dirRoom (s : State) (line : Nat) : DirRoom :=
  if (find s.dir line).isSome then .room
  else
    let peers := dirPeers s line
    if peers.length < 16 then .room
    else
      match argmin (fun e => e.2.used) (peers.filter (fun e => !e.2.pin && decide (e.2.state ≠ 3))) with
      | some e => .victim e.1
      | none => .none

/-- A request that has been set aside is the first of its slice's queue again. -/
def backToQueue (s : State) (p : Packet) : State :=
  { s with net := ⟨s.nextPkt, loopFor p.src p.dst (pktLine p), .landed 0, p⟩ :: s.net, nextPkt := s.nextPkt + 1 }

/-- An entry is freed, with its count and its reservation. -/
def freeDir (s : State) (line : Nat) : State := { s with dir := del s.dir line, resv := del s.resv line }

/-- Starts the recall of a victim for a request, which waits for its way; one that no core holds is freed at once. -/
def recallVictim (s : State) (line : Nat) (p : Packet) : State :=
  let r := recallOthers s line 256 0
  if r.1.isEmpty then backToQueue (freeDir s line) p else awaitCores s line r.1 none (some p) r.2

/-- The home of a line recalls every copy that its directory names, on its own account; an entry that is BUSY is recalled later (R45,
R165). -/
def recallEntry (s : State) (line : Nat) : State :=
  let r := recallOthers s line 256 0
  if r.1.isEmpty then s else awaitCores s line r.1 none none r.2

/-- The victim of a full set may be recalled: no recall is needed, or its line's write queue is empty (R40 item 7). -/
def roomReady (s : State) (line : Nat) : Bool :=
  match dirRoom s line with
  | .victim v => mayRecall s v 256
  | _ => true

/-- An answer of a core arrives: the request completes with the last one, or the entry that a recall was for is free. -/
def takeAnswer (s : State) (line core : Nat) : State :=
  let d := s.dirAt line
  let w := d.wait.filter (fun k => decide (k ≠ core))
  if d.state ≠ 3 then s
  else if !w.isEmpty then setDir s line { d with wait := w }
  else
    match d.req with
    | some p => completeReq (setDir s line { d with wait := [] }) line p
    | none =>
      match d.room with
      | some p => backToQueue (freeDir s line) p
      | none => setDir s line { d with state := 0, cvec := false, ptrs := [], clus := 0, wait := [], req := none }

/-- An entry that names no copy any more; one that is BUSY still awaits its answers, and a lock stays (R43, R166). -/
def freedEntry (d : DirEntry) : DirEntry :=
  if d.state = 3 then { d with cvec := false, ptrs := [], clus := 0 }
  else { d with state := 0, cvec := false, ptrs := [], clus := 0, wait := [], req := none }

/-! ### The waits-for walk (R341, R342) -/

/-- The line that a group waits for in LOCK. -/
def waitLine (g : Group) : Option Nat := match g.wait with | .lock l _ _ _ => some l | _ => none

/-- The walk from a line: whether it reaches a group already visited, the hops, and the groups in order. -/
def walkLocks (s : State) (fuel line hops : Nat) (seen : List (Nat × Nat)) : Bool × Nat × List (Nat × Nat) :=
  match fuel with
  | 0 => (false, hops, seen)
  | k + 1 =>
    match find s.locks line with
    | none => (false, hops, seen)
    | some e =>
      if !e.hvalid then (false, hops, seen)
      else
        let h := (e.hcore, e.hgrp)
        if seen.contains h then (true, hops + 1, seen.drop (seen.idxOf h))
        else
          match waitLine (s.group e.hcore e.hgrp) with
          | none => (false, hops + 1, seen ++ [h])
          | some l => walkLocks s k l (hops + 1) (seen ++ [h])

/-- What LKPROBE reports (R342). -/
def probeWords (s : State) (line : Nat) : Word × Word :=
  match find s.locks line with
  | none => (0, 0)
  | some e =>
    let n := Nat.min 2047 e.trail.length
    if !e.hvalid then (BitVec.ofNat 32 n, 0)
    else
      let w := walkLocks s 16 line 0 []
      ((1#1 ++ BitVec.ofNat 8 e.hcore ++ BitVec.ofNat 6 e.hgrp ++ BitVec.ofNat 6 e.hthr ++ BitVec.ofNat 11 n :
          BitVec (1 + 8 + 6 + 6 + 11)),
       (BitVec.ofBool w.1 ++ BitVec.ofNat 5 w.2.1 ++ 0#26 : BitVec (1 + 5 + 26)))

end Sys2Proof.Machine
end

