-- ==== Sys2Proof/Machine/Flush.lean ====
section
/-! DEFINITION. Page flushes: PFL, PACK and the last ACK (R43, R45), and the removal of TLB entries (R212). -/
namespace Sys2Proof.Machine

/-! ### TLB entries (R210, R212) -/

/-- Removes every TLB entry that a test selects, from every core and cluster. -/
def dropTlb (s : State) (p : TlbEntry → Bool) : State :=
  { s with
    cores := s.cores.map (fun c => (c.1, { c.2 with tlb := c.2.tlb.filter (fun e => !(p e)) }))
    clus := s.clus.map (fun c => (c.1, { c.2 with tlb := c.2.tlb.filter (fun e => !(p e)) })) }

/-- The entry was filled from a PTE; a 64 KiB page has 16 of them (R207). -/
def filledFrom (at_ : Nat) (e : TlbEntry) : Bool :=
  if e.size = 0x10000 then decide (e.src / 128 = at_ / 128) else decide (e.src = at_)

/-- The PTEs of the page that a CBSYNC on an address of one synchronises: all 16 of a 64 KiB page (R207). -/
def syncedPtes (s : State) (at_ : Nat) : List Nat :=
  let p := readPte s at_
  pteKeys (if pteV p && pteLeaf p && pteS64 p then 0x10000 else 0x1000) at_

/-- What was filled from a PTE goes at a CBSYNC on it: the TLB entries, and, where it is a non-leaf entry, what the clusters hold of it
(log entry 12). The attribute in force is noted anew by the next walk (R43, R212). -/
def forgetPte (s : State) (at_ : Nat) : State :=
  let s1 := dropTlb s (filledFrom at_)
  { s1 with
    clus := s1.clus.map (fun c => (c.1, { c.2 with upper := c.2.upper.filter (fun u => decide (u.src ≠ at_)) }))
    attrs := s1.attrs.filter (fun e => !((syncedPtes s at_).contains e.1)) }

/-- The entry maps some byte of a physical range. -/
def mapsRange (pa len : Nat) (e : TlbEntry) : Bool :=
  decide (ptePage e.pte < pa + len) && decide (pa < ptePage e.pte + e.size)

/-! ### Lines of a page -/

def linesOf (page size : Nat) : List Nat := (List.range (size / 256)).map (fun i => page / 256 + i)

/-- The lines of a table that lie in a page and have a home. -/
def inPage (page size home line : Nat) : Bool :=
  decide (page ≤ line * 256) && decide (line * 256 < page + size) && decide (homeOfLine line = home)

/-- A core gives up a line at a page flush: EVD for what memory does not have, and no notice of a clean copy (R43 step 3). -/
def giveUpLine (s : State) (core line : Nat) : State :=
  match find (s.core core).l1 line with
  | none => s
  | some l => if dirtySectors l = 0 then flushLine s core line else evictLine s core line l

/-- The fills of some lines that a core awaits are to be used and not kept (R40 item 5). -/
def markFills (s : State) (core : Nat) (p : Nat → Bool) : State :=
  s.updCore core (fun c => { c with reqs := c.reqs.map (fun r =>
    if decide (r.pkt.txn.toNat < 3072) && decide (r.pkt.op.toNat ≤ 3) && p (pktLine r.pkt) then { r with invd := true } else r) })

/-! ### The messages -/

/-- The transaction number of a group's page flush. -/
def flushTxn (slot : Nat) : Nat := 3648 + slot

/-- The flush of a group. -/
def flushOf (s : State) (core slot : Nat) : Option Flush :=
  s.flushes.find? (fun f => decide (f.core = core) && decide (f.slot = slot))

def setFlush (s : State) (core slot : Nat) (g : Flush → Flush) : State :=
  { s with flushes := s.flushes.map (fun f => if f.core = core ∧ f.slot = slot then g f else f) }

/-- A line of a page at each of its homes, all 16 slices of its die (R33). -/
def homeLines (page : Nat) : List Nat := (List.range 16).map (fun i => page / 256 + i)

/-- Starts the flush of a page for a group: PFLR to every home of the page, with the pair and the attribute of the entry that maps it
(R41, R43). -/
def startFlush (s : State) (core slot page size : Nat) (e : BitVec 64) : State :=
  let a := pteArena e
  let f : Flush := { page := page, size := size, arena := a, gen := zget (s.core core).gens a.toNat, regn := pteRegn e
                     homes := (homeLines page).map homeOfLine, cores := [], core := core, slot := slot }
  (homeLines page).foldl (fun t l => sendReq t core
    { withPair (toHome 0x0B l core slot 0) f.arena f.gen f.regn with txn := BitVec.ofNat 12 (flushTxn slot) })
    { s with flushes := s.flushes ++ [f] }

/-- The transaction number of a flush: that of its group's, or, of a management core's, one of its own. -/
def flushNo (f : Flush) : Nat := if 256 ≤ f.core then 4096 - f.core + 255 else flushTxn f.slot

/-- PFL of a home to a core, with the transaction number of its flush. -/
def pflPkt (f : Flush) (line core : Nat) : Packet := ctlCore 0x24 line core f.arena f.gen f.regn (BitVec.ofNat 12 (flushNo f))

/-- The flush to which a PFL or a PACK belongs: one with its number for which its home awaits its core. -/
def flushFor (s : State) (p : Packet) : Option Flush :=
  s.flushes.find? (fun f => decide (flushNo f = p.txn.toNat) && (homeLines f.page).contains (pktLine p) &&
    f.cores.contains (homeOfLine (pktLine p), p.core.toNat))

/-- The home of a line sends PFL to every core (R43 step 3). -/
def sendPfl (s : State) (f : Flush) (line : Nat) : State :=
  let cs := List.range 256
  sendAll (setFlush s f.core f.slot (fun g => { g with cores := g.cores ++ cs.map (fun c => (homeOfLine line, c)) })) (cs.map (pflPkt f line))

/-- The lines that a core gives up at a PFL: those of the page that its home keeps. -/
def pflLines (s : State) (p : Packet) : List Nat :=
  match flushFor s p with
  | none => []
  | some f => (((s.core p.core.toNat).l1.filter (fun e => inPage f.page f.size (homeOfLine (pktLine p)) e.1))).map Prod.fst

/-- A core has entries for the notices of the lines that it gives up at a PFL (R30; log entry 96). -/
def pflRoom (s : State) (p : Packet) : Bool :=
  let c := s.core p.core.toNat
  reqRoom s p.core.toNat ((pflLines s p).filter (fun l => decide (dirtySectors (c.line l) ≠ 0))).length

/-- PFL: the core writes back and invalidates every line of the page that this home keeps, and answers PACK; fills under way are not
kept (R43 step 3). -/
def execPfl (p : Packet) (s : State) : Out :=
  deliverIf s p (decide (p.op = 0x24) && pflRoom s p) (fun t =>
    let core := p.core.toNat
    let t1 := match flushFor t p with
      | none => t
      | some f => (pflLines t p).foldl (fun u l => giveUpLine u core l) (markFills t core (inPage f.page f.size (homeOfLine (pktLine p))))
    send t1 (answerTo p 0x18))

/-- The home clears its directory and ownership entries of the page; a locked line keeps its lock (R43 step 4). -/
def clearPage (s : State) (page size home : Nat) : State :=
  let ds := s.dir.filter (fun e => inPage page size home e.1)
  let s1 := ds.foldl (fun t e => setDir t e.1 (freedEntry e.2)) s
  { s1 with own := s1.own.filter (fun e => !(inPage page size home (e.1 / 64))) }

/-- The home's answer to the initiator of a flush (R43 step 4). -/
def flushAck (f : Flush) (line : Nat) : Packet :=
  { withPair (mkPkt 1 0x13 (homeStop line) (stopOfCore f.core) (line * 256) f.core f.slot 0) f.arena f.gen f.regn with
    txn := BitVec.ofNat 12 (flushTxn f.slot) }

/-- PACK: with the last one the home clears its entries and answers the initiator; a management core counts the home as done (R43 step
4, R45). -/
def execPackMessage (p : Packet) (s : State) : Out :=
  deliverIf s p (decide (p.op = 0x18)) (fun t =>
    let line := pktLine p
    let h := homeOfLine line
    match flushFor t p with
    | none => t
    | some f =>
      let left := f.cores.filter (fun e => !(decide (e = (h, p.core.toNat))))
      let t1 := setFlush t f.core f.slot (fun g => { g with cores := left })
      if left.any (fun e => decide (e.1 = h)) then t1
      else if 256 ≤ f.core then setFlush (clearPage t1 f.page f.size h) f.core f.slot (fun g => { g with homes := g.homes.filter (fun k => decide (k ≠ h)) })
      else send (clearPage t1 f.page f.size h) (flushAck f line))

/-- One request with a transaction number has ended, that of a packet's line. -/
def endLineReq (s : State) (p : Packet) : State :=
  s.updCore p.core.toNat (fun c => { c with reqs := removeFirst (fun r => decide (r.pkt.txn = p.txn) && decide (pktLine r.pkt = pktLine p)) c.reqs })

/-- An ACK of a flush: with the last one the TLB entries go and the CBSYNC retires, an acquire (R43 step 5, R180). -/
def flushAcked (s0 : State) (p : Packet) : State :=
  let s := endLineReq s0 p
  let core := p.core.toNat
  let slot := p.txn.toNat - 3648
  match flushOf s core slot with
  | none => s
  | some f =>
    let left := f.homes.filter (fun h => decide (h ≠ homeOfLine (pktLine p)))
    if !left.isEmpty then setFlush s core slot (fun g => { g with homes := left })
    else
      let s1 := { s with flushes := s.flushes.filter (fun g => !(decide (g.core = core) && decide (g.slot = slot))) }
      let s2 := dropTlb s1 (mapsRange f.page f.size)
      match (s2.group core slot).wait with
      | .sync _ at_ => endAnswered (selfInv (forgetPte s2 at_) core) core slot id
      | _ => s2

end Sys2Proof.Machine
end

