-- ==== Sys2Proof/Machine/Life.lean ====
section
/-! DEFINITION. The life of groups, herds and instances on cores: the pool of register blocks, ending a group, leaving a
core, and a kill (R70, R71, R107, R108, R114, R250, R354). -/
namespace Sys2Proof.Machine

/-! ### Register blocks (R107, R108) -/

/-- The blocks of a partition's pool that no group holds. -/
def poolFree (c : Core) (part : Nat) : Nat :=
  32 - ((c.groups.filter (fun g => decide (g.1 / 16 = part) && g.2.resident)).map (fun g => popcount g.2.xheld)).sum

/-- The slots, lowest first, that a group does not hold. -/
def freeSlots (g : Group) : List Nat := (List.range 8).filter (fun k => !(bit g.xheld k))

/-- The slots that a group holds, highest first. -/
def heldSlots (g : Group) : List Nat := (bitsOf g.xheld).reverse

/-- The registers of a slot, all threads, as keys of the vector file (R107). -/
def slotKey (k : Nat) : Nat := 64 * (32 + 16 * k)

/-- A slot's registers dropped: they read as zero when the slot is acquired again (R108). -/
def clearSlot (g : Group) (k : Nat) : Group :=
  { g with vectors := keepKeys (fun n => decide (n < slotKey k) || decide (slotKey (k + 1) ≤ n)) g.vectors }

/-- Gives a group `n` blocks, into its lowest free slots. -/
def takeBlocks (g : Group) (n : Nat) : Group :=
  ((freeSlots g).take n).foldl (fun h k => { clearSlot h k with xheld := setBit h.xheld k true }) g

/-- A register of one of some slots. -/
def inSlots (ks : List Nat) (r : BitVec 8) : Bool := match slotOf r with | some k => ks.contains k | none => false

/-- The code that stands for a destination whose slot has been released: nothing is written to it. -/
def noReg : BitVec 8 := 255

/-- An access owes nothing to released slots any more. -/
def forgetSlots (ks : List Nat) (a : Access) : Access := { a with dst := a.dst.map (fun r => if inSlots ks r then noReg else r) }

/-- Takes `n` blocks from a group, from its highest held slots; results still owed to them are discarded (R265). -/
def dropBlocks (g : Group) (n : Nat) : Group :=
  let ks := (heldSlots g).take n
  let h := { g with accs := g.accs.map (forgetSlots ks), score := g.score.filter (fun e => !(inSlots ks e.2)) }
  ks.foldl (fun h k => { clearSlot h k with xheld := setBit h.xheld k false }) h

/-- The units owe nothing to released slots of a group any more (R265). -/
def loseSlots (ks : List Nat) (slot : Nat) (l : List UnitOp) : List UnitOp :=
  l.map (fun o => if o.slot = slot then { o with lost := o.lost ||| maskOf 8 ks } else o)

/-- A group gives up its `n` highest held slots (R265). -/
def releaseBlocks (s : State) (core slot n : Nat) : State :=
  let ks := (heldSlots (s.group core slot)).take n
  (s.updGroup core slot (fun g => dropBlocks g n)).updCore core (fun c =>
    let p := c.part (slot / 16)
    c.setPart (slot / 16) { p with munit := loseSlots ks slot p.munit, qunit := loseSlots ks slot p.qunit })

/-! ### Cores in use (R71) -/

/-- An instance other than `inst` whose region lies at or below `q` has resident groups on the core. -/
def coreCarries (s : State) (core q inst : Nat) : Bool :=
  (s.core core).groups.any (fun g => g.2.resident && decide (g.2.inst ≠ inst) &&
    (pathOf s (instRegion s g.2.inst)).contains q)

/-- Changes CORESU for a herd that comes to or leaves a core: only where no other herd of the region is there (R71). -/
def coreUse (s : State) (core inst : Nat) (d : Int) : State :=
  (pathOf s (instRegion s inst)).foldl (fun t q =>
    if coreCarries t core q inst then t
    else setRegion t q 831 823 ((Int.ofNat (fnat (t.rcb q) 831 823) + d).toNat)) s

/-! ### Leaving a core (R114, R126, R347) -/

/-- The groups of an instance on a core. -/
def groupsOn (s : State) (core inst : Nat) : List (Nat × Group) :=
  (s.core core).groups.filter (fun g => g.2.resident && decide (g.2.inst = inst))

/-- What a herd frees on a core when it leaves it: its group slots, table slots, watch predicates, partitions, scratchpad
and side resources. -/
def freeCore (c : Core) (inst : Nat) (keepScratch : Bool) : Core :=
  let c1 := { c with
    groups := c.groups.map (fun g => (g.1, if decide (g.2.inst = inst) then { g.2 with resident := false } else g.2))
    tabOwn := c.tabOwn.filter (fun e => decide (e.2 ≠ inst))
    wps := c.wps.map (fun e => (e.1, if e.2.owner = some inst then Watch.reset else e.2))
    parts := c.parts.map (fun e => (e.1, if e.2.owner = some inst then { e.2 with owner := none } else e.2))
    scratch := if keepScratch then c.scratch else del c.scratch inst }
  if c.sideOwn = some inst then
    { c1 with
      sideOwn := none, queues := [], routes := [], firings := [], gateM := [], gateQ := [], timer := none
      loader := Side.reset, storer := Side.reset }
  else c1

/-- The use counts that fall when a herd leaves a core: groups and cores, and the blocks its groups still hold (R71). -/
def leaveCounts (s : State) (core inst : Nat) : State :=
  let gs := groupsOn s core inst
  let r := instRegion s inst
  let s1 := coreUse s core inst (-1)
  let s2 := addUse s1 r 822 808 (-(gs.length : Int))
  addUse s2 r 807 792 (-((gs.map (fun g => popcount g.2.xheld)).sum : Int))

/-- A herd leaves a core. -/
def leaveCore (s : State) (core inst : Nat) : State :=
  let s1 := leaveCounts s core inst
  let s2 := s1.updCore core (fun c => freeCore c inst false)
  updInst s2 inst (fun x => { x with locs := x.locs.filter (fun l => decide (l.1 ≠ core)) })

/-- A herd leaves a core when all its groups there have exited and, where it holds the side resources, both side cores
have halted (R114). -/
def tryLeave (s : State) (core inst : Nat) : State :=
  let c := s.core core
  let gs := groupsOn s core inst
  if !gs.isEmpty && gs.all (fun g => g.2.ended) &&
      (!(decide (c.sideOwn = some inst)) || (decide (c.loader.status = 0) && decide (c.storer.status = 0))) then
    leaveCore s core inst
  else s

/-! ### Ending a group (R249, R250, R337) -/

/-- The pairing of a group ends for both partners (R113, R250). -/
def unpair (s : State) (core slot : Nat) : State :=
  match (s.group core slot).pair with
  | none => s
  | some (c, g) =>
    let s1 := s.updGroup core slot (fun k => { k with pair := none })
    s1.updGroup c g (fun k => if k.pair = some (core, slot) then { k with pair := none } else k)

/-- The release of a line that a group holds: a message sent after its older accesses (R337). -/
def addUnlock (g : Group) (line : Nat) : Group :=
  let a : Access := { Access.zero with
    op := g.nextOp, kind := .unlock, addr := 2 ^ 40 + line * 256, rel := true, pc := g.pc }
  addAccess { g with nextOp := g.nextOp + 1, locks := g.locks.filter (fun l => decide (l ≠ line)) } a

/-- A group ends: its blocks return to the pool, its pairing ends, it releases its lines, and the register results still in
flight are discarded (R250). -/
def endGroup (s : State) (core slot : Nat) : State :=
  let s1 := unpair s core slot
  let g := s1.group core slot
  let s2 := addUse s1 (instRegion s1 g.inst) 807 792 (-(popcount g.xheld : Int))
  let g1 := g.locks.foldl addUnlock g
  let s3 := s2.setGroup core slot { g1 with
    ended := true, amask := 0, split := 0, rest := 0, xheld := 0, mon := none, monHit := false, wait := .none, score := []
    hazards := [], halt := none, follow := none
    accs := g1.accs.map (fun a => { a with dst := [], pred := none }) }
  tryLeave s3 core g.inst

/-! ### A kill (R89, R354) -/

/-- A task has been killed: its instances are to stop, and none of them is placed again. -/
def taskKilled (s : State) (tcb : Nat) : Bool :=
  s.insts.any (fun e => decide (e.2.tcb = tcb) && (match e.2.flt with | some f => f.kill | none => false))

/-- A group of instance `inst` kills its task: every instance of the task is to stop, and nothing of the task waits for a place any
more (R89, R354). Of two kills of one task the first stands. -/
def killTask (s : State) (tcb inst : Nat) (f : FaultInfo) : State :=
  if taskKilled s tcb then s
  else
    let keep := fun (l : List Ready) => l.filter (fun q => decide (q.tcb ≠ tcb))
    { s with
      insts := s.insts.map (fun e =>
        (e.1, if e.2.tcb = tcb then { e.2 with flt := some { f with kill := true }, killer := decide (e.1 = inst) } else e.2))
      sched := s.sched.map (fun (d : Nat × DieSched) => (d.1, { d.2 with ready := keep d.2.ready, chosen := keep d.2.chosen })) }

end Sys2Proof.Machine
end

