-- ==== Sys2Proof/Machine/Flags.lean ====
section
/-! DEFINITION. Flag sets (R133), element types (R123, R124, R127), integer fitting (R131) and the rounding functions
(R128 to R130). -/
namespace Sys2Proof.Machine

/-! ### Flag sets (R133) -/

abbrev Flags := BitVec 6
def fNX : Flags := 1
def fUF : Flags := 2
def fOF : Flags := 4
def fDZ : Flags := 8
def fNV : Flags := 16
def fSA : Flags := 32

/-! ### MODE (R222, R127, R128) -/

def mType (m : BitVec 32) : Nat := fnat m 27 24
def mRound (m : BitVec 32) : Nat := fnat m 23 21
def mSat (m : BitVec 32) : Bool := bit m 20
def mFtz (m : BitVec 32) : Bool := bit m 19
def mChk (m : BitVec 32) : Bool := bit m 18
def mGate (m : BitVec 32) : Bool := bit m 17

/-- A MODE value that SETMODE accepts (R127). -/
def modeOk (m : BitVec 32) : Bool := decide (mType m < 10) && decide (mRound m < 5) && decide (fnat m 16 0 = 0)

/-! ### FMT (R224, R132) -/

def fmtA (f : BitVec 32) : Nat := fnat f 31 28
def fmtB (f : BitVec 32) : Nat := fnat f 27 24
def fmtAtab (f : BitVec 32) : Nat := fnat f 23 20
def fmtBtab (f : BitVec 32) : Nat := fnat f 19 16
def fmtNan (f : BitVec 32) : Nat := fnat f 15 12
def fmtScale (f : BitVec 32) : Int := (f.extractLsb' 0 8).toInt

/-- An FMT value that SETFMT accepts (R132). -/
def fmtOk (f : BitVec 32) : Bool := decide (fmtA f < 6) && decide (fmtB f < 6) && decide (fnat f 11 8 = 0)

/-! ### Elements (R124, R253) -/

/-- Width and number of the elements of a TYPE as integer instructions work on them (R253). -/
def intWidth (ty : Nat) : Nat := if ty = 5 then 16 else if ty = 6 ∨ ty = 7 then 8 else 32
def intCount (ty : Nat) : Nat := 32 / intWidth ty
def intSigned (ty : Nat) : Bool := !(decide (ty = 1) || decide (ty = 7))

/-- Number and width of the elements of a TYPE in a register (R124). -/
def elemCount (ty : Nat) : Nat :=
  match ty with
  | 3 => 2
  | 4 => 2
  | 5 => 2
  | 6 => 4
  | 7 => 4
  | 8 => 8
  | 9 => 4
  | _ => 1
def elemWidth (ty : Nat) : Nat := if ty = 9 then 6 else 32 / elemCount ty

/-- Element `e` of width `w`. -/
def elemAt (x : Word) (w e : Nat) : Nat := x.toNat / 2 ^ (w * e) % 2 ^ w

/-- The register whose elements of width `w` are listed, the others zero. -/
def joinElems (w : Nat) (es : List Nat) : Word :=
  match es with
  | [] => 0
  | e :: r => BitVec.ofNat 32 (e % 2 ^ w) ||| (joinElems w r <<< w)

/-- The signed value of a `w`-bit element. -/
def toSigned (w x : Nat) : Int := if x < 2 ^ (w - 1) then (x : Int) else (x : Int) - 2 ^ w

/-- An element as the exact value of a signed or unsigned type. -/
def elemVal (w : Nat) (sg : Bool) (x : Nat) : Int := if sg then toSigned w x else (x : Int)

/-- Reduction modulo 2^w. -/
def wrap (w : Nat) (v : Int) : Nat := (v % 2 ^ w).toNat

def typeMin (w : Nat) (sg : Bool) : Int := if sg then -(2 ^ (w - 1)) else 0
def typeMax (w : Nat) (sg : Bool) : Int := if sg then 2 ^ (w - 1) - 1 else 2 ^ w - 1

/-- The exact integer clamped to a type, with SA where it was clamped (R131). -/
def clamp (w : Nat) (sg : Bool) (v : Int) : Nat × Flags :=
  if v < typeMin w sg then (wrap w (typeMin w sg), fSA)
  else if typeMax w sg < v then (wrap w (typeMax w sg), fSA) else (wrap w v, 0)

/-- fit(E) of R255: wrapped without SAT, clamped under SAT. -/
def fitInt (sat : Bool) (w : Nat) (sg : Bool) (v : Int) : Nat × Flags := if sat then clamp w sg v else (wrap w v, 0)

/-- Combines the results of the elements of one register: the elements joined and the flags ORed (R133). -/
def joinRes (w : Nat) (rs : List (Nat × Flags)) : Word × Flags :=
  (joinElems w (rs.map Prod.fst), rs.foldl (fun f r => f ||| r.2) 0)

/-! ### Rounding (R128) -/

/-- A quotient by a power of two, rounded: 0 RNE, 1 RTZ, 2 RDN, 3 RUP, 4 RNA. The magnitude and the sign are apart. -/
def roundShift (mode : Nat) (neg : Bool) (m k : Nat) : Nat × Bool :=
  let n := m / 2 ^ k
  let r := m % 2 ^ k
  let half := 2 ^ k / 2
  let up :=
    if r = 0 then false
    else match mode with
      | 0 => decide (half < r) || (decide (r = half) && decide (k ≠ 0) && decide (n % 2 = 1))
      | 1 => false
      | 2 => neg
      | 3 => !neg
      | _ => decide (half ≤ r) && decide (k ≠ 0)
  (if up then n + 1 else n, decide (r ≠ 0))

end Sys2Proof.Machine
end

