-- ==== Sys2Proof/Machine/Operands.lean ====
section
/-! DEFINITION. How a group's instruction starts and how its results are committed: classes, operand rules, start-time
causes, the latencies of R104, narrowing, and the watch points of R344 (R96 to R104, R193, R219 to R223, R346). -/
namespace Sys2Proof.Machine

/-- The class of an instruction (R96). -/
inductive Cls where
  | lane | laneUni | uniform | memory | matrix
  deriving DecidableEq, Repr

/-- What an encoding names, for the checks at the start: whether its codes are legal, every register it reads or writes,
the scalars and predicates it reads, the table slots it reads, whether it acts once for the group, whether it is for
supervisor state only, whether watch predicates see it, and whether every thread of the active mask takes part whatever
GUARD holds. -/
structure Shape where
  cls    : Cls
  legal  : Bool
  regs   : List (BitVec 8)
  reads  : List (BitVec 8)
  tabs   : List Nat
  once   : Bool
  superv : Bool
  seen   : Bool
  full   : Bool
  deriving DecidableEq, Repr

/-- A shape with no table slot, seen by watch predicates, in user state. -/
def mkShape (cls : Cls) (legal : Bool) (regs reads : List (BitVec 8)) (once : Bool) : Shape :=
  { cls := cls, legal := legal, regs := regs, reads := reads, tabs := [], once := once, superv := false, seen := true,
    full := false }

/-- The destination is a scalar: the instruction runs in the uniform pipe (R221, R254). -/
def uniForm (d : BitVec 8) : Bool := isScal d

/-- Operand classes of the instructions that have a lane form and a uniform form (R254): a vector destination takes
vector, scalar and special sources; a scalar destination takes scalars and special values other than %tid. -/
def legalForm (d : BitVec 8) (srcs : List (BitVec 8)) : Bool :=
  (isVec d && srcs.all isSrc) || (isScal d && srcs.all isUni)

/-- The shape of such an instruction. -/
def formShape (d : BitVec 8) (srcs : List (BitVec 8)) : Shape :=
  mkShape (if uniForm d then .uniform else .lane) (legalForm d srcs) (d :: srcs) srcs (uniForm d)

/-- The predicate register that GUARD names, if any (R222). -/
def guardReg (g : Group) : List (BitVec 8) :=
  let code := fnat g.mode 31 28
  if code = 0 then [] else if code < 8 then [BitVec.ofNat 8 (224 + code)] else [BitVec.ofNat 8 (216 + code)]

def narrows (sh : Shape) : Bool := sh.cls != .uniform && !sh.full

/-- The scoreboard holds the instruction back (R103). -/
def blocked (g : Group) (sh : Shape) (stall : Nat) : Bool :=
  (decide (stall = 7) && !g.score.isEmpty) || g.score.any (fun e => sh.regs.contains e.2) ||
  (narrows sh && g.score.any (fun e => (guardReg g).contains e.2))

/-- The instruction starts before the latency of a scalar or predicate that it reads has passed (R104): its stall code
does not cover two cycles, and the free choice makes it start early (log entry 9). -/
def startsEarly (s : State) (g : Group) (sh : Shape) (stall : Nat) : Bool :=
  sh.cls != .uniform && (decide (stall < 2) || decide (stall = 7)) &&
  g.hazards.any (fun h => sh.reads.contains h.reg || (narrows sh && (guardReg g).contains h.reg)) &&
  Config.earlyStart s.tick

/-- The registers with the values that stood before the writes whose latency has not passed. -/
def oldRegs (g : Group) : Group :=
  g.hazards.foldl (fun k h =>
    if isScal h.reg then k.setScal (scalNo h.reg) (h.old.setWidth 32) else k.setPred (predNo h.reg) h.old) g

/-- The table slots that the group's herd holds on the core (R126). -/
def tabHeld (s : State) (core : Nat) (g : Group) (k : Nat) : Bool := find (s.core core).tabOwn k = some g.inst

/-- The first start-time cause, in the order of R193; a matrix instruction checks its table slots before its registers
(R309). -/
def startCause (s : State) (core : Nat) (g : Group) (sh : Shape) (early : Bool) : Option (BitVec 8) :=
  if !sh.legal then some cILLEGAL
  else if early && bit g.mode 18 then some cSTALLCHK
  else if decide (sh.cls = .matrix) && !(sh.tabs.all (tabHeld s core g)) then some cTABNOTHELD
  else if !(sh.regs.all (heldReg g)) then some cREGNOTHELD
  else if !(sh.tabs.all (tabHeld s core g)) then some cTABNOTHELD
  else if sh.superv && !(hSact g) then some cSUPERV
  else none

/-- What the PC shows to the watch predicates, for every thread that takes part (R344). -/
def pcShown (g : Group) (act : BitVec 64) : List Shown :=
  (bitsOf act).map (fun t => { thr := t, vals := [g.pc.setWidth 32], hi := g.pc.extractLsb' 32 16, arena := none })

/-- Starts an instruction of the executing group: the scoreboard, the start-time causes, the threads that take part, and
the watch predicates on the PC; then the instruction's own effect. An instruction that acts once for the group and is
withheld at thread scope is not performed (R346). -/
def startGroup (s : State) (sh : Shape) (k : Ctx → State → State) : Out :=
  let g := s.cur
  let stall := ctlStall s.focus.ctl (pcSlot g.pc)
  if blocked g sh stall then .next s
  else
    let early := startsEarly s g sh stall
    match startCause s s.focus.core g sh early with
    | some c => .next (trapCode s c)
    | none =>
      let src := if early then oldRegs g else g
      let base := if narrows sh then narrowed src else g.amask
      let all := s.focus.step && sh.once
      let left := if all then g.split ||| g.rest else g.split
      let act := if left = 0 then base else base &&& left
      let s1 := s.setCur { g with
        nextPc := pcNext g.pc (ctlN s.focus.ctl), hazards := [],
        split := left, rest := if all then 0 else g.rest, far := none }
      let w := if sh.seen then watch s1 s.focus.core s.focus.slot 5 g.pc (pcShown g act) else (s1, none)
      let held := match w.2 with | some h => h.held | none => 0
      if sh.once && held != 0 then .next (retire w.1 (w.2.map (fun h => { h with held := act })) 0)
      else
        let x : Ctx := { core := s.focus.core, slot := s.focus.slot, clk := (s.core s.focus.core).clk, src := src,
                         act := act &&& ~~~held, hit := w.2 }
        .next (k x w.1)

/-! ### Committing results -/

/-- The group waits for a unit, a slot or an older access and runs the instruction again; nothing that the start did
stands. -/
def retry (s : State) (w : Wait) : State := s.updCur (fun g => { g with wait := w })

/-- The group waits inside its instruction; a halt that the start has asked for takes hold at the boundary after it, and the threads
that it withholds stay at the instruction (R346). -/
def enterWait (x : Ctx) (s : State) (w : Wait) : State :=
  let t := s.updCur (fun g => { g with wait := w, started := s.tick })
  match x.hit with
  | none => t
  | some h => haltGroup (t.updCur (fun g => { g with rest := g.rest ||| h.held })) x.core x.slot h 0 0

/-- Continues with the result of checks: a wait leaves the state before the start, with the page asked for, and so does a read that is
held back. -/
def Res.orElse {α : Type} (r : Res α) (s0 s : State) (k : α → State) : State :=
  match r with
  | .ok v => k v
  | .fault c => trap s c
  | .wait l => waitXlat s0 l
  | .held pa va t a => retry s0 (.held pa va t a)

/-- One thread's results: registers, at most one predicate bit, and the flag set of R133 where the instruction produces
one. -/
structure ThrRes where
  thr   : Nat
  regs  : List (BitVec 8 × Word)
  pred  : Option (BitVec 8 × Bool)
  flags : Option (BitVec 6)
  deriving DecidableEq, Repr

def applyThr (g : Group) (r : ThrRes) : Group :=
  let g1 := r.regs.foldl (fun k e => writeLane k e.1 r.thr e.2) g
  match r.pred with
  | none => g1
  | some (p, b) => writePred g1 p (maskOf 64 [r.thr]) (if b then maskOf 64 [r.thr] else 0)

def resShown (r : ThrRes) : Shown := ⟨r.thr, r.regs.map Prod.snd, 0, none⟩
def flagShown (r : ThrRes) : Option Shown := r.flags.map (fun f => ⟨r.thr, [f.setWidth 32], 0, none⟩)

/-- The flag set of the first hitting thread (R349). -/
def hitFlags (h : Option Hit) (rs : List ThrRes) : BitVec 6 :=
  match h with
  | none => 0
  | some x => match rs.find? (fun r => r.thr = x.thr) with | some r => r.flags.getD 0 | none => 0

/-- Commits the results of a lane instruction: watch predicates on values and flags, then the writes of the threads that
are not withheld (R344, R346). -/
def commitLane (x : Ctx) (s : State) (rs : List ThrRes) : State :=
  let w3 := watch s x.core x.slot 3 x.src.pc (rs.map resShown)
  let w4 := watch w3.1 x.core x.slot 4 x.src.pc (rs.filterMap flagShown)
  let h := Hit.join x.hit (Hit.join w3.2 w4.2)
  let held := match h with | some y => y.held | none => 0
  let s1 := w4.1.updCur (fun g => (rs.filter (fun r => !(bit held r.thr))).foldl applyThr g)
  retire s1 h (hitFlags h rs)

/-- The registers of a list with the values they hold, for the latency of R104. -/
def hazardsOf (g : Group) (ds : List (BitVec 8)) : List Hazard :=
  ds.map (fun d => ⟨d, if isScal d then (g.s d).setWidth 64 else g.pred (predNo d)⟩)

/-- Commits the result of a uniform instruction or of one that acts once for the group: its 32-bit values and flags are
attributed to the lowest thread (R254, R344); withheld at thread scope, it is not performed at all (R346). -/
def commitUni (x : Ctx) (s : State) (ds : List (BitVec 8)) (vals : List Word) (flags : Option Flags)
    (f : State → State) : State :=
  let r : ThrRes := ⟨x.low, vals.map (fun v => (0, v)), none, flags⟩
  let w3 := watch s x.core x.slot 3 x.src.pc (if vals.isEmpty then [] else [resShown r])
  let w4 := watch w3.1 x.core x.slot 4 x.src.pc (flagShown r).toList
  let h := Hit.join x.hit (Hit.join w3.2 w4.2)
  let held := match h with | some y => y.held | none => 0
  if held != 0 then retire w4.1 (h.map (fun y => { y with held := x.act })) (flags.getD 0)
  else
    let hz := hazardsOf w4.1.cur ds
    retire ((f w4.1).updCur (fun g => { g with hazards := hz })) h (flags.getD 0)

/-- Commits a change of the group that no 32-bit destination shows. -/
def commitGroup (x : Ctx) (s : State) (f : Group → Group) : State := commitUni x s [] [] none (fun t => t.updCur f)

/-- Commits a transfer to a PC, with a change of the group. -/
def commitTo (x : Ctx) (s : State) (pc : BitVec 48) (f : Group → Group) : State :=
  commitGroup x (s.updCur (fun g => { g with nextPc := pc })) f

/-- Commits one scalar that a uniform instruction writes. -/
def commitScal (x : Ctx) (s : State) (d : BitVec 8) (v : Word) (flags : Option Flags) : State :=
  commitUni x s [d] [v] flags (fun t => t.updCur (fun g => writeScal g d v))

/-- Commits a scalar pair that a uniform instruction writes. -/
def commitScal64 (x : Ctx) (s : State) (d : BitVec 8) (v : BitVec 64) (flags : Option Flags) : State :=
  commitUni x s [d, d + 1] [v.setWidth 32, v.extractLsb' 32 32] flags (fun t => t.updCur (fun g => writeScal64 g d v))

/-- The results of an instruction that gives one 32-bit value and a flag set to each thread that takes part. -/
def laneResults (x : Ctx) (d : BitVec 8) (f : Nat → Word × Flags) : List ThrRes :=
  (bitsOf x.act).map (fun t => ⟨t, [(d, (f t).1)], none, some (f t).2⟩)

/-- The results of an instruction that moves words and raises no flag. -/
def laneMoves (x : Ctx) (d : BitVec 8) (f : Nat → Word) : List ThrRes :=
  (bitsOf x.act).map (fun t => ⟨t, [(d, f t)], none, none⟩)

/-- The common course of an arithmetic instruction: each thread, or the group for a scalar destination, computes one
word and a flag set from its operands (R254). -/
def arith (s : State) (sh : Shape) (d : BitVec 8) (f : (BitVec 8 → Word) → Word × Flags) : Out :=
  startGroup s sh (fun x t =>
    if uniForm d then
      let r := f x.uni
      commitScal x t d r.1 (some r.2)
    else commitLane x t (laneResults x d (fun i => f (fun r => x.lane r i))))

/-- A compare (R259, R274): `f` gives the value for a register destination and the bit for a predicate destination. With a
vector source or %tid a predicate is written in the threads that take part; otherwise the uniform pipe writes it in the
whole active mask. -/
def perThread (srcs : List (BitVec 8)) : Bool := srcs.any (fun r => isVec r || isTid r)

def cmpShape (d : BitVec 8) (srcs : List (BitVec 8)) : Shape :=
  if isPred d then
    let lane := perThread srcs
    mkShape (if lane then .lane else .uniform) (srcs.all isSrc) (d :: srcs) srcs (!lane)
  else formShape d srcs

def compare (s : State) (sh : Shape) (d : BitVec 8) (srcs : List (BitVec 8))
    (f : (BitVec 8 → Word) → Word × Bool × Flags) : Out :=
  startGroup s sh (fun x t =>
    if isPred d then
      if perThread srcs then
        commitLane x t ((bitsOf x.act).map (fun i =>
          let r := f (fun q => x.lane q i)
          ⟨i, [], some (d, r.2.1), some r.2.2⟩))
      else
        let r := f x.uni
        commitUni x t [d] [] (some r.2.2) (fun u => u.updCur (fun g => writePred g d x.act (if r.2.1 then x.act else 0)))
    else if uniForm d then
      let r := f x.uni
      commitScal x t d r.1 (some r.2.2)
    else commitLane x t (laneResults x d (fun i => let r := f (fun q => x.lane q i); (r.1, r.2.2))))

end Sys2Proof.Machine
end

