-- ==== Sys2Proof/Machine/Memory.lean ====
section
/-! DEFINITION. Loads, stores, scratchpad accesses, prefetch, fences, atomics and reductions: what each issues to the
ordering machine (R172 to R174, R283 to R292). -/
namespace Sys2Proof.Machine

/-! ### Forms and addresses (R283, R284) -/

/-- A destination or data field of `n` registers. -/
def dataReg (n : Nat) (d : BitVec 8) : Bool := alignedTo n d && (isVec d || isScal d)

/-- A data field of a store: one register may also be a special value. -/
def storeReg (n : Nat) (d : BitVec 8) : Bool := dataReg n d || (decide (n = 1) && isSpec d)

/-- An address pair: even, of vector or of scalar registers. -/
def addrPair (a : BitVec 8) : Bool := alignedTo 2 a && (isVec a || isScal a)

/-- The registers of a datum of `w` bytes. -/
def regsFor (w : Nat) : Nat := if w ≤ 4 then 1 else w / 4

/-- The shape of an access with an address pair and one more source. -/
def memShape (legalD : Bool) (d a b : BitVec 8) (n : Nat) (dRead : Bool) : Shape :=
  let srcs := if isScal d then isScal a && isUni b else isSrc b
  let ds := runOf d n
  mkShape .memory (legalD && addrPair a && srcs) (ds ++ [a, a + 1, b]) ((if dRead then ds else []) ++ [a, a + 1, b]) (isScal d)

/-- The threads that make an access: every one that takes part, or the lowest for a uniform form (R284). -/
def accThreads (x : Ctx) (uni : Bool) : List Nat :=
  if x.act = 0 then [] else if uni then [x.low] else bitsOf x.act

/-- An operand of a thread, or of the group in a uniform form. -/
def operand (x : Ctx) (uni : Bool) (r : BitVec 8) (t : Nat) : Word := if uni then x.uni r else x.lane r t

/-- The value of an address pair. -/
def pairValue (x : Ctx) (uni : Bool) (a : BitVec 8) (t : Nat) : BitVec 64 :=
  (operand x uni (a + 1) t ++ operand x uni a t : BitVec (32 + 32))

/-- The address of a thread's access: the pair and the sign-extended offset (R283). -/
def accAddr (x : Ctx) (uni : Bool) (a b : BitVec 8) (t : Nat) : BitVec 64 :=
  pairValue x uni a t + (operand x uni b t).signExtend 64

/-- The words of a datum in consecutive registers. -/
def datumWords (x : Ctx) (uni : Bool) (d : BitVec 8) (n t : Nat) : List Word :=
  (runOf d n).map (fun r => operand x uni r t)

/-- The value of a datum: register `i` holds bytes 4i to 4i+3 (R283). -/
def datum (ws : List Word) : BitVec 128 := ofBytes 128 (ws.flatMap (fun w => toBytes w 4))

/-! ### Issuing (R193, R194, R344) -/

/-- A thread's access after its checks: where it goes and its pair. -/
structure Placed where
  thr   : Nat
  va    : BitVec 64
  pa    : Nat
  arena : BitVec 12
  gen   : BitVec 4
  regn  : BitVec 2
  deriving DecidableEq, Repr

/-- What the translations of threads wait for, up to one that fails: their pages are missed together (R211). -/
def restHolds (chk : BitVec 64 → Xlat) (va : Nat → BitVec 64) (ts : List Nat) : List Hold :=
  match ts with
  | [] => []
  | t :: r =>
    match chk (va t) with
    | .fault _ _ => []
    | .wait l => l ++ restHolds chk va r
    | .ok _ _ _ _ => restHolds chk va r

/-- The checks of every thread, in thread order: the places, or the failure of the lowest thread that fails (R194). -/
def checkThreads (chk : BitVec 64 → Xlat) (va : Nat → BitVec 64) (ts : List Nat) : Res (List Placed) :=
  match ts with
  | [] => .ok []
  | t :: r =>
    match chk (va t) with
    | .fault c a => .fault ⟨c, va t, t, a⟩
    | .wait l => .wait (l ++ restHolds chk va r)
    | .ok pa a g n =>
      match checkThreads chk va r with
      | .ok l => .ok (⟨t, va t, pa, a, g, n⟩ :: l)
      | .fault c => .fault c
      | .wait l => .wait l
      | .held q v i c => .held q v i c

/-- What an access shows at its translation check: its address, and the words it stores. -/
def addrShown (scr : Bool) (p : Placed) : Shown :=
  ⟨p.thr, [p.va.setWidth 32], if scr then 0xFF00 else p.va.extractLsb' 32 16, if scr then none else some p.arena⟩
def dataShown (scr : Bool) (ws : Nat → List Word) (p : Placed) : Shown :=
  ⟨p.thr, ws p.thr, 0, if scr then none else some p.arena⟩

/-- The common course of an instruction that makes accesses: all checks, the watch points on addresses and stored data,
then the accesses of the threads that are not withheld (R193, R344, R346). -/
def issue (s0 : State) (x : Ctx) (t : State) (scr once : Bool) (checked : Res (List Placed)) (ws : Nat → List Word)
    (k : List Placed → State → State) : State :=
  checked.orElse s0 t (fun ps =>
    let w0 := watch t x.core x.slot 0 x.src.pc (ps.map (addrShown scr))
    let w2 := watch w0.1 x.core x.slot 2 x.src.pc
      (((ps.map (dataShown scr ws)).filter (fun sh => !sh.vals.isEmpty)))
    let h := Hit.join x.hit (Hit.join w0.2 w2.2)
    let held : BitVec 64 := match h with | some y => y.held | none => 0
    if once && held != 0 then retire w2.1 (h.map (fun y => { y with held := x.act })) 0
    else retire (k (ps.filter (fun p => !(bit held p.thr))) w2.1) h 0)

/-- The access is a load or a store of memory, which the coalescer takes (R151). -/
def coalesced (a : Access) : Bool := !a.scr && (decide (a.kind = .load) || decide (a.kind = .store))

/-- The requests of an instruction's accesses, one for each line (R151). -/
def asksOf (slot op : Nat) (pref : Bool) (l : List Access) : List LineAsk :=
  (l.filter coalesced).foldl (fun k a =>
    coalesce (askFor slot op a.thr a.addr a.size (decide (a.kind = .store)) pref a.arena a.gen a.regn) k) []

/-- Appends the accesses of an instruction as one operation of a class, marks its destinations on the scoreboard, and hands its
accesses to the coalescer (R103, R151, R174, R183). -/
def enterAll (s : State) (cls : Nat) (dst : List (BitVec 8)) (mk : Placed → Access) (ps : List Placed) : State :=
  if ps.isEmpty then s
  else
    let t := s.updCur (fun g =>
      let o := addOp g cls ps.length
      addScore (ps.foldl (fun h p => addAccess h { mk p with op := o.2, pc := g.pc, step := s.focus.step, born := s.tick }) o.1) o.2 dst)
    addAsks t s.focus.core (asksOf s.focus.slot (addOp s.cur cls ps.length).2 false (ps.map mk))

/-- An access of a thread at its place. -/
def accessAt (scr uni : Bool) (kind : AccKind) (w : Nat) (p : Placed) : Access :=
  { Access.zero with
    kind := kind, scr := scr, addr := p.pa, size := w, thr := p.thr, uni := uni, arena := p.arena, gen := p.gen,
    regn := p.regn, va := p.va }

/-- The checks of global accesses of `w` bytes. -/
def globalChecks (x : Ctx) (t : State) (w : Nat) (need : Need) (uni : Bool) (a b : BitVec 8) : Res (List Placed) :=
  checkThreads (fun va => check t x.core (instRoot t x.src.inst) va w need) (accAddr x uni a b) (accThreads x uni)

/-! ### Loads and stores (R285, R286) -/

/-- A load of `w` bytes. -/
def loadInstr (s : State) (w : Nat) (acq : Bool) (d a b : BitVec 8) : Out :=
  let n := regsFor w
  let uni := isScal d
  startGroup s (memShape (dataReg n d) d a b n false) (fun x t =>
    issue s x t false uni (globalChecks x t w .read uni a b) (fun _ => []) (fun ps u =>
      enterAll u 0 (runOf d n) (fun p => { accessAt false uni .load w p with dst := runOf d n, acq := acq }) ps))

/-- A store of `w` bytes. -/
def storeInstr (s : State) (w : Nat) (rel : Bool) (d a b : BitVec 8) : Out :=
  let n := regsFor w
  let uni := isScal d
  startGroup s (memShape (storeReg n d) d a b n true) (fun x t =>
    let ws := fun i => datumWords x uni d n i
    issue s x t false uni (globalChecks x t w .write uni a b) ws (fun ps u =>
      enterAll u 1 [] (fun p =>
        { accessAt false uni .store w p with val := datum (ws p.thr), rel := rel, mail := rel }) ps))

/-- LDB (R285). -/
def execLdb (d a b : BitVec 8) (s : State) : Out := loadInstr s 1 false d a b
/-- LDH (R285). -/
def execLdh (d a b : BitVec 8) (s : State) : Out := loadInstr s 2 false d a b
/-- LDW (R285). -/
def execLdw (d a b : BitVec 8) (s : State) : Out := loadInstr s 4 false d a b
/-- LDD (R285). -/
def execLdd (d a b : BitVec 8) (s : State) : Out := loadInstr s 8 false d a b
/-- LDQ (R285). -/
def execLdq (d a b : BitVec 8) (s : State) : Out := loadInstr s 16 false d a b
/-- STB (R285). -/
def execStb (d a b : BitVec 8) (s : State) : Out := storeInstr s 1 false d a b
/-- STH (R285). -/
def execSth (d a b : BitVec 8) (s : State) : Out := storeInstr s 2 false d a b
/-- STW (R285). -/
def execStw (d a b : BitVec 8) (s : State) : Out := storeInstr s 4 false d a b
/-- STD (R285). -/
def execStd (d a b : BitVec 8) (s : State) : Out := storeInstr s 8 false d a b
/-- STQ (R285). -/
def execStq (d a b : BitVec 8) (s : State) : Out := storeInstr s 16 false d a b
/-- LDACQ (R286). -/
def execLdacq (d a b : BitVec 8) (s : State) : Out := loadInstr s 4 true d a b
/-- STREL, whose accesses are marked as mail (R286, R363). -/
def execStrel (d a b : BitVec 8) (s : State) : Out := storeInstr s 4 true d a b

/-! ### Scratchpad accesses (R287) -/

/-- The bytes of a width code (R229). -/
def widthOf (w : BitVec 3) : Nat := 2 ^ w.toNat

/-- The shape of LDS and STS. -/
def scrShape (w : BitVec 3) (legalD : Bool) (d a : BitVec 8) (n : Nat) (dRead : Bool) : Shape :=
  let src := if isScal d then isUni a else isSrc a
  let ds := runOf d n
  mkShape .memory (decide (w.toNat ≤ 4) && legalD && src) (ds ++ [a]) ((if dRead then ds else []) ++ [a]) (isScal d)

/-- The checks of scratchpad accesses. -/
def scrChecks (x : Ctx) (t : State) (w : Nat) (uni : Bool) (a : BitVec 8) : Res (List Placed) :=
  checkThreads (fun o => scrCheck t x.core x.src.inst o.toNat w) (fun i => (operand x uni a i).setWidth 64) (accThreads x uni)

/-- Pins the pages that the accesses touch (R149). -/
def pinAll (s : State) (core inst w : Nat) (ps : List Placed) : State :=
  ps.foldl (fun t p => pinRange t core inst p.pa w) s

/-- LDS (R287). -/
def execLds (d a : BitVec 8) (w : BitVec 3) (s : State) : Out :=
  let b := widthOf w
  let n := regsFor b
  let uni := isScal d
  startGroup s (scrShape w (dataReg n d) d a n false) (fun x t =>
    issue s x t true uni (scrChecks x t b uni a) (fun _ => []) (fun ps u =>
      enterAll (pinAll u x.core x.src.inst b ps) 0 (runOf d n)
        (fun p => { accessAt true uni .load b p with dst := runOf d n }) ps))

/-- STS (R287). -/
def execSts (d a : BitVec 8) (w : BitVec 3) (s : State) : Out :=
  let b := widthOf w
  let n := regsFor b
  let uni := isScal d
  startGroup s (scrShape w (storeReg n d) d a n true) (fun x t =>
    let ws := fun i => datumWords x uni d n i
    issue s x t true uni (scrChecks x t b uni a) ws (fun ps u =>
      enterAll (pinAll u x.core x.src.inst b ps) 1 [] (fun p =>
        { accessAt true uni .store b p with val := datum (ws p.thr) }) ps))

/-! ### Prefetch and fences (R288, R289) -/

/-- What the translations of the prefetches wait for. -/
def prefHolds (x : Ctx) (t : State) (a b : BitVec 8) : List Hold :=
  (bitsOf x.act).flatMap (fun i =>
    match check t x.core (instRoot t x.src.inst) (accAddr x false a b i) 1 .read with
    | .wait l => l
    | _ => [])

/-- The places of the prefetches whose checks pass (R288). -/
def prefPlaces (x : Ctx) (t : State) (a b : BitVec 8) : List Placed :=
  (bitsOf x.act).filterMap (fun i =>
    let va := accAddr x false a b i
    match check t x.core (instRoot t x.src.inst) va 1 .read with
    | .ok pa ar g n => some ⟨i, va, pa, ar, g, n⟩
    | _ => none)

/-- PREF: one request for each line, all of its sectors, which is dropped where too few miss-status entries are free (R151, R288). -/
def execPref (a b : BitVec 8) (s : State) : Out :=
  startGroup s (mkShape .memory (addrPair a && isSrc b) [a, a + 1, b] [a, a + 1, b] false) (fun x t =>
    let h := prefHolds x t a b
    if !h.isEmpty then waitXlat s h
    else
    let l := (prefPlaces x t a b).foldl (fun l p =>
      coalesce { askFor x.slot t.cur.nextOp p.thr p.pa 1 false true p.arena p.gen p.regn with secs := 15 } l) []
    retire (addAsks t x.core l) x.hit 0)

/-- A fence: a marker in program order. FENCE.A and FENCE.AR invalidate the core's unowned SC words once the older loads
have been performed (R178, R179, R289). -/
def fenceInstr (s : State) (acq rel : Bool) : Out :=
  startGroup s (mkShape .uniform true [] [] true) (fun x t =>
    let g := t.cur
    let clear := !(g.accs.any (fun a => isLoadLike a && !a.perf))
    let t1 := if acq && clear then selfInv t x.core else t
    commitGroup x t1 (fun k =>
      if k.accs.isEmpty then k
      else addAccess k { Access.zero with kind := .fence acq rel, perf := clear || !acq, pc := k.pc }))

/-- FENCE.A (R289). -/
def execFenceA (s : State) : Out := fenceInstr s true false
/-- FENCE.R (R289). -/
def execFenceR (s : State) : Out := fenceInstr s false true
/-- FENCE.AR (R289). -/
def execFenceAr (s : State) : Out := fenceInstr s true true

/-! ### Atomics and reductions (R290 to R292) -/

/-- The integer order that AMIN, AMAX, REDMIN and REDMAX use: TYPE i32 or n32 (R290). -/
def minMaxOk (m : Word) : Bool := decide (mType m ≤ 1)
def minOp (m : Word) : AtomOp := if mType m = 1 then .minU else .minS
def maxOp (m : Word) : AtomOp := if mType m = 1 then .maxU else .maxS

/-- An atomic (R290): its address is the value of the pair alone. -/
def atomicInstr (s : State) (op : AtomOp) (legal cas : Bool) (d a b : BitVec 8) : Out :=
  let uni := isScal d
  let sh := memShape (dataReg 1 d && legal) d a b 1 cas
  startGroup s sh (fun x t =>
    let v := fun i => operand x uni b i
    issue s x t false uni
      (checkThreads (fun va => check t x.core (instRoot t x.src.inst) va 4 .both) (pairValue x uni a) (accThreads x uni))
      (fun i => [v i]) (fun ps u =>
        enterAll u 0 [d] (fun p =>
          { accessAt false uni (.atomic op) 4 p with
            dst := [d], val := (v p.thr).setWidth 128, cmp := if cas then operand x uni d p.thr else 0 }) ps))

/-- AADD (R290). -/
def execAadd (d a b : BitVec 8) (s : State) : Out := atomicInstr s .add true false d a b
/-- AFADD (R290). -/
def execAfadd (d a b : BitVec 8) (s : State) : Out := atomicInstr s .fadd true false d a b
/-- AMIN (R290). -/
def execAmin (d a b : BitVec 8) (s : State) : Out := atomicInstr s (minOp s.cur.mode) (minMaxOk s.cur.mode) false d a b
/-- AMAX (R290). -/
def execAmax (d a b : BitVec 8) (s : State) : Out := atomicInstr s (maxOp s.cur.mode) (minMaxOk s.cur.mode) false d a b
/-- AAND (R290). -/
def execAand (d a b : BitVec 8) (s : State) : Out := atomicInstr s .and true false d a b
/-- AOR (R290). -/
def execAor (d a b : BitVec 8) (s : State) : Out := atomicInstr s .or true false d a b
/-- AXOR (R290). -/
def execAxor (d a b : BitVec 8) (s : State) : Out := atomicInstr s .xor true false d a b
/-- AXCHG (R290). -/
def execAxchg (d a b : BitVec 8) (s : State) : Out := atomicInstr s .xchg true false d a b
/-- ACAS (R290). -/
def execAcas (d a b : BitVec 8) (s : State) : Out := atomicInstr s .cas true true d a b

/-- A reduction: one access for each thread that takes part (R292; log entry 23). -/
def reduceInstr (s : State) (op : AtomOp) (legal : Bool) (a b : BitVec 8) : Out :=
  startGroup s (mkShape .memory (legal && addrPair a && isSrc b) [a, a + 1, b] [a, a + 1, b] false) (fun x t =>
    let v := fun i => x.lane b i
    issue s x t false false
      (checkThreads (fun va => check t x.core (instRoot t x.src.inst) va 4 .write) (pairValue x false a) (bitsOf x.act))
      (fun i => [v i]) (fun ps u =>
        enterAll u 1 [] (fun p => { accessAt false false (.reduce op) 4 p with val := (v p.thr).setWidth 128 }) ps))

/-- REDADD (R292). -/
def execRedadd (a b : BitVec 8) (s : State) : Out := reduceInstr s .add true a b
/-- REDFADD (R292). -/
def execRedfadd (a b : BitVec 8) (s : State) : Out := reduceInstr s .fadd true a b
/-- REDMIN (R292). -/
def execRedmin (a b : BitVec 8) (s : State) : Out := reduceInstr s (minOp s.cur.mode) (minMaxOk s.cur.mode) a b
/-- REDMAX (R292). -/
def execRedmax (a b : BitVec 8) (s : State) : Out := reduceInstr s (maxOp s.cur.mode) (minMaxOk s.cur.mode) a b
/-- REDOR (R292). -/
def execRedor (a b : BitVec 8) (s : State) : Out := reduceInstr s .or true a b

end Sys2Proof.Machine
end

