-- ==== Sys2Proof/Machine/Serve.lean ====
section
/-! DEFINITION. The requests that a slice may serve now, and the one that it serves next (R32, R36, R40 item 7, R190, R335). -/
namespace Sys2Proof.Machine

/-- The request is about a line of a sealed arena (R37). -/
def sealedPkt (s : State) (p : Packet) : Bool := aSealed (s.arena p.arena.toNat)

/-- The owner of a line in state M, if another core than the requester. -/
def otherOwner (s : State) (line core : Nat) : Option Nat :=
  let d := s.dirAt line
  if d.state = 2 then d.ptrs.find? (fun c => decide (c ≠ core)) else none

/-- A read calls for another core's data. -/
def readCalls (s : State) (p : Packet) : Bool :=
  let line := pktLine p
  (decide (p.regn = 0) && (otherOwner s line p.core.toNat).isSome) ||
    (decide (p.regn = 1) && !(otherOwners s line p.core.toNat (BitVec.allOnes 64)).isEmpty)

/-- An OWNW takes words from other cores. -/
def ownCalls (s : State) (p : Packet) : Bool := !(otherOwners s (pktLine p) p.core.toNat (p.inl.extractLsb' 0 64)).isEmpty

/-- A lock operation may be served: what it recalls waits for the line's write queue (R40 item 7). -/
def lockMayServe (s : State) (p : Packet) : Bool :=
  match lockCode p with
  | 0 => mayRecall s (pktLine p) p.core.toNat && !(wqHas s (pktLine p)) && roomReady s (pktLine p)
  | 1 => mayRecall s (pktLine p) p.core.toNat && !(wqHas s (pktLine p)) && roomReady s (pktLine p)
  | 7 => mayRecall s (pktLine p) p.core.toNat && !(wqHas s (pktLine p)) && roomReady s (pktLine p)
  | 2 => !(wqHas s (pktLine p))
  | 4 => !(wqHas s (pktLine p))
  | c => decide (c ≤ 8)

/-- The write queue of a page's home holds nothing of the page (R43 step 2). -/
def flushReady (s : State) (p : Packet) : Bool :=
  match flushOf s p.core.toNat p.grp.toNat with
  | none => false
  | some f => !(s.wq.any (fun e => inPage f.page f.size (homeOfLine (pktLine p)) (lineOf e.addr)))

/-- A slice may serve a request now: no other group holds the line locked, and the recalls that it calls for need not wait for the
write queue. The writes of copy engines and ports have waited for the lock before (log entry 15). -/
def reqReady (s : State) (p : Packet) : Bool :=
  let line := pktLine p
  let free := if engPkt p then decide (p.op ≠ 0x08) || !(heldLine s line) else !(heldByOther s p.core.toNat p.grp.toNat line)
  let clear := !(wqHas s line)
  match p.op.toNat with
  | 0x01 => free && (sealedPkt s p || decide (p.regn = 2) || ((!(readCalls s p) || clear) && roomReady s line))
  | 0x02 => free && decide (p.regn ≠ 1) && mayRecall s line p.core.toNat && roomReady s line
  | 0x03 => free && decide (p.regn = 0) && mayRecall s line p.core.toNat && roomReady s line
  | 0x04 => free
  | 0x05 => true
  | 0x06 => true
  | 0x07 => free && decide (p.regn = 1) && (!(ownCalls s p) || clear) && roomReady s line
  | 0x08 => free
  | 0x09 => free
  | 0x0A => lockMayServe s p
  | 0x0B => flushReady s p
  | _ => false

/-- A request is the one that its slice serves next: the machine without it. -/
def asked (s : State) (p : Packet) : Option State := nextRequest (reqReady s) s p

/-- A request is served: it leaves its slice's queue and has its effect; nothing happens where it is not its turn. -/
def askedIf (s : State) (p : Packet) (ok : Bool) (k : State → State) : Out :=
  match (if ok then asked s p else none) with
  | none => .next s
  | some t => .next (k t)

/-- Serves a request that needs a directory entry: a victim is recalled first while the request waits for its way, and a set with no
victim refuses it without counting (R36). -/
def withRoom (s : State) (line : Nat) (p : Packet) (k : State → State) : State :=
  match dirRoom s line with
  | .room => k s
  | .victim v => recallVictim s v p
  | .none => refuse s p line false

end Sys2Proof.Machine
end

