-- ==== Sys2Proof/Machine/Sync.lean ====
section
/-! DEFINITION. Copies, tags, barriers, counter waits, hardware queues, and the monitor: what a group's instruction does at
once, and the wait it enters where it must wait (R117, R153 to R158, R180, R183 to R187, R293 to R301). -/
namespace Sys2Proof.Machine

/-- Commits a memory-class instruction that acts once for the group and has its effect at once: its destinations are
scoreboarded and no watch point shows them (R103, R344). -/
def commitOnce (x : Ctx) (t : State) (f : State → State) : State := commitUni x t [] [] none f

/-- The shape of a memory-class instruction that acts once for the group. -/
def onceShape (legal : Bool) (regs reads : List (BitVec 8)) : Shape := mkShape .memory legal regs reads true

/-- Applies a watch point on addresses to an instruction that acts once for the group; withheld at thread scope it is not
performed at all (R344, R346). -/
def watchOnce (x : Ctx) (t : State) (shown : List Shown) (k : Ctx → State → State) : State :=
  let w := watch t x.core x.slot 0 x.src.pc shown
  let h := Hit.join x.hit w.2
  let held : BitVec 64 := match h with | some y => y.held | none => 0
  if held != 0 then retire w.1 (h.map (fun y => { y with held := x.act })) 0
  else k { x with hit := h } w.1

/-! ### Copies (R153, R154, R293, R294) -/

/-- What a copy command names. -/
structure CopyCmd where
  src   : BitVec 64
  dst   : BitVec 64
  len   : Word
  tag   : Nat
  mail  : Bool
  gated : Bool
  gate  : Nat
  dir   : Nat
  bar   : BitVec 64
  deriving DecidableEq, Repr

def srcScr (dir : Nat) : Bool := decide (2 ≤ dir)
def dstScr (dir : Nat) : Bool := decide (dir % 2 = 1)

/-- An address that names a scratchpad barrier (R296). -/
def isScrBar (va : BitVec 64) : Bool := va.extractLsb' 32 32 = (0xFFFFFF00 : BitVec 32)

/-- The command that addresses, a length and a word of flags give; without `useDir` it copies from global memory to global
memory (R293). -/
def copyCmdOf (src dst : BitVec 64) (len f : Word) (bar : BitVec 64) (useDir : Bool) : CopyCmd :=
  let dir := if useDir then fnat f 13 12 else 0
  { src := src, dst := dst, len := len, tag := fnat f 5 0, mail := bit f 6 && !(dstScr dir), gated := bit f 7
    gate := if bit f 7 then fnat f 10 8 else 0, dir := dir, bar := bar }

/-- The command that the eight registers of CPY or CPYS hold (R293). -/
def copyCmd (x : Ctx) (a b : BitVec 8) (useDir : Bool) : CopyCmd :=
  copyCmdOf (x.src.s64 a) (x.src.s64 (a + 2)) (x.src.s b) (x.src.s (b + 1)) (x.src.s64 (b + 2)) useDir

/-- The first check of R294 that a command fails, with the address that fails it. -/
def copyCheck (c : CopyCmd) (scrSize : Nat) : Option (BitVec 8 × BitVec 64) :=
  if !(srcScr c.dir) && !(canonical c.src) then some (cADDRFORM, c.src)
  else if !(dstScr c.dir) && !(canonical c.dst) then some (cADDRFORM, c.dst)
  else if !(canonical c.bar) then some (cADDRFORM, c.bar)
  else if decide (c.len.toNat = 0) || decide (c.len.toNat % 4 ≠ 0) then some (cALIGN, 0)
  else if c.src.toNat % 4 ≠ 0 then some (cALIGN, c.src)
  else if c.dst.toNat % 4 ≠ 0 then some (cALIGN, c.dst)
  else if c.bar.toNat % 16 ≠ 0 then some (cALIGN, c.bar)
  else if srcScr c.dir && decide (scrSize < c.src.toNat + c.len.toNat) then some (cSCRRANGE, c.src)
  else if dstScr c.dir && decide (scrSize < c.dst.toNat + c.len.toNat) then some (cSCRRANGE, c.dst)
  else none

/-- The record of a command (R153). -/
def copyRec (c : CopyCmd) (grp : Nat) : BitVec 256 :=
  (c.src.setWidth 48 ++ c.dst.setWidth 48 ++ c.len ++ c.len ++ c.bar.extractLsb' 4 44 ++ BitVec.ofNat 6 c.tag ++
    BitVec.ofNat 2 c.dir ++ BitVec.ofBool c.mail ++ BitVec.ofBool c.gated ++ BitVec.ofNat 6 grp ++ BitVec.ofNat 3 c.gate ++
    0#33 : BitVec (48 + 48 + 32 + 32 + 44 + 6 + 2 + 1 + 1 + 6 + 3 + 33))

/-- The lowest free command slot. -/
def freeCopy (c : Core) : Option Nat := (List.range 16).find? (fun k => (find c.copies k).isNone)

/-- Consumes a firing that a sink still holds (R120). -/
def takeFiring (c : Core) (sink : Nat) : Option Core :=
  let r := c.route sink
  let p := fnat r 61 56
  if p = 0 then none else some { c with routes := zset c.routes sink (fput r 61 56 (p - 1)) }

/-- Puts a command into a slot: its tag's bit is cleared and its count incremented, and a gated command with a firing in
hand starts at once (R154, R119, R120). -/
def startCopy (s : State) (core k : Nat) (cmd : CopyCmd) (y : Copy) : State :=
  s.updCore core (fun c =>
    let fired := if cmd.gated then takeFiring c (2 + cmd.gate) else some c
    let c1 := fired.getD c
    { c1 with
      tags := c1.tags &&& ~~~(maskOf 64 [cmd.tag]), tagCnt := zset c1.tagCnt cmd.tag (zget c1.tagCnt cmd.tag + 1)
      copies := put c1.copies k { y with started := fired.isSome, order := c1.nextCpy }, nextCpy := c1.nextCpy + 1 })

/-- The arena of a global address, as its translation gives it. -/
def vaArena (s : State) (core : Nat) (root : BitVec 30) (va : BitVec 64) : Option (BitVec 12) :=
  match leafFor s core root (va.toNat % 2 ^ 48) with
  | .ok e => some (pteArena e.pte)
  | .error _ => none

/-- What an address of a copy shows: an offset of the scratchpad has no arena (R344). -/
def copyAddr (s : State) (x : Ctx) (scr : Bool) (va : BitVec 64) : Shown :=
  ⟨x.low, [va.setWidth 32], if scr then 0xFF00 else va.extractLsb' 32 16,
   if scr then none else vaArena s x.core (instRoot s x.src.inst) va⟩

/-- What the addresses of a copy show, the source and then the destination (R344). -/
def copyShown (s : State) (x : Ctx) (c : CopyCmd) : List Shown :=
  [copyAddr s x (srcScr c.dir) c.src, copyAddr s x (dstScr c.dir) c.dst]

/-- The common course of CPY and CPYS (R294). -/
def copyInstr (s : State) (useDir : Bool) (a b : BitVec 8) : Out :=
  let quad := fun r => isScal r && alignedTo 4 r
  startGroup s (onceShape (quad a && quad b) (runOf a 4 ++ runOf b 4) (runOf a 4 ++ runOf b 4)) (fun x t =>
    if x.act = 0 then commitOnce x t id
    else
      let c := copyCmd x a b useDir
      match copyCheck c ((t.core x.core).scratchOf x.src.inst).size with
      | some f => trap t ⟨f.1, f.2, x.low, 0⟩
      | none =>
        match freeCopy (t.core x.core) with
        | none => retry s .busy
        | some k =>
          watchOnce x t (copyShown t x c) (fun y u =>
            commitOnce y u (fun v =>
              let o := addOp v.cur 2 1
              startCopy (v.setCur o.1) x.core k c
                { rec_ := copyRec c x.slot, inst := x.src.inst, op := o.2, after := o.1.nextAcc, rd := 0, buf := []
                  started := false, order := 0, side := none, stopped := none })))

/-- CPY (R293, R294). -/
def execCpy (a b : BitVec 8) (s : State) : Out := copyInstr s false a b
/-- CPYS (R293, R294). -/
def execCpys (a b : BitVec 8) (s : State) : Out := copyInstr s true a b

/-! ### Tags (R154, R295) -/

/-- The tags of a core satisfy a wait: any bit of the mask, or all of them. -/
def tagsMeet (tags m : BitVec 64) (all : Bool) : Bool :=
  if m = 0 then true else if all then tags &&& m = m else tags &&& m != 0

/-- TAGWANY and TAGWALL. -/
def tagWait (s : State) (all : Bool) (a : BitVec 8) : Out :=
  startGroup s (onceShape (isScalPair a) [a, a + 1] [a, a + 1]) (fun x t =>
    let m := x.src.s64 a
    if x.act = 0 || m = 0 then commitOnce x t id
    else if tagsMeet (t.core x.core).tags m all then commitOnce x t (fun u => selfInv u x.core)
    else enterWait x t (.tags m all))

/-- TAGWANY (R295). -/
def execTagwany (a : BitVec 8) (s : State) : Out := tagWait s false a
/-- TAGWALL (R295). -/
def execTagwall (a : BitVec 8) (s : State) : Out := tagWait s true a

/-- TAGFF (R295). -/
def execTagff (d a : BitVec 8) (s : State) : Out :=
  startGroup s (onceShape (isScal d && isScalPair a) [d, a, a + 1] [a, a + 1]) (fun x t =>
    if x.act = 0 then commitOnce x t id
    else
      let f := (t.core x.core).tags &&& x.src.s64 a
      commitOnce x t (fun u =>
        let u1 := if f = 0 then u else selfInv u x.core
        u1.updCur (fun g => writeScal g d (BitVec.ofNat 32 (if f = 0 then 64 else lowest f)))))

/-- TAGCLR (R154, R295). -/
def execTagclr (a : BitVec 8) (s : State) : Out :=
  startGroup s (onceShape (isScalPair a) [a, a + 1] [a, a + 1]) (fun x t =>
    if x.act = 0 then commitOnce x t id
    else
      commitOnce x t (fun u => u.updCore x.core (fun c =>
        let idle := maskOf 64 ((bitsOf (x.src.s64 a)).filter (fun i => zget c.tagCnt i = 0))
        { c with tags := c.tags &&& ~~~idle })))

/-! ### Barriers (R156 to R158, R296 to R298) -/

/-- The checks of a barrier address: the scratchpad's for an address that names one, else a translation (R296). -/
def barCheck (s : State) (core inst : Nat) (va : BitVec 64) (need : Need) : Xlat :=
  if isScrBar va then scrCheck s core inst (fnat va 31 0) 16 else check s core (instRoot s inst) va 16 need

/-- A barrier instruction: one credit step, entered as an access of 16 bytes that counts in st (R297). -/
def barrierInstr (s : State) (a : BitVec 8) (legalB : Bool) (bRegs : List (BitVec 8)) (rel : Bool)
    (kind : Ctx → AccKind) (val : Ctx → BitVec 64) : Out :=
  startGroup s (onceShape (addrPair a && legalB) (a :: (a + 1) :: bRegs) (a :: (a + 1) :: bRegs)) (fun x t =>
    if x.act = 0 then commitOnce x t id
    else
      let va := pairValue x false a x.low
      match barCheck t x.core x.src.inst va .write with
      | .fault c ar => trap t ⟨c, va, x.low, ar⟩
      | .wait l => waitXlat s l
      | .ok pa ar gn rg =>
        commitOnce x t (fun u =>
          let u1 := if isScrBar va then pinRange u x.core x.src.inst pa 16 else u
          enterAll u1 1 [] (fun p =>
            { accessAt (isScrBar va) true (kind x) 16 p with val := (val x).setWidth 128, rel := rel })
            [⟨x.low, va, pa, ar, gn, rg⟩]))

/-- BARINIT (R297). -/
def execBarinit (a b : BitVec 8) (s : State) : Out :=
  barrierInstr s a (isScalPair b) [b, b + 1] false (fun _ => .barInit) (fun x => x.src.s64 b)

/-- BARARR: a release with one arrival for each thread that takes part (R297). -/
def execBararr (a b : BitVec 8) (s : State) : Out :=
  barrierInstr s a (isUni b) [b] true (fun x => .barArr (popcount x.act)) (fun x => (x.uni b).setWidth 64)

/-- BAREXP (R297). -/
def execBarexp (a b : BitVec 8) (s : State) : Out :=
  barrierInstr s a (isScalPair b) [b, b + 1] false (fun _ => .barExp) (fun x => x.src.s64 b)

/-- A barrier's value as a waiting group reads it. -/
def barRead (s : State) (core inst : Nat) (scr : Bool) (addr : Nat) : BitVec 128 :=
  ofBytes 128 (if scr then readScratch s core inst addr 16 else (List.range 16).map (fun i => homeByte s (addr + i)))

/-- A barrier in memory has a soft error when it is read (R191). -/
def barSoft (s : State) (scr : Bool) (addr : Nat) : Bool := !scr && softAt s addr 16

/-- The status with which a wait for a phase ends now, if it ends: after the group's older accesses to the barrier, and
not while another group holds its line (R158, R179, R190). -/
def phaseEnd (s : State) (core slot : Nat) (addr : Nat) (scr : Bool) (phase : BitVec 16) : Option Nat :=
  let g := s.group core slot
  let probe : Access := { Access.zero with id := g.nextAcc, scr := scr, addr := addr, size := 16 }
  let ready := g.accs.all (fun b => !(holdsBack g.accs b probe) && !(b.overlaps probe && !b.perf && !(isFence b)))
  if ready && (scr || !(heldByOther s core slot (lineOf addr))) then
    barWait (barRead s core g.inst scr addr) phase.toNat
  else none

/-- WAITPH, whose address is a scalar pair, as of every instruction with a scalar destination (R221, R284, R298). -/
def execWaitph (d a b : BitVec 8) (s : State) : Out :=
  startGroup s (onceShape (isScal d && isScalPair a && isUni b) [d, a, a + 1, b] [a, a + 1, b]) (fun x t =>
    if x.act = 0 then commitOnce x t id
    else
      let va := pairValue x false a x.low
      match barCheck t x.core x.src.inst va .read with
      | .fault c ar => trap t ⟨c, va, x.low, ar⟩
      | .wait l => waitXlat s l
      | .ok pa ar _ _ =>
        let scr := isScrBar va
        let p : BitVec 16 := (x.uni b).setWidth 16
        let t1 := if scr then pinRange t x.core x.src.inst pa 16 else t
        match phaseEnd t1 x.core x.slot pa scr p with
        | some st =>
          if barSoft t scr pa then trap t ⟨cSOFTERR, va, x.low, ar⟩
          else commitOnce x t1 (fun u => (selfInv u x.core).updCur (fun g => writeScal g d (BitVec.ofNat 32 st)))
        | none => enterWait x t1 (.waitph pa scr p d))

/-! ### Counter waits (R299) -/

/-- CNTWAIT (R183, R299). -/
def execCntwait (k : BitVec 3) (n : BitVec 16) (s : State) : Out :=
  startGroup s { onceShape (decide (k.toNat ≤ 4)) [] [] with full := true } (fun x t =>
    if t.cur.count k.toNat ≤ n.toNat then commitOnce x t (fun u => selfInv u x.core)
    else enterWait x t (.cnt k.toNat n.toNat))

/-! ### Hardware queues (R117, R187, R300) -/

/-- A predicate operand. -/
def queueShape (legalD : Bool) (d a : BitVec 8) (dRead uni : Bool) : Shape :=
  mkShape .memory (legalD && isPred a) [d, a] (if dRead then [d] else []) uni

/-- The place of a group's queue operation among its accesses, apart from memory. -/
def pushAddr (q : Nat) : Nat := 2 ^ 41 + 256 * q

/-- ENQ: the push waits among the group's accesses, as a release (R187, R300). -/
def execEnq (d a : BitVec 8) (q : BitVec 3) (s : State) : Out :=
  let uni := isScal d
  startGroup s (queueShape (storeReg 1 d) d a true uni) (fun x t =>
    if !(sideHeld t x.core x.slot) then trap t ⟨cSIDENOTHELD, 0, x.low, 0⟩
    else if x.act = 0 then retire t x.hit 0
    else
      let ts := accThreads x uni
      let w2 := watch t x.core x.slot 2 x.src.pc (ts.map (fun i => ⟨i, [operand x uni d i], 0, none⟩))
      let h := Hit.join x.hit w2.2
      let held : BitVec 64 := match h with | some y => y.held | none => 0
      if uni && held != 0 then retire w2.1 (h.map (fun y => { y with held := x.act })) 0
      else
        let go := ts.filter (fun i => !(bit held i))
        let t1 := if go.isEmpty then w2.1 else w2.1.updCur (fun g =>
          let o := addOp g 1 1
          addScore (addAccess o.1 { Access.zero with
            op := o.2, kind := .push q.toNat, addr := pushAddr q.toNat, thr := x.low, pred := some a, uni := uni, rel := true
            mask := if uni then x.src.amask else maskOf 64 go, words := go.map (operand x uni d), pc := g.pc, born := t.tick }) o.2 [a])
        retire t1 h 0)

/-- A pop in progress: the entries still to offer, what each thread received, the threads that no entry was left for, and what the
watch predicates ask for. -/
structure Popping where
  st    : State
  rest  : List Word
  got   : List (Nat × Word)
  none_ : List Nat
  hit   : Option Hit
  deriving Repr

/-- Offers the next entry to a thread: it is tested before it is taken (R346); `born` is the start of a DEQ that has started before. -/
def offerEntry (born : Option Nat) (core slot : Nat) (pc : BitVec 48) (p : Popping) (t : Nat) : Popping :=
  match p.rest with
  | [] => { p with none_ := p.none_ ++ [t] }
  | w :: r =>
    let v := watchFrom p.st born core slot 1 pc [⟨t, [w], 0, none⟩]
    let q := { p with st := v.1, hit := Hit.join p.hit v.2 }
    match v.2 with
    | some h => if bit h.held t then q else { q with rest := r, got := p.got ++ [(t, w)] }
    | none => { q with rest := r, got := p.got ++ [(t, w)] }

/-- The pop is performed once the ordering rules allow it (R179). -/
def popReady (g : Group) : Bool :=
  mayPerform g.accs { Access.zero with id := g.nextAcc, kind := .pop 0, addr := 2 ^ 42 }

/-- A halting predicate watches the entries that some group of the core pops. -/
def popWatched (c : Core) : Bool :=
  c.wps.any (fun e => decide (fnat e.2.ctl 51 49 = 1) && decide (fnat e.2.ctl 44 43 = 0))

/-- The entries that a pop takes, its threads in ascending order (R300). -/
def popEntries (s : State) (born : Option Nat) (core slot q : Nat) (pc : BitVec 48) (ts : List Nat) : Popping :=
  ts.foldl (offerEntry born core slot pc) ⟨s, ((s.core core).queue q).items, [], [], none⟩

/-- A pop ends: the entries leave the queue, an acquire where one was received (R187). -/
def popTaken (p : Popping) (core slot q : Nat) : State :=
  let t := queueTake p.st core q (2 + slot / 16) p.got.length
  if p.got.isEmpty then t else selfInv t core

/-- What a pop writes: the data of the threads that received an entry, and failure or success (R300). -/
def popWrites (g : Group) (d a : BitVec 8) (uni : Bool) (mask : BitVec 64) (p : Popping) : Group :=
  if uni then writePred (p.got.foldl (fun k e => writeScal k d e.2) g) a mask (if p.got.isEmpty then mask else 0)
  else writePred (if isVec d then writeLanes g d p.got else g) a (maskOf 64 (p.got.map Prod.fst ++ p.none_)) (maskOf 64 p.none_)

/-- DEQ: one that the ordering rules allow pops at once, and still counts in ld while an older operation is outstanding; another pops
at its operation step as the acquire that it is, its results scoreboarded until then. Where a halting predicate watches the entries the group waits for that
step, since a thread that it withholds stays in SPLIT at the DEQ (R183, R187, R300, R346; log entry 35). -/
def execDeq (d a : BitVec 8) (q : BitVec 3) (s : State) : Out :=
  let uni := isScal d
  startGroup s (queueShape (dataReg 1 d) d a false uni) (fun x t =>
    let mask := if uni then x.src.amask else x.act
    if !(sideHeld t x.core x.slot) then trap t ⟨cSIDENOTHELD, 0, x.low, 0⟩
    else if x.act = 0 then retire t x.hit 0
    else if popReady t.cur then
      let p := popEntries t none x.core x.slot q.toNat x.src.pc (accThreads x uni)
      let h := Hit.join x.hit p.hit
      let held : BitVec 64 := match p.hit with | some y => y.held | none => 0
      if uni && held != 0 then retire p.st (h.map (fun y => { y with held := x.act })) 0
      else
        retire ((popTaken p x.core x.slot q.toNat).updCur (fun g =>
          let o := (addOp g 0 0).1
          popWrites { o with ld := dropDone o.ld } d a uni mask p)) h 0
    else if popWatched (t.core x.core) && !t.focus.step then retry s .busy
    else
      retire (t.updCur (fun g =>
        let o := addOp g 0 1
        addScore (addAccess o.1 { Access.zero with
          op := o.2, kind := .pop q.toNat, addr := pushAddr q.toNat, thr := x.low, dst := [d], pred := some a, uni := uni
          acq := true, mask := mask, pc := g.pc, step := t.focus.step, born := t.tick }) o.2 [d, a])) x.hit 0)

/-! ### Monitor and wait (R200, R301) -/

/-- MONITOR (R301). -/
def execMonitor (a : BitVec 8) (s : State) : Out :=
  startGroup s (onceShape (isScalPair a) [a, a + 1] [a, a + 1]) (fun x t =>
    if x.act = 0 then commitOnce x t id
    else
      let va := x.src.s64 a
      match check t x.core (instRoot t x.src.inst) va 1 .read with
      | .fault c ar => trap t ⟨c, va, x.low, ar⟩
      | .wait l => waitXlat s l
      | .ok pa ar _ _ =>
        commitOnce x t (fun u => u.updCur (fun g => { g with mon := some (lineOf pa), monArena := ar, monHit := false })))

/-- The cycles that an MWAIT waits: those that a stop left over, else the number it names, else 2²⁴ (R200, R206). -/
def mwaitCycles (left v : Word) : Word := if left != 0 then left else if v = 0 then 0x1000000 else v

/-- MWAIT (R200, R301). -/
def execMwait (a : BitVec 8) (s : State) : Out :=
  startGroup s (onceShape (isUni a) [a] [a]) (fun x t =>
    if x.act = 0 then commitOnce x t id
    else
      match x.src.mon with
      | none => commitOnce x t id
      | some _ =>
        if t.cur.monHit then
          commitOnce x t (fun u =>
            (selfInv u x.core).updCur (fun g => { g with mon := none, monHit := false, mrem := 0 }))
        else enterWait x (t.updCur (fun g => { g with mrem := mwaitCycles g.mrem (x.uni a) })) .mwait)

end Sys2Proof.Machine
end

