-- ==== Sys2Proof/Machine/Locks.lean ====
section
/-! DEFINITION. Line locks: what the instructions check and send, what the home does about each operation, and what the
answers do (R190, R329 to R342). -/
namespace Sys2Proof.Machine

/-! ### Status (R333, R334) -/

def lkOK : Nat := 0
def lkSELF : Nat := 1
def lkABANDONED : Nat := 2
def lkDROPPED : Nat := 3
def lkTIMEOUT : Nat := 4
def lkBUSY : Nat := 5
def lkLIMIT : Nat := 6
def lkNOPIN : Nat := 7

/-- FAIL of a status. -/
def lkFails (st : Nat) : Bool := decide (4 ≤ st)

/-- Writes a status: bits 3:0 and FAIL in bit 31 of a scalar, or FAIL in the active mask of a predicate (R334). -/
def writeStatus (g : Group) (d : BitVec 8) (st : Nat) : Group :=
  if isScal d then writeScal g d (BitVec.ofNat 32 (st + if lkFails st then 2 ^ 31 else 0))
  else writePred g d g.amask (if lkFails st then g.amask else 0)

/-! ### The instructions (R334, R335, R337, R339, R342) -/

/-- The release of the line by the group is still to be sent: a new operation on the line follows it (R179 rule 1). -/
def unlockPending (g : Group) (line : Nat) : Bool :=
  g.accs.any (fun a => decide (a.kind = .unlock) && decide (a.addr = 2 ^ 40 + line * 256))

/-- The group has stopped in a LOCK of this line before: its node stands in the trail, or its wait says so (R338). -/
def stoppedHere (s : State) (line : Nat) : Bool :=
  (match s.cur.wait with | .lkrq 7 l _ _ => decide (l = line) | _ => false) ||
  (match find s.locks line with | some e => e.trail.any (fun n => n.absent && decide (n.owner = s.cur.save)) | none => false)

/-- LOCK and TRYLOCK once their checks have passed (R335). A LOCK that a stop interrupted sends RESUME, or completes with
the status of the grant that reached the stopped group (R338). The line's way is reserved before the request is sent, and the
instruction waits while every way that is not pinned is reserved (R30). -/
def lockStart (s0 : State) (x : Ctx) (t : State) (try_ : Bool) (d : BitVec 8) (line : Nat) (ar : BitVec 12) (gn : BitVec 4)
    (rg : BitVec 2) : State :=
  let g := t.cur
  let done := fun (acq : Bool) (st : Nat) =>
    commitOnce x t (fun u => (if acq then selfInv u x.core else u).updCur (fun k => writeStatus k d st))
  if g.lkgr && g.locks.contains line then
    commitOnce x t (fun u => (selfInv u x.core).updCur (fun k => writeStatus { k with lkgr := false, lkst := 0 } d g.lkst.toNat))
  else if g.locks.contains line then done false lkSELF
  else if unlockPending g line then retry s0 .busy
  else if 4 ≤ g.locks.length then done false lkLIMIT
  else if setPinned (t.core x.core) line then done false lkNOPIN
  else
    let code := if try_ then 1 else if stoppedHere s0 line then 7 else 0
    match takeWay t x.core line with
    | none => retry s0 .busy
    | some u => enterWait x (sendLockAs u code line x.core x.slot x.low g.save ar gn rg)
        (if try_ then .lkrq 1 line d x.low else .lock line d x.low false)

/-- The common course of LOCK and TRYLOCK. -/
def lockInstr (s : State) (try_ legal : Bool) (d a : BitVec 8) (more : List (BitVec 8)) : Out :=
  startGroup s (onceShape (legal && (isScal d || isPred d) && isScalPair a) (d :: a :: (a + 1) :: more) (a :: (a + 1) :: more))
    (fun x t =>
      if x.act = 0 then commitOnce x t id
      else
        let va := x.src.s64 a
        match check t x.core (instRoot t x.src.inst) va 4 .both with
        | .fault c ar => trap t ⟨c, va, x.low, ar⟩
        | .wait l => waitXlat s l
        | .ok pa ar gn rg =>
          watchOnce x t [⟨x.low, [va.setWidth 32], va.extractLsb' 32 16, some ar⟩] (fun y u => lockStart s y u try_ d (lineOf pa) ar gn rg))

/-- LOCK: the timeout in `b` is timing alone, and LOCK_TIMEOUT may come at any time (R334, R335). -/
def execLock (d a b : BitVec 8) (s : State) : Out := lockInstr s false (isScal b || isZero b) d a [b]
/-- TRYLOCK (R334, R335). -/
def execTrylock (d a : BitVec 8) (s : State) : Out := lockInstr s true true d a []

/-- The checks that UNLOCK, LKPROBE and LKFREE make, and then their effect on the line, with the pair and the attribute of its page
(R41, R337). -/
def unlockCheck (s : State) (x : Ctx) (t : State) (a : BitVec 8) (k : Nat → BitVec 12 → BitVec 4 → BitVec 2 → State) : State :=
  if x.act = 0 then commitOnce x t id
  else
    let va := x.src.s64 a
    match check t x.core (instRoot t x.src.inst) va 4 .unlock with
    | .fault c ar => trap t ⟨c, va, x.low, ar⟩
    | .wait l => waitXlat s l
    | .ok pa ar gn rg => k (lineOf pa) ar gn rg

/-- UNLOCK (R337). -/
def execUnlock (a : BitVec 8) (s : State) : Out :=
  startGroup s (onceShape (isScalPair a) [a, a + 1] [a, a + 1]) (fun x t =>
    unlockCheck s x t a (fun line _ _ _ =>
      commitOnce x t (fun u => u.updCur (fun g => if g.locks.contains line then addUnlock g line else g))))

/-- LKPROBE (R342). -/
def execLkprobe (d a : BitVec 8) (s : State) : Out :=
  startGroup s (onceShape (isScalPair d && isScalPair a) [d, d + 1, a, a + 1] [a, a + 1]) (fun x t =>
    unlockCheck s x t a (fun line ar gn rg =>
      enterWait x (sendLockAs t 3 line x.core x.slot x.low t.cur.save ar gn rg) (.lkrq 3 line d x.low)))

/-- Every older access of the group has been performed (R179 rule 3). -/
def releaseReady (g : Group) : Bool := mayPerform g.accs { Access.zero with id := g.nextAcc, addr := 2 ^ 42, rel := true }

/-- LKFREE (R339). -/
def execLkfree (d a : BitVec 8) (s : State) : Out :=
  startGroup s { onceShape (isScal d && isScalPair a) [d, a, a + 1] [a, a + 1] with superv := true } (fun x t =>
    unlockCheck s x t a (fun line ar gn rg =>
      if releaseReady t.cur then
        enterWait x (sendLockAs t 4 line x.core x.slot x.low t.cur.save ar gn rg) (.lkrq 4 line d x.low)
      else retry s .busy))

/-! ### The home (R190, R332, R335 to R339, R342) -/

/-- The line is unlocked and its trail has no present node. -/
def lockFree (s : State) (line : Nat) : Bool :=
  match find s.locks line with
  | none => true
  | some e => !e.hvalid && e.trail.all (fun n => n.absent)

/-- A lock operation arrives: it is refused while the line is busy or reserved for another requester (R40, R332). -/
def lockMessage (s : State) (code : Nat) (p : Packet) (k : State → State) : Out :=
  askedIf s p (decide (p.op = 0x0A) && decide (lockCode p = code)) (fun t =>
    let line := pktLine p
    if mayServe t p line then k t else refuse t p line true)

/-- The grant of an unlocked line. -/
def grantFree (s : State) (line : Nat) (p : Packet) : State :=
  if lockFull s line then refuse s p line false
  else withRoom s line p (fun t => serveExclusive (serviced t line) line p)

/-- LOCK and TRYLOCK at the home (R335). -/
def lockAtHome (s : State) (line : Nat) (p : Packet) : State :=
  if lockFree s line then grantFree s line p
  else if lockCode p = 1 then send (serviced s line) (ackPkt line p lkBUSY)
  else if trailFull s line then refuse s p line false
  else
    match find s.locks line with
    | none => s
    | some e =>
      let n : TrailNode := { absent := false, core := p.core.toNat, grp := p.grp.toNat, thr := p.thr.toNat, owner := lockOwner p }
      let s1 := serviced s line
      { s1 with locks := put s1.locks line { e with trail := e.trail ++ [n] } }

/-- LKRQ LOCK (R335). -/
def execLkrqLock (p : Packet) (s : State) : Out :=
  lockMessage s 0 p (fun t => lockAtHome t (pktLine p) p)

/-- LKRQ TRYLOCK (R335). -/
def execLkrqTrylock (p : Packet) (s : State) : Out :=
  lockMessage s 1 p (fun t => lockAtHome t (pktLine p) p)

/-- The entry of a line whose holder is named by an OWNER value. -/
def heldBy (s : State) (line : Nat) (own : BitVec 30) : Option LockEntry :=
  match find s.locks line with
  | some e => if e.hvalid && decide (e.hown = own) then some e else none
  | none => none

/-- The recall of a holder's copy, after which the request completes (R337 step 1). -/
def recallHolder (s : State) (line core : Nat) (p : Packet) : State :=
  let t := serviced s line
  awaitCores t line [core] (some p) none [ctlMsg t 0x22 line p.txn core]

/-- LKRQ UNLOCK (R337). -/
def execLkrqUnlock (p : Packet) (s : State) : Out :=
  lockMessage s 2 p (fun t =>
    match heldBy t (pktLine p) (lockOwner p) with
    | some e => recallHolder t (pktLine p) e.hcore p
    | none => send (serviced t (pktLine p)) (ackPkt (pktLine p) p 0))

/-- The home has a walk made by its die's management core, at which work is then present (R23, R341). -/
def wakeWalker (s : State) (line : Nat) : State := wakeIf s (.mgmt (homeOfLine line / 16))

/-- LKRQ PROBE: the words that LKPROBE reports travel in INLINE bits 223:160 of the flit (R342). -/
def execLkrqProbe (p : Packet) (s : State) : Out :=
  lockMessage s 3 p (fun t =>
    let w := probeWords t (pktLine p)
    let r : BitVec 384 := (0#288 ++ w.2 ++ w.1 ++ 0#32 : BitVec (288 + 32 + 32 + 32))
    send (wakeWalker (serviced t (pktLine p)) (pktLine p)) { ackPkt (pktLine p) p 0 with inl := r })

/-- LKRQ FREE: the next grant is to report ABANDONED, unless a drop comes before it (R333, R339). -/
def execLkrqFree (p : Packet) (s : State) : Out :=
  lockMessage s 4 p (fun t =>
    match find t.locks (pktLine p) with
    | some e =>
      if e.hvalid then recallHolder { t with locks := put t.locks (pktLine p) { e with nextst := 2 } } (pktLine p) e.hcore p
      else send (serviced t (pktLine p)) (ackPkt (pktLine p) p 1)
    | none => send (serviced t (pktLine p)) (ackPkt (pktLine p) p 1))

/-- The entry of a line with another trail; one that says nothing is freed (R329). -/
def putTrail (s : State) (line : Nat) (e : LockEntry) (l : List TrailNode) : State :=
  if !e.hvalid && l.isEmpty then freeLock s line e else { s with locks := put s.locks line { e with trail := l } }

def ownNode (own : BitVec 30) (n : TrailNode) : Bool := decide (n.owner = own)

/-- LKRQ UNLINK (R336): a group that holds the line already has been sent its grant. -/
def execLkrqUnlink (p : Packet) (s : State) : Out :=
  lockMessage s 5 p (fun t =>
    let line := pktLine p
    let t1 := serviced t line
    let done := fun (u : State) => send u (ackPkt line p lkTIMEOUT)
    match find t1.locks line with
    | none => done t1
    | some e =>
      if e.hvalid && decide (e.hown = lockOwner p) then t1
      else done (putTrail t1 line e (removeFirst (ownNode (lockOwner p)) e.trail)))

/-- LKRQ ABSENT (R338). -/
def execLkrqAbsent (p : Packet) (s : State) : Out :=
  lockMessage s 6 p (fun t =>
    let line := pktLine p
    let t1 := serviced t line
    let t2 := match find t1.locks line with
      | none => t1
      | some e => putTrail t1 line e (replaceFirst (ownNode (lockOwner p)) (fun n => { n with absent := true }) e.trail)
    send t2 (ackPkt line p 0))

/-- LKRQ RESUME (R338): the node becomes present again, and is granted the line where it has no holder; without a node it is
a LOCK. -/
def execLkrqResume (p : Packet) (s : State) : Out :=
  lockMessage s 7 p (fun t =>
    let line := pktLine p
    match find t.locks line with
    | none => lockAtHome t line { p with inl := fput p.inl 7 0 0 }
    | some e =>
      if e.trail.any (ownNode (lockOwner p)) then
        let l := replaceFirst (ownNode (lockOwner p))
          (fun n => { n with absent := false, core := p.core.toNat, grp := p.grp.toNat, thr := p.thr.toNat }) e.trail
        let t1 := putTrail (serviced t line) line e l
        if e.hvalid then t1 else withRoom t1 line p (fun u => serveExclusive u line p)
      else lockAtHome t line { p with inl := fput p.inl 7 0 0 })

/-- LKRQ HOLDMOVE (R338): the holder's new place, or the answer that the line is no longer its own. -/
def execLkrqHoldmove (p : Packet) (s : State) : Out :=
  lockMessage s 8 p (fun t =>
    let line := pktLine p
    let t1 := serviced t line
    match heldBy t1 line (lockOwner p) with
    | none => send t1 (ackPkt line p 2)
    | some e =>
      let c := p.core.toNat
      let t2 := if e.hcore = c then t1 else dropLine t1 e.hcore line
      let t3 := { t2 with locks := put t2.locks line { e with hcore := c, hgrp := p.grp.toNat } }
      let t4 := setDir t3 line { exclusiveTo (t3.dirAt line) c with lk := true, pin := true }
      send t4 (ackPkt line p 0))

/-! ### What the answers do at the core -/

/-- The requests of a group's LOCK have ended. -/
def endLockReqs (s : State) (core grp : Nat) : State :=
  [0, 1, 5, 7].foldl (fun t code => endReq t core (lockTxn code grp)) s

/-- The group receives the line: an acquire, unless the group has stopped, in which case the status is kept for the instruction that runs
again (R335, R338, R346). -/
def lockGranted (s : State) (p : Packet) : State :=
  let core := p.core.toNat
  let grp := txnGrp p.txn.toNat
  let line := pktLine p
  let s1 := endLockReqs s core grp
  let take := fun (d : BitVec 8) =>
    let s2 := selfInv (pinLine s1 core line p.arena p.gen) core
    endWait (s2.updGroup core grp (fun g => writeStatus { g with locks := g.locks ++ [line] } d p.hint.toNat)) core grp
  let keep := fun (w : Wait) => (pinLine s1 core line p.arena p.gen).updGroup core grp (fun g => { g with
    locks := g.locks ++ [line], lkgr := true, lkst := p.hint, wait := w, redo := false })
  match (s1.group core grp).wait with
  | .lock l d _ _ => if l = line then take d else dropEmpty s1 core line
  | .lkrq 1 l d _ =>
    if l ≠ line then dropEmpty s1 core line else if (s1.group core grp).redo then keep .none else take d
  | .lkrq 6 l d h => if l = line then keep (.lkrq 7 l d h) else dropEmpty s1 core line
  | _ => dropEmpty s1 core line

/-- One of an instance's held lines has found its holder's new place, or has been lost to it (R338); the grant that reached the
stopped group is that of the last line in LOCKS, and its status goes with it. -/
def holdMoved (s : State) (p : Packet) (status : Nat) : State :=
  let core := p.core.toNat
  let grp := txnGrp p.txn.toNat
  let line := pktLine p
  let s1 := endLineReq s p
  let s2 := if status = 2 then s1.updGroup core grp (fun g => { g with
      locks := g.locks.filter (fun l => decide (l ≠ line))
      lkgr := g.lkgr && decide (g.locks.getLast? ≠ some line), lkst := if g.locks.getLast? = some line then 0 else g.lkst })
    else pinLine s1 core line p.arena p.gen
  updInst s2 (s2.group core grp).inst (fun i => { i with moves := i.moves - 1 })

/-- What the ACK of a lock operation does at its group (R332, R335 to R339, R342). -/
def takeLockAck (s : State) (p : Packet) : State :=
  let core := p.core.toNat
  let txn := p.txn.toNat
  let grp := txnGrp txn
  let code := txnCode txn
  let status := fnat p.inl 3 0
  if code = 8 then holdMoved s p status
  else
    let s1 := endReq s core txn
    let fin := fun (f : Group → Group) => endAnswered s1 core grp f
    match code, (s1.group core grp).wait with
    | 1, .lkrq 1 _ d _ => fin (fun g => writeStatus g d status)
    | 3, .lkrq 3 _ d _ =>
      fin (fun g => (g.setScal (scalNo d) (p.inl.extractLsb' 32 32)).setScal (scalNo d + 1) (p.inl.extractLsb' 64 32))
    | 4, .lkrq 4 _ d _ => fin (fun g => writeScal g d (BitVec.ofNat 32 status))
    | 5, .lock _ d _ _ => endLockReqs (fin (fun g => writeStatus g d lkTIMEOUT)) core grp
    | 6, .lkrq 6 l d h => endLockReqs (s1.updGroup core grp (fun g => { g with wait := .lkrq 7 l d h })) core grp
    | _, _ => s1

/-- An ACK of a lock operation reaches its group; a way reserved for a line that is not granted is free again (R30). -/
def lockAcked (s : State) (p : Packet) : State := dropEmpty (takeLockAck s p) p.core.toNat (pktLine p)

/-! ### Time (R336, R341) -/

/-- The timeout of a LOCK expires: UNLINK is sent (R336). -/
def execLockTimeout (core slot : Nat) (s : State) : Out :=
  let g := s.group core slot
  match g.wait with
  | .lock l d h false =>
    .next ((sendLock s 5 l core slot h g.save).updGroup core slot (fun k => { k with wait := .lock l d h true }))
  | _ => .next s

/-- The CYCLE field: up to eight groups of 14 bits, the first in bits 119:106 of AUX (R341). -/
def cycleBits (l : List (Nat × Nat)) : BitVec 112 :=
  let w := fun k => match l[k]? with
    | some (c, g) => (BitVec.ofNat 8 c ++ BitVec.ofNat 6 g : BitVec (8 + 6))
    | none => 0
  (w 0 ++ w 1 ++ w 2 ++ w 3 ++ w 4 ++ w 5 ++ w 6 ++ w 7 : BitVec (14 + 14 + 14 + 14 + 14 + 14 + 14 + 14))

/-- The KIND 2 record of a waiter in a closed cycle (R87, R341). -/
def deadlockRecord (n : TrailNode) (line : Nat) (held : List Nat) (cyc : List (Nat × Nat)) : BitVec 512 :=
  mkRecord (BitVec.ofNat 64 (line * 256)) 0 0 n.core n.grp n.thr cDEADLOCK.toNat 0 held 0 0 2
    (BitVec.ofNat 5 cyc.length ++ 0#3 ++ cycleBits cyc ++ 0#8 : BitVec (5 + 3 + 112 + 8))

/-- The walk that a waiting node calls for: a closed cycle is reported to the waiter's region, and nothing changes (R341). -/
def execDeadlockWalk (line node : Nat) (s : State) : Out :=
  match find s.locks line with
  | none => .next s
  | some e =>
    match e.trail[node]? with
    | none => .next s
    | some n =>
      if n.absent then .next s
      else
        let w := walkLocks s 16 line 0 [(n.core, n.grp)]
        let g := s.group n.core n.grp
        let t := wakeWalker s line
        if w.1 then .next (writeRecord t (instRegion s g.inst) (deadlockRecord n line g.locks w.2.2)) else .next t

end Sys2Proof.Machine
end

