-- ==== Sys2Proof/Machine/Arena.lean ====
section
/-! DEFINITION. The arena instructions, drops, seals and quiesce sweeps, and CBSYNC (R43, R91, R92, R161 to R169, R188,
R189, R302, R303). -/
namespace Sys2Proof.Machine

/-! ### Arena entries and results (R161, R164, R302) -/

def arOK : Nat := 0
def arBADARENA : Nat := 1
def arDEPTH : Nat := 2
def arNOFREE : Nat := 3
def arHASCHILD : Nat := 4
def arLOCKED : Nat := 5
def arISSEALED : Nat := 6

/-- Changes a field of an arena-table entry. -/
def putArena (s : State) (a hi lo v : Nat) : State := s.setArena a (fput (s.arena a) hi lo v)

def setBusy (s : State) (a : Nat) (b : Bool) : State := putArena s a 105 105 (b2n b)

/-- A result: GEN, NUM and STATUS (R302). -/
def arenaResult (status num gen : Nat) : Word :=
  (0#8 ++ BitVec.ofNat 4 gen ++ BitVec.ofNat 12 num ++ BitVec.ofNat 8 status : BitVec (8 + 4 + 12 + 8))

/-- A refusal, or AQUOTA's result: R302 gives NUM and GEN a meaning for ANEW's number alone, and the model leaves them free. The OK
of ADROP and of ASEAL is an all-zero result (R394, R398). -/
def arenaStatus (s : State) (status : Nat) : Word :=
  arenaResult status (fnat (Config.freeWord s.tick) 11 0) (fnat (Config.freeWord s.tick) 15 12)

/-- The arena number of an operand. -/
def arenaNo (x : Ctx) (a : BitVec 8) : Nat := fnat (x.uni a) 11 0

/-- An arena instruction that is complete at once. -/
def arenaDone (x : Ctx) (t : State) (d : BitVec 8) (v : Word) (f : State → State) : State :=
  commitOnce x t (fun u => (f u).updCur (fun g => writeScal g d v))

/-- The common course of ANEW, ADROP, ASEAL and AQUOTA (R302). -/
def arenaInstr (s : State) (d : BitVec 8) (srcs : List (BitVec 8)) (k : Ctx → State → State) : Out :=
  startGroup s (onceShape (isScal d && srcs.all isUni) (d :: srcs) srcs) (fun x t => if x.act = 0 then commitOnce x t id else k x t)

/-- Completes an arena instruction that has waited. -/
def arenaEnd (s : State) (core slot : Nat) (d : BitVec 8) (v : Word) : State :=
  endAnswered s core slot (fun g => writeScal g d v)

/-! ### Quiesce sweeps (R169) -/

/-- The stop that injects a sweep's token on a loop: that of the group's core, or, on the loops of another die, its management core
(log entry 92). -/
def sweepOrigin (core loop : Nat) : BitVec 7 :=
  if (loopStops loop).contains (stopOfCore core).toNat then stopOfCore core else stopOfMgmt (loop / 16)

/-- Starts a sweep: a token is to be injected on each of the 64 on-die loops and the 8 package loops (R169 step 3). -/
def startSweep (s : State) (a core slot : Nat) : State :=
  { s with sweeps := s.sweeps ++ [{
      arena := a
      tokens := (List.range 72).map (fun l => ⟨l, placeOn l (sweepOrigin core l), loopLength l + 1, [], s.loopClock⟩)
      units := List.range 320
      engs := (s.engReqs.filter (fun r => decide (r.pkt.arena.toNat = a))).map (fun r => r.pkt)
      core := core, slot := slot }] }

/-- A core's store buffers and miss-status entries hold nothing of an arena, and no lock operation of another generation than GEN is under
way (R169 step 1). -/
def coreClear (s : State) (a core : Nat) : Bool :=
  let c := s.core core
  c.groups.all (fun g => g.2.accs.all (fun b => b.scr || b.perf || decide (b.arena.toNat ≠ a))) &&
  c.asks.all (fun k => decide (k.arena.toNat ≠ a)) &&
  c.reqs.all (fun r => decide (r.pkt.arena.toNat ≠ a) || (decide (r.pkt.op = 0x0A) && decide (r.pkt.gen.toNat = aGen (s.arena a))))

/-- A slice's write queue and its queue at memory hold nothing of an arena (R169 step 2). -/
def sliceClear (s : State) (a h : Nat) : Bool :=
  s.fetches.all (fun f => decide (f.pkt.arena.toNat ≠ a) || decide (sliceOfStop f.pkt.dst ≠ some h)) &&
  s.wq.all (fun e => decide (e.arena.toNat ≠ a) || decide (homeOfLine (lineOf e.addr) ≠ h))

/-- A unit of a sweep has drained. -/
def unitClear (s : State) (a u : Nat) : Bool := if u < 256 then coreClear s a u else sliceClear s a (u - 256)

/-- The units that have drained report it, and the requests of engines that have ended are awaited no more (R169 steps 1 and 2). -/
def settleSweeps (s : State) : State :=
  { s with sweeps := s.sweeps.map (fun w => { w with
      units := w.units.filter (fun u => !(unitClear s w.arena u))
      engs := w.engs.filter (fun p => s.engReqs.any (fun r => decide (r.pkt = p))) }) }

/-- QSW: the token in a register, which is that of a place of a loop, leaves its stop once everything queued ahead of it has left
(R169). -/
def execQsw (reg : Nat) (s : State) : Out :=
  match s.sweeps.findSome? (fun w => w.tokens.find? (fun t =>
    decide (t.loop = reg / 112) && decide (t.at_ = reg % 112) && tokenMoves s t)) with
  | none => .next s
  | some t => .next { s with sweeps := replaceFirst (fun w => w.tokens.contains t) (fun w =>
      { w with tokens := w.tokens.flatMap (fun u => if u = t then moveToken s t else [u]) }) s.sweeps }

/-! ### ADROP (R166, R188) -/

/-- DROP to a slice, or to a core, which CORE names. -/
def dropPkt (a : Nat) (g : BitVec 4) (core slot : Nat) (dst : BitVec 7) (to_ : Nat) : Packet :=
  { mkPkt 2 0x25 (stopOfCore core) dst 0 to_ slot 0 with arena := BitVec.ofNat 12 a, gen := g }

/-- DROP to every slice and every core of the package. -/
def dropPkts (a : Nat) (g : BitVec 4) (core slot : Nat) : List Packet :=
  (List.range 64).map (fun h => dropPkt a g core slot (stopOfSlice h) core) ++
  (List.range 256).map (fun c => dropPkt a g core slot (stopOfCore c) c)

/-- Logs a drop: GEN and DSS advance, SEALED is cleared, and DROP goes to every slice and every core (R166 steps 3 and 4). -/
def logDrop (s : State) (a core slot : Nat) : State :=
  let e := s.arena a
  let g := (aGen e + 1) % 16
  let s1 := s.setArena a (setBit (fput (fput e 115 112 g) 111 108 (aDss e + 1)) 106 false)
  sendAll { s1 with drops := s1.drops ++ [{ arena := a, gen := BitVec.ofNat 4 g, slices := List.range 64, cores := List.range 256
                                            acks := 320, core := core, slot := slot }] } (dropPkts a (BitVec.ofNat 4 g) core slot)

/-- Logs the drops that remain, up to one that a sweep must come before. -/
def dropNext (s : State) (core slot : Nat) (all : List Nat) (release : Bool) (d : BitVec 8) (todo : List Nat) : State :=
  match todo with
  | [] => s.updGroup core slot (fun g => { g with wait := .adrop all [] release d })
  | a :: r =>
    if aDss (s.arena a) = 15 then
      startSweep (s.updGroup core slot (fun g => { g with wait := .adrop all (a :: r) release d })) a core slot
    else dropNext (logDrop s a core slot) core slot all release d r

/-- A released number is free: VALID and, as the entry of R393 shows, DEPTH are 0 (R166 step 5; log entry 74). -/
def freeArenaNo (s : State) (a : Nat) : State := putArena (putArena s a 107 107 0) a 104 101 0

/-- Every recipient has answered for every arena: the ADROP retires, an acquire (R166 step 5, R180). -/
def dropsDone (s : State) (core slot : Nat) : State :=
  match (s.group core slot).wait with
  | .adrop all [] release d =>
    if s.drops.any (fun p => decide (p.core = core) && decide (p.slot = slot)) then s
    else
      let s1 := all.foldl (fun t a => let u := setBusy t a false; if release then freeArenaNo u a else u) s
      arenaEnd (selfInv s1 core) core slot d (arenaResult arOK 0 0)
  | _ => s

/-- ADROP (R166, R188): `l` is RELEASE and `r` is RECURSE. -/
def execAdrop (d a : BitVec 8) (l r : BitVec 1) (s : State) : Out :=
  arenaInstr s d [a] (fun x t =>
    let n := arenaNo x a
    let release := l = 1
    let tree := if r = 1 then arenaTree t n else [n]
    if aBusy (t.arena n) || tree.any (fun k => aBusy (t.arena k)) then retry s .busy
    else if n = 0 ∨ !(aValid (t.arena n)) then arenaDone x t d (arenaStatus t arBADARENA) id
    else if release && r = 0 && decide (1 < (arenaTree t n).length) then arenaDone x t d (arenaStatus t arHASCHILD) id
    else
      let t1 := enterWait x (tree.foldl (fun u k => setBusy u k true) t) (.adrop tree tree release d)
      dropNext t1 x.core x.slot tree release d tree)

/-- DROPAPPLY at a slice: its lines and replicas of the arena go with no write-back, ownership and directory entries are cleared, and the next
grant of every line that has been locked is to report DROPPED; entries of its write queue are stale from then on, and every line of the
arena counts as written, for the monitors on it (R166, R188, R190, R301). -/
def dropSlice (s : State) (h a : Nat) (g : BitVec 4) : State :=
  let lines := (s.l2.filter (fun e => decide (e.2.arena.toNat = a) && decide (homeOfLine e.1 = h))).map Prod.fst
  let s0 := lines.foldl (fun t l => restoreLine { t with l2 := del t.l2 l } l) s
  let s1 := (lines ++ (monitorLines s a).filter (fun l => decide (homeOfLine l = h))).dedup.foldl hitMonitors s0
  let owned := s1.own.filter (fun e => decide (homeOfLine (e.1 / 64) = h) && decide (((s1.core e.2).line (e.1 / 64)).arena.toNat = a))
  let s2 := owned.foldl (fun t e =>
    ({ t with own := del t.own e.1 }).updCore e.2 (fun c =>
      let l := c.line (e.1 / 64)
      c.setLine (e.1 / 64) { l with owned := l.owned &&& ~~~(maskOf 64 [e.1 % 64]) })) s1
  let ds := s2.dir.filter (fun e => decide (e.2.arena.toNat = a) && decide (homeOfLine e.1 = h))
  let s3 := ds.foldl (fun t e => setDir t e.1 (freedEntry e.2)) s2
  { s3 with
    sliceGen := zset s3.sliceGen (h * 4096 + a) g
    replicas := s3.replicas.filter (fun e => !(decide (e.2.arena.toNat = a) && decide (replicaSlice e.1 = h)))
    locks := s3.locks.map (fun (e : Nat × LockEntry) =>
      (e.1, if decide (e.2.arena.toNat = a) && decide (homeOfLine e.1 = h) then { e.2 with nextst := 3 } else e.2))
    pastLocks := s3.pastLocks.map (fun e =>
      (e.1, if decide (e.2.1.toNat = a) && decide (homeOfLine e.1 = h) then (e.2.1, 3) else e.2)) }

/-- The clusters, a core's with the TLB entries that a test keeps. -/
def dropClus (s : State) (core : Nat) (keep : TlbEntry → Bool) : Tbl Cluster :=
  s.clus.map (fun e => (e.1, if e.1 = core / 8 then { e.2 with tlb := e.2.tlb.filter keep } else e.2))

/-- DROPAPPLY at a core: its generation, its lines, its TLB entries and its cluster's, and the unpinned scratchpad frames; the requests
that wait are issued under the new generation (R166, R188, R212). -/
def dropCore (s : State) (core a : Nat) (g : BitVec 4) : State :=
  let c := s.core core
  let lines := (c.l1.filter (fun e => decide (e.2.arena.toNat = a))).map Prod.fst
  let keep := fun (e : TlbEntry) => decide ((pteArena e.pte).toNat ≠ a)
  let s1 := { s with
    own := s.own.filter (fun e => !(decide (e.2 = core) && lines.contains (e.1 / 64)))
    clus := dropClus s core keep }
  s1.setCore core { c with
    gens := zset c.gens a g, sealed := c.sealed.filter (fun k => decide (k ≠ a)), tlb := c.tlb.filter keep
    l1 := c.l1.filter (fun e => decide (e.2.arena.toNat ≠ a))
    asks := c.asks.map (fun k => if k.arena.toNat = a then { k with gen := g } else k)
    scratch := c.scratch.map (fun (e : Nat × Scratch) =>
      (e.1, if instArena s e.1 = a then { e.2 with pages := e.2.pages.filter (fun q => decide (q.2 ≠ 2)) } else e.2)) }

/-- The answer of a recipient to the group that made the drop. -/
def dackPkt (d : Drop) (from_ : BitVec 7) : Packet :=
  { mkPkt 1 0x19 from_ (stopOfCore d.core) 0 d.core d.slot 0 with arena := BitVec.ofNat 12 d.arena, gen := d.gen }

/-- Replaces the drop of an arena and generation. -/
def setDrop (s : State) (d : Drop) (f : Drop → Drop) : State :=
  { s with drops := s.drops.map (fun e => if e.arena = d.arena ∧ e.gen = d.gen then f e else e) }

/-- DROP: a slice, or the core that CORE names, applies a logged drop and answers DACK (R166 step 4, R188). -/
def execDrop (p : Packet) (s : State) : Out :=
  deliverIf s p (decide (p.op = 0x25)) (fun t =>
    match t.drops.find? (fun d => decide (d.arena = p.arena.toNat) && decide (d.gen = p.gen)) with
    | none => t
    | some d =>
      match sliceOfStop p.dst with
      | some h =>
        send (setDrop (dropSlice t h d.arena d.gen) d (fun e => { e with slices := e.slices.filter (fun k => decide (k ≠ h)) })) (dackPkt d p.dst)
      | none =>
        let c := p.core.toNat
        send (setDrop (dropCore t c d.arena d.gen) d (fun e => { e with cores := e.cores.filter (fun k => decide (k ≠ c)) })) (dackPkt d p.dst))

/-- DACK: the drop is over with the last answer (R166 step 5). -/
def execDack (p : Packet) (s : State) : Out :=
  deliverIf s p (decide (p.op = 0x19)) (fun t =>
    match t.drops.find? (fun d => decide (d.arena = p.arena.toNat) && decide (d.gen = p.gen)) with
    | none => t
    | some d =>
      let t1 := setDrop t d (fun e => { e with acks := e.acks - 1 })
      dropsDone { t1 with drops := t1.drops.filter (fun e => decide (e.acks ≠ 0)) } d.core d.slot)

/-! ### ANEW (R168) -/

/-- The number that ANEW takes. -/
def freeArena (s : State) (n : Nat) : Option Nat :=
  if n ≠ 0 ∧ !(aValid (s.arena n)) then some n
  else (List.range 4096).find? (fun k => decide (k ≠ 0) && !(aValid (s.arena k)))

/-- The new entry: VALID, not SEALED, no QUOTA, DEPTH from its parent; GEN and DSS stay. -/
def newEntry (s : State) (n p : Nat) : ArenaEntry :=
  let e := s.arena n
  let depth := if p = 0 then 0 else aDepth (s.arena p)
  fput (fput (setBit (setBit (fput e 127 116 p) 107 true) 106 false) 104 101 (depth + 1)) 95 76 0

/-- ANEW (R168, R302). -/
def execAnew (d a b : BitVec 8) (s : State) : Out :=
  arenaInstr s d [a, b] (fun x t =>
    let n := arenaNo x a
    let p := arenaNo x b
    if (decide (n ≠ 0) && aBusy (t.arena n)) || (decide (p ≠ 0) && aBusy (t.arena p)) then retry s .busy
    else if p ≠ 0 ∧ !(aValid (t.arena p)) then arenaDone x t d (arenaStatus t arBADARENA) id
    else if p ≠ 0 ∧ 8 ≤ aDepth (t.arena p) then arenaDone x t d (arenaStatus t arDEPTH) id
    else
      match freeArena t n with
      | none => arenaDone x t d (arenaStatus t arNOFREE) id
      | some k =>
        let t1 := t.setArena k (newEntry t k p)
        if 8 ≤ aDss (t.arena k) then startSweep (enterWait x (setBusy t1 k true) (.anew k d)) k x.core x.slot
        else arenaDone x t1 d (arenaResult arOK k (aGen (t.arena k))) id)

/-- QUIESCE_SWEEP_DONE: every token has returned and every unit has reported; DSS becomes 0, and the instruction that asked for the sweep goes on (R169 step 4). -/
def execQuiesceSweepDone (s : State) : Out :=
  let isOver := fun (w : Sweep) => w.tokens.isEmpty && w.units.isEmpty && w.engs.isEmpty
  match s.sweeps.find? isOver with
  | none => .next s
  | some w =>
    let s1 := putArena { s with sweeps := removeFirst isOver s.sweeps } w.arena 111 108 0
    match (s1.group w.core w.slot).wait with
    | .anew n d => .next (arenaEnd (setBusy s1 n false) w.core w.slot d (arenaResult arOK n (aGen (s1.arena n))))
    | .adrop all todo release d => .next (dropNext s1 w.core w.slot all release d todo)
    | _ => .next s1

/-! ### ASEAL (R165, R189) -/

/-- Some line of the arena is locked. -/
def arenaLocked (s : State) (a : Nat) : Bool := s.locks.any (fun e => e.2.hvalid && decide (e.2.arena.toNat = a))

/-- ASEAL: once its checks have passed and its older accesses are performed, the seal is broadcast (R165 steps 1 and 2). -/
def execAseal (d a : BitVec 8) (s : State) : Out :=
  arenaInstr s d [a] (fun x t =>
    let n := arenaNo x a
    let e := t.arena n
    if aBusy e then retry s .busy
    else if n = 0 ∨ !(aValid e) then arenaDone x t d (arenaStatus t arBADARENA) id
    else if aSealed e then arenaDone x t d (arenaStatus t arISSEALED) id
    else if arenaLocked t n then arenaDone x t d (arenaStatus t arLOCKED) id
    else if !(releaseReady t.cur) then retry s .busy
    else
      let t1 := enterWait x (setBusy t n true) (.aseal n d)
      { t1 with seals := t1.seals ++ [{ arena := n, cores := List.range 256, sent := false, core := x.core, slot := x.slot }] })

/-- The core's store buffers hold no store of the arena. -/
def storesDrained (c : Core) (a : Nat) : Bool :=
  c.groups.all (fun g => g.2.accs.all (fun b => b.scr || b.perf || !(isStoreLike b) || decide (b.arena.toNat ≠ a)))

/-- A core's lines of CP pages of an arena (R165 step 2). -/
def cpLines (c : Core) (a : Nat) : Tbl L1Line := c.l1.filter (fun e => decide (e.2.kind = 2) && decide (e.2.arena.toNat = a))

/-- A core has entries for the notices of its written CP lines (R30). -/
def cpRoom (s : State) (core a : Nat) : Bool :=
  reqRoom s core ((cpLines (s.core core) a).filter (fun e => decide (dirtySectors e.2 ≠ 0))).length

/-- The directory entries of an arena. -/
def arenaDir (s : State) (a : Nat) : Tbl DirEntry := s.dir.filter (fun e => decide (e.2.arena.toNat = a))

/-- No directory entry of the arena awaits answers. -/
def noneBusy (s : State) (a : Nat) : Bool := (arenaDir s a).all (fun e => decide (e.2.state ≠ 3))

/-- Nothing of the arena stands in a write queue, no write-back of it is under way, and no request of it is in service at a home (R165
step 3). -/
def homesDrained (s : State) (a : Nat) : Bool :=
  s.wq.all (fun e => decide (e.arena.toNat ≠ a)) && noneBusy s a &&
  s.cores.all (fun c => c.2.reqs.all (fun r => decide (r.pkt.op ≠ 0x06) || decide (r.pkt.arena.toNat ≠ a)))

/-- Step 3 of R165: every home recalls the copies that its directory names. -/
def recallArena (s : State) (a : Nat) : State :=
  let t := (arenaDir s a).foldl (fun u e => recallEntry u e.1) s
  { t with seals := t.seals.map (fun z => if z.arena = a then { z with sent := true } else z) }

/-- Step 4 of R165: the entries are freed, SEALED is set, and the ASEAL retires, an acquire. -/
def finishSeal (s : State) (z : Seal) : State :=
  let s1 := (arenaDir s z.arena).foldl (fun t e => setDir t e.1 (freedEntry e.2)) s
  let s2 := { s1 with seals := s1.seals.filter (fun y => decide (y.arena ≠ z.arena)) }
  let s3 := setBusy (putArena s2 z.arena 106 106 1) z.arena false
  match (s3.group z.core z.slot).wait with
  | .aseal _ d => arenaEnd (selfInv s3 z.core) z.core z.slot d (arenaResult arOK 0 0)
  | _ => s3

/-- SEAL_BROADCAST: the core marks the arena sealed and drops its TLB entries; once its stores have drained it gives up its CP lines, with
EVD for what it has written, and answers; after the last answer the homes drain and recall, and finish once every core has answered
them (R165). -/
def execSealBroadcast (core arena : Nat) (s : State) : Out :=
  match s.seals.find? (fun z => decide (z.arena = arena)) with
  | none => .next s
  | some z =>
    if z.cores.contains core then
      let c := s.core core
      let keep := fun (e : TlbEntry) => decide ((pteArena e.pte).toNat ≠ arena)
      if !(c.sealed.contains arena) then
        .next (({ s with clus := dropClus s core keep }).setCore core
          { c with sealed := arena :: c.sealed, tlb := c.tlb.filter keep })
      else if storesDrained c arena && cpRoom s core arena then
        let s1 := (cpLines c arena).foldl (fun t e => giveUpLine t core e.1) s
        .next { s1 with seals := s1.seals.map (fun y =>
          if y.arena = arena then { y with cores := y.cores.filter (fun k => decide (k ≠ core)) } else y) }
      else .next s
    else if !(z.cores.isEmpty) then .next s
    else if z.sent then .next (if noneBusy s arena then finishSeal s z else s)
    else .next (if homesDrained s arena then recallArena s arena else s)

/-! ### AQUOTA and AQUERY (R302) -/

/-- AQUOTA. -/
def execAquota (d a b : BitVec 8) (s : State) : Out :=
  arenaInstr s d [a, b] (fun x t =>
    let n := arenaNo x a
    if aBusy (t.arena n) then retry s .busy
    else if n = 0 ∨ !(aValid (t.arena n)) then arenaDone x t d (arenaStatus t arBADARENA) id
    else arenaDone x (putArena t n 95 76 (fnat (x.uni b) 19 0)) d (arenaStatus t arOK) id)

/-- AQUERY: entry bits 95:64 and 127:96. -/
def execAquery (d a : BitVec 8) (s : State) : Out :=
  startGroup s (onceShape (isScalPair d && isUni a) [d, d + 1, a] [a]) (fun x t =>
    if x.act = 0 then commitOnce x t id
    else commitOnce x t (fun u => u.updCur (fun g => writeScal64 g d ((t.arena (arenaNo x a)).extractLsb' 64 64))))

/-! ### CBSYNC (R43, R91, R92, R303) -/

/-- The HW fields of an RCB (R68), and the fields of a TCB that a CBSYNC does not reload (R73, R93). -/
def rcbHeld : List (Nat × Nat) :=
  [(1279, 1216), (1151, 1120), (1119, 1088), (895, 864), (863, 832), (831, 823), (822, 808), (807, 792), (617, 615), (607, 604)]

def tcbHeld : List (Nat × Nat) :=
  [(799, 784), (783, 781), (767, 737), (736, 706), (703, 673), (672, 642), (383, 380), (379, 371), (370, 367), (366, 351), (319, 256)]

/-- A new image with some fields of the old one. -/
def keepFields {n : Nat} (new old : BitVec n) (fs : List (Nat × Nat)) : BitVec n :=
  fs.foldl (fun y f => fput y f.1 f.2 (fnat old f.1 f.2)) new

/-- An instance's entry of a ready queue. -/
def isResume (i : Nat) (q : Ready) : Bool := decide (q.kind = .resume i)

/-- Some queue of a die holds the instance already. -/
def queuedAgain (s : State) (i : Nat) : Bool := s.sched.any (fun d => d.2.ready.any (isResume i) || d.2.chosen.any (isResume i))

/-- A stopped instance rejoins its ready queue with its old AGE; one whose task has been killed does not (R89, R91). R91 names no
STATE for its task's TCB: it is READY again (DESIGN CHOICE, log entry 78). -/
def rejoin (s : State) (i : Nat) (x : Inst) : State :=
  let s1 := if tState (s.tcb x.tcb) = 6 then setTaskState s x.tcb 1 else s
  if queuedAgain s1 i || taskKilled s x.tcb then s1
  else pushReady s1 (readyDieOf s1 x.tcb x.image) { tcb := x.tcb, kind := .resume i, age := x.age, image := some x.image }

/-- A region and its pre-empted descendants are resumed: each is RUN, or IDLE without a task (R91). -/
def resumeRegion (s : State) (r : Nat) : State :=
  let qs := (subtree s r).filter (fun q => decide (rState (s.rcb q) = 3))
  let s1 := qs.foldl (fun t q => setRegion t q 617 615 (if rLive (t.rcb q) = 0 then 0 else 1)) s
  (s1.insts.filter (fun e => decide (e.2.state = .stopped) && qs.contains (instRegion s1 e.1))).foldl (fun t e => rejoin t e.1 e.2) s1

/-- CBSYNC of a region: the snapshot's SW fields are replaced; STATE = 1 resumes a PREEMPTED region under no PREEMPTING or
PREEMPTED ancestor, the state in force is written back, and entries that wait follow a new DIEMASK (R69, R72, R92). -/
def syncRegion (s : State) (r : Nat) (x : Region) : State :=
  let m := readRcb s r
  let y := keepFields m x.rcb rcbHeld
  let crossed := x.crossed && decide (fnat y 1215 1152 ≠ 0) && decide (fnat y 1215 1152 ≤ fnat y 1279 1216)
  let s1 := moveEntries { s with regions := put s.regions r { rcb := y, crossed := crossed } }
  let free := ((pathOf s1 r).drop 1).all (fun q => decide (rState (s1.rcb q) ≠ 2) && decide (rState (s1.rcb q) ≠ 3))
  let s2 := if rState m = 1 ∧ rState y = 3 ∧ free then resumeRegion s1 r else s1
  setRegion s2 r 617 615 (rState (s2.rcb r))

/-- CBSYNC of a task. -/
def syncTask (s : State) (t : Nat) (x : Task) : State :=
  { s with tasks := put s.tasks t { x with tcb := keepFields (readTcb s t) x.tcb tcbHeld } }

/-- Replaces the snapshots held of the blocks at an address. -/
def syncBlock (s : State) (pa : Nat) : State :=
  let s1 := match (if pa % 256 = 0 then find s.regions (pa / 256) else none) with
    | some x => syncRegion s (pa / 256) x
    | none => s
  match (if pa % 128 = 0 then find s1.tasks (pa / 128) else none) with
  | some x => syncTask s1 (pa / 128) x
  | none => s1

/-- The size of the page that a leaf PTE maps, as the PTE itself shows it. -/
def pteSize (e : BitVec 64) : Nat :=
  if pteS64 e then 0x10000 else if fnat e 20 12 = 0 then 0x200000 else 0x1000

/-- CBSYNC (R303). -/
def execCbsync (a : BitVec 8) (s : State) : Out :=
  startGroup s (onceShape (isScalPair a) [a, a + 1] [a, a + 1]) (fun x t =>
    let v := x.src.s64 a
    let kind := fnat v 63 62
    let pa := fnat v 37 0
    if (kind = 1 ∨ kind = 2) ∧ !(hSact t.cur) then trap t ⟨cSUPERV, 0, x.low, 0⟩
    else if x.act = 0 ∨ kind = 3 then commitOnce x t id
    else if !(releaseReady t.cur) then retry s .busy
    else if kind = 0 then commitOnce x t (fun u => selfInv (syncBlock u pa) x.core)
    else if kind = 2 then commitOnce x t (fun u => selfInv u x.core)
    else
      let e := readPte t pa
      if pteV e && pteLeaf e then startFlush (enterWait x t (.sync 1 pa)) x.core x.slot (ptePage e) (pteSize e) e
      else commitOnce x t (fun u => selfInv (forgetPte u pa) x.core))

end Sys2Proof.Machine
end

