-- ==== Sys2Proof/Machine/Crypto.lean ====
section
/-! DEFINITION. The public algorithms that the spec names and does not repeat: SHA-384, HMAC and HKDF over it, and AES-128-CMAC (R14,
R17, R21, R204). PRESUMED from FIPS 180-4, RFC 2104, RFC 5869, FIPS 197 and NIST SP 800-38B (log entry 6). -/
namespace Sys2Proof.Machine

/-! ### SHA-384 -/

/-- The round constants of SHA-384 (FIPS 180-4): the cube roots of the first 80 primes. -/
def shaK : List (BitVec 64) :=
  [0x428A2F98D728AE22, 0x7137449123EF65CD, 0xB5C0FBCFEC4D3B2F, 0xE9B5DBA58189DBBC,
   0x3956C25BF348B538, 0x59F111F1B605D019, 0x923F82A4AF194F9B, 0xAB1C5ED5DA6D8118,
   0xD807AA98A3030242, 0x12835B0145706FBE, 0x243185BE4EE4B28C, 0x550C7DC3D5FFB4E2,
   0x72BE5D74F27B896F, 0x80DEB1FE3B1696B1, 0x9BDC06A725C71235, 0xC19BF174CF692694,
   0xE49B69C19EF14AD2, 0xEFBE4786384F25E3, 0x0FC19DC68B8CD5B5, 0x240CA1CC77AC9C65,
   0x2DE92C6F592B0275, 0x4A7484AA6EA6E483, 0x5CB0A9DCBD41FBD4, 0x76F988DA831153B5,
   0x983E5152EE66DFAB, 0xA831C66D2DB43210, 0xB00327C898FB213F, 0xBF597FC7BEEF0EE4,
   0xC6E00BF33DA88FC2, 0xD5A79147930AA725, 0x06CA6351E003826F, 0x142929670A0E6E70,
   0x27B70A8546D22FFC, 0x2E1B21385C26C926, 0x4D2C6DFC5AC42AED, 0x53380D139D95B3DF,
   0x650A73548BAF63DE, 0x766A0ABB3C77B2A8, 0x81C2C92E47EDAEE6, 0x92722C851482353B] ++
  [0xA2BFE8A14CF10364, 0xA81A664BBC423001, 0xC24B8B70D0F89791, 0xC76C51A30654BE30,
   0xD192E819D6EF5218, 0xD69906245565A910, 0xF40E35855771202A, 0x106AA07032BBD1B8,
   0x19A4C116B8D2D0C8, 0x1E376C085141AB53, 0x2748774CDF8EEB99, 0x34B0BCB5E19B48A8,
   0x391C0CB3C5C95A63, 0x4ED8AA4AE3418ACB, 0x5B9CCA4F7763E373, 0x682E6FF3D6B2B8A3,
   0x748F82EE5DEFB2FC, 0x78A5636F43172F60, 0x84C87814A1F0AB72, 0x8CC702081A6439EC,
   0x90BEFFFA23631E28, 0xA4506CEBDE82BDE9, 0xBEF9A3F7B2C67915, 0xC67178F2E372532B,
   0xCA273ECEEA26619C, 0xD186B8C721C0C207, 0xEADA7DD6CDE0EB1E, 0xF57D4F7FEE6ED178,
   0x06F067AA72176FBA, 0x0A637DC5A2C898A6, 0x113F9804BEF90DAE, 0x1B710B35131C471B,
   0x28DB77F523047D84, 0x32CAAB7B40C72493, 0x3C9EBE0A15C9BEBC, 0x431D67C49C100D4C,
   0x4CC5D4BECB3E42B6, 0x597F299CFC657E2A, 0x5FCB6FAB3AD6FAEC, 0x6C44198C4A475817]

/-- The starting value of SHA-384: the square roots of the ninth to the sixteenth prime. -/
def shaStart : List (BitVec 64) :=
  [0xCBBB9D5DC1059ED8, 0x629A292A367CD507, 0x9159015A3070DD17, 0x152FECD8F70E5939,
   0x67332667FFC00B31, 0x8EB44A8768581511, 0xDB0C2E0D64F98FA7, 0x47B5481DBEFA4FA4]

/-- The bytes of a number, high byte first. -/
def bigBytes (v n : Nat) : List Byte := (natBytes v n).reverse

/-- A byte string as a 64-bit word, high byte first. -/
def bigWord (bs : List Byte) : BitVec 64 := ofBytes 64 bs.reverse

/-- The message with its padding: a 1 bit, zeros, and its length in bits. -/
def shaPad (m : List Byte) : List Byte :=
  m ++ 0x80 :: List.replicate ((239 - m.length % 128) % 128) 0 ++ bigBytes (8 * m.length) 16

/-- The message schedule, its latest word first, with `n` further words. -/
def shaSchedule (n : Nat) (w : List (BitVec 64)) : List (BitVec 64) :=
  match n with
  | 0 => w
  | k + 1 =>
    let v := fun i => w.getD i 0
    let s0 := (v 14).rotateRight 1 ^^^ (v 14).rotateRight 8 ^^^ v 14 >>> 7
    let s1 := (v 1).rotateRight 19 ^^^ (v 1).rotateRight 61 ^^^ v 1 >>> 6
    shaSchedule k ((s1 + v 6 + s0 + v 15) :: w)

/-- One round: the eight working variables, a round constant and a schedule word. -/
def shaRound (h : List (BitVec 64)) (e : BitVec 64 × BitVec 64) : List (BitVec 64) :=
  let v := fun i => h.getD i 0
  let s1 := (v 4).rotateRight 14 ^^^ (v 4).rotateRight 18 ^^^ (v 4).rotateRight 41
  let t1 := v 7 + s1 + ((v 4 &&& v 5) ^^^ (~~~(v 4) &&& v 6)) + e.1 + e.2
  let s0 := (v 0).rotateRight 28 ^^^ (v 0).rotateRight 34 ^^^ (v 0).rotateRight 39
  let t2 := s0 + ((v 0 &&& v 1) ^^^ (v 0 &&& v 2) ^^^ (v 1 &&& v 2))
  [t1 + t2, v 0, v 1, v 2, v 3 + t1, v 4, v 5, v 6]

/-- One block of 128 bytes. -/
def shaBlock (h : List (BitVec 64)) (b : List Byte) : List (BitVec 64) :=
  let w := (List.range 16).map (fun i => bigWord ((b.drop (8 * i)).take 8))
  let r := (shaK.zip (shaSchedule 64 w.reverse).reverse).foldl shaRound h
  (h.zip r).map (fun e => e.1 + e.2)

/-- SHA-384 of a byte string: 48 bytes. -/
def sha384 (m : List Byte) : List Byte :=
  let p := shaPad m
  let h := (List.range (p.length / 128)).foldl (fun h i => shaBlock h ((p.drop (128 * i)).take 128)) shaStart
  (h.take 6).flatMap (fun w => bigBytes w.toNat 8)

/-- HMAC with SHA-384, whose block is 128 bytes. -/
def hmac384 (key m : List Byte) : List Byte :=
  let k0 := if 128 < key.length then sha384 key else key
  let k := k0 ++ List.replicate (128 - k0.length) 0
  sha384 (k.map (fun b => b ^^^ 0x5C) ++ sha384 (k.map (fun b => b ^^^ 0x36) ++ m))

/-- The blocks T(i) to T(i + n - 1) of the expansion of HKDF, after the block `last`. -/
def hkdfBlocks (prk info last : List Byte) (i n : Nat) : List Byte :=
  match n with
  | 0 => []
  | k + 1 =>
    let t := hmac384 prk (last ++ info ++ [BitVec.ofNat 8 i])
    t ++ hkdfBlocks prk info t (i + 1) k

/-- HKDF-SHA-384: `len` bytes from key material, a salt and an info string. -/
def hkdf384 (ikm salt info : List Byte) (len : Nat) : List Byte :=
  (hkdfBlocks (hmac384 (if salt.isEmpty then List.replicate 48 0 else salt) ikm) info [] 1 ((len + 47) / 48)).take len

/-- The bytes of an info string. -/
def asciiBytes (t : String) : List Byte := t.toList.map (fun c => BitVec.ofNat 8 c.toNat)

/-! ### AES-128-CMAC -/

/-- The S-box of AES (FIPS 197). -/
def aesBox : List (Byte) :=
  [0x63, 0x7C, 0x77, 0x7B, 0xF2, 0x6B, 0x6F, 0xC5, 0x30, 0x01, 0x67, 0x2B, 0xFE, 0xD7, 0xAB, 0x76,
   0xCA, 0x82, 0xC9, 0x7D, 0xFA, 0x59, 0x47, 0xF0, 0xAD, 0xD4, 0xA2, 0xAF, 0x9C, 0xA4, 0x72, 0xC0,
   0xB7, 0xFD, 0x93, 0x26, 0x36, 0x3F, 0xF7, 0xCC, 0x34, 0xA5, 0xE5, 0xF1, 0x71, 0xD8, 0x31, 0x15,
   0x04, 0xC7, 0x23, 0xC3, 0x18, 0x96, 0x05, 0x9A, 0x07, 0x12, 0x80, 0xE2, 0xEB, 0x27, 0xB2, 0x75,
   0x09, 0x83, 0x2C, 0x1A, 0x1B, 0x6E, 0x5A, 0xA0, 0x52, 0x3B, 0xD6, 0xB3, 0x29, 0xE3, 0x2F, 0x84,
   0x53, 0xD1, 0x00, 0xED, 0x20, 0xFC, 0xB1, 0x5B, 0x6A, 0xCB, 0xBE, 0x39, 0x4A, 0x4C, 0x58, 0xCF,
   0xD0, 0xEF, 0xAA, 0xFB, 0x43, 0x4D, 0x33, 0x85, 0x45, 0xF9, 0x02, 0x7F, 0x50, 0x3C, 0x9F, 0xA8,
   0x51, 0xA3, 0x40, 0x8F, 0x92, 0x9D, 0x38, 0xF5, 0xBC, 0xB6, 0xDA, 0x21, 0x10, 0xFF, 0xF3, 0xD2] ++
  [0xCD, 0x0C, 0x13, 0xEC, 0x5F, 0x97, 0x44, 0x17, 0xC4, 0xA7, 0x7E, 0x3D, 0x64, 0x5D, 0x19, 0x73,
   0x60, 0x81, 0x4F, 0xDC, 0x22, 0x2A, 0x90, 0x88, 0x46, 0xEE, 0xB8, 0x14, 0xDE, 0x5E, 0x0B, 0xDB,
   0xE0, 0x32, 0x3A, 0x0A, 0x49, 0x06, 0x24, 0x5C, 0xC2, 0xD3, 0xAC, 0x62, 0x91, 0x95, 0xE4, 0x79,
   0xE7, 0xC8, 0x37, 0x6D, 0x8D, 0xD5, 0x4E, 0xA9, 0x6C, 0x56, 0xF4, 0xEA, 0x65, 0x7A, 0xAE, 0x08,
   0xBA, 0x78, 0x25, 0x2E, 0x1C, 0xA6, 0xB4, 0xC6, 0xE8, 0xDD, 0x74, 0x1F, 0x4B, 0xBD, 0x8B, 0x8A,
   0x70, 0x3E, 0xB5, 0x66, 0x48, 0x03, 0xF6, 0x0E, 0x61, 0x35, 0x57, 0xB9, 0x86, 0xC1, 0x1D, 0x9E,
   0xE1, 0xF8, 0x98, 0x11, 0x69, 0xD9, 0x8E, 0x94, 0x9B, 0x1E, 0x87, 0xE9, 0xCE, 0x55, 0x28, 0xDF,
   0x8C, 0xA1, 0x89, 0x0D, 0xBF, 0xE6, 0x42, 0x68, 0x41, 0x99, 0x2D, 0x0F, 0xB0, 0x54, 0xBB, 0x16]

def aesSub (b : Byte) : Byte := aesBox.getD b.toNat 0

/-- A byte doubled in the field of AES. -/
def aesDouble (b : Byte) : Byte := (b <<< 1) ^^^ (if bit b 7 then 0x1B else 0)

def xorBytes (a b : List Byte) : List Byte := (a.zip b).map (fun e => e.1 ^^^ e.2)

/-- The next round key, with a round constant. -/
def aesNextKey (k : List Byte) (rc : Byte) : List Byte :=
  let w := fun (i : Nat) => (k.drop (4 * i)).take 4
  let t := match (w 3).map aesSub with
    | a :: r => xorBytes (r ++ [a]) [rc, 0, 0, 0]
    | [] => []
  let a := xorBytes (w 0) t
  let b := xorBytes (w 1) a
  let c := xorBytes (w 2) b
  a ++ b ++ c ++ xorBytes (w 3) c

/-- The bytes of the state, column by column, after the shift of its rows. -/
def aesShift (x : List Byte) : List Byte := (List.range 16).map (fun i => x.getD (i % 4 + 4 * ((i / 4 + i) % 4)) 0)

/-- The columns mixed. -/
def aesMix (x : List Byte) : List Byte :=
  (List.range 16).map (fun i =>
    let v := fun (k : Nat) => x.getD (i / 4 * 4 + (i + k) % 4) 0
    aesDouble (v 0) ^^^ (aesDouble (v 1) ^^^ v 1) ^^^ v 2 ^^^ v 3)

/-- Rounds with the given constants; the last one does not mix. -/
def aesRounds (x k : List Byte) (rcs : List Byte) : List Byte :=
  match rcs with
  | [] => x
  | rc :: r =>
    let k1 := aesNextKey k rc
    let y := aesShift (x.map aesSub)
    aesRounds (xorBytes (if r.isEmpty then y else aesMix y) k1) k1 r

/-- AES-128 of one block. -/
def aes128 (key x : List Byte) : List Byte :=
  aesRounds (xorBytes x key) key [0x01, 0x02, 0x04, 0x08, 0x10, 0x20, 0x40, 0x80, 0x1B, 0x36]

/-- A block doubled in the field of CMAC. -/
def cmacDouble (x : List Byte) : List Byte :=
  let v : BitVec 128 := ofBytes 128 x.reverse
  (toBytes ((v <<< 1) ^^^ (if bit v 127 then 0x87 else 0)) 16).reverse

/-- AES-128-CMAC of a byte string: 16 bytes. -/
def cmac128 (key m : List Byte) : List Byte :=
  let k1 := cmacDouble (aes128 key (List.replicate 16 0))
  let n := Nat.max 1 ((m.length + 15) / 16)
  let last := m.drop (16 * (n - 1))
  let z := if last.length = 16 then xorBytes last k1
    else xorBytes (last ++ 0x80 :: List.replicate (15 - last.length) 0) (cmacDouble k1)
  let y := (List.range (n - 1)).foldl (fun y i => aes128 key (xorBytes y ((m.drop (16 * i)).take 16))) (List.replicate 16 0)
  aes128 key (xorBytes y z)

end Sys2Proof.Machine
end

