-- ==== Sys2Proof/Machine/BootOps.lean ====
section
/-! DEFINITION. The boot sequence's own operations: the start of the sequence, image segments and their checks, self-test and
core selection, and the self-test map (R12 to R22, R55, R56, R409). -/
namespace Sys2Proof.Machine

/-! ### Ports and the start of the sequence (R12, R14, R16, R48) -/

/-- The width a port runs at when some lanes have trained: the largest full set (R12). -/
def portWidth (lanes : Nat) : BitVec 4 :=
  if 8 ≤ lanes then 8 else if 4 ≤ lanes then 4 else if 2 ≤ lanes then 2 else if 1 ≤ lanes then 1 else 0

/-- A self-test map of which nothing has been tested (R409). -/
def blankMap : ZMap 8 := (List.range 4).foldl (fun m d => zsetRun m (80 * d) (List.replicate 64 0xFF)) []

/-- The device at step 2 of R14: nothing but the raw response, port 0, the open boot session and the board's view is kept. What
has left the device stays as it was sent (log entry 49). -/
def restartBoot (s : State) : State :=
  { State.reset with
    tick := s.tick, agenda := s.agenda, outbox := s.outbox, comps := s.comps
    boot := { Boot.reset with powered := true, puf := s.boot.puf, map := blankMap }
    ports := zset [] 0 (zget s.ports 0)
    power := s.power.map (fun (e : Nat × Power) => (e.1, { Power.reset with rate := e.2.rate }))
    sessions := [(0, { Session.reset with opened := true })] }

/-- The endpoint of the host, as far as session 0 knows it (R48; log entry 49). -/
def hostEp (s : State) : Nat := (s.session 0).holder.getD 0

/-- The self-test map as bytes (R409). -/
def mapBytes (s : State) : List Byte := zgetRun s.boot.map 0 320

/-! ### The image (R14 steps 3 to 6, R15, R16) -/

/-- Stores a segment of the image. -/
def storeSegment (s : State) (off : Nat) (bs : List Byte) : State :=
  { s with boot := { s.boot with
      state := 1, image := zsetRun s.boot.image off bs, imgLen := Nat.max s.boot.imgLen (off + bs.length) } }

/-- The image as it has been received. -/
def imageBytes (s : State) : List Byte := zgetRun s.boot.image 0 s.boot.imgLen

/-- After a rejection the device holds no part of the image (R15). -/
def dropImage (s : State) : State := { s with boot := { s.boot with state := 0, image := [], imgLen := 0 } }

/-- SHA-384 as a 384-bit value whose bytes are in order, the first one lowest. -/
def hash384 (bs : List Byte) : BitVec 384 := ofBytes 384 (sha384 bs)

/-- Both public keys match the hashes that mask ROM holds (R14 step 4). -/
def keysMatch (img : List Byte) : Bool :=
  (List.range 2).all (fun k => decide (hash384 (Config.imageKey img k) = Config.romKeyHash k))

/-- The code that steps 4 to 6 of R14 give: both signatures are evaluated (R15). -/
def verifyCode (img : List Byte) : Nat :=
  if !(keysMatch img) then stKEYHASH
  else if !(Config.rsaVerifies img) then stSIGRSA
  else if !(Config.slhVerifies img) then stSIGSLH
  else stOK

/-- The image is accepted: it is in executable memory of all four dies (R14 step 7, R17). -/
def acceptImage (s : State) (img : List Byte) : State :=
  { s with boot := { s.boot with state := 3, accepted := img, imgHash := hash384 img, helper := Config.imageHelper img } }

/-! ### Self-test (R18, R19, R409) -/

/-- The working positions of a cluster of a die. -/
def workingIn (r : BistReport) (d c : Nat) : List Nat :=
  (List.range 8).filter (fun p => !(r.badCores.contains (68 * d + 8 * c + p)))

/-- The physical cores that carry a cluster's logical cores, in order (R18). -/
def clusterCores (r : BistReport) (d c : Nat) : Option (List Nat) :=
  let w := workingIn r d c
  let other := workingIn r d (if c % 2 = 0 then c + 1 else c - 1)
  if w.length = 8 then some (w.map (fun p => 8 * c + p))
  else if decide (w.length = 7) && !(r.badCores.contains (68 * d + 64 + c / 2)) && decide (other.length = 8) then
    some (w.map (fun p => 8 * c + p) ++ [64 + c / 2])
  else none

/-- One die's part of the map. -/
def dieMap (r : BistReport) (d : Nat) : List Byte :=
  (List.range 8).flatMap (fun c => ((clusterCores r d c).getD (List.replicate 8 255)).map (fun p => BitVec.ofNat 8 p)) ++
  [BitVec.ofNat 8 ((List.range 8).foldl (fun m i => m + b2n (!(r.badDecoders.contains (8 * d + i))) * 2 ^ i) 0),
   BitVec.ofNat 8 (b2n (!(r.badPorts.contains (2 * d))) + 2 * b2n (!(r.badPorts.contains (2 * d + 1))))] ++
  List.replicate 14 0

/-- The map that self-test gives. -/
def testedMap (r : BistReport) : ZMap 8 := (List.range 4).foldl (fun m d => zsetRun m (80 * d) (dieMap r d)) []

/-- Every cluster reaches eight cores, and no slice, no management core and not port 0 has failed. -/
def bistOk (r : BistReport) : Bool :=
  (List.range 4).all (fun d => (List.range 8).all (fun c => (clusterCores r d c).isSome)) &&
  r.badSlices.isEmpty && r.badMgmt.isEmpty && !(r.badPorts.contains 0)

/-- Ports 1 to 7 train on the lanes that the report names, if they passed self-test (R12, R13). -/
def trainPorts (s : State) (r : BistReport) : State :=
  { s with ports := (List.range 7).foldl (fun m i =>
      zset m (i + 1) (if r.badPorts.contains (i + 1) then 0 else portWidth (r.lanes.getD i 0))) s.ports }

/-- Boot stops (R56). -/
def stopBoot (s : State) (cause : Nat) : State := { s with boot := { s.boot with state := 5, cause := BitVec.ofNat 8 cause } }

/-- Step 9 of R14: memory written once, and the arena table as R146 gives it. -/
def initMemory (s : State) : State := { s with live := [], written := [], back := [], arenas := zset [] 0 (setBit 0 107 true) }

/-- Fresh helper data: the number of the enrolment and a code made from the kept response (R20; log entry 6). -/
def freshHelper (s : State) : List Byte :=
  let n := natBytes s.tick 8
  n ++ Config.helperCode s.boot.puf (natOfBytes n)

/-- The check value of the seed matches the helper data: always for what this response has made, else as the extractor finds (R16,
R20). -/
def helperOk (s : State) (h : List Byte) : Bool :=
  decide (h = h.take 8 ++ Config.helperCode s.boot.puf (natOfBytes (h.take 8))) || Config.helperFits s.boot.puf h

/-- Key material from the seed for an info string (R21, R204; log entry 6 for the salt and the lengths). -/
def keyFor (seed : BitVec 256) (salt : List Byte) (info : String) (len : Nat) : List Byte :=
  hkdf384 (toBytes seed 32) salt (asciiBytes info) len

/-- Step 10 of R14: the seed, the two attestation key pairs, the device identifier and the save key (R20, R21, R204). -/
def deriveKeys (s : State) (helper : List Byte) : State :=
  let seed := Config.pufSeed helper
  let ec := keyFor seed [] "kolad-att-ec" 48
  { s with boot := { s.boot with
      helper := helper, seed := seed, ecKey := ec, mlKey := keyFor seed [] "kolad-att-ml" 32
      devId := ofBytes 128 ((sha384 (Config.ecPublic ec)).take 16)
      saveKey := keyFor seed (natBytes (Config.bootNonce s.tick) 32) "kolad-save" 16 } }

/-- What an attestation report says: the identifier, the image hash, the map and the nonce (R17, R22). -/
def reportBody (s : State) (nonce : List Byte) : List Byte :=
  toBytes s.boot.devId 16 ++ toBytes s.boot.imgHash 48 ++ mapBytes s ++ nonce

/-- The report and its signatures by both keys (R22; log entry 6 for the order of its parts). -/
def attestReport (s : State) (nonce : List Byte) : List Byte :=
  let b := reportBody s nonce
  b ++ Config.ecSign s.boot.ecKey b ++ Config.mlSign s.boot.mlKey b

/-- Step 11: READY with the map, followed by helper data when freshly made (R53, R55). -/
def announceReady (s : State) (fresh : List Byte) : State :=
  sendSeq { s with boot := { s.boot with state := 4 }, cores := (List.range 256).map (fun c => (c, Core.reset)) } 0
    (withPayload (mkMsg 0x41 0 0 0 (hostEp s)) (mapBytes s ++ fresh))

/-- Steps 8 to 11 of R14. -/
def bringUp (s : State) (r : BistReport) : State :=
  let s1 := { s with boot := { s.boot with map := testedMap r } }
  if !(bistOk r) then
    stopBoot (if r.badPorts.contains 0 then { s1 with ports := zset s1.ports 0 0 } else s1) stBISTFAIL
  else
    let s2 := initMemory (trainPorts s1 r)
    if !r.badChannels.isEmpty then stopBoot s2 stCHANFAIL
    else if s.boot.helper.isEmpty then
      let h := freshHelper s
      announceReady (deriveKeys s2 h) h
    else if !(helperOk s s.boot.helper) then stopBoot s2 stPUFFAIL
    else announceReady (deriveKeys s2 s.boot.helper) []

end Sys2Proof.Machine
end

