-- ==== Sys2Proof/Machine/Credit.lean ====
section
/-! DEFINITION. Credits of barrier objects by engines, side cores and event sinks (R157, R176, R182, R364, R369). -/
namespace Sys2Proof.Machine

/-- Puts an operation into the write queues of the homes (R171). -/
def wqPut (s : State) (e : WqEntry) : State := { s with wq := s.wq ++ [e] }

/-- A credit of a global barrier as an entry of its home's write queue (R157). -/
def creditEntry (pa : Nat) (a : BitVec 12) (g : BitVec 4) (r : BitVec 2) (arrivals bytes : Nat) (poison : Bool) : WqEntry :=
  { kind := .barArr arrivals, addr := pa, size := 16, val := BitVec.ofNat 128 (bytes % 2 ^ 32), cmp := 0, arena := a, gen := g
    regn := r, poison := poison, src := .credit }

/-- Credits the barrier that an address names, for work of an instance on a core: a scratchpad barrier at once, a global one
through its home's write queue. An address that fails its checks gives the cause. -/
def creditAt (s : State) (core inst : Nat) (va : BitVec 64) (arrivals bytes : Nat) (poison : Bool) : Res State :=
  match barCheck s core inst va .write with
  | .fault c a => .fault ⟨c, va, 0, a⟩
  | .wait l => .wait l
  | .ok pa a g r =>
    if isScrBar va then
      .ok (scratchBarrier (pinRange s core inst pa 16) core inst pa (.barArr arrivals) (BitVec.ofNat 128 (bytes % 2 ^ 32)) poison)
    else .ok (wqPut s (creditEntry pa a g r arrivals bytes poison))

/-- An engine's credit that fails its checks is discarded, and the instance that it works for faults (R157, R364). -/
def creditFails (s : State) (core i : Nat) (c : Cause) : State :=
  updInst s i (fun x => match x.flt with
    | some _ => x
    | none => { x with flt := some { cause := c.code, fva := c.fva, pc := 0, thr := 0, arena := c.arena, word := 0, kill := false
                                     core := core, slot := 0 } })

/-- A copy's 44-bit barrier field as an address (R153). -/
def barAddr (b : BitVec 44) : BitVec 64 := (b ++ 0#4 : BitVec (44 + 4)).signExtend 64

end Sys2Proof.Machine
end

