-- ==== Sys2Proof/Machine/Port.lean ====
section
/-! DEFINITION. What the ports do to memory: ranges that wait for a lock or for a coherence page, page flushes on the device's
own account, and the hand-over of coherence pages (R43 to R47, R62, R63, R335). -/
namespace Sys2Proof.Machine

/-! ### Ranges (R44, R47, R335) -/

/-- The lines that a range of bytes touches. -/
def rangeLines (pa len : Nat) : List Nat :=
  if len = 0 then [] else (List.range ((pa + len - 1) / 256 - pa / 256 + 1)).map (fun i => pa / 256 + i)

/-- The coherence pages that a range of bytes touches. -/
def rangePages (pa len : Nat) : List Nat :=
  if len = 0 then [] else (List.range ((pa + len - 1) / 65536 - pa / 65536 + 1)).map (fun i => pa / 65536 + i)

/-- Some line of the range is locked. -/
def rangeLocked (s : State) (pa len : Nat) : Bool := (rangeLines pa len).any (heldLine s)

/-- Some page of the range does not allow the access. -/
def rangeAbsent (s : State) (pa len : Nat) (write : Bool) : Bool :=
  (rangePages pa len).any (fun p => !(pageAllows s (p * 65536) write))

/-- An access of a port to a range waits. -/
def portHeld (s : State) (pa len : Nat) (write : Bool) : Bool := rangeLocked s pa len || rangeAbsent s pa len write

/-- The pages that such an access waits for are to be asked for. -/
def portWant (s : State) (pa len : Nat) (write : Bool) : State := (rangePages pa len).foldl (fun t p => wantPage t p write) s

/-- Writes the lines of a range that nothing holds (log entry 47). -/
def writeFree (s : State) (pa : Nat) (bs : List Byte) : State :=
  (linePieces (bs.length + 1) pa bs.length).foldl
    (fun t p => if portHeld t p.1 p.2 true then t else hwWrite t p.1 ((bs.drop (p.1 - pa)).take p.2)) s

/-- The arena table and the save pools refuse the writes of ports (R146, R202). -/
def guarded (pa len : Nat) : Bool := touchesArenaTable pa len || touchesPool pa len

/-! ### Pages -/

/-- A line lies in a physical range. -/
def lineIn (page size line : Nat) : Bool := decide (page ≤ line * 256) && decide (line * 256 < page + size)

/-- The write queues hold nothing of a page. -/
def queueClear (s : State) (page size : Nat) : Bool := !(s.wq.any (fun e => lineIn page size (lineOf e.addr)))

/-- Steps 2 to 5 of R43 within the step of a PTWR, on the management core's account. -/
def flushPage (s : State) (page size : Nat) : State :=
  let s1 := s.cores.foldl (fun t c => (c.2.l1.filter (fun e => lineIn page size e.1)).foldl (fun u e => flushLine u c.1 e.1) t) s
  let s2 := (s1.dir.filter (fun e => lineIn page size e.1)).foldl (fun t e => setDir t e.1 (freedEntry e.2)) s1
  dropTlb { s2 with own := s2.own.filter (fun e => !(lineIn page size (e.1 / 64))) } (mapsRange page size)

/-- Every access that has passed its checks is performed, but those that a lock holds back. -/
def pageQuiet (s : State) (page size : Nat) : Bool :=
  queueClear s page size &&
  s.allGroups.all (fun g => g.2.2.accs.all (fun a =>
    a.scr || a.perf || isFence a || !(lineIn page size (lineOf a.addr)) || heldByOther s g.1 g.2.1 (lineOf a.addr)))

/-- Some line of the page is locked, or is to be. -/
def pageLocked (s : State) (page size : Nat) : Bool :=
  s.locks.any (fun e => e.2.hvalid && lineIn page size e.1) ||
  s.cores.any (fun c => c.2.reqs.any (fun r => decide (r.pkt.op = 0x0A) && lineIn page size (pktLine r.pkt)))

def setPage (s : State) (pg : Nat) (c : CohPage) : State := { s with pages := put s.pages pg c }

/-! ### Messages of the device's own (R62, R63) -/

/-- The session by which the device reaches an endpoint: the lowest one that it holds, or a free one that is opened (log entry
48). -/
def sessionTo (s : State) (ep : Nat) : State × Nat :=
  match s.sessions.find? (fun e => e.2.opened && decide (e.2.holder = some ep) && decide (e.1 < 64)) with
  | some e => (s, e.1)
  | none =>
    match (List.range 64).find? (fun k => decide (k ≠ 0) && !(s.session k).opened) with
    | some k => (setSession s k { Session.reset with opened := true, holder := some ep, port := (s.session 0).port }, k)
    | none => (s, 0)

/-- Sends a sequenced page message in a session. -/
def sendPage (s : State) (n code : Nat) (page : Nat) (arg1 : BitVec 48) (stat : Nat) (payload : List Byte) : State :=
  let x := s.session n
  sendSeq s n (withPayload { mkMsg code n stat x.port (x.holder.getD 0) with arg0 := BitVec.ofNat 64 page, arg1 := arg1 } payload)

/-- Sends a page message to the manager: the host, which holds session 0 (log entry 48). -/
def sendManager (s : State) (code page : Nat) (arg1 : BitVec 48) (stat : Nat) : State := sendPage s 0 code page arg1 stat []

/-- Offset and length of a segment of a page: 16 of 4,064 bytes and one of 512 (R62). -/
def segOff (i : Nat) : Nat := 4064 * i
def segLen (i : Nat) : Nat := if i < 16 then 4064 else 512

/-- The data of a page go to an endpoint in 17 messages; bit 0 of ARG1, which R62 gives no meaning in a PGXFER, is 0 (DESIGN CHOICE, log
entry 43). -/
def sendData (s : State) (ep page : Nat) : State :=
  let q := sessionTo s ep
  (List.range 17).foldl (fun t i =>
    sendPage t q.2 0x24 page (BitVec.ofNat 48 (2 * segOff i)) 0 (homeBytes t (page + segOff i) (segLen i))) q.1

/-! ### Giving up a page (R45) -/

/-- The hand-over of a page. -/
def handOf (s : State) (page : Nat) : Option Hand := s.hands.find? (fun h => decide (h.page = page))

/-- The management core of a page's home die, as the initiator of a flush. -/
def mgmtOf (page : Nat) : Nat := 256 + dieOf page

/-- Step 1: the page is marked in transition, and its recall is to come. -/
def beginHand (s : State) (page : Nat) (kind : HandKind) : State :=
  if (handOf s page).isSome then s
  else setPage { s with hands := s.hands ++ [⟨page, kind, false⟩] } (page / 65536) { s.page (page / 65536) with trans := true }

/-- Step 3: INV, RCL and OWNX for the lines of the page that the directories know, and PFL from every home to every core. -/
def sendRecalls (s : State) (page : Nat) : State :=
  let s1 := (s.dir.filter (fun e => lineIn page 65536 e.1)).foldl (fun t e => recallEntry t e.1) s
  let f : Flush := { page := page, size := 65536, arena := 0, gen := 0, regn := 0, homes := (homeLines page).map homeOfLine, cores := []
                     core := mgmtOf page, slot := 0 }
  let s2 := (homeLines page).foldl (fun t l => sendPfl t f l) { s1 with flushes := s1.flushes ++ [f] }
  { s2 with hands := replaceFirst (fun h => decide (h.page = page)) (fun h => { h with sent := true }) s2.hands }

/-- The recalls are over: every home has its last PACK, and no directory entry of the page awaits an answer. -/
def recallsDone (s : State) (page : Nat) : Bool :=
  (match flushOf s (mgmtOf page) 0 with | some f => f.homes.isEmpty || decide (f.page ≠ page) | none => true) &&
  !(s.dir.any (fun e => lineIn page 65536 e.1 && decide (e.2.state = 3)))

/-- No request about the page is outstanding at a core but those of locks, and every access that had passed its checks has been
performed. -/
def pageStill (s : State) (page : Nat) : Bool :=
  pageQuiet s page 65536 && s.fetches.all (fun f => !(lineIn page 65536 (pktLine f.pkt))) &&
  s.cores.all (fun c => c.2.asks.all (fun k => !(lineIn page 65536 k.line)) && c.2.reqs.all (fun r => decide (r.pkt.op = 0x0A) || !(lineIn page 65536 (pktLine r.pkt))))

/-- A core holds a copy of a line of the page, or an owned word of it. -/
def pageCopied (s : State) (page : Nat) : Bool :=
  s.cores.any (fun c => c.2.l1.any (fun e => lineIn page 65536 e.1)) || s.own.any (fun e => lineIn page 65536 (e.1 / 64))

/-- The recall's own flush is over. -/
def endRecall (s : State) (page : Nat) : State :=
  { s with flushes := s.flushes.filter (fun f => !(decide (f.core = mgmtOf page) && decide (f.page = page))) }

/-- A hand-over goes on: the recalls go out once the homes' write queues hold nothing of the page (step 2), one page of a die at a time;
copies that accesses under way have made meanwhile are recalled again. -/
def advanceHand (s : State) (h : Hand) : State :=
  if !h.sent then (if queueClear s h.page 65536 && (flushOf s (mgmtOf h.page) 0).isNone then sendRecalls s h.page else s)
  else if recallsDone s h.page && pageStill s h.page && pageCopied s h.page then
    let s1 := endRecall s h.page
    { s1 with hands := replaceFirst (fun k => decide (k = h)) (fun k => { k with sent := false }) s1.hands }
  else s

/-- Nothing of the page is left in a cache or under way. -/
def handReady (s : State) (h : Hand) : Bool := h.sent && recallsDone s h.page && pageStill s h.page && !(pageCopied s h.page)

/-- A hand-over ends, with its replicas and the TLB entries of the page (step 6; log entry 94). -/
def endHand (s : State) (page : Nat) : State :=
  let s1 := endRecall s page
  dropTlb { s1 with
    hands := s1.hands.filter (fun h => decide (h.page ≠ page))
    replicas := s1.replicas.filter (fun e => !(lineIn page 65536 (e.1 % 2 ^ 30))) } (mapsRange page 65536)

/-- Steps 5 and 6 of R45: the data are sent, the page is Shared or Absent, and the manager is told. -/
def handOver (s : State) (page ep : Nat) (away : Bool) : State :=
  let s1 := setPage (sendData (endHand s page) ep page) (page / 65536) { CohPage.reset with state := if away then 2 else 1 }
  sendManager s1 0x25 page (BitVec.ofNat 48 (b2n away)) 0

/-- The hand-over is refused: the page stays (R45 step 4). -/
def refuseHand (s : State) (page : Nat) : State :=
  let s1 := { endRecall s page with hands := s.hands.filter (fun h => decide (h.page ≠ page)) }
  sendManager (setPage s1 (page / 65536) { s.page (page / 65536) with trans := false, want := none }) 0x26 page 0 stREFUSED

/-- A sharer gives up its copy (R62, R63). -/
def dropShared (s : State) (page : Nat) : State :=
  let s1 := endHand s page
  sendManager (setPage s1 (page / 65536) { s1.page (page / 65536) with state := 2, trans := false }) 0x23 page 0 0

/-- A segment of a page's data is installed; with the last one the page is Owner or Shared, as its request has asked (R45, R63). A write
that has come to wait meanwhile still wants a page that is Shared as Owner. -/
def installSegment (s : State) (page i : Nat) (own : Bool) (bs : List Byte) : State :=
  let s1 := hwWrite s (page + segOff i) bs
  let c := s1.page (page / 65536)
  let got := if c.segs.contains i then c.segs else c.segs ++ [i]
  if got.length < 17 then setPage s1 (page / 65536) { c with segs := got }
  else
    let want := if !own && decide (c.want = some true) then some true else none
    sendManager (setPage s1 (page / 65536) { CohPage.reset with state := if own then 0 else 1, want := want }) 0x27 page
      (BitVec.ofNat 48 (b2n own)) 0

end Sys2Proof.Machine
end

