-- ==== Sys2Proof/Machine/Fetch.lean ====
section
/-! DEFINITION. What a group's or a side core's turn does before and after its instruction: eligibility, the notices
and faults that wait for a boundary, the fetch and its checks, and the bookkeeping of a step of HLTSTEP (R90, R102, R116,
R194, R213 to R215, R346, R350). -/
namespace Sys2Proof.Machine

/-- A turn that is over, or one that goes on with an instruction word. -/
inductive Fetched where
  | done (s : State)
  | word (s : State) (w : Word)

/-! ### Groups -/

/-- An instance that runs: no fault has stopped it, and no pre-emption or kill stops it. -/
def instRuns (s : State) (i : Nat) : Bool :=
  match find s.insts i with
  | none => false
  | some x => decide (x.state = .running) && x.flt.isNone && decide (x.moves = 0)

/-- An instance whose groups may start: one that runs, or that a pre-emption stops while its groups still answer their
notices (R90). -/
def groupsRun (s : State) (i : Nat) : Bool :=
  match find s.insts i with
  | none => false
  | some x => (decide (x.state = .running) || decide (x.state = .stopping)) && x.flt.isNone && decide (x.moves = 0)

/-- A pre-emption stops the group at this boundary (R90): under PNOTE only after its notice has run out. -/
def preStopped (g : Group) : Bool := g.preempt && g.prenote = 0

/-- A halted group runs only its step (R350). -/
def haltLets (g : Group) : Bool := match g.halt with | none => true | some h => h.stepWait

/-- The group may start an instruction (R102). -/
def groupReady (s : State) (g : Group) : Bool :=
  g.resident && !g.ended && g.stop.isNone && groupsRun s g.inst && mayRetry g.wait && !(preStopped g) && haltLets g

/-- The words of a packet: the control word and the seven slots. -/
def packetWords (s : State) (pa : Nat) : List Word :=
  (List.range 8).map (fun k => ofBytes 32 ((List.range 4).map (fun i => homeByte s (pa + 4 * k + i))))

/-- The first check of R215 that a packet fails at a slot: the word that XWORD holds. -/
def badPacket (ws : List Word) (slot : Nat) : Option Word :=
  let ctl := ws.getD 0 0
  let n := ctlN ctl
  if n = 0 ∨ slot = 0 then some ctl
  else match (ws.drop (n + 1)).find? (fun w => w != 0) with
    | some w => some w
    | none => if n < slot then some (ws.getD slot 0) else none

/-- The push and the narrowing that a step of HLTSTEP makes before its instruction (R350). -/
def beginStep (s : State) (g : Group) : Res Group :=
  match g.halt with
  | some h =>
    match h.stepThr with
    | some u =>
      let one : BitVec 64 := maskOf 64 [u]
      if g.split = 0 && g.amask != one then
        match pushEntry s s.focus.core g { pc := g.pc, kind := 2, mask := g.amask &&& ~~~one, mode := g.mode, fmt := g.fmt } with
        | .ok g1 => .ok { g1 with amask := one }
        | r => r
      else .ok g
    | none => .ok g
  | none => .ok g

/-- Fetches the packet of the executing group's PC and checks it; the target of a transfer outside the canonical range fails there
(R209, R215, R243, R76). -/
def fetchWord (s : State) : Fetched :=
  let g := s.cur
  let va := g.far.getD ((BitVec.ofNat 48 (pcPacket g.pc)).signExtend 64)
  match check s s.focus.core (instRoot s g.inst) va 32 .fetch with
  | .fault c a => .done (trap s ⟨c, va, lowest g.amask, a⟩)
  | .wait l => .done (waitXlat s l)
  | .ok pa _ _ _ =>
    let ws := packetWords s pa
    match badPacket ws (pcSlot g.pc) with
    | some w => .done (trapCode { s with focus := { s.focus with word := w } } cILLEGAL)
    | none =>
      let w := ws.getD (pcSlot g.pc) 0
      let s1 := { s with focus := { s.focus with ctl := ws.getD 0 0, word := w } }
      if modeOk g.mode && fmtOk g.fmt then .word s1 w else .done (trapCode s1 cILLEGAL)

/-- A herd follower of a herd-scope halt stops before one of its last starts (R346; log entry 18). -/
def followStop (s : State) (g : Group) : Bool :=
  match g.follow with
  | none => false
  | some n => decide (n = 0) || (Config.freeWord s.tick).getLsbD 0

/-- A copy of the group that a fault has stopped and whose fault the group has not taken yet (R155). -/
def stoppedCopy (s : State) (core slot inst : Nat) : Option (Nat × FaultInfo) :=
  (s.core core).copies.findSome? (fun c =>
    match c.2.stopped with
    | some f =>
      if decide (c.2.inst = inst) && c.2.side.isNone && decide (fnat c.2.rec_ 41 36 = slot) && !f.kill then some (c.1, f)
      else none
    | none => none)

/-- Notes that a stopped copy's fault has been taken. -/
def noteTaken (s : State) (core k : Nat) : State :=
  s.updCore core (fun c => match find c.copies k with
    | some y => { c with copies := put c.copies k { y with stopped := y.stopped.map (fun f => { f with kill := true }) } }
    | none => c)

/-- The focus of a group's turn; a group that has waited in vain meets what it waited for with a cause (R191, R201). -/
def groupFocus (g : Group) (core slot : Nat) : Focus :=
  { core := core, slot := slot, storer := false, ctl := 0, word := 0, step := g.halt.isSome
    refused := match g.wait with | .refused h => some h | _ => none }

/-- A notified group's turn (R90, R192): the pre-emption trap, or without a user handler the stop. Its XOP and XWORD are 0 (DESIGN
CHOICE, log entry 110). -/
def takeNotice (s : State) (core slot : Nat) : State :=
  let g := s.group core slot
  if hUpc g = 0 then s.updGroup core slot (fun k => { k with prenote := 0 })
  else
    (takeTrap s core slot (instrFault s ⟨cPRENOTE, 0, lowest g.amask, 0⟩)).updGroup core slot (fun k => { k with prenote := 2 })

/-- A fault that a copy has left to its group, if there is one: of a command that stopped, or of one that has finished (R155, R157). -/
def takeOwed (s : State) (core slot : Nat) : Option State :=
  let g := s.group core slot
  match stoppedCopy s core slot g.inst, g.owed with
  | some (k, f), _ => some (takeTrap (noteTaken s core k) core slot { f with pc := g.pc, core := core, slot := slot })
  | none, some f =>
    some (takeTrap (s.updGroup core slot (fun k => { k with owed := none })) core slot { f with pc := g.pc, core := core, slot := slot })
  | none, none => none

/-- A group's turn up to its instruction. -/
def fetchGroup (s : State) (core slot : Nat) : Fetched :=
  let g := s.group core slot
  let s0 := { s with focus := groupFocus g core slot }
  if !(groupReady s g) then .done s
  else
    match g.entry with
    | some (f, sup) => .done (enterHandler (s0.updGroup core slot (fun k => { k with entry := none })) core slot f sup)
    | none =>
      if decide (g.prenote = 1) && g.halt.isNone then .done (takeNotice s0 core slot)
      else
        match takeOwed s0 core slot with
        | some t => .done t
        | none =>
          if followStop s g then .done (stopFollower s0 core slot)
          else
            match beginStep s0 g with
            | .fault c => .done (trap s0 c)
            | .wait l => .done (waitXlat s0 l)
            | .held pa va t a => .done (s0.updCur (fun k => { k with wait := .held pa va t a }))
            | .ok g1 => fetchWord (s0.setCur { g1 with follow := g1.follow.map (fun n => n - 1) })

/-- What a step that waits puts back if it fails: the stack, SPILL and the active mask before its push (R350). -/
def stepUndo (g0 g : Group) : Option (List Entry × BitVec 64 × BitVec 64) :=
  if g0.amask = g.amask then none else some (g0.stack, g0.spill, g0.amask)

/-- What a step of HLTSTEP leaves: a step that failed, or that waits only for a unit or a page, has had no effect; one
that waits in its instruction has started. A firing that a gated start has consumed stays with it, and the latencies of a step pass while
its group stays halted (R104, R350, R413). -/
def settleStep (s0 s : State) (core slot : Nat) : State :=
  let g0 := s0.group core slot
  let g := s.group core slot
  match g0.halt, g.halt with
  | some h0, some h =>
    if h.stepErr && !h0.stepErr then
      s0.setGroup core slot { g0 with
        wait := .none, split := (g0.split ||| g0.rest), rest := 0
        halt := some { h0 with stepErr := true, cause := h.cause, stepWait := false, stepThr := none, undo := none } }
    else if !h.stepWait then s.setGroup core slot { g with hazards := [] }
    else if mayRetry g.wait then s.setGroup core slot { g0 with wait := g.wait, fired := g.fired }
    else s.setGroup core slot { g with halt := some { h with stepThr := none, undo := stepUndo g0 g } }
  | _, _ => s

/-- What follows a group's turn: the outcome of a step; and a follower of a herd-scope halt that now waits in an instruction stops
there (R346). -/
def settle (s0 s : State) (core slot : Nat) : State :=
  let t := settleStep s0 s core slot
  let g := t.group core slot
  if (s0.group core slot).follow.isSome && g.halt.isNone && waitsElse g.wait then stopFollower t core slot else t

/-! ### Side cores -/

/-- A side core may execute: its core's side resources are held by a running instance and it is running, or waits in MCPY
for a copy slot (R114, R368). -/
def sideReady (s : State) (core : Nat) (storer : Bool) : Bool :=
  let c := s.core core
  let st := ((c.side storer).status).toNat
  match c.sideOwn with
  | none => false
  | some i => instRuns s i && (decide (st = 1) || decide (st = 3))

/-- The word at a side core's PC in its instruction store (R114, R116). -/
def sideWord (d : Side) : Word :=
  ofBytes 32 ((List.range 4).map (fun i => zget d.istore (d.pc.toNat + i)))

/-- A side core's turn up to its instruction: an address outside its instruction store, or a misaligned one, is a fault. -/
def fetchSide (s : State) (core : Nat) (storer : Bool) : Fetched :=
  if !(sideReady s core storer) then .done s
  else
    let d := (s.core core).side storer
    let s0 := { s with focus := { core := core, slot := 0, storer := storer, ctl := 0, word := sideWord d, step := false, refused := d.refused } }
    let s0 := s0.updCore core (fun c => c.setSide storer { d with held := [], refused := none })
    if decide (d.pc.toNat % 4 ≠ 0) || decide (0x3FFC < d.pc.toNat) then .done (sideFaultAt s0 core storer (d.pc.setWidth 64))
    else .word s0 (sideWord d)

/-! ### Time -/

/-- The regions that resident groups charge, one for each group (R68). -/
def chargedRegions (s : State) : List Nat :=
  (s.allGroups.filter (fun g => g.2.2.resident)).map (fun g => instRegion s g.2.2.inst)

/-- Core cycles pass for a group that waits in MWAIT (R301). -/
def passGroup (n : Nat) (g : Group) : Group := if g.wait = .mwait then { g with mrem := BitVec.ofNat 32 (g.mrem.toNat - n) } else g

/-- Core cycles pass for a core. -/
def passCore (n : Nat) (c : Core) : Core :=
  { c with clk := c.clk + BitVec.ofNat 64 n, groups := c.groups.map (fun (e : Nat × Group) => (e.1, passGroup n e.2)) }

/-- Core cycles pass: the cycle counters and the group-cycles of the regions advance (R7, R68, R220; log entry 10). -/
def passTime (s : State) : State :=
  let n := Config.stepCycles s.tick
  let s1 := { s with cores := s.cores.map (fun (c : Nat × Core) => (c.1, passCore n c.2)) }
  (chargedRegions s).foldl (fun t r => addUse t r 1279 1216 n) s1

end Sys2Proof.Machine
end

