-- ==== Sys2Proof/Machine/Halts.lean ====
section
/-! DEFINITION. A group is interrupted in its wait, and the halts that values ask for which arrive after their instruction (R88, R90,
R155, R328, R338, R344, R346, R350). -/
namespace Sys2Proof.Machine

/-- A group that waits in an instruction stops there, and the instruction runs again: a LOCK sends ABSENT first, and a wait for
register blocks leaves its partition's list. An operation that others still answer goes on to its end, before which the instruction
does not run again. -/
def interruptWait (s : State) (core slot : Nat) : State :=
  let g := s.group core slot
  match g.wait with
  | .lock l d h _ => (sendLock s 6 l core slot h g.save).updGroup core slot (fun k => { k with wait := .lkrq 6 l d h })
  | .regacq _ => (leaveList s core slot).updGroup core slot (fun k => { k with wait := .none })
  | .lkrq 6 _ _ _ => s
  | .lkrq 7 _ _ _ => s
  | w => s.updGroup core slot (fun k => { k with wait := stopWait w, redo := keepsWaiting w, rest := if k.split = 0 then 0 else k.rest })

/-- A halt for a value that arrives after its instruction (R346, R328): a group that waits stops at once and its instruction runs
again, another stops at the boundary where it stands. -/
def haltLate (s : State) (core slot : Nat) (h : Hit) (flags : BitVec 6) (loadPc : BitVec 48) : State :=
  haltGroup ((interruptWait s core slot).updGroup core slot (fun g => { g with split := 0, rest := 0 })) core slot h flags loadPc

/-- The group runs a step of HLTSTEP, to which no halting predicate is applied (R350). -/
def inStep (g : Group) : Bool := match g.halt with | some h => h.stepWait | none => false

/-- A watch point of an instruction that has started before: `born` is the step of its start (R347), and `step` says that a step of
HLTSTEP made what it shows (R350). -/
def watchApart (s : State) (born core slot qty : Nat) (pc : BitVec 48) (step : Bool) (shown : List Shown) : State × Option Hit :=
  let w := watchFrom { s with focus := { s.focus with step := step } } (some born) core slot qty pc shown
  ({ w.1 with focus := s.focus }, w.2)

/-- Shows values that arrive after their instruction to the watch predicates, while the group still stands for it. -/
def lateWatch (s : State) (born core slot inst : Nat) (pc : BitVec 48) (qty : Nat) (step : Bool) (shown : List Shown) :
    State × Option Hit :=
  let g := s.group core slot
  if g.resident && !g.ended && decide (g.inst = inst) then watchApart s born core slot qty pc step shown else (s, none)

/-- A halt that such values ask for. A group that is halted already stays as it is, and at herd scope the others of its herd stop. -/
def lateHalt (s : State) (core slot : Nat) (h : Option Hit) (flags : BitVec 6) (pc : BitVec 48) : State :=
  match h with
  | none => s
  | some x =>
    if (s.group core slot).halt.isNone then haltLate s core slot x flags pc
    else if x.scope = 2 then followHerd s core slot (s.group core slot).inst
    else s

/-- A halt of a group that an earlier watch point of the same instruction has halted: the widest scope is reported (R345). -/
def joinHalt (g : Group) (h : Hit) : Hit :=
  match g.halt with
  | some k =>
    if k.scope = 3 then h else (Hit.join (some ⟨0, k.scope.toNat, k.wp.toNat, k.thr.toNat⟩) (some h)).getD h
  | none => h

/-- Scalar results that end a wait which other groups took part in are shown to the watch predicates as the group goes on (R344). At
group and herd scope the instruction completes, and the group stops at the boundary after it. A predicate of thread scope withholds
them, and the group stops at that boundary too, since what the others did stands (R346; log entry 75). -/
def endShown (s : State) (core slot : Nat) (vals : List Word) (wr : Group → Group) : State :=
  let g := s.group core slot
  let w := watchApart s g.started core slot 3 g.pc (inStep g) [⟨lowest g.amask, vals, 0, none⟩]
  match w.2 with
  | none => endWait (w.1.updGroup core slot wr) core slot
  | some h =>
    let s1 := if h.held = 0 then w.1.updGroup core slot wr else w.1
    haltGroup (endWait s1 core slot) core slot (joinHalt g h) 0 0

end Sys2Proof.Machine
end

