-- ==== Sys2Proof/Machine/Float.lean ====
section
/-! DEFINITION. Exact floating-point arithmetic: the three formats, rounding, the lane operations and conversions
(R121 to R133, R141, R271 to R279). -/
namespace Sys2Proof.Machine

/-- A binary format: exponent and fraction widths (R121). -/
structure Fmt where
  ew : Nat
  fw : Nat
  deriving DecidableEq, Repr

def f32 : Fmt := ⟨8, 23⟩
def bf16 : Fmt := ⟨8, 7⟩
def f16 : Fmt := ⟨5, 10⟩

def Fmt.width (f : Fmt) : Nat := 1 + f.ew + f.fw
def Fmt.bias (f : Fmt) : Int := 2 ^ (f.ew - 1) - 1
/-- The exponent of the smallest normal. -/
def Fmt.emin (f : Fmt) : Int := 1 - f.bias
/-- The canonical NaN (R122). -/
def Fmt.nan (f : Fmt) : Nat := (2 ^ f.ew - 1) * 2 ^ f.fw + 2 ^ (f.fw - 1)
def Fmt.signBit (f : Fmt) (neg : Bool) : Nat := if neg then 2 ^ (f.ew + f.fw) else 0
def Fmt.inf (f : Fmt) (neg : Bool) : Nat := f.signBit neg + (2 ^ f.ew - 1) * 2 ^ f.fw
def Fmt.maxFin (f : Fmt) (neg : Bool) : Nat := f.inf neg - 1

/-- The value of an encoding: NaN (signalling or not), an infinity, or ±m·2^e; a zero has m = 0 (R121). -/
inductive Fp where
  | nan (sig : Bool)
  | inf (neg : Bool)
  | fin (neg : Bool) (m : Nat) (e : Int)
  deriving DecidableEq, Repr

/-- Decodes an encoding; under FTZ a denormal reads as a zero of its sign (R129). -/
def decodeFp (f : Fmt) (ftz : Bool) (x : Nat) : Fp :=
  let neg := decide (x / 2 ^ (f.ew + f.fw) % 2 = 1)
  let ex := x / 2 ^ f.fw % 2 ^ f.ew
  let fr := x % 2 ^ f.fw
  if ex = 2 ^ f.ew - 1 then
    if fr = 0 then .inf neg else .nan (decide (fr < 2 ^ (f.fw - 1)))
  else if ex = 0 then .fin neg (if ftz then 0 else fr) (f.emin - f.fw)
  else .fin neg (fr + 2 ^ f.fw) ((ex : Int) - f.bias - f.fw)

def Fp.isNan (x : Fp) : Bool := match x with | .nan _ => true | _ => false
def Fp.isSig (x : Fp) : Bool := match x with | .nan s => s | _ => false
def Fp.isInf (x : Fp) : Bool := match x with | .inf _ => true | _ => false
def Fp.isZero (x : Fp) : Bool := match x with | .fin _ m _ => decide (m = 0) | _ => false
def Fp.neg (x : Fp) : Bool := match x with | .nan _ => false | .inf n => n | .fin n _ _ => n
def Fp.flip (x : Fp) : Fp := match x with | .nan s => .nan s | .inf n => .inf (!n) | .fin n m e => .fin (!n) m e

/-- NV for a signalling NaN among the operands (R122). -/
def sigFlag (xs : List Fp) : Flags := if xs.any Fp.isSig then fNV else 0

/-- The arithmetic settings of a result: rounding mode, FTZ and SAT. -/
structure Arith where
  mode : Nat
  ftz  : Bool
  sat  : Bool
  deriving DecidableEq, Repr

/-- An infinite result, replaced by the largest finite value under SAT (R130). -/
def infRes (f : Fmt) (ar : Arith) (neg : Bool) : Nat × Flags :=
  if ar.sat then (f.maxFin neg, fSA) else (f.inf neg, 0)

/-- An overflowed result, by its rounding mode (R130). -/
def overflow (f : Fmt) (ar : Arith) (neg : Bool) : Nat × Flags :=
  let toInf := match ar.mode with
    | 0 => true
    | 1 => false
    | 2 => neg
    | 3 => !neg
    | _ => true
  if toInf then let r := infRes f ar neg; (r.1, r.2 ||| fOF ||| fNX) else (f.maxFin neg, fOF ||| fNX)

/-- The encoding of a rounded magnitude n·2^q that is finite in the format. -/
def packFin (f : Fmt) (neg : Bool) (n : Nat) (q : Int) : Nat :=
  if n < 2 ^ f.fw then f.signBit neg + n
  else if n < 2 ^ (f.fw + 1) then f.signBit neg + (q + f.fw + f.bias).toNat * 2 ^ f.fw + (n - 2 ^ f.fw)
  else f.signBit neg + (q + 1 + f.fw + f.bias).toNat * 2 ^ f.fw

/-- The magnitude m·2^e brought to a multiple of 2^q (R128). -/
def roundTo (mode : Nat) (neg : Bool) (m : Nat) (e q : Int) : Nat × Bool :=
  if q ≤ e then (m * 2 ^ (e - q).toNat, false) else roundShift mode neg m (q - e).toNat

/-- RN(x, format, mode): the exact value ±m·2^e rounded once, with FTZ, overflow and SAT (R128 to R130). A zero keeps
the sign given. -/
def roundFp (f : Fmt) (ar : Arith) (neg : Bool) (m : Nat) (e : Int) : Nat × Flags :=
  if m = 0 then (f.signBit neg, 0)
  else
    let top : Int := (Nat.log2 m : Int) + e
    let qu : Int := top - f.fw
    let q : Int := max qu (f.emin - f.fw)
    let u := roundTo ar.mode neg m e qu
    let uTop : Int := if u.1 < 2 ^ (f.fw + 1) then top else top + 1
    if ar.ftz && decide (uTop < f.emin) then (f.signBit neg, fUF ||| fNX)
    else
      let r := roundTo ar.mode neg m e q
      let rTop : Int := if r.1 < 2 ^ (f.fw + 1) then q + f.fw else q + f.fw + 1
      if f.bias < rTop ∧ 2 ^ f.fw ≤ r.1 then overflow f ar neg
      else
        let fl : Flags := (if r.2 then fNX else 0) ||| (if r.2 && !ar.ftz && decide (top < f.emin) then fUF else 0)
        (packFin f neg r.1 q, fl)

/-- A NaN result (R122). -/
def nanRes (f : Fmt) (fl : Flags) : Nat × Flags := (f.nan, fl)

/-- The exact sum of two finite values: sign and magnitude of an integer multiple of a power of two. -/
def addExact (n1 : Bool) (m1 : Nat) (e1 : Int) (n2 : Bool) (m2 : Nat) (e2 : Int) : Int × Int :=
  let e := min e1 e2
  let a : Int := (m1 * 2 ^ (e1 - e).toNat : Nat)
  let b : Int := (m2 * 2 ^ (e2 - e).toNat : Nat)
  ((if n1 then -a else a) + (if n2 then -b else b), e)

/-- Rounds an exact sum; an exact zero takes the sign of R271. -/
def roundSum (f : Fmt) (ar : Arith) (n1 n2 z1 z2 : Bool) (v e : Int) : Nat × Flags :=
  if v = 0 then
    (if z1 && z2 && (n1 == n2) then f.signBit n1 else f.signBit (decide (ar.mode = 2)), 0)
  else roundFp f ar (decide (v < 0)) v.natAbs e

/-- x + y (R271). -/
def addFp (f : Fmt) (ar : Arith) (x y : Fp) : Nat × Flags :=
  let sf := sigFlag [x, y]
  match x, y with
  | .nan _, _ => nanRes f sf
  | _, .nan _ => nanRes f sf
  | .inf a, .inf b => if a == b then infRes f ar a else nanRes f (sf ||| fNV)
  | .inf a, _ => infRes f ar a
  | _, .inf b => infRes f ar b
  | .fin n1 m1 e1, .fin n2 m2 e2 =>
    let r := addExact n1 m1 e1 n2 m2 e2
    roundSum f ar n1 n2 (decide (m1 = 0)) (decide (m2 = 0)) r.1 r.2

/-- x − y (R271): of an exact zero, the sign is that of both operands where they are zeros of one sign. -/
def subFp (f : Fmt) (ar : Arith) (x y : Fp) : Nat × Flags :=
  match x, y with
  | .fin n1 m1 e1, .fin n2 m2 e2 =>
    let r := addExact n1 m1 e1 (!n2) m2 e2
    roundSum f ar n1 n2 (decide (m1 = 0)) (decide (m2 = 0)) r.1 r.2
  | _, _ => addFp f ar x y.flip

/-- x × y (R271). -/
def mulFp (f : Fmt) (ar : Arith) (x y : Fp) : Nat × Flags :=
  let sf := sigFlag [x, y]
  let sg := x.neg != y.neg
  match x, y with
  | .nan _, _ => nanRes f sf
  | _, .nan _ => nanRes f sf
  | .inf _, .inf _ => infRes f ar sg
  | .inf _, .fin _ m _ => if m = 0 then nanRes f fNV else infRes f ar sg
  | .fin _ m _, .inf _ => if m = 0 then nanRes f fNV else infRes f ar sg
  | .fin _ m1 e1, .fin _ m2 e2 => roundFp f ar sg (m1 * m2) (e1 + e2)

/-- x × y + z with one rounding (R271). -/
def fmaFp (f : Fmt) (ar : Arith) (x y z : Fp) : Nat × Flags :=
  let sf := sigFlag [x, y, z]
  let sg := x.neg != y.neg
  if (x.isInf && y.isZero) || (x.isZero && y.isInf) then nanRes f (sf ||| fNV)
  else if x.isNan || y.isNan || z.isNan then nanRes f sf
  else if x.isInf || y.isInf then
    match z with
    | .inf n => if n == sg then infRes f ar sg else nanRes f fNV
    | _ => infRes f ar sg
  else
    match x, y, z with
    | _, _, .inf n => infRes f ar n
    | .fin _ m1 e1, .fin _ m2 e2, .fin n3 m3 e3 =>
      let r := addExact sg (m1 * m2) (e1 + e2) n3 m3 e3
      roundSum f ar sg n3 (decide (m1 * m2 = 0)) (decide (m3 = 0)) r.1 r.2
    | _, _, _ => nanRes f sf

/-- The order of two values that are not NaN, −0 below +0 (R272): x is below y. -/
def ltTotal (x y : Fp) : Bool :=
  match x, y with
  | .inf a, .inf b => a && !b
  | .inf a, _ => a
  | _, .inf b => !b
  | .fin n1 m1 e1, .fin n2 m2 e2 =>
    let r := addExact n1 m1 e1 (!n2) m2 e2
    if r.1 = 0 then (decide (m1 = 0) && n1 && !n2) else decide (r.1 < 0)
  | _, _ => false

/-- Numerical order of two values that are not NaN: -1, 0 or 1 (R274). -/
def cmpFp (x y : Fp) : Int :=
  match x, y with
  | .inf a, .inf b => if a == b then 0 else if a then -1 else 1
  | .inf a, _ => if a then -1 else 1
  | _, .inf b => if b then 1 else -1
  | .fin n1 m1 e1, .fin n2 m2 e2 => (addExact n1 m1 e1 (!n2) m2 e2).1.sign
  | _, _ => 0

/-- The encoding of a value without rounding: it is a value of the format. -/
def encodeFp (f : Fmt) (ar : Arith) (x : Fp) : Nat × Flags :=
  match x with
  | .nan _ => nanRes f 0
  | .inf n => infRes f ar n
  | .fin n m e => ((roundFp f { ar with ftz := false } n m e).1, 0)

/-- FMIN and FMAX (R272): the lesser value, or the greater one when `mx`. -/
def minmaxFp (f : Fmt) (ar : Arith) (mx : Bool) (x y : Fp) : Nat × Flags :=
  let sf := sigFlag [x, y]
  let r := if x.isNan && y.isNan then Fp.nan false
    else if x.isNan then y
    else if y.isNan then x
    else if (ltTotal x y) != mx then x else y
  let e := encodeFp f ar r
  (e.1, e.2 ||| sf)

/-- A compare of R274: 0 EQ, 1 LT, 2 LE, 3 UN. -/
def compareFp (rel : Nat) (x y : Fp) : Bool × Flags :=
  let un := x.isNan || y.isNan
  let sf := sigFlag [x, y]
  match rel with
  | 0 => (!un && decide (cmpFp x y = 0), sf)
  | 1 => (!un && decide (cmpFp x y < 0), if un then fNV else 0)
  | 2 => (!un && decide (cmpFp x y ≤ 0), if un then fNV else 0)
  | _ => (un, sf)

/-! ### Conversions (R130, R277) -/

/-- Float to integer: rounded, out of range to the nearest bound with NV, NaN to 0 with NV. -/
def fpToInt (w : Nat) (sg : Bool) (mode : Nat) (x : Fp) : Nat × Flags :=
  match x with
  | .nan _ => (0, fNV)
  | .inf n => (wrap w (if n then typeMin w sg else typeMax w sg), fNV)
  | .fin n m e =>
    let r := roundTo mode n m e 0
    let v : Int := if n then -(r.1 : Int) else (r.1 : Int)
    if v < typeMin w sg then (wrap w (typeMin w sg), fNV)
    else if typeMax w sg < v then (wrap w (typeMax w sg), fNV)
    else (wrap w v, if r.2 then fNX else 0)

/-- Integer to float. -/
def intToFp (f : Fmt) (ar : Arith) (v : Int) : Nat × Flags := roundFp f ar (decide (v < 0)) v.natAbs 0

/-- Float to float: the value rounded once, a NaN becoming the canonical NaN. -/
def fpToFp (f : Fmt) (ar : Arith) (x : Fp) : Nat × Flags :=
  match x with
  | .nan s => nanRes f (if s then fNV else 0)
  | .inf n => infRes f ar n
  | .fin n m e => roundFp f ar n m e

/-- x × 2^k. -/
def scaleFp (x : Fp) (k : Int) : Fp :=
  match x with
  | .fin n m e => .fin n m (e + k)
  | y => y

/-! ### FP32 atomics and the orthogonal engine (R141, R290) -/

/-- RNE, denormals kept, no saturation. -/
def plainArith : Arith := ⟨0, false, false⟩

def addF32 (a b : Word) : Word × Flags :=
  let r := addFp f32 plainArith (decodeFp f32 false a.toNat) (decodeFp f32 false b.toNat)
  (BitVec.ofNat 32 r.1, r.2)

def fmaF32 (a b c : Word) : Word × Flags :=
  let r := fmaFp f32 plainArith (decodeFp f32 false a.toNat) (decodeFp f32 false b.toNat) (decodeFp f32 false c.toNat)
  (BitVec.ofNat 32 r.1, r.2)

def mulF32 (a b : Word) : Word × Flags :=
  let r := mulFp f32 plainArith (decodeFp f32 false a.toNat) (decodeFp f32 false b.toNat)
  (BitVec.ofNat 32 r.1, r.2)

def negF32 (a : Word) : Word := a ^^^ 0x80000000#32

/-- The sign of an exact zero follows R271, which alone states one (log entry 73). -/
def subF32 (a b : Word) : Word × Flags :=
  let r := subFp f32 plainArith (decodeFp f32 false a.toNat) (decodeFp f32 false b.toNat)
  (BitVec.ofNat 32 r.1, r.2)

/-- DOT of R141, in ascending order from +0, with the flags of its steps. -/
def dotF32 (xs ys : List Word) : Word × Flags :=
  (xs.zip ys).foldl (fun (p : Word × Flags) e => let r := fmaF32 e.1 e.2 p.1; (r.1, p.2 ||| r.2)) (0, 0)

end Sys2Proof.Machine
end

