-- ==== Sys2Proof/Machine/MatrixArith.lean ====
section
/-! DEFINITION. Table values, quantisation and the matrix datapath (R134 to R140). -/
namespace Sys2Proof.Machine

/-! ### Tables (R126, R134) -/

def tabValue (t : List (BitVec 16)) (c : Nat) : Fp := decodeFp bf16 false (t.getD c 0).toNat

/-! ### QNT and DQNT (R135, R136) -/

/-- |x − y| of two finite values, or none where one is infinite. -/
def fpDist (x y : Fp) : Option (Nat × Int) :=
  match x, y with
  | .fin n1 m1 e1, .fin n2 m2 e2 => let r := addExact n1 m1 e1 (!n2) m2 e2; some (r.1.natAbs, r.2)
  | _, _ => none

/-- One distance is less than another; an absent one is infinite. -/
def distLt (a b : Option (Nat × Int)) : Bool :=
  match a, b with
  | some (m, e), some (n, f) => let q := min e f; decide (m * 2 ^ (e - q).toNat < n * 2 ^ (f - q).toNat)
  | some _, none => true
  | none, _ => false

/-- The best code of a list by a test that a later code replaces an earlier one only when it is strictly better. -/
def bestCode (better : Nat → Nat → Bool) (cs : List Nat) : Option Nat :=
  cs.foldl (fun b c => match b with | none => some c | some k => if better c k then some c else some k) none

/-- QNT of one element (R135): the code and the flags. -/
def qntCode (t : List (BitVec 16)) (n nancode : Nat) (scale : Int) (x : Fp) : Nat × Flags :=
  let cs := (List.range n).filter (fun c => !(tabValue t c).isNan)
  match x with
  | .nan _ => (nancode, fNV)
  | _ =>
    let y := scaleFp x (-scale)
    let pick := match y with
      | .inf false => bestCode (fun c k => decide (cmpFp (tabValue t c) (tabValue t k) > 0)) cs
      | .inf true => bestCode (fun c k => decide (cmpFp (tabValue t c) (tabValue t k) < 0)) cs
      | _ => bestCode (fun c k => distLt (fpDist y (tabValue t c)) (fpDist y (tabValue t k))) cs
    match pick with
    | none => (nancode, fNV)
    | some c => (c, if cmpFp y (tabValue t c) = 0 then 0 else fNX)

/-- DQNT of one code (R136). -/
def dqntVal (t : List (BitVec 16)) (f : Fmt) (ar : Arith) (scale : Int) (c : Nat) : Nat × Flags :=
  match tabValue t c with
  | .nan _ => nanRes f fNV
  | v => fpToFp f ar (scaleFp v scale)

/-! ### ALIGN (R137, R138) -/

/-- The format of an A or B operand of the matrix unit (R132): element width. -/
def mfWidth (code : Nat) : Nat :=
  match code with
  | 2 => 16
  | 3 => 16
  | 4 => 4
  | 5 => 6
  | _ => 8

/-- Element `k` of a chunk held in consecutive registers (R124, R125). -/
def chunkElem (code : Nat) (ws : List Word) (k : Nat) : Nat :=
  match code with
  | 2 => elemAt (ws.getD (k / 2) 0) 16 (k % 2)
  | 3 => elemAt (ws.getD (k / 2) 0) 16 (k % 2)
  | 4 => elemAt (ws.getD (k / 8) 0) 4 (k % 8)
  | 5 => elemAt (ws.getD (k / 4) 0) 6 (k % 4)
  | _ => elemAt (ws.getD (k / 4) 0) 8 (k % 4)

/-- A row of A after ALIGN. -/
structure Aligned where
  vals : List Int
  off  : Int
  nx   : Bool
  deriving DecidableEq, Repr

/-- The 32 elements of a chunk in registers. -/
def chunkElems (code : Nat) (ws : List Word) : List Nat := (List.range 32).map (chunkElem code ws)

/-- The elements of a float or codebook chunk as values. Under FTZ = 1 a denormal entry of the A table is read as zero, since R137 aligns
the chunk as bf16, and R129 keeps the table itself (DESIGN CHOICE, log entry 109). -/
def chunkFp (code : Nat) (ftz : Bool) (tab : List (BitVec 16)) (xs : List Nat) : List Fp :=
  xs.map (fun x =>
    match code with
    | 2 => decodeFp bf16 ftz x
    | 3 => decodeFp f16 ftz x
    | _ => decodeFp bf16 ftz (tab.getD x 0).toNat)

/-- ALIGN of finite values. -/
def alignFp (xs : List Fp) : Aligned :=
  let ls := xs.filterMap (fun x => match x with
    | .fin _ m e => if m = 0 then none else some ((Nat.log2 m : Int) + e)
    | _ => none)
  let E : Int := match ls with | [] => 0 | l :: r => r.foldl max l
  let rs := xs.map (fun x => match x with
    | .fin n m e => let r := roundTo 0 n m e (E - 14); ((if n then -(r.1 : Int) else r.1), r.2)
    | _ => (0, false))
  { vals := rs.map Prod.fst, off := E - 14, nx := rs.any Prod.snd }

/-- ALIGN of an integer chunk. -/
def alignInt (code : Nat) (xs : List Nat) : Aligned :=
  { vals := xs.map (elemVal 8 (decide (code = 0))), off := 0, nx := false }

/-! ### BIN and POSTMUL (R139, R140) -/

/-- The bin sums S_c over the chunk, for `n` codes. -/
def binSums (n : Nat) (as : List Int) (codes : List Nat) : List Int :=
  (List.range n).map (fun c => ((as.zip codes).filter (fun p => decide (p.2 = c))).foldl (fun t p => t + p.1) 0)

/-- The integer product sum P. -/
def dotInt (as bs : List Int) : Int := (as.zip bs).foldl (fun t p => t + p.1 * p.2) 0

/-- The first rounding: RNE of an exact value, with FTZ and SAT. -/
def firstRne (ar : Arith) (v : Int) (e : Int) : Nat × Flags := roundFp f32 ar (decide (v < 0)) v.natAbs e

/-- The second rounding: the accumulator and y. -/
def accumulate (ar : Arith) (acc : Word) (y : Nat × Flags) : Word × Flags :=
  let r := addFp f32 ar (decodeFp f32 false acc.toNat) (decodeFp f32 false y.1)
  (BitVec.ofNat 32 r.1, r.2 ||| y.2)

/-- One term of the sum of POSTMUL: the part of v·2^s that W takes, and whether bits are dropped. -/
def postTerm (v s : Int) : Int × Bool :=
  if 0 ≤ s then (v * 2 ^ s.toNat, false)
  else (v / 2 ^ (-s).toNat, decide (v % 2 ^ (-s).toNat ≠ 0))

/-- y of a codebook B (R140). -/
def postmulTab (ar : Arith) (tab : List (BitVec 16)) (ss : List Int) (F scale : Int) : Nat × Flags :=
  let used := (ss.zipIdx).filterMap (fun p =>
    let t := tabValue tab p.2
    if p.1 = 0 ∨ t.isZero then none else some (t, p.1))
  if used.isEmpty then (0, 0)
  else if used.any (fun u => u.1.isNan) then nanRes f32 fNV
  else
    let infs := used.filterMap (fun u => match u.1 with | .inf n => some (n != decide (u.2 < 0)) | _ => none)
    if infs.contains true && infs.contains false then nanRes f32 fNV
    else match infs with
      | n :: _ => infRes f32 ar n
      | [] =>
        let gs := used.filterMap (fun u => match u.1 with | .fin _ _ e => some e | _ => none)
        let G : Int := match gs with | [] => 0 | g :: r => r.foldl max g
        let ts := used.map (fun u => match u.1 with
          | .fin n m e => postTerm ((if n then -(m : Int) else m) * u.2) (e - G + 35)
          | _ => (0, false))
        let W := ts.foldl (fun t p => t + p.1) 0
        let sticky : Int := if ts.any Prod.snd then 1 else 0
        firstRne ar (2 * W + sticky) (G - 36 + F + scale)

/-- y of an integer B (R140): W = P·2^35, G = 0 and no sticky bit. -/
def postmulInt (ar : Arith) (P F scale : Int) : Nat × Flags := firstRne ar (2 * (P * 2 ^ 35)) (F + scale - 36)

end Sys2Proof.Machine
end

