-- ==== Sys2Proof/Machine/Special.lean ====
section
/-! DEFINITION. The special functions (R142 to R144). Outside the exact cases a result is a free value within the bound of
R143: the candidate of `Config.special` where it lies within the bound, and the correctly rounded value of a fixed-point
evaluation otherwise. The functions are numbered 0 FRCP, 1 FRSQ, 2 FSIN, 3 FCOS, 4 FEXP2, 5 FLOG2 (log entry 8). -/
namespace Sys2Proof.Machine

/-! ### Fixed-point evaluation -/

/-- The integer square root of a number below 2^(2·bits). -/
def isqrt (bits n : Nat) : Nat :=
  match bits with
  | 0 => 0
  | k + 1 => let r := 2 * isqrt k (n / 4); if (r + 1) * (r + 1) ≤ n then r + 1 else r

/-- Fractional bits of the evaluations, and of their arguments. -/
def fxBits : Nat := 200
def argBits : Nat := 88

/-- 2^(1/2), 2^(1/4), …, in fixed point, from the value before. -/
def roots (n c : Nat) : List Nat :=
  match n with
  | 0 => []
  | k + 1 => let r := isqrt 210 (c * 2 ^ fxBits); r :: roots k r

/-- The product of the constants whose bit is set, the highest bit first. -/
def prodBits (cs : List Nat) (a n v : Nat) : Nat :=
  match cs, n with
  | c :: r, k + 1 => prodBits r a k (if a / 2 ^ k % 2 = 1 then v * c / 2 ^ fxBits else v)
  | _, _ => v

/-- 2^(a/2^88) for a < 2^88. -/
def exp2Fx (a : Nat) : Nat := prodBits (roots argBits (2 * 2 ^ fxBits)) a argBits (2 ^ fxBits)

/-- `n` fractional bits of log₂ of y/2^200 in [1, 2). -/
def log2Fx (n y acc : Nat) : Nat :=
  match n with
  | 0 => acc
  | k + 1 =>
    let q := y * y / 2 ^ fxBits
    if 2 * 2 ^ fxBits ≤ q then log2Fx k (q / 2) (2 * acc + 1) else log2Fx k q (2 * acc)

/-- Cosine and sine of 2π/2^3, 2π/2^4, …, by half angles. -/
def halfAngles (n : Nat) (c : Int) : List (Int × Int) :=
  match n with
  | 0 => []
  | k + 1 =>
    let one : Int := 2 ^ fxBits
    let c1 : Int := isqrt 210 (((one + c) / 2 * one).toNat)
    let s1 : Int := isqrt 210 (((one - c) / 2 * one).toNat)
    (c1, s1) :: halfAngles k c1

/-- The rotation by the angles whose bit is set, the highest bit first. -/
def turnBits (cs : List (Int × Int)) (a n : Nat) (v : Int × Int) : Int × Int :=
  match cs, n with
  | c :: r, k + 1 =>
    turnBits r a k
      (if a / 2 ^ k % 2 = 1 then
        ((v.1 * c.1 - v.2 * c.2) / 2 ^ fxBits, (v.1 * c.2 + v.2 * c.1) / 2 ^ fxBits) else v)
  | _, _ => v

/-- Cosine and sine of 2πa/2^88. -/
def turnFx (a : Nat) : Int × Int :=
  let one : Int := 2 ^ fxBits
  turnBits ((-one, 0) :: (0, one) :: halfAngles (argBits - 2) 0) a argBits (one, 0)

/-- x·2^88 rounded down. -/
def fxArg (neg : Bool) (m : Nat) (e : Int) : Int :=
  let v : Int := if neg then -(m : Int) else m
  if 0 ≤ e + argBits then v * 2 ^ (e + argBits).toNat else v / 2 ^ (-(e + argBits)).toNat

/-- A value of each function near its exact one, as n·2^e. An exponential beyond 2^±400 is taken there, past every bound
that matters. -/
def nearValue (fn : Nat) (neg : Bool) (m : Nat) (e : Int) : Int × Int :=
  match fn with
  | 0 => let q : Int := ((2 ^ 200 / m : Nat) : Int); (if neg then -q else q, -200 - e)
  | 1 =>
    let odd := decide (e % 2 ≠ 0)
    let m1 := if odd then 2 * m else m
    let e1 := if odd then e - 1 else e
    ((isqrt 210 (2 ^ 400 / m1) : Nat), -200 - e1 / 2)
  | 2 => ((turnFx ((fxArg neg m e % 2 ^ argBits).toNat)).2, -200)
  | 3 => ((turnFx ((fxArg neg m e % 2 ^ argBits).toNat)).1, -200)
  | 4 =>
    let x := fxArg neg m e
    ((exp2Fx (x % 2 ^ argBits).toNat : Nat), max (-400) (min 400 (x / 2 ^ argBits)) - 200)
  | _ =>
    let k := Nat.log2 m
    ((((k : Int) + e) * 2 ^ argBits + log2Fx argBits (m * 2 ^ (fxBits - k)) 0 : Int), -88)

/-! ### The bound (R143) -/

/-- |a·2^ea − b·2^eb| ≤ d·2^q. -/
def within (a ea b eb : Int) (d : Nat) (q : Int) : Bool :=
  let e := min (min ea eb) q
  decide ((a * 2 ^ (ea - e).toNat - b * 2 ^ (eb - e).toNat).natAbs ≤ d * 2 ^ (q - e).toNat)

/-- The exponent of the unit in the last place of an FP32 value of magnitude m·2^e. -/
def ulpExp (m : Nat) (e : Int) : Int := max ((Nat.log2 m : Int) + e - 23) (-149)

/-- The bound of a function at an exact result of magnitude m·2^e, for an argument of magnitude xm·2^xe, as d·2^q, less the
error of the evaluation, which is below 2^-52 of the bound: what the bound admits is within R143 (log entry 8). -/
def boundOf (fn xm : Nat) (xe : Int) (m : Nat) (e : Int) : Nat × Int :=
  match fn with
  | 0 => (2 ^ 52 - 1, ulpExp m e - 52)
  | 2 => (2 ^ 52 - 1, -73)
  | 3 => (2 ^ 52 - 1, -73)
  | 5 =>
    let top : Int := (Nat.log2 xm : Int) + xe
    if top = 0 ∨ top = -1 ∨ (top = 1 ∧ xm = 2 ^ Nat.log2 xm) then (2 ^ 52 - 1, -74) else (2 ^ 53 - 1, ulpExp m e - 52)
  | _ => (2 ^ 53 - 1, ulpExp m e - 52)

/-- A finite FP32 candidate lies within the bound. -/
def candOk (fn : Nat) (neg : Bool) (xm : Nat) (xe : Int) (y : Fp) : Bool :=
  match y with
  | .fin n m e =>
    let v := nearValue fn neg xm xe
    let b := boundOf fn xm xe v.1.natAbs v.2
    within (if n then -(m : Int) else m) e v.1 v.2 b.1 b.2
  | _ => false

/-! ### Exact cases (R144) -/

/-- What a special function gives: an exact value with its flags, or an inexact finite one. -/
inductive SpecRes where
  | exact (v : Fp) (fl : Flags)
  | inexact
  deriving DecidableEq, Repr

/-- A magnitude that is a power of two, and its exponent. -/
def powTwo (m : Nat) (e : Int) : Option Int := if m = 2 ^ Nat.log2 m then some ((Nat.log2 m : Int) + e) else none

/-- The rows of R144. -/
def specCase (fn : Nat) (x : Fp) : SpecRes :=
  match x with
  | .nan s => .exact (.nan false) (if s then fNV else 0)
  | .inf n =>
    match fn with
    | 0 => .exact (.fin n 0 0) 0
    | 1 => if n then .exact (.nan false) fNV else .exact (.fin false 0 0) 0
    | 4 => if n then .exact (.fin false 0 0) 0 else .exact (.inf false) 0
    | 5 => if n then .exact (.nan false) fNV else .exact (.inf false) 0
    | _ => .exact (.nan false) fNV
  | .fin n m e =>
    match fn with
    | 0 =>
      if m = 0 then .exact (.inf n) fDZ
      else match powTwo m e with
        | some k => .exact (.fin n 1 (-k)) 0
        | none => .inexact
    | 1 =>
      if m = 0 then .exact (.inf n) fDZ
      else if n then .exact (.nan false) fNV
      else match powTwo m e with
        | some k => if k % 2 = 0 then .exact (.fin false 1 (-(k / 2))) 0 else .inexact
        | none => .inexact
    | 4 =>
      if m = 0 then .exact (.fin false 1 0) 0
      else
        let v : Int := if n then -(m : Int) else m
        if 0 ≤ e ∨ v % 2 ^ (-e).toNat = 0 then
          let k : Int := if 0 ≤ e then v * 2 ^ (min e 20).toNat else v / 2 ^ (-e).toNat
          .exact (.fin false 1 (max (-400) (min 400 k))) 0
        else .inexact
    | 5 =>
      if m = 0 then .exact (.inf true) fDZ
      else if n then .exact (.nan false) fNV
      else match powTwo m e with
        | some k => .exact (.fin (decide (k < 0)) k.natAbs 0) 0
        | none => .inexact
    | _ =>
      let v : Int := if n then -(m : Int) else m
      let quarter : Option Nat :=
        if 0 ≤ e then some 0
        else
          let d := (-e).toNat
          if (4 * v) % 2 ^ d = 0 then some ((4 * v / 2 ^ d) % 4).toNat else none
      match quarter with
      | none => .inexact
      | some q =>
        if fn = 2 then
          match q with
          | 1 => .exact (.fin false 1 0) 0
          | 3 => .exact (.fin true 1 0) 0
          | _ => .exact (.fin (n && decide (m = 0)) 0 0) 0
        else
          match q with
          | 0 => .exact (.fin false 1 0) 0
          | 2 => .exact (.fin true 1 0) 0
          | _ => .exact (.fin false 0 0) 0

/-- The FP32 value of an inexact case: the free candidate within the bound, or the rounded evaluation. It overflows
where the function's value does. -/
def specValue (tick fn : Nat) (neg : Bool) (m : Nat) (e : Int) (op : Word) : Fp :=
  let c := decodeFp f32 false (Config.special tick fn op).toNat
  if candOk fn neg m e c then c
  else
    let v := nearValue fn neg m e
    decodeFp f32 false (roundFp f32 plainArith (decide (v.1 < 0)) v.1.natAbs v.2).1

/-- The rounding of a value to the element format, with FTZ and SAT and always RNE (R142). -/
def specRound (f : Fmt) (ftz sat : Bool) (v : Fp) (fl : Flags) : Nat × Flags :=
  let ar : Arith := ⟨0, ftz, sat⟩
  match v with
  | .nan _ => nanRes f fl
  | .inf n => let r := infRes f ar n; (r.1, r.2 ||| fl)
  | .fin n m e => let r := roundFp f ar n m e; (r.1, r.2 ||| fl)

/-- A special function of one element in a format (R142). -/
def specialFp (tick fn : Nat) (f : Fmt) (ftz sat : Bool) (x : Fp) : Nat × Flags :=
  match specCase fn x, x with
  | .exact v fl, _ => specRound f ftz sat v fl
  | .inexact, .fin n m e =>
    match specValue tick fn n m e (BitVec.ofNat 32 (encodeFp f32 plainArith x).1) with
    | .fin vn vm ve =>
      let r := specRound f ftz sat (.fin vn vm ve) fNX
      let small := decide (vm = 0) && (decide (fn = 0) || decide (fn = 4))
      let low := !ftz && decide (vm ≠ 0) && decide ((Nat.log2 vm : Int) + ve < f.emin)
      (r.1, if small || low then r.2 ||| fUF else r.2)
    | v => specRound f ftz sat v (fOF ||| fNX)
  | .inexact, _ => nanRes f 0

end Sys2Proof.Machine
end

