-- ==== Sys2Proof/Machine/FloatOps.lean ====
section
/-! DEFINITION. Floating-point arithmetic, compares, special functions, conversions, quantisation, PACK and UNPACK
(R268 to R281). -/
namespace Sys2Proof.Machine

/-- The float format of a TYPE (R268). -/
def typeFmt (ty : Nat) : Option Fmt :=
  match ty with
  | 2 => some f32
  | 3 => some bf16
  | 4 => some f16
  | _ => none

def fmtOf (ty : Nat) : Fmt := (typeFmt ty).getD f32

/-- The TYPE is f32, bf16x2 or f16x2 (R127, R268). -/
def floatType (m : Word) : Bool := (typeFmt (mType m)).isSome

def arithOf (m : Word) : Arith := ⟨mRound m, mFtz m, mSat m⟩

/-- A shape that is legal only under a float TYPE. -/
def floatShape (m : Word) (sh : Shape) : Shape := { sh with legal := sh.legal && floatType m }

/-- Applies a function to the decoded elements of the operand words (R270). -/
def fpElems (m : Word) (ws : List Word) (f : Fmt → Arith → List Fp → Nat × Flags) : Word × Flags :=
  let fm := fmtOf (mType m)
  let w := fm.width
  joinRes w ((List.range (32 / w)).map (fun e =>
    f fm (arithOf m) (ws.map (fun v => decodeFp fm (mFtz m) (elemAt v w e)))))

def fpAt (l : List Fp) (i : Nat) : Fp := l.getD i (.nan false)

/-- The common course of a float instruction with two operands. -/
def fp2 (s : State) (d a b : BitVec 8) (f : Fmt → Arith → Fp → Fp → Nat × Flags) : Out :=
  let m := s.cur.mode
  arith s (floatShape m (formShape d [a, b])) d (fun r =>
    fpElems m [r a, r b] (fun fm ar l => f fm ar (fpAt l 0) (fpAt l 1)))

/-! ### Arithmetic (R271 to R273) -/

/-- FADD (R271). -/
def execFadd (d a b : BitVec 8) (s : State) : Out := fp2 s d a b addFp
/-- FSUB (R271). -/
def execFsub (d a b : BitVec 8) (s : State) : Out := fp2 s d a b subFp
/-- FMUL (R271). -/
def execFmul (d a b : BitVec 8) (s : State) : Out := fp2 s d a b mulFp
/-- FMA (R271). -/
def execFma (d a b : BitVec 8) (s : State) : Out :=
  let m := s.cur.mode
  arith s (floatShape m (formShape d [a, b, d])) d (fun r =>
    fpElems m [r a, r b, r d] (fun fm ar l => fmaFp fm ar (fpAt l 0) (fpAt l 1) (fpAt l 2)))
/-- FMIN (R272). -/
def execFmin (d a b : BitVec 8) (s : State) : Out := fp2 s d a b (fun fm ar x y => minmaxFp fm ar false x y)
/-- FMAX (R272). -/
def execFmax (d a b : BitVec 8) (s : State) : Out := fp2 s d a b (fun fm ar x y => minmaxFp fm ar true x y)

/-- The sign bits of the elements of a float TYPE. -/
def signMask (m : Word) : Word := if (fmtOf (mType m)).width = 32 then 0x80000000 else 0x80008000

/-- FNEG (R273). -/
def execFneg (d a : BitVec 8) (s : State) : Out :=
  let m := s.cur.mode
  arith s (floatShape m (formShape d [a])) d (fun r => (r a ^^^ signMask m, 0))
/-- FABS (R273). -/
def execFabs (d a : BitVec 8) (s : State) : Out :=
  let m := s.cur.mode
  arith s (floatShape m (formShape d [a])) d (fun r => (r a &&& ~~~(signMask m), 0))

/-! ### Compares (R274) -/

/-- The relation of every element, whether it holds in all, and the flags. -/
def fcmpElems (m : Word) (rel : Nat) (a b : Word) : Word × Bool × Flags :=
  let fm := fmtOf (mType m)
  let w := fm.width
  let rs := (List.range (32 / w)).map (fun e =>
    compareFp rel (decodeFp fm (mFtz m) (elemAt a w e)) (decodeFp fm (mFtz m) (elemAt b w e)))
  (joinElems w (rs.map (fun r => if r.1 then 2 ^ w - 1 else 0)), rs.all Prod.fst, rs.foldl (fun f r => f ||| r.2) 0)

def fcmp (s : State) (d a b : BitVec 8) (rel : Nat) : Out :=
  let m := s.cur.mode
  compare s (floatShape m (cmpShape d [a, b])) d [a, b] (fun r => fcmpElems m rel (r a) (r b))

/-- FCMPEQ (R274). -/
def execFcmpeq (d a b : BitVec 8) (s : State) : Out := fcmp s d a b 0
/-- FCMPLT (R274). -/
def execFcmplt (d a b : BitVec 8) (s : State) : Out := fcmp s d a b 1
/-- FCMPLE (R274). -/
def execFcmple (d a b : BitVec 8) (s : State) : Out := fcmp s d a b 2
/-- FCMPUN (R274). -/
def execFcmpun (d a b : BitVec 8) (s : State) : Out := fcmp s d a b 3

/-! ### Special functions (R142 to R144, R275) -/

/-- The shape of a special function: a scalar destination is illegal (R275). -/
def specialShape (m : Word) (d a : BitVec 8) : Shape :=
  floatShape m (mkShape .lane (isVec d && isSrc a) [d, a] [a] false)

/-- A special function of every element (R275). -/
def specialOp (s : State) (fn : Nat) (d a : BitVec 8) : Out :=
  let m := s.cur.mode
  let k := s.tick
  arith s (specialShape m d a) d (fun r =>
    fpElems m [r a] (fun fm ar l => specialFp k fn fm ar.ftz ar.sat (fpAt l 0)))

/-- FRCP (R275). -/
def execFrcp (d a : BitVec 8) (s : State) : Out := specialOp s 0 d a
/-- FRSQ (R275). -/
def execFrsq (d a : BitVec 8) (s : State) : Out := specialOp s 1 d a
/-- FSIN (R275). -/
def execFsin (d a : BitVec 8) (s : State) : Out := specialOp s 2 d a
/-- FCOS (R275). -/
def execFcos (d a : BitVec 8) (s : State) : Out := specialOp s 3 d a
/-- FEXP2 (R275). -/
def execFexp2 (d a : BitVec 8) (s : State) : Out := specialOp s 4 d a
/-- FLOG2 (R275). -/
def execFlog2 (d a : BitVec 8) (s : State) : Out := specialOp s 5 d a

/-! ### Conversions (R276, R277) -/

/-- A format of CVT (R229): a float format, or an integer's width and signedness. -/
inductive CvtFmt where
  | fp (f : Fmt)
  | int (w : Nat) (sg : Bool)
  deriving DecidableEq, Repr

def cvtFmt (c : Nat) : CvtFmt :=
  match c with
  | 0 => .int 32 true
  | 1 => .int 32 false
  | 2 => .fp f32
  | 3 => .fp bf16
  | 4 => .fp f16
  | 5 => .int 16 true
  | 6 => .int 8 true
  | _ => .int 8 false

def CvtFmt.width (c : CvtFmt) : Nat := match c with | .fp f => f.width | .int w _ => w

/-- The conversion of one element (R277). -/
def convert (m : Word) (src dst : CvtFmt) (x : Nat) : Nat × Flags :=
  match src, dst with
  | .int w sg, .int w' sg' => fitInt (mSat m) w' sg' (elemVal w sg x)
  | .int w sg, .fp f => intToFp f (arithOf m) (elemVal w sg x)
  | .fp g, .fp f => fpToFp f (arithOf m) (decodeFp g (mFtz m) x)
  | .fp g, .int w' sg' => fpToInt w' sg' (mRound m) (decodeFp g (mFtz m) x)

/-- The conversion of a word (R276). -/
def cvtWord (m : Word) (t f : Nat) (a : Word) : Word × Flags :=
  let src := cvtFmt f
  let dst := cvtFmt t
  let n := 32 / max src.width dst.width
  joinRes dst.width ((List.range n).map (fun e => convert m src dst (elemAt a src.width e)))

/-- The shape of CVT: two different formats of R229. -/
def cvtShape (d a : BitVec 8) (t f : BitVec 4) : Shape :=
  let sh := formShape d [a]
  { sh with legal := sh.legal && decide (t.toNat < 8) && decide (f.toNat < 8) && t != f }

/-- CVT (R276, R277). -/
def execCvt (d a : BitVec 8) (t f : BitVec 4) (s : State) : Out :=
  let m := s.cur.mode
  arith s (cvtShape d a t f) d
    (fun r => cvtWord m t.toNat f.toNat (r a))

/-! ### Quantisation (R278, R279) -/

/-- The entries of a table slot (R126). -/
def tabEntries (c : Core) (k : Nat) : List (BitVec 16) := (List.range 64).map (fun i => zget c.tabs (64 * k + i))

/-- Bits of a code of the B format, and the number of entries. -/
def codeBits (f : Word) : Nat := if fmtB f = 4 then 4 else 6
def codeCount (f : Word) : Nat := if fmtB f = 4 then 16 else 64

/-- The shape of QNT and DQNT: a float TYPE, a codebook as B format, and the B table slot held. -/
def quantShape (g : Group) (d a : BitVec 8) : Shape :=
  let sh := floatShape g.mode (mkShape .lane (isVec d && isSrc a) [d, a] [a] false)
  { sh with legal := sh.legal && (decide (fmtB g.fmt = 4) || decide (fmtB g.fmt = 5)), tabs := [fmtBtab g.fmt] }

/-- The codes of the elements of a word (R135, R278). -/
def qntWord (g : Group) (tab : List (BitVec 16)) (v : Word) : Word × Flags :=
  let fm := fmtOf (mType g.mode)
  joinRes (codeBits g.fmt) ((List.range (32 / fm.width)).map (fun e =>
    qntCode tab (codeCount g.fmt) (fmtNan g.fmt) (fmtScale g.fmt) (decodeFp fm (mFtz g.mode) (elemAt v fm.width e))))

/-- The values of the codes of a word (R136, R279). -/
def dqntWord (g : Group) (tab : List (BitVec 16)) (v : Word) : Word × Flags :=
  let fm := fmtOf (mType g.mode)
  joinRes fm.width ((List.range (32 / fm.width)).map (fun e =>
    dqntVal tab fm (arithOf g.mode) (fmtScale g.fmt) (elemAt v (codeBits g.fmt) e)))

/-- QNT (R135, R278). -/
def execQnt (d a : BitVec 8) (s : State) : Out :=
  let g := s.cur
  let tab := tabEntries (s.core s.focus.core) (fmtBtab g.fmt)
  arith s (quantShape g d a) d (fun r => qntWord g tab (r a))

/-- DQNT (R136, R279). -/
def execDqnt (d a : BitVec 8) (s : State) : Out :=
  let g := s.cur
  let tab := tabEntries (s.core s.focus.core) (fmtBtab g.fmt)
  arith s (quantShape g d a) d (fun r => dqntWord g tab (r a))

/-! ### Element moves (R280, R281) -/

/-- The halves of two operands merged (R280). -/
def packWord (ty : Nat) (a b : Word) : Word :=
  let n := elemCount ty
  let w := elemWidth ty
  joinElems w ((List.range n).map (fun e => if e < n / 2 then elemAt a w e else elemAt b w (e - n / 2)))

/-- The shape of PACK: a TYPE with several elements (R280). -/
def packShape (m : Word) (d a b : BitVec 8) : Shape :=
  let sh := formShape d [a, b]
  { sh with legal := sh.legal && decide (3 ≤ mType m) && decide (mType m ≤ 9) }

/-- PACK (R280). -/
def execPack (d a b : BitVec 8) (s : State) : Out :=
  let ty := mType s.cur.mode
  arith s (packShape s.cur.mode d a b) d (fun r => (packWord ty (r a) (r b), 0))

/-- Element `e` extended to 32 bits (R281). -/
def unpackWord (ty e : Nat) (a : Word) : Word :=
  let w := elemWidth ty
  let x := elemAt a w e
  if ty = 5 ∨ ty = 6 then BitVec.ofInt 32 (toSigned w x) else BitVec.ofNat 32 x

/-- The shape of UNPACK: an element that the TYPE has (R281). -/
def unpackShape (m : Word) (d a : BitVec 8) (e : BitVec 3) : Shape :=
  let sh := formShape d [a]
  { sh with legal := sh.legal && decide (e.toNat < elemCount (mType m)) }

/-- UNPACK (R281). -/
def execUnpack (d a : BitVec 8) (e : BitVec 3) (s : State) : Out :=
  let ty := mType s.cur.mode
  arith s (unpackShape s.cur.mode d a e) d (fun r => (unpackWord ty e.toNat (r a), 0))

end Sys2Proof.Machine
end

