-- ==== Sys2Proof/Machine/Matrix.lean ====
section
/-! DEFINITION. The matrix unit: the claim of a partition's matrix state, the two units' places, gated starts, the M
instructions, and what the unit does (R306 to R319, R328, R413). -/
namespace Sys2Proof.Machine

/-! ### Matrix state (R307) -/

/-- The fields of a slot in MXSTATE. -/
def slotLd (mx : BitVec 64) (n : Nat) : Bool := bit mx (11 * n + 10)
def slotBf (mx : BitVec 64) (n : Nat) : Nat := fnat mx (11 * n + 9) (11 * n + 6)
def slotKn (mx : BitVec 64) (n : Nat) : Nat := fnat mx (11 * n + 5) (11 * n + 3) + 1
def slotKptr (mx : BitVec 64) (n : Nat) : Nat := fnat mx (11 * n + 2) (11 * n)

/-- MXSTATE with a slot loaded. -/
def putLoaded (mx : BitVec 64) (n bf kn : Nat) : BitVec 64 :=
  fput (fput (fput (setBit mx (11 * n + 10) true) (11 * n + 9) (11 * n + 6) bf) (11 * n + 5) (11 * n + 3) (kn - 1))
    (11 * n + 2) (11 * n) 0
def putKptr (mx : BitVec 64) (n v : Nat) : BitVec 64 := fput mx (11 * n + 2) (11 * n) v

/-- The fields of the bypass. -/
def bypPtr (mx : BitVec 64) : Nat := fnat mx 51 51
def bypForm (mx : BitVec 64) : Nat := if bit mx 44 then fnat mx 50 47 else 2
def bypSrc (mx : BitVec 64) : Nat := if bit mx 44 then fnat mx 46 45 else 0

/-- Row `i` of a tile. -/
def tileRow (p : Partition) (n i : Nat) : List Word := zgetRun p.tiles (n * 4096 + 64 * i) 64
def setTileRow (p : Partition) (n i : Nat) (ws : List Word) : Partition :=
  { p with tiles := zsetRun p.tiles (n * 4096 + 64 * i) ws }

/-- Bytes of a stored row of a B format (R310). -/
def rowBytes (bf : Nat) : Nat :=
  match bf with
  | 4 => 32
  | 5 => 48
  | _ => 64

/-- The 64 elements of a stored row (R125). -/
def rowElems (bf : Nat) (bs : List Byte) : List Nat :=
  let v := natOfBytes bs
  let w := mfWidth bf
  (List.range 64).map (fun j => v / 2 ^ (w * j) % 2 ^ w)

def slotRow (p : Partition) (n k : Nat) : List Byte := zgetRun p.bslots (n * 16384 + 64 * k) 64

/-! ### Starting an M or Q instruction (R306, R308, R413) -/

/-- The tiles that an M instruction names, the bypass tile included. -/
def mTiles (p : Partition) (i : Instr) : List Nat :=
  match i with
  | .mma c _ _ => [c.toNat]
  | .mmas c _ _ _ _ => [c.toNat]
  | .mmab c _ =>
    [c.toNat, bypSrc p.mxstate] ++
      p.munit.filterMap (fun o => match o.instr with | .mbyp d _ => some d.toNat | _ => none)
  | .mbyp c _ => [c.toNat]
  | .mdrain c _ => [c.toNat]
  | .mstore c _ _ => [c.toNat]
  | .mzero c => [c.toNat]
  | _ => []

/-- The q register that a Q instruction names. -/
def qName (i : Instr) : Nat :=
  match i with
  | .qinit q _ _ _ => q.toNat
  | .qappend q _ _ => q.toNat
  | .qappl q _ => q.toNat
  | .qapplt q _ => q.toNat
  | .qappr q _ => q.toNat
  | .qapprt q _ => q.toNat
  | .qcount q _ => q.toNat
  | .qcompact q => q.toNat
  | .qdense q _ => q.toNat
  | _ => 0

/-- The spill tiles that a q register may name. -/
def spillTiles (p : Partition) (q : Nat) : List Nat :=
  (if bit (zget p.qhdr q) 9 then [fnat (zget p.qhdr q) 11 10] else []) ++
    p.qunit.filterMap (fun o => match o.instr with | .qinit r _ _ t => if r.toNat = q then some t.toNat else none | _ => none)

/-- The tiles that a Q instruction names or may use through its q register. -/
def qTiles (p : Partition) (i : Instr) : List Nat :=
  match i with
  | .qinit _ sp _ t => if sp = 1 then [t.toNat] else []
  | .qappl q t => t.toNat :: spillTiles p q.toNat
  | .qapplt q t => t.toNat :: spillTiles p q.toNat
  | .qappr q t => t.toNat :: spillTiles p q.toNat
  | .qapprt q t => t.toNat :: spillTiles p q.toNat
  | .qdense q t => t.toNat :: spillTiles p q.toNat
  | .qappend q _ _ => spillTiles p q.toNat
  | .qcompact q => spillTiles p q.toNat
  | _ => []

/-- The format that a slot has for an instruction that starts now: that of the newest load under way, else the stored one. -/
def slotFormat (p : Partition) (n : Nat) : Nat :=
  match (p.munit.filterMap (fun o => match o.instr with
      | .mloadb b _ => if b.toNat = n then some (fmtB o.fmt) else none
      | _ => none)).getLast? with
  | some f => f
  | none => slotBf p.mxstate n

/-- The groups that wait at a gated start on a sink, in order. -/
def gateWaiters (c : Core) (sink : Nat) : List Nat :=
  (if sink = 10 then c.gateM else c.gateQ).filter (fun k => (c.group k).wait = .gate sink)

def setGate (c : Core) (sink : Nat) (l : List Nat) : Core := if sink = 10 then { c with gateM := l } else { c with gateQ := l }

/-- A gated start consumes a firing that stands in PEND, unless older starts wait for one (R413). -/
def gatePass (s : State) (sink : Nat) : Option State :=
  let c := s.core s.focus.core
  let l := gateWaiters c sink
  if l.isEmpty || l.head? = some s.focus.slot then
    (takeFiring c sink).map (fun d =>
      (s.setCore s.focus.core (setGate d sink (l.filter (fun k => decide (k ≠ s.focus.slot))))).updCur (fun g => { g with fired := true }))
  else none

/-- A firing that arrives releases the oldest start that waits for it, if any waits (R413). -/
def releaseGate (s : State) (core sink : Nat) : Option State :=
  match gateWaiters (s.core core) sink with
  | [] => none
  | k :: r =>
    some ((s.updCore core (fun c => setGate c sink r)).updGroup core k (fun g => { g with wait := .none, fired := true }))

/-- The group waits at a gated start. -/
def gateWait (s : State) (sink : Nat) : State :=
  let c := s.core s.focus.core
  let l := gateWaiters c sink
  let l1 := if l.contains s.focus.slot then l else l ++ [s.focus.slot]
  retry (s.setCore s.focus.core (setGate c sink l1)) (.gate sink)

/-- The states that go on behind the gate: the one that the instruction found and the one in which it is to start; none where it
must wait for a firing. A start that has consumed its firing passes (R413). -/
def passGate (s0 t : State) (gated : Bool) (sink : Nat) : Option (State × State) :=
  if gated && !(s0.cur.fired) then
    match gatePass s0 sink, gatePass t sink with
    | some a, some b => some (a, b)
    | _, _ => none
  else some (s0, t)

/-- The herd claims the partition's matrix state, where it is free (R307). -/
def claimPart (t : State) (core part inst : Nat) : State :=
  let p := (t.core core).part part
  if p.owner.isSome then t
  else t.updCore core (fun c => c.setPart part
    { Partition.reset with owner := some inst, regwait := p.regwait, munit := p.munit, qunit := p.qunit, mstore := p.mstore })

/-- The common start of an M or Q instruction with an active thread: side resources and the firing for a gated one, then the claim
and a place in the unit. `k` gets the state for a wait, the state for a cause and the state with the claim made. -/
def unitStart (s0 : State) (x : Ctx) (t : State) (isQ : Bool) (k : State → State → State → State) : State :=
  let part := x.slot / 16
  let p := (t.core x.core).part part
  let gated := mGate x.src.mode
  let sink := if isQ then 11 else 10
  if gated && !(sideHeld t x.core x.slot) then trapCode t cSIDENOTHELD
  else
    match passGate s0 t gated sink with
    | none => gateWait s0 sink
    | some (w, v) =>
      if p.owner.isSome && p.owner != some x.src.inst then retry w .busy
      else if 2 ≤ (if isQ then p.qunit else p.munit).length then retry w .busy
      else k w v (claimPart v x.core part x.src.inst)

/-- The place of an instruction in a unit, with what it read: the vector registers named and two scalars. -/
def unitOp (x : Ctx) (u : State) (i : Instr) (op : Nat) (vecs : List (BitVec 8)) (a b : Word) : UnitOp :=
  let c := u.core x.core
  { instr := i, slot := x.slot, inst := x.src.inst, op := op, after := u.cur.nextAcc, order := u.tick, mode := x.src.mode
    fmt := x.src.fmt, act := x.act, vecs := keepKeys (fun k => vecs.any (fun r => decide (r.toNat = k / 64))) x.src.vectors
    scal := a, scal2 := b, tabA := tabEntries c (fmtAtab x.src.fmt), tabB := tabEntries c (fmtBtab x.src.fmt), pc := x.src.pc
    step := u.focus.step, lost := 0 }

/-- Puts an instruction into a unit: it counts in its class until its last write, and its destinations are scoreboarded. -/
def enterUnit (x : Ctx) (u : State) (isQ : Bool) (i : Instr) (vecs dst : List (BitVec 8)) (a b : Word) : State :=
  let o := addOp u.cur (if isQ then 4 else 3) 1
  let y := unitOp x u i o.2 vecs a b
  let u1 := u.setCur (addScore o.1 o.2 dst)
  u1.updCore x.core (fun c =>
    let p := c.part (x.slot / 16)
    c.setPart (x.slot / 16) (if isQ then { p with qunit := p.qunit ++ [y] } else { p with munit := p.munit ++ [y] }))

/-- The shape of an M or Q instruction. -/
def unitShape (legal : Bool) (regs reads : List (BitVec 8)) (tabs : List Nat) (once : Bool) : Shape :=
  { mkShape .matrix legal regs reads once with tabs := tabs }

/-- The course of an instruction that names no address. -/
def unitInstr (s : State) (sh : Shape) (isQ : Bool) (i : Instr) (vecs dst : List (BitVec 8)) (a b : Ctx → Word) : Out :=
  startGroup s sh (fun x t =>
    if x.act = 0 then retire t x.hit 0
    else unitStart s x t isQ (fun _ _ u => retire (enterUnit x u isQ i vecs dst (a x) (b x)) x.hit 0))

/-- The partition of the executing group. -/
def curPart (s : State) : Partition := (s.core s.focus.core).part (s.focus.slot / 16)

/-- The B table slots that a product reads: where the herd holds the matrix state and the slot's format is a codebook. -/
def bTabs (s : State) (slot : Nat) : List Nat :=
  let p := curPart s
  if p.owner = some s.cur.inst && decide (4 ≤ slotFormat p slot) then [fmtBtab s.cur.fmt] else []

def aTabs (s : State) : List Nat := if 4 ≤ fmtA s.cur.fmt then [fmtAtab s.cur.fmt] else []

/-- Registers of an A chunk (R311). -/
def aRegs (code : Nat) : Nat :=
  match code with
  | 2 => 16
  | 3 => 16
  | 4 => 4
  | _ => 8

def noWord : Ctx → Word := fun _ => 0

/-- MLOADB (R310). -/
def execMloadb (n : BitVec 2) (a : BitVec 8) (s : State) : Out :=
  let f := fmtB s.cur.fmt
  startGroup s (unitShape (isScal a && decide (f ≠ 2) && decide (f ≠ 3)) [a] [a] [] true) (fun x t =>
    if x.act = 0 then retire t x.hit 0
    else unitStart s x t false (fun w0 v0 u =>
      let v := x.src.s a
      let off := fnat v 18 0
      let len := 32 * (fnat v 21 19 + 1) * rowBytes f
      match scrRange t x.core x.src.inst off len 64 with
      | .fault c ar => trap v0 ⟨c, BitVec.ofNat 64 off, x.low, ar⟩
      | .wait l => waitXlat w0 l
      | .ok _ _ _ _ =>
        watchOnce x u [⟨x.low, [BitVec.ofNat 32 off], 0xFF00, none⟩] (fun y u1 =>
          retire (enterUnit y (pinRange u1 x.core x.src.inst off len) false (.mloadb n a) [] [] v 0) y.hit 0)))

/-- MMA (R311, R312). -/
def execMma (c n : BitVec 2) (a : BitVec 8) (s : State) : Out :=
  let r := aRegs (fmtA s.cur.fmt)
  let vs := runOf a r
  unitInstr s (unitShape (isVec a && alignedTo r a) vs vs (aTabs s ++ bTabs s n.toNat) false) false (.mma c n a) vs [] noWord noWord

/-- MMAS (R313). -/
def execMmas (c n : BitVec 2) (a m : BitVec 8) (e : BitVec 3) (s : State) : Out :=
  let r := aRegs (fmtA s.cur.fmt)
  let vs := runOf a r ++ [m, m + 1]
  unitInstr s (unitShape (isVec a && alignedTo r a && isVecPair m && decide (e.toNat < 3)) vs vs (aTabs s ++ bTabs s n.toNat)
    false) false (.mmas c n a m e) vs [] noWord noWord

/-- MMAB (R312, R314). -/
def execMmab (c n : BitVec 2) (s : State) : Out :=
  unitInstr s (unitShape true [] [] (bTabs s n.toNat) false) false (.mmab c n) [] [] noWord noWord

/-- MBYP (R314). -/
def execMbyp (c : BitVec 2) (r : BitVec 1) (s : State) : Out :=
  unitInstr s (unitShape (decide (fmtA s.cur.fmt < 4)) [] [] [] false) false (.mbyp c r) [] [] noWord noWord

/-- MDRAIN (R315). -/
def execMdrain (c : BitVec 2) (a : BitVec 8) (s : State) : Out :=
  let ds := runOf a 64
  unitInstr s (unitShape (decide (a.toNat % 32 = 0) && decide (a.toNat ≤ 96)) ds [] [] false) false (.mdrain c a) [] ds noWord noWord

/-- The barrier that MSTORE credits. -/
def storeBar (x : Ctx) (m : BitVec 8) : Option Nat := if isZero m then none else some (x.src.s m).toNat

/-- The scratchpad operands of MSTORE: its 64 rows, and its barrier where it has one (R316). -/
def storeSpans (x : Ctx) (off : Nat) (m : BitVec 8) : List ScrSpan :=
  ⟨off, 16384, 256⟩ :: (storeBar x m).toList.map (fun b => ⟨b, 16, 16⟩)

/-- MSTORE (R316). -/
def execMstore (c : BitVec 2) (a m : BitVec 8) (s : State) : Out :=
  startGroup s (unitShape (isScal a && (isScal m || isZero m)) [a, m] [a, m] [] true) (fun x t =>
    if x.act = 0 then retire t x.hit 0
    else unitStart s x t false (fun w0 v0 u =>
      let off := fnat (x.src.s a) 18 0
      let bo := (storeBar x m).getD 0
      let r := scrRanges t x.core x.src.inst (storeSpans x off m)
      match r.2 with
      | .fault cz ar => trap v0 ⟨cz, BitVec.ofNat 64 r.1, x.low, ar⟩
      | .wait l => waitXlat w0 l
      | .ok _ _ _ _ =>
        watchOnce x u [⟨x.low, [BitVec.ofNat 32 off], 0xFF00, none⟩] (fun y u1 =>
          let u2 := (storeSpans x off m).foldl (fun v e => pinRange v x.core x.src.inst e.off e.len) u1
          retire (enterUnit y u2 false (.mstore c a m) [] [] (BitVec.ofNat 32 off) (BitVec.ofNat 32 bo)) y.hit 0)))

/-- MZERO (R317). -/
def execMzero (c : BitVec 2) (s : State) : Out :=
  unitInstr s (unitShape true [] [] [] false) false (.mzero c) [] [] noWord noWord

/-! ### What the unit does -/

/-- The result of a row: its words and its flags. -/
abbrev Row := Nat × List Word × Flags

/-- Converts a word of a tile to a format of MBYP: the code of the element and the flags (R314). -/
def toForm (code : Nat) (ftz sat : Bool) (v : Word) : Nat × Flags :=
  let x := decodeFp f32 ftz v.toNat
  match code with
  | 2 => fpToFp bf16 ⟨0, ftz, sat⟩ x
  | 3 => fpToFp f16 ⟨0, ftz, sat⟩ x
  | _ =>
    let r := fpToInt 8 (decide (code = 0)) 0 x
    if x.isNan then r else if bit r.2 4 then (r.1, fSA) else r

/-- An element of a format, widened exactly to FP32. -/
def widen (code e : Nat) : Word :=
  match code with
  | 2 => BitVec.ofNat 32 (fpToFp f32 plainArith (decodeFp bf16 false e)).1
  | 3 => BitVec.ofNat 32 (fpToFp f32 plainArith (decodeFp f16 false e)).1
  | _ => BitVec.ofNat 32 (intToFp f32 plainArith (elemVal 8 (decide (code = 0)) e)).1

/-- The B rows that a product of `kl` positions reads (R312). -/
def productRows (p : Partition) (n kl : Nat) : List (List Nat) :=
  let kn := slotKn p.mxstate n
  let c0 := slotKptr p.mxstate n
  (List.range kl).map (fun k => rowElems (slotBf p.mxstate n) (slotRow p n (32 * ((c0 + k / 32) % kn) + k % 32)))

/-- An element of B is zero (R138). -/
def bZero (bf : Nat) (tab : List (BitVec 16)) (e : Nat) : Bool := if 4 ≤ bf then (tabValue tab e).isZero else e = 0

/-- One row of a product: the A chunk as elements of a format, the positions of its elements, the B rows, the accumulator's
row, and the flags that the chunk brings (R312, R137 to R140). -/
def productRow (o : UnitOp) (bf code : Nat) (xs pos : List Nat) (rows : List (List Nat)) (acc : List Word) (fl0 : Flags) :
    List Word × Flags :=
  let ftz := mFtz o.mode
  let ar : Arith := ⟨0, ftz, mSat o.mode⟩
  let fps := if code < 2 then [] else chunkFp code ftz o.tabA xs
  if fps.any (fun x => x.isNan || x.isInf) then
    let nv := fps.any Fp.isNan || (fps.zip pos).any (fun e => e.1.isInf && (rows.getD e.2 []).any (bZero bf o.tabB))
    (List.replicate 64 0x7FC00000#32, fl0 ||| (if nv then fNV else 0))
  else
    let al := if code < 2 then alignInt code xs else alignFp fps
    let as := (List.range rows.length).map (fun k => ((al.vals.zip pos).filter (fun e => decide (e.2 = k))).foldl (fun t e => t + e.1) 0)
    let res := (List.range 64).map (fun j =>
      let bs := rows.map (fun r => r.getD j 0)
      let y := if 4 ≤ bf then postmulTab ar o.tabB (binSums (if bf = 4 then 16 else 64) as bs) al.off (fmtScale o.fmt)
        else postmulInt ar (dotInt as (bs.map (elemVal 8 (decide (bf = 0))))) al.off (fmtScale o.fmt)
      accumulate ar (acc.getD j 0) y)
    (res.map Prod.fst, res.foldl (fun f r => f ||| r.2) (fl0 ||| (if al.nx then fNX else 0)))

/-- The words of thread `t` in the registers from `a` that an instruction read at its start. -/
def opWords (o : UnitOp) (a : BitVec 8) (n t : Nat) : List Word := (List.range n).map (fun i => zget o.vecs (64 * (a.toNat + i) + t))

/-- The logical positions of the elements of thread `t` under MMAS (R313). -/
def sparsePos (o : UnitOp) (m : BitVec 8) (e : BitVec 3) (t : Nat) : List Nat :=
  let src := match e.toNat with | 0 => t | 1 => 0 | _ => 16 * (t / 16)
  let meta_ : BitVec 64 := (zget o.vecs (64 * (m.toNat + 1) + src) ++ zget o.vecs (64 * m.toNat + src) : BitVec (32 + 32))
  (List.range 32).map (fun k => 4 * (k / 2) + fnat meta_ (2 * k + 1) (2 * k))

/-- The products of all active rows, and the advance of KPTR. -/
def productOp (p : Partition) (o : UnitOp) (c n kl : Nat) (chunk : Nat → Nat × List Nat × List Nat × Flags) : Partition × List Row :=
  let bf := slotBf p.mxstate n
  let rows := productRows p n kl
  let out := (bitsOf o.act).map (fun i =>
    let x := chunk i
    let r := productRow o bf x.1 x.2.1 x.2.2.1 rows (tileRow p c i) x.2.2.2
    (i, r.1, r.2))
  let p1 := out.foldl (fun q r => setTileRow q c r.1 r.2.1) p
  ({ p1 with mxstate := putKptr p1.mxstate n ((slotKptr p.mxstate n + kl / 32) % slotKn p.mxstate n) }, out)

/-- Stores the rows of a slot that MLOADB read. -/
def loadRows (p : Partition) (n bf kn : Nat) (bs : List Byte) : Partition :=
  let rb := rowBytes bf
  let m := (List.range (32 * kn)).foldl (fun m k =>
    zsetRun m (n * 16384 + 64 * k) ((bs.drop (rb * k)).take rb ++ List.replicate (64 - rb) 0)) p.bslots
  { p with bslots := m, mxstate := putLoaded p.mxstate n bf kn }

/-- The tile part of an M instruction: the partition after it and the rows that the watch predicates see. -/
def matrixRows (p : Partition) (o : UnitOp) : Partition × List Row :=
  let ftz := mFtz o.mode
  let plain := List.range 32
  match o.instr with
  | .mma c n a =>
    let f := fmtA o.fmt
    productOp p o c.toNat n.toNat 32 (fun i => (f, chunkElems f (opWords o a (aRegs f) i), plain, 0))
  | .mmas c n a m e =>
    let f := fmtA o.fmt
    productOp p o c.toNat n.toNat 64 (fun i => (f, chunkElems f (opWords o a (aRegs f) i), sparsePos o m e i, 0))
  | .mmab c n =>
    let f := bypForm p.mxstate
    let base := 32 * bypPtr p.mxstate
    let r := productOp p o c.toNat n.toNat 32 (fun i =>
      let es := ((tileRow p (bypSrc p.mxstate) i).drop base).take 32 |>.map (toForm f ftz (mSat o.mode))
      (f, es.map Prod.fst, plain, es.foldl (fun fl e => fl ||| e.2) 0))
    ({ r.1 with mxstate := fput r.1.mxstate 51 51 (1 - bypPtr p.mxstate) }, r.2)
  | .mbyp c relu =>
    let f := fmtA o.fmt
    let out := (bitsOf o.act).map (fun i =>
      let es := (tileRow p c.toNat i).map (fun v =>
        let x := decodeFp f32 false v.toNat
        let v1 := if decide (relu = 1) && !x.isNan && (x.neg || x.isZero) then 0 else v
        toForm f ftz (mSat o.mode) v1)
      (i, es.map (fun e => widen f e.1), es.foldl (fun fl e => fl ||| e.2) 0))
    let p1 := out.foldl (fun q r => setTileRow q c.toNat r.1 r.2.1) p
    ({ p1 with mxstate := setBit (fput (fput (fput p1.mxstate 46 45 c.toNat) 50 47 f) 51 51 0) 44 true }, out)
  | .mdrain c _ => (p, (bitsOf o.act).map (fun i => (i, tileRow p c.toNat i, 0)))
  | .mzero c =>
    let out := (bitsOf o.act).map (fun i => (i, List.replicate 64 (0 : Word), (0 : Flags)))
    (out.foldl (fun q r => setTileRow q c.toNat r.1 r.2.1) p, out)
  | _ => (p, [])

/-- The flag set of the row that a hit names. -/
def rowFlags (rows : List Row) (h : Option Hit) : Flags :=
  match h with
  | none => 0
  | some x => ((rows.find? (fun r => decide (r.1 = x.thr))).map (fun r => r.2.2)).getD 0

/-- Shows rows and their flags, and halts the group where a predicate asks for it (R328). -/
def showRows (s : State) (core : Nat) (o : UnitOp) (rows : List Row) : State :=
  let w3 := lateWatch s o.order core o.slot o.inst o.pc 3 o.step (rows.map (fun r => ⟨r.1, r.2.1, 0, none⟩))
  let w4 := lateWatch w3.1 o.order core o.slot o.inst o.pc 4 o.step (rows.map (fun r => ⟨r.1, [r.2.2.setWidth 32], 0, none⟩))
  let h := Hit.join w3.2 w4.2
  lateHalt w4.1 core o.slot h (rowFlags rows h) o.pc

/-- An instruction of a unit has made its last write: it is counted off and its scoreboard bits clear. -/
def unitDone (s : State) (core : Nat) (o : UnitOp) (isQ : Bool) : State :=
  s.updGroup core o.slot (fun g =>
    if g.inst = o.inst then
      let g1 := if isQ then g.countQx o.op else g.countMx o.op
      { g1 with score := g1.score.filter (fun e => decide (e.1 ≠ o.op)) }
    else g)

/-- A unit's result for a register is still wanted: its slot has not been released since the start (R265). -/
def rowWanted (o : UnitOp) (r : BitVec 8) : Bool := match slotOf r with | some k => !(bit o.lost k) | none => true

/-- The registers that MDRAIN writes: those of a group that has not exited, in slots that it has held since the start. -/
def drainRows (s : State) (core : Nat) (o : UnitOp) (a : BitVec 8) (rows : List Row) : State :=
  s.updGroup core o.slot (fun g =>
    if decide (g.inst = o.inst) && !g.ended then
      rows.foldl (fun g r => ((r.2.1.zipIdx).filter (fun e => rowWanted o (a + BitVec.ofNat 8 e.2))).foldl (fun g e =>
        writeLane g (a + BitVec.ofNat 8 e.2) r.1 e.1) g) g
    else g)

/-- The instruction's older accesses to a range of the scratchpad are performed (R310). -/
def olderDone (g : Group) (after o n : Nat) : Bool :=
  g.accs.all (fun b => decide (after ≤ b.id) || b.perf || isFence b || !(b.scr && decide (b.addr < o + n) && decide (o < b.addr + b.size)))

/-- The head of the matrix unit may execute: no older Q instruction names a tile of it, and its own read or landing may be
made. -/
def matrixReady (s : State) (core : Nat) (p : Partition) (o : UnitOp) : Bool :=
  let free := p.qunit.all (fun q => decide (o.order ≤ q.order) || !((qTiles p q.instr).any (fun t => (mTiles p o.instr).contains t)))
  match o.instr with
  | .mloadb _ _ =>
    let n := 32 * (fnat o.scal 21 19 + 1) * rowBytes (fmtB o.fmt)
    olderDone (s.group core o.slot) o.after (fnat o.scal 18 0) n
  | .mstore _ _ _ => free && p.mstore.isNone
  | _ => free

/-- The empty flag sets of an instruction that writes no row of a tile, one for each active thread (R133). -/
def noFlags (o : UnitOp) : List Row := (bitsOf o.act).map (fun i => (i, [], 0))

/-- Performs the head of the matrix unit. A matrix store keeps its place as the head until its FINISH, and shows each row with its flag
set as it lands (R133, R308, R316). -/
def matrixPerform (s : State) (core part : Nat) (p : Partition) (o : UnitOp) : State :=
  let set := fun (t : State) (q : Partition) => t.updCore core (fun c => c.setPart part q)
  match o.instr with
  | .mloadb n _ =>
    let bf := fmtB o.fmt
    let kn := fnat o.scal 21 19 + 1
    let bs := readScratch s core o.inst (fnat o.scal 18 0) (32 * kn * rowBytes bf)
    showRows (unitDone (set s (loadRows p n.toNat bf kn bs)) core o false) core o (noFlags o)
  | .mstore c _ m =>
    let rows := (bitsOf o.act).map (fun i => (i, tileRow p c.toNat i))
    let y : MStore :=
      { off := o.scal.toNat, rows := rows, total := 256 * rows.length, bar := if isZero m then none else some o.scal2.toNat
        inst := o.inst, slot := o.slot, op := o.op }
    set s { p with munit := o :: p.munit, mstore := some y }
  | .mdrain _ a =>
    let r := matrixRows p o
    let s1 := pulseFor (unitDone (drainRows (set s r.1) core o a r.2) core o false) core o.inst 24
    showRows s1 core o r.2
  | _ =>
    let r := matrixRows p o
    showRows (unitDone (set s r.1) core o false) core o r.2

/-- MATRIX_UNIT_EXECUTE: the oldest instruction of a partition's matrix unit executes (R308). One whose herd has left the core
has no effect. -/
def execMatrixUnitExecute (core part : Nat) (s : State) : Out :=
  let p := (s.core core).part part
  match p.munit with
  | [] => .next s
  | o :: r =>
    if p.owner != some o.inst && p.mstore.isNone then .next (unitDone (s.updCore core (fun c => c.setPart part { p with munit := r })) core o false)
    else if matrixReady s core p o then .next (matrixPerform s core part { p with munit := r } o)
    else .next s

end Sys2Proof.Machine
end

