-- ==== Sys2Proof/Machine/Side.lean ====
section
/-! DEFINITION. The side cores: the RV32IM base and the Mbadun extension in the address map of R116 (R114 to R120, R365 to
R372). -/
namespace Sys2Proof.Machine

/-! ### Registers and completion (R365) -/

def Side.x (d : Side) (r : BitVec 5) : Word := zget d.regs r.toNat

/-- Writes a register; x0 keeps reading 0. -/
def Side.setX (d : Side) (r : BitVec 5) (v : Word) : Side :=
  if r = 0 then d else { d with regs := zset d.regs r.toNat v }

/-- The side core that executes. -/
def State.side (s : State) : Side := (s.core s.focus.core).side s.focus.storer

def setSide (s : State) (d : Side) : State := s.updCore s.focus.core (fun c => c.setSide s.focus.storer d)

/-- The side core goes on at the next instruction. -/
def sideNext (s : State) : State := let d := s.side; setSide s { d with pc := d.pc + 4, status := 1 }

/-- The side core writes a register and goes on. -/
def sideWrite (s : State) (r : BitVec 5) (v : Word) : State := sideNext (setSide s (s.side.setX r v))

/-- The executing side core stops with SIDEFAULT (R116). -/
def sideStop (s : State) : State := sideFault s s.focus.core s.focus.storer

/-- The executing side core stops with SIDEFAULT at an address. -/
def sideStopAt (s : State) (va : BitVec 64) : State := sideFaultAt s s.focus.core s.focus.storer va

/-- The instance that holds the side resources of the executing side core. -/
def sideInst (s : State) : Nat := ((s.core s.focus.core).sideOwn).getD 0

/-- The place of the side core in the rotations of the queues (R117). -/
def sideAgent (s : State) : Nat := b2n s.focus.storer

/-! ### The address map (R116) -/

/-- Where an address leads. -/
inductive SideAt where
  | store (o : Nat)
  | data (o : Nat)
  | scratch (o : Nat)
  | none
  deriving DecidableEq, Repr

def sideAt (s : State) (a n : Nat) : SideAt :=
  if a % n ≠ 0 then .none
  else if a + n ≤ 0x4000 then .store a
  else if 0x10000 ≤ a ∧ a + n ≤ 0x12000 then .data (a - 0x10000)
  else if 0x100000 ≤ a ∧ a + n ≤ 0x100000 + ((s.core s.focus.core).scratchOf (sideInst s)).size then .scratch (a - 0x100000)
  else .none

/-- A range of bytes in the data store or the scratchpad window, at an address aligned to 4 (R367). -/
def sideRange (s : State) (a n : Nat) : SideAt :=
  if a % 4 ≠ 0 then .none
  else if 0x10000 ≤ a ∧ a + n ≤ 0x12000 then .data (a - 0x10000)
  else if 0x100000 ≤ a ∧ a + n ≤ 0x100000 + ((s.core s.focus.core).scratchOf (sideInst s)).size then .scratch (a - 0x100000)
  else .none

/-- The executing side core waits: its instruction runs again, and what it waits for is on record (R116, R201). -/
def sideHold (s : State) (l : List Hold) : State := noteHolds (setSide s { s.side with held := l }) s.focus.core l

/-- The bytes of a place, with the state after the scratchpad pages are pinned. A page that cannot be refilled stops the
side core; one that waits lets the instruction run again. -/
def sideRead (s : State) (va : Word) (at_ : SideAt) (n : Nat) (k : State → List Byte → State) : State :=
  match at_ with
  | .none => sideStopAt s (va.setWidth 64)
  | .store o => k s (zgetRun s.side.istore o n)
  | .data o => k s (zgetRun s.side.dstore o n)
  | .scratch o =>
    match scrPages s s.focus.core (sideInst s) o n with
    | .ok _ _ _ _ =>
      let t := pinRange s s.focus.core (sideInst s) o n
      k t (readScratch t s.focus.core (sideInst s) o n)
    | .fault _ _ => sideStopAt s (va.setWidth 64)
    | .wait l => sideHold s l

/-- Writes bytes at a place; a store to the instruction store stops the side core (R366). -/
def sideStore (s : State) (va : Word) (at_ : SideAt) (bs : List Byte) (k : State → State) : State :=
  match at_ with
  | .none => sideStopAt s (va.setWidth 64)
  | .store _ => sideStopAt s (va.setWidth 64)
  | .data o => let d := s.side; k (setSide s { d with dstore := zsetRun d.dstore o bs })
  | .scratch o =>
    match scrPages s s.focus.core (sideInst s) o bs.length with
    | .ok _ _ _ _ =>
      let t := pinRange s s.focus.core (sideInst s) o bs.length
      k (writeScratch t s.focus.core (sideInst s) o bs)
    | .fault _ _ => sideStopAt s (va.setWidth 64)
    | .wait l => sideHold s l

/-! ### Jumps, loads and stores (R366) -/

/-- A sign-extended 12-bit immediate. -/
def rvImm (i : BitVec 12) : Word := i.signExtend 32

/-- A jump; a target that is not aligned to 4 stops the side core. -/
def rvJump (s : State) (target : Word) : State :=
  if target.toNat % 4 ≠ 0 then sideStopAt s (target.setWidth 64) else let d := s.side; setSide s { d with pc := target, status := 1 }

/-- LUI. -/
def execRvLui (d : BitVec 5) (i : BitVec 20) (s : State) : Out := .next (sideWrite s d (i ++ 0#12 : BitVec (20 + 12)))
/-- AUIPC. -/
def execRvAuipc (d : BitVec 5) (i : BitVec 20) (s : State) : Out :=
  .next (sideWrite s d (s.side.pc + (i ++ 0#12 : BitVec (20 + 12))))

/-- A jump that links: nothing is written where the target is misaligned. -/
def rvLink (s : State) (d : BitVec 5) (target : Word) : State :=
  if target.toNat % 4 ≠ 0 then sideStopAt s (target.setWidth 64) else rvJump (setSide s (s.side.setX d (s.side.pc + 4))) target

/-- JAL: the immediate counts halfwords. -/
def execRvJal (d : BitVec 5) (i : BitVec 20) (s : State) : Out :=
  .next (rvLink s d (s.side.pc + (i ++ 0#1 : BitVec (20 + 1)).signExtend 32))
/-- JALR: bit 0 of the target is cleared. -/
def execRvJalr (d a : BitVec 5) (i : BitVec 12) (s : State) : Out :=
  .next (rvLink s d ((s.side.x a + rvImm i) &&& 0xFFFFFFFE#32))

/-- A conditional branch. -/
def rvBranch (s : State) (taken : Bool) (i : BitVec 12) : Out :=
  if taken then .next (rvJump s (s.side.pc + (i ++ 0#1 : BitVec (12 + 1)).signExtend 32)) else .next (sideNext s)

/-- BEQ. -/
def execRvBeq (a b : BitVec 5) (i : BitVec 12) (s : State) : Out := rvBranch s (s.side.x a = s.side.x b) i
/-- BNE. -/
def execRvBne (a b : BitVec 5) (i : BitVec 12) (s : State) : Out := rvBranch s (s.side.x a != s.side.x b) i
/-- BLT. -/
def execRvBlt (a b : BitVec 5) (i : BitVec 12) (s : State) : Out := rvBranch s ((s.side.x a).slt (s.side.x b)) i
/-- BGE. -/
def execRvBge (a b : BitVec 5) (i : BitVec 12) (s : State) : Out := rvBranch s (!((s.side.x a).slt (s.side.x b))) i
/-- BLTU. -/
def execRvBltu (a b : BitVec 5) (i : BitVec 12) (s : State) : Out := rvBranch s ((s.side.x a).ult (s.side.x b)) i
/-- BGEU. -/
def execRvBgeu (a b : BitVec 5) (i : BitVec 12) (s : State) : Out := rvBranch s (!((s.side.x a).ult (s.side.x b))) i

/-- A load of `n` bytes, extended by `ext`. -/
def rvLoad (s : State) (n : Nat) (ext : Nat → Word) (d a : BitVec 5) (i : BitVec 12) : Out :=
  let va := s.side.x a + rvImm i
  .next (sideRead s va (sideAt s va.toNat n) n (fun t bs => sideWrite t d (ext (natOfBytes bs))))

/-- LB. -/
def execRvLb (d a : BitVec 5) (i : BitVec 12) (s : State) : Out := rvLoad s 1 (fun v => (BitVec.ofNat 8 v).signExtend 32) d a i
/-- LH. -/
def execRvLh (d a : BitVec 5) (i : BitVec 12) (s : State) : Out := rvLoad s 2 (fun v => (BitVec.ofNat 16 v).signExtend 32) d a i
/-- LW. -/
def execRvLw (d a : BitVec 5) (i : BitVec 12) (s : State) : Out := rvLoad s 4 (fun v => BitVec.ofNat 32 v) d a i
/-- LBU. -/
def execRvLbu (d a : BitVec 5) (i : BitVec 12) (s : State) : Out := rvLoad s 1 (fun v => BitVec.ofNat 32 v) d a i
/-- LHU. -/
def execRvLhu (d a : BitVec 5) (i : BitVec 12) (s : State) : Out := rvLoad s 2 (fun v => BitVec.ofNat 32 v) d a i

/-- A store of `n` bytes of `b` at the address in `a`. -/
def rvStore (s : State) (n : Nat) (a b : BitVec 5) (i : BitVec 12) : Out :=
  let va := s.side.x a + rvImm i
  .next (sideStore s va (sideAt s va.toNat n) (toBytes (s.side.x b) n) sideNext)

/-- SB. -/
def execRvSb (a b : BitVec 5) (i : BitVec 12) (s : State) : Out := rvStore s 1 a b i
/-- SH. -/
def execRvSh (a b : BitVec 5) (i : BitVec 12) (s : State) : Out := rvStore s 2 a b i
/-- SW. -/
def execRvSw (a b : BitVec 5) (i : BitVec 12) (s : State) : Out := rvStore s 4 a b i

/-! ### Arithmetic (R366) -/

/-- An operation of a register and an immediate. -/
def rvOpImm (s : State) (d a : BitVec 5) (f : Word → Word) : Out := .next (sideWrite s d (f (s.side.x a)))

/-- An operation of two registers. -/
def rvOp (s : State) (d a b : BitVec 5) (f : Word → Word → Word) : Out := .next (sideWrite s d (f (s.side.x a) (s.side.x b)))

def boolWord (b : Bool) : Word := if b then 1 else 0

/-- ADDI. -/
def execRvAddi (d a : BitVec 5) (i : BitVec 12) (s : State) : Out := rvOpImm s d a (fun x => x + rvImm i)
/-- SLTI. -/
def execRvSlti (d a : BitVec 5) (i : BitVec 12) (s : State) : Out := rvOpImm s d a (fun x => boolWord (x.slt (rvImm i)))
/-- SLTIU. -/
def execRvSltiu (d a : BitVec 5) (i : BitVec 12) (s : State) : Out := rvOpImm s d a (fun x => boolWord (x.ult (rvImm i)))
/-- XORI. -/
def execRvXori (d a : BitVec 5) (i : BitVec 12) (s : State) : Out := rvOpImm s d a (fun x => x ^^^ rvImm i)
/-- ORI. -/
def execRvOri (d a : BitVec 5) (i : BitVec 12) (s : State) : Out := rvOpImm s d a (fun x => x ||| rvImm i)
/-- ANDI. -/
def execRvAndi (d a : BitVec 5) (i : BitVec 12) (s : State) : Out := rvOpImm s d a (fun x => x &&& rvImm i)
/-- SLLI. -/
def execRvSlli (d a i : BitVec 5) (s : State) : Out := rvOpImm s d a (fun x => x <<< i.toNat)
/-- SRLI. -/
def execRvSrli (d a i : BitVec 5) (s : State) : Out := rvOpImm s d a (fun x => x >>> i.toNat)
/-- SRAI. -/
def execRvSrai (d a i : BitVec 5) (s : State) : Out := rvOpImm s d a (fun x => x.sshiftRight i.toNat)
/-- ADD. -/
def execRvAdd (d a b : BitVec 5) (s : State) : Out := rvOp s d a b (fun x y => x + y)
/-- SUB. -/
def execRvSub (d a b : BitVec 5) (s : State) : Out := rvOp s d a b (fun x y => x - y)
/-- SLL. -/
def execRvSll (d a b : BitVec 5) (s : State) : Out := rvOp s d a b (fun x y => x <<< (y.toNat % 32))
/-- SLT. -/
def execRvSlt (d a b : BitVec 5) (s : State) : Out := rvOp s d a b (fun x y => boolWord (x.slt y))
/-- SLTU. -/
def execRvSltu (d a b : BitVec 5) (s : State) : Out := rvOp s d a b (fun x y => boolWord (x.ult y))
/-- XOR. -/
def execRvXor (d a b : BitVec 5) (s : State) : Out := rvOp s d a b (fun x y => x ^^^ y)
/-- SRL. -/
def execRvSrl (d a b : BitVec 5) (s : State) : Out := rvOp s d a b (fun x y => x >>> (y.toNat % 32))
/-- SRA. -/
def execRvSra (d a b : BitVec 5) (s : State) : Out := rvOp s d a b (fun x y => x.sshiftRight (y.toNat % 32))
/-- OR. -/
def execRvOr (d a b : BitVec 5) (s : State) : Out := rvOp s d a b (fun x y => x ||| y)
/-- AND. -/
def execRvAnd (d a b : BitVec 5) (s : State) : Out := rvOp s d a b (fun x y => x &&& y)
/-- FENCE has no effect. -/
def execRvFence (_f : BitVec 17) (_d : BitVec 5) (s : State) : Out := .next (sideNext s)
/-- MUL. -/
def execRvMul (d a b : BitVec 5) (s : State) : Out := rvOp s d a b (fun x y => x * y)
/-- MULH. -/
def execRvMulh (d a b : BitVec 5) (s : State) : Out :=
  rvOp s d a b (fun x y => BitVec.ofInt 32 (x.toInt * y.toInt / 2 ^ 32))
/-- MULHSU. -/
def execRvMulhsu (d a b : BitVec 5) (s : State) : Out :=
  rvOp s d a b (fun x y => BitVec.ofInt 32 (x.toInt * (y.toNat : Int) / 2 ^ 32))
/-- MULHU. -/
def execRvMulhu (d a b : BitVec 5) (s : State) : Out :=
  rvOp s d a b (fun x y => BitVec.ofNat 32 (x.toNat * y.toNat / 2 ^ 32))
/-- DIV: by zero all ones, and the overflow gives the dividend. -/
def execRvDiv (d a b : BitVec 5) (s : State) : Out :=
  rvOp s d a b (fun x y => if y = 0 then BitVec.allOnes 32 else BitVec.ofInt 32 (x.toInt.tdiv y.toInt))
/-- DIVU: by zero all ones. -/
def execRvDivu (d a b : BitVec 5) (s : State) : Out :=
  rvOp s d a b (fun x y => if y = 0 then BitVec.allOnes 32 else x / y)
/-- REM: by zero the dividend, and the overflow gives zero. -/
def execRvRem (d a b : BitVec 5) (s : State) : Out :=
  rvOp s d a b (fun x y => if y = 0 then x else BitVec.ofInt 32 (x.toInt.tmod y.toInt))
/-- REMU: by zero the dividend. -/
def execRvRemu (d a b : BitVec 5) (s : State) : Out :=
  rvOp s d a b (fun x y => if y = 0 then x else x % y)

/-- An encoding that R366 and R367 do not list stops the side core (R116, R366). -/
def execSideUnsupportedEncoding (_word : BitVec 32) (s : State) : Out := .next (sideStop s)

/-! ### Halting, events and the timer (R365, R367, R371) -/

/-- MHALT: the side core halts for good; the herd may now leave the core (R114). -/
def execMhalt (s : State) : Out :=
  let d := s.side
  let i := sideInst s
  .next (tryLeave (setSide s { d with status := 0 }) s.focus.core i)

/-- The end of an event wait: the firing is consumed, and the end is an acquire. -/
def sideWake (s : State) (core : Nat) (storer : Bool) (c : Core) : State :=
  let d := c.side storer
  selfInv (s.setCore core (c.setSide storer { d with pc := d.pc + 4, status := 1 })) core

/-- MEVWAIT (R371). -/
def execMevwait (s : State) : Out :=
  match takeFiring (s.core s.focus.core) (sideAgent s) with
  | some c => .next (sideWake s s.focus.core s.focus.storer c)
  | none => let d := s.side; .next (setSide s { d with status := 2 })

/-- MSIGNAL pulses source 27 or 28. -/
def execMsignal (s : State) : Out := .next (sideNext (pulse s s.focus.core (27 + sideAgent s)))

/-- MTIMER sets or cancels the core's timer. -/
def execMtimer (r : BitVec 5) (s : State) : Out :=
  let v := s.side.x r
  .next (sideNext (s.updCore s.focus.core (fun c => { c with timer := if v = 0 then none else some v })))

/-! ### Queues and tags (R117, R184, R370) -/

/-- MQPUSH. -/
def execMqpush (q : BitVec 3) (a d : BitVec 5) (s : State) : Out :=
  let r := queuePush s s.focus.core q.toNat (sideAgent s) [s.side.x a]
  .next (sideWrite r.1 d (if r.2 = 0 then 1 else 0))

/-- MQPOP: the entry goes to memory; an acquire where one is taken. -/
def execMqpop (q : BitVec 3) (a d : BitVec 5) (s : State) : Out :=
  match sideRange s (s.side.x a).toNat 4 with
  | .none => .next (sideStopAt s ((s.side.x a).setWidth 64))
  | p =>
    match ((s.core s.focus.core).queue q.toNat).items with
    | [] => .next (sideWrite (queueTake s s.focus.core q.toNat (sideAgent s) 0) d 1)
    | w :: _ =>
      .next (sideStore s (s.side.x a) p (toBytes w 4) (fun t =>
        sideWrite (selfInv (queueTake t s.focus.core q.toNat (sideAgent s) 1) s.focus.core) d 0))

/-- MQCNT. -/
def execMqcnt (q : BitVec 3) (d : BitVec 5) (s : State) : Out :=
  .next (sideWrite s d (BitVec.ofNat 32 ((s.core s.focus.core).queue q.toNat).items.length))

/-- MTAGR: an acquire where it returns a set bit. -/
def execMtagr (w : BitVec 1) (d : BitVec 5) (s : State) : Out :=
  let v := (s.core s.focus.core).tags.extractLsb' (32 * w.toNat) 32
  .next (sideWrite (if v = 0 then s else selfInv s s.focus.core) d v)

/-! ### Copies, credits and decodes (R368, R369, R372) -/

/-- The copy command of a 32-byte descriptor. -/
def sideCopy (b : BitVec 256) : CopyCmd :=
  let f : Word := fget b 191 160
  let dir := fnat f 13 12
  let src : BitVec 64 := fget b 63 0
  let dst : BitVec 64 := fget b 127 64
  copyCmdOf (if srcScr dir then (src.setWidth 32).setWidth 64 else src) (if dstScr dir then (dst.setWidth 32).setWidth 64 else dst)
    (fget b 159 128) f (fget b 255 192) true

/-- MCPY (R368). -/
def execMcpy (a d : BitVec 5) (s : State) : Out :=
  .next (sideRead s (s.side.x a) (sideRange s (s.side.x a).toNat 32) 32 (fun t bs =>
    let c := sideCopy (ofBytes 256 bs)
    let core := s.focus.core
    match copyCheck c ((t.core core).scratchOf (sideInst s)).size with
    | some f => sideStopAt t f.2
    | none =>
      match freeCopy (t.core core) with
      | none => let x := t.side; setSide t { x with status := 3 }
      | some k =>
        sideWrite (startCopy t core k c
          { rec_ := copyRec c 0, inst := sideInst s, op := 0, after := 0, rd := 0, buf := [], started := false, order := 0
            side := some s.focus.storer, stopped := none }) d (BitVec.ofNat 32 k)))

/-- MBARC (R369). -/
def execMbarc (c b a : BitVec 5) (s : State) : Out :=
  let va : BitVec 64 := ((s.side.x b).setWidth 16 ++ s.side.x a : BitVec (16 + 32)).signExtend 64
  match creditAt s s.focus.core (sideInst s) va (fnat (s.side.x b) 31 16) (s.side.x c).toNat false with
  | .ok t => .next (sideNext t)
  | .fault f => .next (sideStopAt s f.fva)
  | .wait l => .next (sideHold s l)
  | .held _ _ _ _ => .next s

/-- A decoder of a die that passed self-test (R409). -/
def decoderWorks (s : State) (n : Nat) : Bool := bit (zget s.boot.map (n / 8 * 80 + 64)) (n % 8)

def decQueue (s : State) (n : Nat) : List Submission := (find s.decoders n).getD []

/-- The working decoder of a die with the fewest submissions, the lowest of several. -/
def pickDecoder (s : State) (die : Nat) : Option Nat :=
  argmin (fun n => (decQueue s n).length)
    (((List.range 8).map (fun i => die * 8 + i)).filter (fun n => decoderWorks s n && decide ((decQueue s n).length < 4)))

/-- The fields of a descriptor that must be zero are. -/
def decodeZeros (b : BitVec 512) : Bool :=
  fget b 511 384 = 0 && fget b 319 288 = 0 && fget b 255 232 = 0 && fget b 159 144 = 0

/-- The window is even, N is not 0, and BAR is not 0 and is aligned (R372). -/
def decodeDescOk (b : BitVec 512) : Bool :=
  decodeZeros b && decide (fnat b 143 128 ≠ 0) &&
  [fnat b 223 208, fnat b 207 192, fnat b 191 176, fnat b 175 160].all (fun v => decide (v % 2 = 0)) &&
  decide (fnat b 383 320 ≠ 0) && decide (fnat b 383 320 % 16 = 0)

/-- The submission of a descriptor. -/
def submissionOf (b : BitVec 512) (core inst : Nat) : Submission :=
  { bar := fnat b 383 320, dst := fnat b 287 256, dcore := fnat b 231 224, h := fnat b 223 208
    w := fnat b 207 192, y := fnat b 191 176, x := fnat b 175 160, n := fnat b 143 128, f0 := fnat b 127 96, seen := 0, done := 0
    blen := fget b 95 64, bs := fget b 63 0, inst := inst, core := core, deep := none, failed := false, stream := [], fault := false, landed := []
    pos := 0 }

/-- MAVDEC (R372). -/
def execMavdec (a d : BitVec 5) (s : State) : Out :=
  .next (sideRead s (s.side.x a) (sideRange s (s.side.x a).toNat 64) 64 (fun t bs =>
    let b : BitVec 512 := ofBytes 512 bs
    let dcore := fnat b 231 224
    let gang := match find t.insts (sideInst s) with | some x => x.gang | none => []
    match pickDecoder t (dcore / 64) with
    | none => sideWrite t d 1
    | some n =>
      if !(gang.contains dcore) then sideWrite t d 2
      else if !(decodeDescOk b) then sideWrite t d 3
      else
        sideWrite { wakeFor t (.decoder n) with decoders := put t.decoders n (decQueue t n ++ [submissionOf b s.focus.core (sideInst s)]) } d 0))

end Sys2Proof.Machine
end

