-- ==== Sys2Proof/Machine/Wq.lean ====
section
/-! DEFINITION. The steps of the ordering machine: the parts of LOAD, and DRAIN, WQPERF, EVICT, CPWB, WBACK and DISCARD, and the requests by
which atomics and reductions reach their home (R172 to R179, R185, R187, R290, R292, R346). -/
namespace Sys2Proof.Machine

/-! ### The accesses of a group -/

def accOf (g : Group) (id : Nat) : Option Access := g.accs.find? (fun a => decide (a.id = id))

/-- The access has been performed: it is counted off and leaves the group's list. -/
def finishAccess (s : State) (core slot : Nat) (a : Access) : State :=
  s.updGroup core slot (fun g => dropAccess (countAccess g a) a)

/-- The access has been performed and its result is still to come. -/
def markPerformed (s : State) (core slot : Nat) (a : Access) : State :=
  s.updGroup core slot (fun g =>
    countAccess { g with accs := g.accs.map (fun b => if b.id = a.id then { b with perf := true } else b) } a)

/-- The access has left for its home. -/
def markSent (s : State) (core slot : Nat) (a : Access) : State :=
  s.updGroup core slot (fun g => { g with accs := g.accs.map (fun b => if b.id = a.id then { b with sent := true } else b) })

/-- The words that a datum's bytes give to its registers, zero-extended (R285, R287). -/
def wordsFrom (n : Nat) (bs : List Byte) : List Word := (List.range n).map (fun i => ofBytes 32 ((bs.drop (4 * i)).take 4))

/-- Writes an arriving datum to its destination registers; a register whose slot has been released receives nothing (R265). -/
def writeDatum (g : Group) (a : Access) (ws : List Word) : Group :=
  (a.dst.zip ws).foldl (fun k e =>
    if a.uni then writeScal k e.1 e.2 else if isVec e.1 then writeLane k e.1 a.thr e.2 else k) g

/-- A datum arrives: it is shown to the watch predicates, which may withhold it from its registers (R344, R346). -/
def arriveDatum (s : State) (core slot : Nat) (a : Access) (bs : List Byte) : State :=
  if a.dst.isEmpty then s
  else
    let ws := wordsFrom a.dst.length bs
    let w := lateWatch s a.born core slot (s.group core slot).inst a.pc 1 a.step [⟨a.thr, ws, 0, if a.scr then none else some a.arena⟩]
    let s1 := if w.2.isSome then w.1 else w.1.updGroup core slot (fun g => writeDatum g a ws)
    lateHalt s1 core slot w.2 0 a.pc

/-! ### LOAD (R173) -/

/-- Notes that the home has served a line: it is in the L2 (R163). -/
def fillL2 (s : State) (line : Nat) (a : BitVec 12) (g : BitVec 4) : State :=
  match find s.l2 line with
  | some v => { s with l2 := put s.l2 line { v with used := s.tick } }
  | none => touchL2 s line a g false

/-- The replica of a line that the slice of a core's die serves: its own, or one that it fetches from the home; where that slice is the
home, its L2 line (R37, R189). -/
def fetchReplica (s : State) (core line : Nat) (a : BitVec 12) (g : BitVec 4) : State :=
  let t := fillL2 s line a g
  if localSlice core line = homeOfLine line then t
  else if (replicaAt s core line).isSome then s
  else putReplica t (localSlice core line) line a g (homeBytes s (line * 256) 256)

/-- The bytes of a sealed line as the slice of a core's die serves them. -/
def sealedBytes (s : State) (core line : Nat) : List Byte :=
  match replicaAt s core line with
  | some r => zgetRun r.bytes 0 256
  | none => homeBytes s (line * 256) 256

/-- A core keeps an untracked copy of a sealed line, if it has a way for it (R37, R147). -/
def holdSealed (s : State) (core line : Nat) (a : BitVec 12) (g : BitVec 4) (bs : List Byte) : State :=
  match takeWay s core line with
  | none => s
  | some t => t.updCore core (fun c =>
      let c1 := holdBytes c 3 a g (line * 256) bs
      c1.setLine line { c1.line line with sectors := 15 })

/-- Places a copy of a sealed line in a core's cache, from the slice of its die (R37, R189). -/
def placeSealed (s : State) (core line : Nat) (a : BitVec 12) (g : BitVec 4) : State :=
  let t := fetchReplica s core line a g
  holdSealed t core line a g (sealedBytes t core line)

/-- The access is to a sealed line, of which the core holds no copy yet. -/
def newSealed (s : State) (core : Nat) (a : Access) : Bool :=
  !a.scr && aSealed (s.arena a.arena.toNat) && (copyByte (s.core core) a.addr).isNone

/-- The state in which a load reads: a sealed line is placed first, and a line that no copy gives is in the L2. -/
def prepareLoad (s : State) (core : Nat) (a : Access) : State :=
  if a.scr then s
  else
    let line := lineOf a.addr
    let g := s.sgen (homeOfLine line) a.arena.toNat
    if newSealed s core a then placeSealed s core line a.arena g
    else if (copyByte (s.core core) a.addr).isNone then fillL2 s line a.arena g
    else s

/-- The bytes that a load of a group reads. -/
def loadBytes (s : State) (core slot : Nat) (a : Access) : List Byte :=
  let g := s.group core slot
  if a.scr then (List.range a.size).map (fun i => loadScr (scratchFor s core slot) g a.id (a.addr + i))
  else (List.range a.size).map (fun i => loadByte s core g a.id (a.addr + i))

/-! ### Requests of the store buffer (R38, R175, R176) -/

/-- The model's code of an operation in INLINE. -/
def opCode (o : AtomOp) : Nat :=
  match o with
  | .add => 0
  | .fadd => 1
  | .minS => 2
  | .maxS => 3
  | .minU => 4
  | .maxU => 5
  | .and => 6
  | .or => 7
  | .xor => 8
  | .xchg => 9
  | .cas => 10

def codeOp (c : Nat) : AtomOp :=
  match c with
  | 0 => .add
  | 1 => .fadd
  | 2 => .minS
  | 3 => .maxS
  | 4 => .minU
  | 5 => .maxU
  | 6 => .and
  | 7 => .or
  | 8 => .xor
  | 9 => .xchg
  | _ => .cas

/-- The operands of ATOM and REDN in INLINE (log entry 16): value, compare value, operation and width. -/
def atomBits (op : AtomOp) (size : Nat) (val cmp : BitVec 64) : BitVec 384 :=
  (0#31 ++ BitVec.ofBool (size = 8) ++ BitVec.ofNat 8 (opCode op) ++ 0#216 ++ cmp ++ val : BitVec (31 + 1 + 8 + 216 + 64 + 64))

def inlOp (p : Packet) : AtomOp := codeOp (fnat p.inl 351 344)
def inlSize (p : Packet) : Nat := if bit p.inl 352 then 8 else 4
def inlCmp (p : Packet) : BitVec 64 := p.inl.extractLsb' 64 64
def inlVal (p : Packet) : BitVec 64 := p.inl.extractLsb' 0 64

/-- The payload of an access's request. -/
def atomInline (a : Access) (op : AtomOp) : BitVec 384 := atomBits op 4 (a.val.setWidth 64) (a.cmp.setWidth 64)

/-- The access of a group that a request carries out: its core keeps it with the request. -/
def accOfPkt (s : State) (p : Packet) : Option Nat :=
  if engPkt p then none else (findReq s p.core.toNat p.txn.toNat).map (fun r => r.acc)

/-- A request of an access to its home, with the access's pair. -/
def accessPkt (s : State) (core slot op : Nat) (a : Access) : Packet :=
  { withPair (toHome op (lineOf a.addr) core slot a.thr) a.arena a.gen a.regn with
    pa := BitVec.ofNat 38 a.addr, txn := BitVec.ofNat 12 (newTxn s core) }

/-- A store that is written through as WRB (R147). -/
def wrbPkt (s : State) (core slot : Nat) (a : Access) : Packet := asWrb (accessPkt s core slot 0x04 a) a.addr (toBytes a.val a.size)

/-! ### DRAIN (R175) -/

/-- The pair of an access is stale at its home, or at its core where the store is one of the core's own copy (R167, R188). -/
def accStale (s : State) (core : Nat) (a : Access) : Bool :=
  !a.scr && (staleAt s (lineOf a.addr) a.arena a.gen || (decide (a.regn ≠ 0) && staleCore s core a.arena a.gen))

/-- A store that is marked as mail makes its arrival (R85, R363). -/
def storeMailed (s : State) (a : Access) : State := if a.mail then mailArrival s 3 (lineOf a.addr) else s

/-- A store drains: it is discarded if stale, and makes a mail arrival if it is marked as mail (R85, R175, R363). -/
def drainStore (s : State) (core slot : Nat) (a : Access) : State :=
  if a.scr then finishAccess (writeScratch s core (s.group core slot).inst a.addr (toBytes a.val a.size)) core slot a
  else if accStale s core a then finishAccess s core slot a
  else if writesThrough s core a then
    if reqRoom s core 1 then markSent (sendFor s core (wrbPkt s core slot a) a.id) core slot a else s
  else
    match storeReady s core a with
    | none => askOwned s core slot a
    | some t => storeMailed (finishAccess (storeGlobal t core a) core slot a) a

/-- An atomic or a reduction leaves for its home's write queue. -/
def drainAtomic (s : State) (core slot op : Nat) (o : AtomOp) (a : Access) : State :=
  if reqRoom s core 1 then
    markSent (sendFor s core { accessPkt s core slot op a with inl := atomInline a o } a.id) core slot a
  else s

/-- A barrier operation: an action of the scratchpad unit, or an entry of its home's write queue (R157, R185). -/
def drainBarrier (s : State) (core slot : Nat) (a : Access) : State :=
  if a.scr then finishAccess (scratchBarrier s core (s.group core slot).inst a.addr a.kind a.val false) core slot a
  else
    markSent (wqPut s { kind := a.kind, addr := a.addr, size := a.size, val := a.val, cmp := 0, arena := a.arena, gen := a.gen
                        regn := a.regn, poison := false, src := .group core slot a.id }) core slot a

/-- ENQ's push: entries enter while space remains, and the predicate tells each thread whether its entry did (R187, R300). Once the
group's herd has left the core its queues have been discarded, and the next holder's are not touched (R114, R117). -/
def drainPush (s : State) (core slot q : Nat) (a : Access) : State :=
  let r := if sideHeld s core slot then queuePush s core q (2 + slot / 16) a.words else (s, 0)
  let out : BitVec 64 := if a.uni then (if r.2 = 0 then a.mask else 0) else maskOf 64 ((bitsOf a.mask).drop r.2)
  let s1 := match a.pred with
    | none => r.1
    | some p => r.1.updGroup core slot (fun g => writePred g p a.mask out)
  finishAccess s1 core slot a

/-- DRAIN (R175, R179, R190). -/
def execDrain (core slot acc : Nat) (s : State) : Out :=
  let g := s.group core slot
  match accOf g acc with
  | none => .next s
  | some a =>
    if a.sent || a.perf || !(mayPerform g.accs a) then .next s
    else if isStoreLike a && !a.scr && decide (a.addr < 2 ^ 40) && heldByOther s core slot (lineOf a.addr) then .next s
    else
      match a.kind with
      | .store => .next (drainStore s core slot a)
      | .atomic o => .next (drainAtomic s core slot 0x08 o a)
      | .reduce o => .next (drainAtomic s core slot 0x09 o a)
      | .barInit => .next (drainBarrier s core slot a)
      | .barArr _ => .next (drainBarrier s core slot a)
      | .barExp => .next (drainBarrier s core slot a)
      | .push q => .next (drainPush s core slot q a)
      | .unlock =>
        let line := (a.addr - 2 ^ 40) / 256
        .next (finishAccess (sendLock s 2 line core slot a.thr g.save) core slot a)
      | .load => .next s
      | .pop _ => .next s
      | .fence _ _ => .next s

/-! ### Requests at the home (R38, R167, R176) -/

/-- The arrival of a request of an access: refused while its line is busy or reserved, held while another group holds the
line's lock (R40, R190). -/
def accessMessage (s : State) (op : Nat) (p : Packet) (k : State → State) : Out :=
  let line := pktLine p
  askedIf s p (decide (p.op.toNat = op)) (fun t =>
    if mayServe t p line then k (serviced t line) else refuse t p line true)

/-- The source of a request: a port, or an access of a group. -/
def pktFrom (s : State) (p : Packet) : WqFrom :=
  if engPkt p then .port p.src p.txn.toNat else .group p.core.toNat p.grp.toNat ((accOfPkt s p).getD 0)

/-- The write-queue entry of a request. -/
def pktEntry (s : State) (kind : AccKind) (p : Packet) : WqEntry :=
  { kind := kind, addr := p.pa.toNat, size := inlSize p, val := (inlVal p).setWidth 128, cmp := inlCmp p, arena := p.arena, gen := p.gen
    regn := p.regn, poison := false, src := pktFrom s p }

/-- ATOM at the home (R176); a port's asks for the coherence page that it waits for (R44, R60). -/
def execFabricAtom (p : Packet) (s : State) : Out :=
  accessMessage s 0x08 p (fun t =>
    wqPut (if engPkt p then wantPage t (p.pa.toNat / 65536) true else t) (pktEntry t (.atomic (inlOp p)) p))

/-- REDN at the home: it is acknowledged at once (R38, R176). -/
def execRedn (p : Packet) (s : State) : Out :=
  accessMessage s 0x09 p (fun t => send (wqPut t (pktEntry t (.reduce (inlOp p)) p)) (ackPkt (pktLine p) p 0))

/-- WRB at the home: the selected bytes are written, or discarded if stale, and the store is performed; those of a copy engine or of a
port are in memory since its LAND step or its write (R38, R167, R182; log entry 15). -/
def execWrb (p : Packet) (s : State) : Out :=
  accessMessage s 0x04 p (fun t =>
    if engPkt p then send t (ackPkt (pktLine p) p 0) else
    let line := pktLine p
    let base := line * 256 + 64 * lowest p.smask
    let mask : BitVec 256 := p.inl.extractLsb' 0 256
    let t1 := if staleAt t line p.arena p.gen then t
      else (bitsOf mask).foldl (fun u i =>
        writeLive (retake u (line * 256 + i) 1) (line * 256 + i) [p.data.getD (line * 256 + i - base) 0] p.arena p.gen) t
    let t2 := match (accOfPkt t p).bind (accOf (t1.group p.core.toNat p.grp.toNat)) with
      | some a => storeMailed (finishAccess t1 p.core.toNat p.grp.toNat a) a
      | none => t1
    send t2 (ackPkt line p 0))

/-! ### WQPERF (R176) -/

/-- The new value of an atomic (R60, R290). -/
def atomApply (o : AtomOp) (size : Nat) (old val cmp : BitVec 64) : BitVec 64 :=
  let w := 8 * size
  let sg := fun (x : BitVec 64) => if size = 8 then x.toInt else (x.setWidth 32).toInt
  let r : BitVec 64 := match o with
    | .add => old + val
    | .fadd => (addF32 (old.setWidth 32) (val.setWidth 32)).1.setWidth 64
    | .minS => if sg val < sg old then val else old
    | .maxS => if sg old < sg val then val else old
    | .minU => if val.toNat % 2 ^ w < old.toNat % 2 ^ w then val else old
    | .maxU => if old.toNat % 2 ^ w < val.toNat % 2 ^ w then val else old
    | .and => old &&& val
    | .or => old ||| val
    | .xor => old ^^^ val
    | .xchg => val
    | .cas => if old.toNat % 2 ^ w = cmp.toNat % 2 ^ w then val else old
  if size = 8 then r else (r.setWidth 32).setWidth 64

/-- The entry may not be performed yet: its line's lock is held by another group, or by any for a port or an engine; and a
remote atomic waits while its page is Absent or Shared (R44, R60). A page in transition drains its write queues first (R45 step 2). -/
def wqHeld (s : State) (e : WqEntry) : Bool :=
  match e.src with
  | .group c g _ => heldByOther s c g (lineOf e.addr)
  | .port _ _ => heldLine s (lineOf e.addr) || decide ((s.page (e.addr / 65536)).state ≠ 0)
  | .credit => heldLine s (lineOf e.addr)

/-- A remote atomic: its line's current pair is its own, so it is never stale (R162). -/
def fromPort (e : WqEntry) : Bool :=
  match e.src with
  | .port _ _ => true
  | _ => false

/-- The pair that an entry writes under. -/
def wqPair (s : State) (e : WqEntry) : BitVec 12 × BitVec 4 := if fromPort e then linePair s (lineOf e.addr) else (e.arena, e.gen)

/-- A stale entry: an atomic returns the backing value, and nothing is written (R166, R167). -/
def wqStale (s : State) (e : WqEntry) : Bool := !(fromPort e) && staleAt s (lineOf e.addr) e.arena e.gen

/-- The value that an entry finds, and the state after its write. -/
def wqApply (s : State) (e : WqEntry) : List Byte × State :=
  match e.kind with
  | .atomic o => rmw o
  | .reduce o => rmw o
  | k => if wqStale s e then ([], s) else ([], globalBarrier s e.addr k e.val e.poison e.arena e.gen)
where
  /-- Read, compute and write. -/
  rmw (o : AtomOp) : List Byte × State :=
    if wqStale s e then (zgetRun s.back e.addr e.size, s)
    else
      let old := homeBytes s e.addr e.size
      let new := atomApply o e.size (ofBytes 64 old) (e.val.setWidth 64) e.cmp
      (old, writeLive (retake s e.addr e.size) e.addr (toBytes new e.size) (wqPair s e).1 (wqPair s e).2)

/-- The request of a group's atomic. -/
def atomReq (s : State) (core slot acc : Nat) : Option Packet :=
  ((s.core core).reqs.find? (fun r => decide (r.pkt.op = 0x08) && decide (r.pkt.grp.toNat = slot) && decide (r.acc = acc))).map
    (fun r => r.pkt)

/-- The result of an atomic on its way to its requester (R38). -/
def aresPkt (p : Packet) (old : List Byte) : Packet := { replyPkt 0x17 (pktLine p) p with inl := (ofBytes 64 old).setWidth 384 }

/-- The request of a port's transaction. -/
def portReq (s : State) (x : BitVec 7) (txn : Nat) : Option EngReq :=
  s.engReqs.find? (fun r => decide (r.pkt.src = x) && decide (r.pkt.txn.toNat = txn) && !r.fresh)

/-- A port's atomic has been performed: it is recorded, once (R64), and its result goes to the port (R38). -/
def portAnswer (s : State) (e : WqEntry) (x : BitVec 7) (txn : Nat) (old : List Byte) : State :=
  match portReq s x txn with
  | none => s
  | some r =>
    let s1 := match r.use, e.kind with
      | .atom _ aseq, .atomic o => appendRecord s 2 255 (portOfStop x) aseq e.addr (atomBody o e.size aseq (e.val.setWidth 64) e.cmp)
      | _, _ => s
    send s1 (aresPkt r.pkt old)

/-- What the source of an entry learns. -/
def wqReply (s : State) (e : WqEntry) (old : List Byte) : State :=
  match e.src with
  | .group c g acc =>
    match accOf (s.group c g) acc with
    | none => s
    | some a =>
      match e.kind with
      | .atomic _ =>
        let s1 := markPerformed s c g a
        match atomReq s c g acc with
        | some p => send s1 (aresPkt p old)
        | none => s1
      | _ => finishAccess s c g a
  | .port x txn => portAnswer s e x txn old
  | .credit => s

/-- A record that replay applies is complete once its last reply has come (R66). -/
def replayEnds (s : State) (u : EngUse) : State := if decide (u = .replay) && !(engBusy s .replay) then recordDone s else s

/-- The result of an atomic reaches its port: the message and its copies are answered, or a replayed record is complete (R60, R61, R66). -/
def portAres (s : State) (p : Packet) : State :=
  match s.engReqs.find? (engOf p) with
  | none => s
  | some r =>
    let s1 := { s with engReqs := removeFirst (engOf p) s.engReqs }
    match r.use with
    | .atom ep aseq => atomDone s1 (portOfStop p.dst) ep aseq stOK ((toBytes (p.inl.extractLsb' 0 64) 8).take (inlSize r.pkt))
    | u => replayEnds s1 u

/-- A write of a copy engine or of a port has been acknowledged. -/
def engAcked (s : State) (p : Packet) : State :=
  match s.engReqs.find? (engOf p) with
  | none => s
  | some r => replayEnds { s with engReqs := removeFirst (engOf p) s.engReqs } r.use

/-- ARES: the old value reaches its destination register, or its port (R38, R60, R290). -/
def execAres (p : Packet) (s : State) : Out :=
  deliverIf s p (decide (p.op = 0x17)) (fun t =>
    if (portOfStop? p.dst).isSome then portAres t p else
    let core := p.core.toNat
    let slot := p.grp.toNat
    let t1 := endReq t core p.txn.toNat
    match (accOfPkt t p).bind (accOf (t1.group core slot)) with
    | none => t1
    | some a =>
      (arriveDatum t1 core slot a (toBytes (p.inl.extractLsb' 0 32) 4)).updGroup core slot (fun g => dropAccess g a))

/-! ### EVICT, CPWB, WBACK, DISCARD (R177) -/

/-- EVICT (R177). -/
def execEvict (core word : Nat) (s : State) : Out := if find s.own word = some core then .next (evictWord s word) else .next s

/-- CPWB (R177). -/
def execCpwb (core line : Nat) (s : State) : Out := .next (cpWriteBack s core line)

/-- WBACK: not while a drop of the line's arena is logged and not yet applied at its home (R177). -/
def execWback (line : Nat) (s : State) : Out :=
  if dropPending s (homeOfLine line) (linePair s line).1.toNat then .next s
  else
    let s1 := writeBack s line
    .next (match find s1.l2 line with | some v => { s1 with l2 := put s1.l2 line { v with dirty := false } } | none => s1)

/-- DISCARD (R177): an unowned SC word, a sealed copy, the replica of its die's slice included, or a CP copy with no written byte. -/
def execDiscard (core word : Nat) (s : State) : Out :=
  let line := word / 64
  match find (s.core core).l1 line with
  | none =>
    if (replicaAt s core line).isSome then .next { s with replicas := del s.replicas (replicaKey (localSlice core line) line) } else .next s
  | some l =>
    if l.kind = 3 ∨ (l.kind = 2 ∧ l.written = 0) then
      .next (s.updCore core (fun c =>
        if l.st = 0 then clearLine c line else c.setLine line { l with held := 0, sectors := 0 }))
    else if l.kind = 1 ∧ !(bit l.owned (word % 64)) then
      .next (s.updCore core (fun c =>
        c.setLine line { l with
          held := l.held &&& ~~~(maskOf 256 ((List.range 4).map (fun i => 4 * (word % 64) + i)))
          sectors := l.sectors &&& ~~~(maskOf 4 [word % 64 / 16]) }))
    else .next s

end Sys2Proof.Machine
end

