-- ==== Sys2Proof/Machine/Engines.lean ====
section
/-! DEFINITION. The engines: the READ, LAND and FINISH steps of copies, matrix stores and decoders, and what a copy does when a
line fails (R153 to R155, R159, R160, R182, R316). -/
namespace Sys2Proof.Machine

/-! ### Copies (R153, R154, R182) -/

def copySrc (y : Copy) : Nat := fnat y.rec_ 255 208
def copyDst (y : Copy) : Nat := fnat y.rec_ 207 160
def copyLen (y : Copy) : Nat := fnat y.rec_ 159 128
def copyRem (y : Copy) : Nat := fnat y.rec_ 127 96
def copyBar (y : Copy) : BitVec 44 := fget y.rec_ 95 52
def copyTag (y : Copy) : Nat := fnat y.rec_ 51 46
def copyDir (y : Copy) : Nat := fnat y.rec_ 45 44
def copyMail (y : Copy) : Bool := bit y.rec_ 43
def copyGrp (y : Copy) : Nat := fnat y.rec_ 41 36

def setCopy (s : State) (core k : Nat) (y : Copy) : State := s.updCore core (fun c => { c with copies := put c.copies k y })

/-- A virtual address of a copy. -/
def copyVa (n : Nat) : BitVec 64 := (BitVec.ofNat 48 n).signExtend 64

/-- The issuing group is still on its core and has not exited. -/
def issuerLives (s : State) (core : Nat) (y : Copy) : Bool :=
  let g := s.group core (copyGrp y)
  y.side.isNone && g.resident && !g.ended && decide (g.inst = y.inst)

/-- The fault of a command, as its issuing group takes it at its next boundary; it shows no word (DESIGN CHOICE, log entry 110). -/
def copyFault (core : Nat) (y : Copy) (c : Cause) : FaultInfo :=
  { cause := c.code, fva := c.fva, pc := 0, thr := match y.side with | some b => b2n b | none => 0, arena := c.arena, word := 0
    kill := false, core := core, slot := copyGrp y }

/-- A line of a copy fails: the command stops. A living group takes the fault at its next boundary, at once if it waits; else
the instance is to be parked (R155). -/
def copyStop (s : State) (core k : Nat) (y : Copy) (c : Cause) : State :=
  let f := copyFault core y c
  if issuerLives s core y then interruptWait (setCopy s core k { y with stopped := some f }) core (copyGrp y)
  else
    updInst (setCopy s core k { y with stopped := some { f with kill := true } }) y.inst (fun x =>
      match x.flt with | none => { x with flt := some f } | some _ => x)

/-- A copy command may take a step: it has started, no fault has stopped it, and its instance runs. -/
def copyRuns (s : State) (y : Copy) : Bool := y.started && y.stopped.isNone && instRuns s y.inst

/-- The first READ of a copy comes after every older access of its group, one that has exited since included (R179, R180, R250,
R294). -/
def copyOrdered (s : State) (core : Nat) (y : Copy) : Bool :=
  decide (y.rd ≠ 0) || y.side.isSome || decide ((s.group core (copyGrp y)).inst ≠ y.inst) ||
  (s.group core (copyGrp y)).accs.all (fun a => a.perf || isFence a || decide (y.after ≤ a.id))

/-- The destination lines whose bytes have all been read and that have not landed. -/
def landingLines (y : Copy) : List Nat :=
  let start := copyDst y + (copyLen y - copyRem y)
  let stop := start + y.buf.length
  ((List.range (y.buf.length / 256 + 2)).map (fun i => start / 256 + i)).filter (fun l =>
    decide (256 * l < stop) && decide (start < stop) && decide (Nat.min (256 * (l + 1)) (copyDst y + copyLen y) ≤ stop))

/-- A line of one space that is next to be read lands first: overlapping source and destination give the result of reading and
landing line by line (R294). -/
def landsFirst (s : State) (core : Nat) (y : Copy) (line : Nat) : Bool :=
  (landingLines y).any (fun l =>
    if copyDir y = 3 then decide (l = line)
    else if copyDir y = 0 then
      decide ((physical s core (instRoot s y.inst) (copyVa (Nat.max (256 * l) (copyDst y)))).map lineOf = some line)
    else false)

/-- READ of a copy: one source line, or the rest of it (R182). -/
def copyRead (s : State) (core k : Nat) (y : Copy) : State :=
  let at_ := copySrc y + y.rd
  let n := Nat.min (256 - at_ % 256) (copyLen y - y.rd)
  if !(copyRuns s y) || !(copyOrdered s core y) || decide (copyLen y ≤ y.rd) then s
  else if srcScr (copyDir y) then
    match scrPages s core y.inst at_ n with
    | .fault c a => copyStop s core k y ⟨c, BitVec.ofNat 64 at_, 0, a⟩
    | .wait l => noteHolds s core l
    | .ok _ _ _ _ =>
      if landsFirst s core y (at_ / 256) then s
      else
      let s1 := pinRange s core y.inst at_ n
      setCopy s1 core k { y with rd := y.rd + n, buf := y.buf ++ readScratch s1 core y.inst at_ n }
  else
    let va := copyVa at_
    match check s core (instRoot s y.inst) va 4 .read with
    | .fault c a => copyStop s core k y ⟨c, va, 0, a⟩
    | .wait l => noteHolds s core l
    | .ok pa ar gn rg =>
      if heldLine s (lineOf pa) || landsFirst s core y (lineOf pa) then s
      else
        let a : Access := { Access.zero with addr := pa, size := n, arena := ar, gen := gn, regn := rg }
        let s1 := wakeHomes (prepareLoad s core a) pa n
        let bs := (List.range n).map (fun i => coreByte s1 core (pa + i))
        setCopy (placeLoad s1 core a) core k { y with rd := y.rd + n, buf := y.buf ++ bs }

/-- The command with `n` more bytes written. -/
def copyLanded (y : Copy) (n : Nat) : Copy :=
  { y with rec_ := fput y.rec_ 127 96 (copyRem y - n), buf := y.buf.drop n }

/-- The WRB of a line that a copy lands, under the pair of its page (R38, R153). -/
def copyWrb (core k : Nat) (y : Copy) (pa : Nat) (bs : List Byte) (ar : BitVec 12) (gn : BitVec 4) (rg : BitVec 2) : Packet :=
  asWrb { withPair (engHome 0x04 (stopOfCore core) pa core (copyGrp y)) ar gn rg with txn := BitVec.ofNat 12 (copyTxn k) } pa bs

/-- LAND of a copy: one destination line, once its bytes have been read; the line is in memory, and its WRB is under way (R153, R182; log
entry 15). A stale line is discarded (R167). -/
def copyLand (s : State) (core k : Nat) (y : Copy) : State :=
  let at_ := copyDst y + (copyLen y - copyRem y)
  let n := Nat.min (256 - at_ % 256) (copyRem y)
  let bs := y.buf.take n
  if !(copyRuns s y) || decide (copyRem y = 0) || decide (y.buf.length < n) then s
  else if dstScr (copyDir y) then
    match scrPages s core y.inst at_ n with
    | .fault c a => copyStop s core k y ⟨c, BitVec.ofNat 64 at_, 0, a⟩
    | .wait l => noteHolds s core l
    | .ok _ _ _ _ => setCopy (writeScratch (pinRange s core y.inst at_ n) core y.inst at_ bs) core k (copyLanded y n)
  else
    let va := copyVa at_
    match check s core (instRoot s y.inst) va 4 .write with
    | .fault c a => copyStop s core k y ⟨c, va, 0, a⟩
    | .wait l => noteHolds s core l
    | .ok pa ar gn rg =>
      if heldLine s (lineOf pa) then s
      else
        let s1 := if staleAt s (lineOf pa) ar gn then s else writeLive (retake s pa n) pa bs ar gn
        setCopy (sendEng s1 (copyWrb core k y pa bs ar gn rg) (.copy core k)) core k (copyLanded y n)

/-- The credit of a copy's barrier. -/
def copyCredit (s : State) (core : Nat) (y : Copy) : Res State :=
  if copyBar y = 0 then .ok s else creditAt s core y.inst (barAddr (copyBar y)) 0 (copyLen y) false

/-- The mail arrival of a copy at its destination's first line. -/
def copyMailed (s : State) (core : Nat) (y : Copy) : State :=
  if !(copyMail y) || dstScr (copyDir y) then s
  else
    match physical s core (instRoot s y.inst) (copyVa (copyDst y)) with
    | some pa => mailArrival s 4 (lineOf pa)
    | none => s

/-- The fault that a command leaves when it ends: its issuing group takes it at its next boundary, and a command of no living group
parks the instance (R155, R157). -/
def copyOwes (s : State) (core : Nat) (y : Copy) (f : Option FaultInfo) : State :=
  match f with
  | none => s
  | some f =>
    if issuerLives s core y then (interruptWait s core (copyGrp y)).updGroup core (copyGrp y) (fun g => { g with owed := some f })
    else updInst s y.inst (fun x => match x.flt with | none => { x with flt := some f } | some _ => x)

/-- FINISH of a copy, once every write has been answered with ACK: the actions of R154 in their order; the slot and the group's cp count
are free again. A credit that fails its checks is discarded, and leaves its fault behind (R157, R364). -/
def copyFinish (s : State) (core k : Nat) (y : Copy) : State :=
  if !(copyRuns s y) || decide (copyRem y ≠ 0) || engBusy s (.copy core k) then s
  else
    let tag := copyTag y
    let left := zget (s.core core).tagCnt tag - 1
    let s1 := s.updCore core (fun c =>
      { c with tagCnt := zset c.tagCnt tag left, tags := if left = 0 then c.tags ||| maskOf 64 [tag] else c.tags
               copies := del c.copies k })
    let s2 := if issuerLives s1 core y || (s1.group core (copyGrp y)).resident && y.side.isNone &&
          decide ((s1.group core (copyGrp y)).inst = y.inst) then
        s1.updGroup core (copyGrp y) (fun g => g.countCp y.op)
      else s1
    let finish := fun (s3 : State) (f : Option FaultInfo) =>
      copyOwes (copyMailed (if left = 0 ∧ tag < 8 then pulseFor s3 core y.inst tag else s3) core y) core y f
    match copyCredit s2 core y with
    | .fault c => finish s2 (some (copyFault core y c))
    | .wait l => noteHolds s core l
    | .held _ _ _ _ => s
    | .ok s3 => finish s3 none

/-! ### Matrix stores (R316) -/

def setMstore (s : State) (core part : Nat) (m : Option MStore) : State :=
  s.updCore core (fun c => c.setPart part { c.part part with mstore := m })

/-- LAND of a matrix store: one row, which the watch predicates see as it is written (R328). -/
def mstoreLand (s : State) (core part : Nat) (m : MStore) : State :=
  match m.rows with
  | [] => s
  | (i, ws) :: r =>
    let s1 :=
      setMstore (writeScratch s core m.inst (m.off + 256 * i) (ws.flatMap (fun w => toBytes w 4))) core part (some { m with rows := r })
    match ((s.core core).part part).munit with
    | o :: _ => showRows s1 core o [(i, ws, 0)]
    | [] => s1

/-- FINISH of a matrix store: its credit and its pulse; it leaves the unit. -/
def mstoreFinish (s : State) (core part : Nat) (m : MStore) : State :=
  if !m.rows.isEmpty then s
  else
    let s1 := s.updCore core (fun c => let p := c.part part; c.setPart part { p with munit := p.munit.drop 1, mstore := none })
    let s2 := match m.bar with
      | none => s1
      | some o => scratchBarrier s1 core m.inst o (.barArr 0) (BitVec.ofNat 128 m.total) false
    let s3 := s2.updGroup core m.slot (fun g => if g.inst = m.inst then g.countMx m.op else g)
    pulseFor s3 core m.inst 24

/-! ### Decoders (R159, R160) -/

/-- L: the bytes of one frame's window. -/
def frameBytes (x : Submission) (deep : Bool) : Nat := 3 * x.w * x.h / 2 * (if deep then 2 else 1)

/-- The whole submission fits its destination scratchpad. -/
def windowFits (s : State) (x : Submission) (deep : Bool) : Bool :=
  decide (x.dst + x.n * frameBytes x deep ≤ ((s.core x.dcore).scratchOf x.inst).size)

def setHead (s : State) (n : Nat) (x : Submission) : State :=
  { s with decoders := put s.decoders n (x :: (decQueue s n).drop 1) }

/-- Credits the barrier of a submission, a scratchpad barrier at the destination core (R296); a credit that fails its checks parks
the submitting instance (R155, R157). -/
def decodeCredit (s : State) (x : Submission) (bytes : Nat) (poison : Bool) : Res State :=
  match creditAt s x.dcore x.inst (BitVec.ofNat 64 x.bar) 0 bytes poison with
  | .fault c => .ok (creditFails s x.core x.inst c)
  | r => r

/-- Credits the barrier and goes on; a credit whose page waits asks for it, and is made later (R44, R149). -/
def decodeCredited (s : State) (x : Submission) (bytes : Nat) (poison : Bool) (k : State → State) : State :=
  match decodeCredit s x bytes poison with
  | .ok t => k t
  | .wait l => noteHolds s x.dcore l
  | _ => s

/-- Where a decoder's next read of its bitstream begins, and its length: the rest of a line at most. -/
def streamNext (x : Submission) : BitVec 64 × Nat :=
  let va := x.bs + BitVec.ofNat 64 x.stream.length
  (va, Nat.min (256 - va.toNat % 256) (x.blen.toNat - x.stream.length))

/-- READ of a decoder: the next bytes of its bitstream, through translation under the arena of their page. A read that fails its checks, or
that meets a soft error, is a read fault (R160, R335, R372). -/
def decoderRead (s : State) (n : Nat) (x : Submission) : State :=
  let r := streamNext x
  if x.fault || decide (r.2 = 0) || !(instRuns s x.inst) then s
  else
    match checkNow s x.core (instRoot s x.inst) r.1 1 .read with
    | .fault _ _ => setHead s n { x with fault := true }
    | .wait l => noteHolds s x.core l
    | .ok pa ar gn _ =>
      if heldLine s (lineOf pa) then s
      else if softAt s pa r.2 then setHead s n { x with fault := true }
      else setHead (fillL2 s (lineOf pa) ar gn) n { x with stream := x.stream ++ homeBytes s pa r.2 }

/-- A frame is over: the submission goes on, or leaves its queue and pulses source 26 with its last frame (R372). -/
def frameOver (s : State) (n : Nat) (x : Submission) (all : Bool) : State :=
  let y := { x with seen := x.seen + 1, done := x.done + 1, landed := [], pos := 0, fault := false }
  if all || decide (y.n ≤ y.done) then
    pulseFor { s with decoders := put s.decoders n ((decQueue s n).drop 1) } x.core x.inst 26
  else setHead s n y

/-- LAND of a decoder: one line of the frame. A page that cannot be filled takes no byte, and the submitting instance faults as under R155
(DEDUCED, log entry 95). -/
def decoderLand (s : State) (n : Nat) (x : Submission) : State :=
  let o := x.dst + x.done * x.landed.length + x.pos
  let k := Nat.min (256 - o % 256) (x.landed.length - x.pos)
  if decide (x.landed.length ≤ x.pos) || !(instRuns s x.inst) then s
  else
    match scrPages s x.dcore x.inst o k with
    | .wait l => noteHolds s x.dcore l
    | .fault c a => creditFails (setHead s n { x with pos := x.pos + k }) x.core x.inst ⟨c, BitVec.ofNat 64 o, 0, a⟩
    | .ok _ _ _ _ =>
      setHead (writeScratch (pinRange s x.dcore x.inst o k) x.dcore x.inst o ((x.landed.drop x.pos).take k)) n { x with pos := x.pos + k }

/-- FINISH of a decoder's frame. -/
def decoderFinish (s : State) (n : Nat) (x : Submission) : State :=
  if x.landed.isEmpty || decide (x.pos < x.landed.length) || !(instRuns s x.inst) then s
  else decodeCredited s x x.landed.length false (fun t => frameOver t n x false)

/-- The samples of a 10-bit window have bits 15:10 zero. -/
def tenBits (bs : List Byte) : Bool :=
  match bs with
  | _ :: h :: r => decide (h.toNat < 4) && tenBits r
  | _ => true

/-- The next frame of a submission lies before F0: it is decoded and not landed (R372). -/
def skipsFrame (x : Submission) : Bool := decide (x.seen < x.f0)

/-- The stream that has been read can hold the next frame: every frame takes some byte of it (log entry 95). -/
def frameRead (x : Submission) : Bool := !x.fault && decide (x.seen < x.stream.length)

/-- FRAME_LANDING: the next frame of the stream, counted from 0 at BS, has decoded without error from what has been read; from F0 on its
window is to land (R159, R372). What AV1 decoding gives is free (log entry 95). -/
def execFrameLanding (dec : Nat) (data : List (BitVec 8)) (s : State) : Out :=
  match decQueue s dec with
  | [] => .next s
  | x :: _ =>
    let deep := match x.deep with | some b => b | none => decide (data.length ≠ frameBytes x false)
    if !(frameRead x) || !(instRuns s x.inst) then .next s
    else if skipsFrame x then .next (if data.isEmpty then setHead s dec { x with seen := x.seen + 1 } else s)
    else if !(x.landed.isEmpty) || decide (data.length ≠ frameBytes x deep) || (deep && !(tenBits data)) || !(windowFits s x deep) then .next s
    else
      let y := { x with deep := some deep, landed := data, pos := 0 }
      if data.isEmpty then .next (decodeCredited s y 0 false (fun t => frameOver t dec y false))
      else .next (setHead s dec y)

/-- The KIND 1 record of a frame that failed (R160). -/
def decodeRecord (s : State) (x : Submission) (dec : Nat) (boff : BitVec 32) (bytes : Nat) (ecode : BitVec 8) : BitVec 512 :=
  mkRecord 0 0 (instTask s x.inst) x.core 0 0 cDECODE.toNat 0 [] 0 0 1
    (BitVec.ofNat 32 (x.f0 + x.done) ++ boff ++ BitVec.ofNat 32 bytes ++ ecode ++ BitVec.ofNat 5 dec ++ 0#19 :
      BitVec (32 + 32 + 32 + 8 + 5 + 19))

/-- An error of a frame that can be met now: a read fault at the place where the stream could not be read, or another one in what has been
read (R160). -/
def errorHere (x : Submission) (boff : BitVec 32) (ecode : BitVec 8) : Bool :=
  if x.fault then decide (ecode = 4) && decide (boff.toNat = x.stream.length) else decide (ecode ≠ 4) && decide (boff.toNat ≤ x.stream.length)

/-- FRAME_DECODE_FAILURE: the barrier is credited with POISON and the record is written; a window outside the frame or beyond the
scratchpad ends the submission (R159, R160). A frame before F0 is none of the submission's: it credits nothing and writes no record
(DESIGN CHOICE, log entry 95). -/
def execFrameDecodeFailure (dec : Nat) (boff : BitVec 32) (ecode : BitVec 8) (s : State) : Out :=
  match decQueue s dec with
  | [] => .next s
  | x :: _ =>
    let deep := match x.deep with | some b => b | none => (Config.freeWord s.tick).getLsbD 2
    let beyond := !(windowFits s x deep)
    if !(x.landed.isEmpty) || !(errorHere x boff ecode) || decide (ecode = 0) || decide (5 < ecode.toNat) || !(instRuns s x.inst) then .next s
    else if skipsFrame x && decide (ecode ≠ 5) then .next (setHead s dec { x with seen := x.seen + 1, failed := true, fault := false })
    else if (beyond && decide (ecode ≠ 5) && !x.fault) || (decide (ecode = 5) && decide (x.done ≠ 0)) then .next s
    else
      .next (decodeCredited s x (frameBytes x deep) true (fun t =>
        frameOver (writeRecord t (instRegion t x.inst) (decodeRecord t x dec boff (frameBytes x deep) ecode)) dec
          { x with deep := some deep, failed := true } (decide (ecode = 5))))

/-! ### The steps (R154, R182) -/

/-- READ: of a copy or of a decoder; a matrix store reads its unit. -/
def execRead (e : Engine) (s : State) : Out :=
  match e with
  | .copy core slot =>
    match find (s.core core).copies slot with
    | some y => .next (copyRead s core slot y)
    | none => .next s
  | .decoder n =>
    match decQueue s n with
    | x :: _ => .next (decoderRead s n x)
    | [] => .next s
  | .mstore _ _ => .next s

/-- LAND. -/
def execLand (e : Engine) (s : State) : Out :=
  match e with
  | .copy core slot =>
    match find (s.core core).copies slot with
    | some y => .next (copyLand s core slot y)
    | none => .next s
  | .decoder n =>
    match decQueue s n with
    | x :: _ => .next (decoderLand s n x)
    | [] => .next s
  | .mstore core part =>
    match ((s.core core).part part).mstore with
    | some m => .next (mstoreLand s core part m)
    | none => .next s

/-- FINISH. -/
def execFinish (e : Engine) (s : State) : Out :=
  match e with
  | .copy core slot =>
    match find (s.core core).copies slot with
    | some y => .next (copyFinish s core slot y)
    | none => .next s
  | .decoder n =>
    match decQueue s n with
    | x :: _ => .next (decoderFinish s n x)
    | [] => .next s
  | .mstore core part =>
    match ((s.core core).part part).mstore with
    | some m => .next (mstoreFinish s core part m)
    | none => .next s

end Sys2Proof.Machine
end

