-- ==== Sys2Proof/Machine/SaveArea.lean ====
section
/-! DEFINITION. The bytes of a save area: the header, the core records and the group records, with their tags and the checks of
them (R203 to R205, R307). A record that passes its checks holds what its stop wrote, so the distributor restores an instance from
the saved parts of the state, which nothing but a stop writes (log entry 16). -/
namespace Sys2Proof.Machine

/-- The WAIT code of the instruction in which a stop finds a group (R203). -/
def waitCode (w : Wait) : BitVec 4 :=
  match w with
  | .lock _ _ _ _ => 1
  | .lkrq _ _ _ _ => 1
  | .waitph _ _ _ _ => 2
  | .mwait => 3
  | .regacq _ => 4
  | .rvdonate _ _ _ _ => 5
  | .xshfl _ _ _ => 6
  | _ => 0

/-- Writes the pieces of a record at their offsets. -/
def writePieces (s : State) (pa : Nat) (ps : List (Nat × List Byte)) : State := ps.foldl (fun t p => hwWrite t (pa + p.1) p.2) s

/-- TAG: the first 8 bytes of the CMAC over the record's address, STOPS and its bytes with TAG 0 (R204; log entry 6 for the byte order of
the first two). -/
def recordTag (s : State) (pa : Nat) (stops : BitVec 64) (bs : List Byte) : List Byte :=
  (cmac128 s.boot.saveKey (natBytes pa 8 ++ toBytes stops 8 ++ bs)).take 8

/-- Writes a record whose TAG stands at an offset: its bytes with TAG 0, and then TAG over them (R204). -/
def writeRecordAt (s : State) (pa len tagAt : Nat) (stops : BitVec 64) (ps : List (Nat × List Byte)) : State :=
  let t := writePieces s pa ps
  hwWrite t (pa + tagAt) (recordTag t pa stops (homeBytes t pa len))

/-- The bytes of words in turn. -/
def wordBytes {w : Nat} (vs : List (BitVec w)) (n : Nat) : List Byte := vs.flatMap (fun v => toBytes v n)

/-! ### The group record -/

def lineField (l : Option Nat) : BitVec 30 := BitVec.ofNat 30 (l.getD 0)

/-- The group control block with TAG 0 (R203). -/
def groupBlock (g : Group) (stops : BitVec 64) : BitVec 2048 :=
  let lock := fun (i : Nat) => lineField g.locks[i]?
  let pair : BitVec 15 := match g.pair with
    | some p => 1#1 ++ BitVec.ofNat 8 p.1 ++ BitVec.ofNat 6 p.2
    | none => 0
  (0#64 ++ stops ++ g.pc ++ g.mode ++ g.fmt ++ g.amask ++ g.split ++ g.xheld ++ BitVec.ofNat 6 g.stack.length ++ g.waited ++
    g.spill ++ g.hndl ++ g.xop ++ g.xd ++ g.xa ++ g.xb ++ g.xword ++ BitVec.ofNat 8 g.cp.length ++ BitVec.ofNat 8 g.mx.length ++
    BitVec.ofNat 8 g.qx.length ++ pair ++ BitVec.ofNat 3 g.locks.length ++ lock 0 ++ lock 1 ++ lock 2 ++ lock 3 ++
    BitVec.ofBool g.mon.isSome ++ lineField g.mon ++ g.mrem ++ BitVec.ofBool g.lkgr ++ g.lkst ++ 0#1016 :
    BitVec (64 + 64 + 48 + 32 + 32 + 64 + 64 + 8 + 6 + 4 + 64 + 192 + 32 + 32 + 32 + 32 + 32 + 8 + 8 + 8 + 15 + 3 + 30 + 30 + 30 +
      30 + 1 + 30 + 32 + 1 + 4 + 1016))

/-- The parts of a group record at their offsets; of the extended slots only the held ones (R203). -/
def groupPieces (g : Group) (stops : BitVec 64) : List (Nat × List Byte) :=
  [(0x0, toBytes (groupBlock g stops) 256), (0x100, wordBytes (zgetRun g.scalars 0 64) 4), (0x200, wordBytes (zgetRun g.preds 0 8) 8),
   (0x400, wordBytes (g.stack.reverse.map entryBits) 32), (0x800, wordBytes (zgetRun g.vectors 0 2048) 4)] ++
  (heldSlots g).map (fun k => (0x2800 + 4096 * k, wordBytes (zgetRun g.vectors (slotKey k) 1024) 4))

/-- The place of a group record in an instance's save area (R203). -/
def groupRecAt (x : Inst) (h : Nat) : Nat := coreRecAt x x.gang.length + 0xA800 * h

def saveGroup (s : State) (x : Inst) (stops : BitVec 64) (g : Group) : State :=
  writeRecordAt s (groupRecAt x g.herdIdx) 0xA800 248 stops (groupPieces g stops)

/-! ### The core record -/

/-- A side core in a core record: its registers, its PC and its state (R203, R365). -/
def sideBytes (d : Side) : List Byte := wordBytes (zgetRun d.regs 0 32) 4 ++ toBytes d.pc 4 ++ [d.status.setWidth 8]

/-- What the first page of a core record holds after TAG and STOPS, in the order of R203. -/
def coreContents (v : CoreSave) : List Byte :=
  let watch := fun (k : Nat) => match find v.wps k with
    | some w => toBytes w.ctl 8 ++ toBytes w.opa 4 ++ toBytes w.opb 4
    | none => List.replicate 16 0
  toBytes v.tags 8 ++ wordBytes (zgetRun v.tagCnt 0 64) 2 ++ toBytes (maskOf 16 v.tabHeld) 2 ++ wordBytes (zgetRun v.routes 0 16) 16 ++
    (List.range 16).flatMap (fun k => match find v.copies k with | some y => toBytes y.rec_ 32 | none => List.replicate 32 0) ++
    sideBytes v.loader ++ sideBytes v.storer ++ (List.range 16).flatMap watch ++
    (List.range 8).map (fun k => BitVec.ofNat 8 (match find v.queues k with | some q => q.items.length | none => 0))

/-- A partition of a core record: B slots, tiles, V, T, headers and MXSTATE (R307). -/
def partPieces (v : CoreSave) (p : Nat) : List (Nat × List Byte) :=
  let q := (find v.parts p).getD Partition.reset
  let at_ := 0x6000 + 0x28000 * p
  let header := fun (x : BitVec 64) => toBytes x 8 ++ List.replicate 248 0
  [(at_, zgetRun q.bslots 0 0x10000), (at_ + 0x10000, wordBytes (zgetRun q.tiles 0 0x4000) 4),
   (at_ + 0x20000, wordBytes (zgetRun q.qv 0 0x1000) 4), (at_ + 0x24000, wordBytes (zgetRun q.qt 0 0x800) 4),
   (at_ + 0x26000, header (zget q.qhdr 0)), (at_ + 0x26100, header (zget q.qhdr 1)), (at_ + 0x26200, header q.mxstate),
   (at_ + 0x26300, List.replicate 7424 0)]

/-- The parts of a core record but for its first page and the scratchpad's backing (R203). -/
def corePieces (v : CoreSave) : List (Nat × List Byte) :=
  let queue := fun (k : Nat) => wordBytes (((match find v.queues k with | some q => q.items | none => []) ++ List.replicate 64 0).take 64) 4
  [(0x1000, (List.range 8).flatMap queue), (0x1800, wordBytes (zgetRun v.tabs 0 1024) 2),
   (0x2000, zgetRun v.loader.dstore 0 0x2000), (0x4000, zgetRun v.storer.dstore 0 0x2000)] ++
  (List.range 4).flatMap (partPieces v)

def saveCore (s : State) (x : Inst) (stops : BitVec 64) (m : Nat) (v : CoreSave) : State :=
  let page := (List.range 4080).map (fun i => Config.recordPage (coreContents v) (i + 16))
  writeRecordAt s (coreRecAt x m) 0xA6000 0 stops ((0x0, toBytes (0#64) 8 ++ toBytes stops 8 ++ page) :: corePieces v)

/-! ### The header -/

/-- The header of a save area with TAG 0; `istate`: 0 running, 1 pre-empted, 2 parked (R203). -/
def headerPage (x : Inst) (stops : BitVec 64) (istate : Nat) : List Byte :=
  let t := x.image
  let gang := ((x.gang ++ List.replicate 16 0).take 16).map (BitVec.ofNat 8)
  let used := List.replicate 8 0 ++ toBytes stops 8 ++ natBytes (x.tcb * 128) 8 ++ natBytes (tHgrp t) 2 ++ natBytes x.gang.length 1 ++
    natBytes (tScr t) 1 ++ natBytes istate 1 ++ List.replicate 3 0 ++ toBytes x.next 4 ++ toBytes x.ihi 4 ++ gang
  used ++ List.replicate (4096 - used.length) 0

def saveHeader (s : State) (x : Inst) (stops : BitVec 64) (istate : Nat) : State :=
  writeRecordAt s x.area 4096 0 stops [(0x0, headerPage x stops istate)]

/-- Writes every record of an instance that stops, each with the incremented STOPS and its TAG (R203, R204). -/
def writeSaveArea (s : State) (x : Inst) (stops : BitVec 64) (istate : Nat) (groups : List Group) (cores : Tbl CoreSave) : State :=
  let s1 := saveHeader s x stops istate
  let s2 := cores.foldl (fun t e => saveCore t x stops e.1 e.2) s1
  groups.foldl (fun t g => saveGroup t x stops g) s2

/-! ### The checks of a resumption (R204, R205) -/

/-- A record's TAG verifies under the save key of this boot, over its address, its STOPS and its bytes with TAG 0, and its STOPS is
the header's. -/
def recordOk (s : State) (pa len tagAt : Nat) (stops : BitVec 64) : Bool :=
  let bs := homeBytes s pa len
  let own : BitVec 64 := ofBytes 64 ((bs.drop (if tagAt = 0 then 8 else tagAt - 8)).take 8)
  decide (own = stops) &&
  decide ((bs.drop tagAt).take 8 = recordTag s pa own (bs.take tagAt ++ List.replicate 8 0 ++ bs.drop (tagAt + 8)))

/-- The records of an instance's save area that fail a check: 0 the header, m + 1 the core record of gang member m, 64 + h the group
record of herd group h. -/
def badRecords (s : State) (x : Inst) : List Nat :=
  let stops : BitVec 64 := ofBytes 64 (homeBytes s (x.area + 8) 8)
  let fails := fun (pa len tagAt n : Nat) => if recordOk s pa len tagAt stops then [] else [n]
  fails x.area 4096 0 0 ++ x.cores.flatMap (fun e => fails (coreRecAt x e.1) 0xA6000 0 (e.1 + 1)) ++
    (x.groups.filter (fun e => !e.2.ended)).flatMap (fun e => fails (groupRecAt x e.1) 0xA800 248 (64 + e.1))

end Sys2Proof.Machine
end

