-- ==== Sys2Proof/Machine/Sched.lean ====
section
/-! DEFINITION. The dispatcher and the distributor: selection, gangs and reservations, side-core descriptors, the start and the
resumption of instances, and halving (R71, R72, R76, R77, R79 to R84, R114, R115, R202, R205, R206). -/
namespace Sys2Proof.Machine

/-! ### Selection (R79, R80) -/

def readyPrio (s : State) (q : Ready) : Nat := effPrio s (tRcb (entryTcb s q))

/-- The task's region neither is being pre-empted nor is pre-empted, and its DIEMASK holds the die (R91, R92). -/
def selectable (s : State) (die : Nat) (q : Ready) : Bool :=
  let st := rState (s.rcb (tRcb (entryTcb s q)))
  decide (st ≠ 2) && decide (st ≠ 3) && dieLets s die q

def insertAge (q : Ready) (l : List Ready) : List Ready :=
  match l with
  | [] => [q]
  | x :: r => if q.age.toNat < x.age.toNat then q :: x :: r else x :: insertAge q r

def sortAge (l : List Ready) : List Ready := l.foldl (fun a q => insertAge q a) []

/-- The highest priority of some entries. -/
def topPrio (s : State) (l : List Ready) : Nat := l.foldl (fun p q => Nat.max p (readyPrio s q)) 0

/-- The candidates: the 8 oldest tasks of the highest non-empty priority. -/
def candidates (s : State) (die : Nat) : List Ready :=
  let l := (s.die die).ready.filter (selectable s die)
  let p := topPrio s l
  (sortAge (l.filter (fun q => decide (readyPrio s q = p)))).take 8

/-- The probe of a candidate's tile hits (R80 step 3). -/
def tileHit (s : State) (q : Ready) : Bool :=
  let t := entryTcb s q
  let line := fnat t 639 610
  bit t 609 && (match find s.l2 line with | some v => v.gen = s.sgen (homeOfLine line) v.arena.toNat | none => false)

/-- The candidate that is selected: the oldest one after 8 bypasses or in replay mode, else the oldest whose probe hit in time
(R80, R95). -/
def selectFrom (s : State) (die : Nat) (l : List Ready) (oldest : Ready) : Ready :=
  if fnat (s.tcb oldest.tcb) 370 367 = 8 ∨ s.recorder.mode = 2 then oldest
  else
    let hits := (List.range l.length).filter (fun i => match l[i]? with
      | some q => tileHit s q && !((s.die die).missed.contains i)
      | none => false)
    match hits with
    | i :: _ => l.getD i oldest
    | [] => oldest

/-- DISPATCH: the selected task leaves the ready queue for the distributor, which takes another only of higher priority while it
has one to place (R80). -/
def execDispatch (die : Nat) (s : State) : Out :=
  let l := candidates s die
  let d := s.die die
  match l with
  | [] => .next s
  | oldest :: _ =>
    if !(d.chosen.isEmpty) && decide (readyPrio s oldest ≤ topPrio s d.chosen) then .next s
    else
      let q := selectFrom s die l oldest
      let s1 := s.setDie die { d with ready := removeFirst (fun x => decide (x = q)) d.ready
                                      chosen := { q with image := some (entryTcb s q) } :: d.chosen, missed := [] }
      .next (if q = oldest then s1 else setTask s1 oldest.tcb 370 367 (fnat (s1.tcb oldest.tcb) 370 367 + 1))

/-- TILE_PROBE_TIMEOUT (R80). -/
def execTileProbeTimeout (die cand : Nat) (s : State) : Out :=
  let d := s.die die
  .next (if decide (cand < (candidates s die).length) && !(d.missed.contains cand) then s.setDie die { d with missed := d.missed ++ [cand] } else s)

/-! ### Side-core descriptors (R115) -/

/-- What the distributor finds before the ENTRY packet. -/
inductive SideDesc where
  | absent
  | programs (loader storer : List Byte)
  | bad (fva : BitVec 64)
  | wait (l : List Hold)
  deriving DecidableEq, Repr

/-- Reads a program of `n` words as loads of the herd, one 4 KiB piece at a time at most. -/
def readProgram (s : State) (core : Nat) (root : BitVec 30) (fuel va n : Nat) (acc : List Byte) : SideDesc :=
  match fuel with
  | 0 => .programs acc []
  | k + 1 =>
    if n = 0 then .programs acc []
    else
      let m := Nat.min n (4096 - va % 4096)
      let v := copyVa va
      match checkNow s core root v 4 .read with
      | .fault _ _ => .bad v
      | .wait l => .wait l
      | .ok pa _ _ _ => readProgram s core root k (va + m) (n - m) (acc ++ homeBytes s pa m)

/-- The descriptor of a herd that enters at a packet. -/
def sideDesc (s : State) (core : Nat) (root : BitVec 30) (entry : BitVec 48) : SideDesc :=
  let va := (entry - 32).signExtend 64
  match checkNow s core root va 32 .fetch with
  | .fault _ _ => .absent
  | .wait l => .wait l
  | .ok pa _ _ _ =>
    let b : BitVec 256 := ofBytes 256 (homeBytes s pa 32)
    let llen := fnat b 95 80
    let slen := fnat b 159 144
    let lva := fnat b 79 32
    let sva := fnat b 143 96
    if fnat b 31 0 ≠ 0x5C01 then .absent
    else if fnat b 255 160 ≠ 0 ∨ 4096 < llen ∨ 4096 < slen ∨ lva % 4 ≠ 0 ∨ sva % 4 ≠ 0 then .bad 0
    else
      match readProgram s core root 8 lva (4 * llen) [] with
      | .programs l _ =>
        match readProgram s core root 8 sva (4 * slen) [] with
        | .programs p _ => .programs l p
        | r => r
      | r => r

/-! ### Reservations (R70, R71, R81, R82, R114, R202) -/

/-- What an instance asks of one member of its gang: the partition and the blocks of each of its groups; the table slots, watch
predicates and matrix states that it held there; and the copies to take up again. -/
structure Share where
  groups : List (Nat × Nat)
  tabs   : List Nat
  wps    : List Nat
  parts  : List Nat
  copies : Nat
  deriving DecidableEq, Repr

/-- What an instance asks: a share for each member of its gang, the SCR code, and whether it needs the side resources. -/
structure Demand where
  shares : List Share
  scr    : Nat
  side   : Bool
  deriving DecidableEq, Repr

def gangSize (hgrp : Nat) : Nat := ceilDiv hgrp 64

/-- The herd groups of a gang member. -/
def memberGroups (hgrp m : Nat) : List Nat := (List.range (Nat.min 64 (hgrp - 64 * m))).map (fun i => 64 * m + i)

/-- The demand of a new instance. -/
def newDemand (t : BitVec 1024) (desc : SideDesc) : Demand :=
  { shares := (List.range (gangSize (tHgrp t))).map (fun m =>
      { groups := (memberGroups (tHgrp t) m).map (fun h => (h % 4, tXreg t)), tabs := [], wps := [], parts := [], copies := 0 })
    scr := tScr t, side := match desc with | .programs _ _ => true | _ => false }

/-- The demand of an instance that is resumed (R206). -/
def resumeDemand (x : Inst) (desc : SideDesc) : Demand :=
  let t := x.image
  { shares := (List.range (gangSize (tHgrp t))).map (fun m =>
      let gs := (x.groups.filter (fun g => decide (g.1 / 64 = m))).map (fun g => (g.1 % 4, popcount g.2.xheld))
      match find x.cores m with
      | none => { groups := gs, tabs := [], wps := [], parts := [], copies := 0 }
      | some k =>
        { groups := gs, tabs := k.tabHeld, wps := k.wps.map Prod.fst, parts := k.parts.map Prod.fst, copies := k.copies.length })
    scr := tScr t
    side := (match desc with | .programs _ _ => true | _ => false) || x.cores.any (fun k => k.2.side) }

/-- A group slot may be taken: nobody holds it, and nothing of its last group is outstanding. -/
def slotFree (c : Core) (slot : Nat) : Bool :=
  match find c.groups slot with
  | none => true
  | some g => !g.resident && g.accs.isEmpty && g.quiet

/-- The free slots of a partition, lowest first. -/
def freeIn (c : Core) (part : Nat) : List Nat := ((List.range 16).map (fun i => 16 * part + i)).filter (slotFree c)

/-- A core can take the share of a gang member (R81, R82, R114). -/
def coreFits (s : State) (core : Nat) (d : Demand) (k : Share) : Bool :=
  let c := s.core core
  (c.groups.all (fun g => !g.2.resident) || decide (c.scr.toNat = d.scr)) &&
  (List.range 4).all (fun p =>
    let l := k.groups.filter (fun e => decide (e.1 = p))
    decide (l.length ≤ (freeIn c p).length) && decide ((l.map Prod.snd).sum ≤ poolFree c p)) &&
  (!d.side || c.sideOwn.isNone) && k.tabs.all (fun n => (find c.tabOwn n).isNone) &&
  k.wps.all (fun n => (c.watch n).owner.isNone) && k.parts.all (fun p => (c.part p).owner.isNone) &&
  decide (c.copies.length + k.copies ≤ 16)

def coreLoad (s : State) (core : Nat) : Nat := ((s.core core).groups.filter (fun g => g.2.resident)).length

/-- Among ascending cores, those that can take the shares in order and carry the fewest resident groups in total, the lower
cores of equals; with that total. -/
def gangFrom (s : State) (d : Demand) (cores : List Nat) (shares : List Share) : Option (Nat × List Nat) :=
  match cores, shares with
  | _, [] => some (0, [])
  | [], _ :: _ => none
  | c :: r, k :: q =>
    let take := if coreFits s c d k then (gangFrom s d r q).map (fun e => (e.1 + coreLoad s c, c :: e.2)) else none
    match take, gangFrom s d r (k :: q) with
    | none, e => e
    | some e, none => some e
    | some e, some f => some (if e.1 ≤ f.1 then e else f)

/-- The gang among blocks of `w` cores of a die: the block whose cores carry the fewest groups, the lower of equals. -/
def gangIn (s : State) (die w : Nat) (d : Demand) : Option (List Nat) :=
  let options := (List.range (64 / w)).filterMap (fun k => gangFrom s d ((List.range w).map (fun i => 64 * die + w * k + i)) d.shares)
  (argmin (fun e => e.1) options).map Prod.snd

/-- The gang of R82: within a cluster, else within a cluster pair. -/
def findGang (s : State) (die : Nat) (d : Demand) : Option (List Nat) :=
  match gangIn s die 8 d with
  | some g => some g
  | none => gangIn s die 16 d

/-- Room under every budget of the path for the cores that carry groups, the groups and the blocks (R70, R71). -/
def gangRoom (s : State) (r : Nat) (cores : List Nat) (groups blks : Nat) : Bool :=
  (pathOf s r).all (fun q =>
    let x := s.rcb q
    let fresh := (cores.filter (fun c => !(coreCarries s c q s.nextInst))).length
    (decide (fnat x 767 759 = 0) || decide (fnat x 831 823 + fresh ≤ fnat x 767 759)) &&
    (decide (fnat x 758 744 = 0) || decide (fnat x 822 808 + groups ≤ fnat x 758 744)) &&
    (decide (fnat x 743 728 = 0) || decide (fnat x 807 792 + blks ≤ fnat x 743 728)))

/-- The size of a save area (R203). -/
def areaSize (hgrp scr : Nat) : Nat := 0x1000 + gangSize hgrp * coreRecSize scr + hgrp * 0xA800

def instAreaSize (x : Inst) : Nat := areaSize (tHgrp x.image) (tScr x.image)

/-- A range of a die's save pool is free. -/
def areaFree (s : State) (die at_ size : Nat) : Bool :=
  let base := die * 2 ^ 36 + 0xF00000000
  let top := if die = 0 then arenaBase else (die + 1) * 2 ^ 36
  decide (at_ % 4096 = 0) && decide (base ≤ at_) && decide (at_ + size ≤ top) &&
  s.insts.all (fun e => decide (at_ + size ≤ e.2.area) || decide (e.2.area + instAreaSize e.2 ≤ at_))

/-- The range that the distributor takes: the free choice where it is free, else the first free one (R202; log entry 11). -/
def saveAreaFor (s : State) (die size : Nat) : Option Nat :=
  let starts := (die * 2 ^ 36 + 0xF00000000) :: s.insts.map (fun e => (e.2.area + instAreaSize e.2 + 4095) / 4096 * 4096)
  (Config.saveArea s.tick size :: starts).find? (fun a => areaFree s die a size)

/-! ### Starting an instance (R76, R82, R114, R115) -/

/-- SAVE of a herd group: PA bits 37:8 of its record (R202, R203). -/
def saveOf (t : BitVec 1024) (area h : Nat) : BitVec 30 :=
  BitVec.ofNat 30 ((area + 0x1000 + gangSize (tHgrp t) * coreRecSize (tScr t) + h * 0xA800) / 256)

/-- A group as it starts (R76, R195). An ENTRY whose bits 4:0 are not zero is taken as it stands (DESIGN CHOICE, log entry 107). -/
def freshGroup (s : State) (t : BitVec 1024) (i area h lo hi : Nat) : Group :=
  let arg := fget t 959 912
  let g := { Group.reset with
    resident := true, inst := i, herdIdx := h, pc := fget t 1023 976 + 4, mode := fget t 511 480, fmt := fget t 479 448
    amask := BitVec.allOnes 64, hndl := fput 0 143 96 (effHndlPc s (tRcb t)).toNat, save := saveOf t area h }
  let g1 := (((g.setScal 0 (arg.setWidth 32)).setScal 1 ((arg.extractLsb' 32 16).setWidth 32)).setScal 2 (BitVec.ofNat 32 lo)).setScal 3
    (BitVec.ofNat 32 hi)
  takeBlocks (g1.setScal 4 (BitVec.ofNat 32 h)) (tXreg t)

/-- Puts a group of an instance into the lowest free slot of its partition on its gang core. -/
def seatGroup (s : State) (i : Nat) (gang : List Nat) (h : Nat) (g : Group) : State :=
  let core := gang.getD (h / 64) 0
  let slot := (freeIn (s.core core) (h % 4)).headD 0
  updInst (s.setGroup core slot g) i (fun x => { x with locs := x.locs ++ [(core, slot)] })

/-- The scratchpads that stay on a core when a herd comes with an SCR code: those of its resident herds, and Unpinned ones whose
frames are not used again (R149). -/
def keepScratch (c : Core) (i code : Nat) : Tbl Scratch :=
  if scrBytes code = 0 ∧ c.scr.toNat = code then c.scratch
  else c.scratch.filter (fun e => decide (e.1 = i) || c.groups.any (fun g => g.2.resident && decide (g.2.inst = e.1)))

/-- A side core with its program. -/
def withProgram (d : Side) (prog : List Byte) : Side := { d with istore := zsetRun [] 0 prog }

def freshSide (prog : List Byte) : Side := { withProgram Side.reset prog with status := if prog.isEmpty then 0 else 1 }

/-- The scratchpad that a herd finds for a member of its gang: the one that the same instance left Unpinned there for that member, else one
with every page Absent (R149). -/
def scratchAt (c : Core) (i m code : Nat) : Scratch :=
  match find c.scratch i with
  | some v => if v.member = m then v else { Scratch.reset with size := scrBytes code, member := m }
  | none => { Scratch.reset with size := scrBytes code, member := m }

/-- What a herd finds on the core of a member of its gang: its carve-out and scratchpad, and the side resources where it takes them. -/
def readyCore (c : Core) (i m code : Nat) (desc : SideDesc) : Core :=
  let sc := scratchAt c i m code
  let c1 := { c with scr := BitVec.ofNat 3 code, scratch := put (keepScratch c i code) i sc }
  if c.sideOwn.isNone then
    let p := match desc with | .programs l q => (l, q) | _ => ([], [])
    { c1 with
      sideOwn := some i, queues := [], routes := [], firings := [], gateM := [], gateQ := [], timer := none
      loader := freshSide p.1, storer := freshSide p.2 }
  else c1

/-- The lines of the ways that a core gives up under a new carve-out, the highest ones, are evicted (R148; log entry 93). -/
def giveUpWays (s : State) (core code : Nat) : State :=
  (((s.core core).l1).filter (fun e => decide (l1Ways (BitVec.ofNat 3 code) ≤ e.2.way))).foldl (fun t e => evictLine t core e.1 e.2) s

/-- A core is made ready for a new herd: its ways are given up before the new split takes effect (R148). -/
def readyAt (s : State) (core i m code : Nat) (desc : SideDesc) : State :=
  (giveUpWays s core code).updCore core (fun k => readyCore k i m code desc)

/-- A task runs: READY and PREEMPTED become RUNNING. -/
def taskRuns (s : State) (t : Nat) : State :=
  let st := tState (s.tcb t)
  if st = 1 ∨ st = 6 then setTaskState s t 2 else s

/-- An instance before it has anything but a range. -/
def bareInst (tcb : Nat) (t : BitVec 1024) (lo hi : Nat) (age : BitVec 64) : Inst :=
  { tcb := tcb, image := t, next := BitVec.ofNat 32 lo, ihi := BitVec.ofNat 32 hi, gang := [], locs := [], state := .running
    marks := [], age := age, area := 0, stops := 0, flt := none, groups := [], cores := [], unrest := [], moves := 0, killer := false }

/-- Starts a new instance of a task with the TCB `t` on a gang over [`lo`, `hi`); `area` is its save area. -/
def startInst (s : State) (tcb : Nat) (t : BitVec 1024) (lo hi : Nat) (age : BitVec 64) (gang : List Nat) (desc : SideDesc) (area : Nat) :
    State :=
  let i := s.nextInst
  let grain := tGrain t
  let first := if grain = 0 then hi else Nat.min (lo + grain) hi
  let x := { bareInst tcb t first hi age with gang := gang, area := area }
  let s1 := saveHeader { s with insts := put s.insts i x, nextInst := i + 1 } x 0 0
  let s2 := gang.foldl (fun u c => coreUse u c i 1) s1
  let s3 := (List.range gang.length).foldl (fun u m => readyAt u (gang.getD m 0) i m (tScr t) desc) s2
  let s4 := (List.range (tHgrp t)).foldl (fun u h => seatGroup u i gang h (freshGroup u t i area h lo first)) s3
  let s5 := addUse (addUse s4 (tRcb t) 822 808 (tHgrp t : Int)) (tRcb t) 807 792 ((tHgrp t * tXreg t : Nat) : Int)
  taskRuns (setTask s5 tcb 379 371 (tInst (s.tcb tcb) + 1)) tcb

/-! ### A fault of placement (R88, R115, R205) -/

/-- A task enters FAULTED, and its region counts it (R68, R88). -/
def taskFaults (s : State) (tcb : Nat) : State :=
  let st := tState (s.tcb tcb)
  if st = 4 ∨ st = 3 ∨ st = 5 then s
  else
    let s1 := setTaskState s tcb 4
    let r := tRcb (s.tcb tcb)
    setRegion s1 r 863 832 (fnat (s1.rcb r) 863 832 + 1)

/-- The KIND 0 record of a fault of the distributor, at a stopping point (R87, R191). -/
def placeRecord (s : State) (f : FaultInfo) (locks : List Nat) (x : Inst) : State :=
  writeRecord s (tRcb x.image) (mkRecord f.fva f.pc x.tcb f.core f.slot 0 f.cause.toNat 0 locks x.next x.ihi 0 0)

/-- A fault of the distributor that no group has made: its CORE and GRP are 0 (DESIGN CHOICE, log entry 79). -/
def placeFault (cause : BitVec 8) (pc : BitVec 48) (fva : BitVec 64) : FaultInfo :=
  { cause := cause, fva := fva, pc := pc, thr := 0, arena := 0, word := 0, kill := false, core := 0, slot := 0 }

/-- An instance whose descriptor is bad is parked with SIDEIMAGE at ENTRY (R115, R191). -/
def badImage (s : State) (i : Nat) (x : Inst) (fva : BitVec 64) : State :=
  placeRecord (taskFaults (setInst s i { x with state := .parked }) x.tcb) (placeFault cSIDEIMAGE (fget x.image 1023 976) fva) [] x

/-- A bad descriptor of a new instance: it is parked before it starts. -/
def sideImage (s : State) (tcb : Nat) (t : BitVec 1024) (lo hi : Nat) (age : BitVec 64) (fva : BitVec 64) : State :=
  badImage (setTask { s with nextInst := s.nextInst + 1 } tcb 379 371 (tInst (s.tcb tcb) + 1)) s.nextInst (bareInst tcb t lo hi age) fva

/-! ### Resuming an instance (R154, R205, R206, R338) -/

/-- The header or a core record is among the records that fail; or the group record of herd group h is. -/
def badCore (bad : List Nat) (c : Nat) : Bool := bad.any (fun k => decide (k ≤ c))
def badGroup (bad : List Nat) (h : Nat) : Bool := bad.contains (64 + h)

/-- Puts a copy among others by its issue order. -/
def insertCopy (y : Copy) (l : List Copy) : List Copy :=
  match l with
  | [] => [y]
  | z :: r => if y.order < z.order then y :: z :: r else z :: insertCopy y r

/-- Saved copies in the order of their issue. -/
def issueOrder (l : Tbl Copy) : List Copy := l.foldl (fun a e => insertCopy e.2 a) []

/-- Copies taken up again from REM, in the lowest free slots and in the order of their issue; their counts join those of the core, and the bits are set as R154
says. -/
def restoreCopies (c : Core) (v : CoreSave) : Core :=
  let c1 := (issueOrder v.copies).foldl (fun k y =>
    match freeCopy k with
    | none => k
    | some n => { k with copies := put k.copies n { y with order := k.nextCpy }, nextCpy := k.nextCpy + 1 }) c
  let cnt := (List.range 64).foldl (fun m t => zset m t (zget m t + zget v.tagCnt t)) c1.tagCnt
  let busy := maskOf 64 ((List.range 64).filter (fun t => zget cnt t ≠ 0))
  { c1 with tagCnt := cnt, tags := (c1.tags ||| v.tags) &&& ~~~busy }

/-- What a core takes back of an instance. -/
def restoreCore (c : Core) (i : Nat) (v : CoreSave) (desc : SideDesc) : Core :=
  let c1 := restoreCopies c v
  let tabs := v.tabHeld.foldl (fun m k => zsetRun m (64 * k) (zgetRun v.tabs (64 * k) 64)) c1.tabs
  let c2 := { c1 with
    tabs := tabs, tabOwn := v.tabHeld.foldl (fun m k => put m k i) c1.tabOwn
    wps := v.wps.foldl (fun m e => put m e.1 { e.2 with owner := some i }) c1.wps
    parts := v.parts.foldl (fun m e => put m e.1 { e.2 with owner := some i, regwait := (c1.part e.1).regwait }) c1.parts }
  if v.side then
    let p := match desc with | .programs l q => (l, q) | _ => ([], [])
    { c2 with
      queues := v.queues, routes := v.routes, timer := v.timer, loader := withProgram v.loader p.1
      storer := withProgram v.storer p.2 }
  else c2

/-- A saved group at its new place; one whose record fails is not restored, and its slot stays reserved. -/
def seatSaved (s : State) (i : Nat) (x : Inst) (gang : List Nat) (bad : List Nat) (h : Nat) (g : Group) : State :=
  let spc := effHndlPc s (tRcb x.image)
  let k := { g with resident := true, inst := i, hndl := fput g.hndl 143 96 spc.toNat, pair := none, waited := 0 }
  if badGroup bad h then
    let f : FaultInfo := { cause := cRESTOREFAIL, fva := 0, pc := g.pc, thr := 0, arena := 0, word := 0, kill := false
                           core := gang.getD (h / 64) 0, slot := 0 }
    seatGroup s i gang h { k with stop := some f }
  else seatGroup s i gang h k

/-- The place of a herd group of an instance. -/
def placeOf (s : State) (i h : Nat) : Option (Nat × Nat) :=
  (herdGroups s i).findSome? (fun e => if e.2.2.herdIdx = h then some (e.1, e.2.1) else none)

/-- The copies of an instance on a member of its gang name their issuing groups by their new slots. -/
def restoreIssuers (s : State) (i m core : Nat) : State :=
  s.updCore core (fun c =>
    { c with copies := c.copies.map (fun e =>
        (e.1, if e.2.inst = i ∧ e.2.side = none then
          match placeOf s i (64 * m + copyGrp e.2) with
          | some (_, g) => { e.2 with rec_ := fput e.2.rec_ 41 36 g }
          | none => e.2
        else e.2)) })

/-- Pairings name the partners' new places (R206). -/
def restorePairs (s : State) (i : Nat) (saved : Tbl Group) : State :=
  saved.foldl (fun t e =>
    match e.2.pair, placeOf t i e.1 with
    | some (h, _), some (c, g) => t.updGroup c g (fun k => { k with pair := placeOf t i h })
    | _, _ => t) s

/-- HOLDMOVE for every line that the instance's groups hold (R338), a way reserved for each; where none is left, the line is not kept
at the new core (R30, R147). -/
def sendMoves (s : State) (i : Nat) : State :=
  (herdGroups s i).foldl (fun t e =>
    e.2.2.locks.foldl (fun u l =>
      let pr := lockPair u e.1 l
      let p := withPair (lockMsg 8 l e.1 e.2.1 0 e.2.2.save) pr.1 pr.2.1 pr.2.2
      updInst (sendReq ((takeWay u e.1 l).getD u) e.1 p) i (fun x => { x with moves := x.moves + 1 })) t) s

/-- Submissions of the instance name its gang's new cores. -/
def moveSubmissions (s : State) (i : Nat) (old gang : List Nat) : State :=
  let at_ := fun (c : Nat) => if old.contains c then gang.getD (old.idxOf c) c else c
  { s with decoders := s.decoders.map (fun (d : Nat × List Submission) =>
      (d.1, d.2.map (fun x => if x.inst = i then { x with core := at_ x.core, dcore := at_ x.dcore } else x))) }

/-- The members of a gang, by number, on which a stopped instance has groups. -/
def groupMembers (x : Inst) (gang : List Nat) : List Nat :=
  (List.range gang.length).filter (fun m => x.groups.any (fun g => decide (g.1 / 64 = m)))

/-- The gang's cores on which it has groups; only they count in CORESU (R71). -/
def groupCores (x : Inst) (gang : List Nat) : List Nat := (groupMembers x gang).map (fun m => gang.getD m 0)

/-- The fault of a group record that fails at resumption: at its saved PC, with the group's place (R191, R205). -/
def restoreFault (pc : BitVec 48) (core slot : Nat) : FaultInfo := { placeFault cRESTOREFAIL pc 0 with core := core, slot := slot }

/-- Resumes a stopped instance on a gang. -/
def resumeInst (s : State) (i : Nat) (x : Inst) (gang : List Nat) (desc : SideDesc) (bad : List Nat) : State :=
  let t := x.image
  let unrest := (x.groups.map Prod.fst).filter (badGroup bad)
  let blks := (x.groups.map (fun g => popcount g.2.xheld)).sum
  let s0 := saveHeader s { x with gang := gang } x.stops 0
  let s1 := setInst s0 i { x with gang := gang, locs := [], state := .running, groups := [], cores := [], unrest := unrest, flt := none }
  let s2 := (groupCores x gang).foldl (fun u c => coreUse u c i 1) s1
  let s3 := (List.range gang.length).foldl (fun u m =>
    let v := (find x.cores m).getD CoreSave.none
    let c := gang.getD m 0
    if (groupMembers x gang).contains m then (readyAt u c i m (tScr t) desc).updCore c (fun k => restoreCore k i v desc)
    else u.updCore c (fun k => restoreCopies k v)) s2
  let s4a := x.groups.foldl (fun u e => seatSaved u i x gang bad e.1 e.2) s3
  let s4 := (List.range gang.length).foldl (fun u m => restoreIssuers u i m (gang.getD m 0)) s4a
  let s5 := addUse (addUse s4 (tRcb t) 822 808 (x.groups.length : Int)) (tRcb t) 807 792 (blks : Int)
  let s6 := moveSubmissions (sendMoves (restorePairs s5 i x.groups) i) i x.gang gang
  let s7 := taskRuns s6 x.tcb
  unrest.foldl (fun u h =>
    match placeOf u i h with
    | some (c, g) => placeRecord (taskFaults u x.tcb) (restoreFault (u.group c g).pc c g) (u.group c g).locks x
    | none => u) s7

/-- A save area whose header or core record fails keeps the instance parked (R205); the record shows the saved PC of its lowest
group (DESIGN CHOICE, log entry 79). -/
def restoreFails (s : State) (i : Nat) (x : Inst) : State :=
  let pc := match x.groups with | e :: _ => e.2.pc | [] => 0
  placeRecord (taskFaults (setInst s i { x with state := .parked }) x.tcb) (placeFault cRESTOREFAIL pc 0) [] x

/-! ### Placement (R72, R81, R115, R205) -/

/-- Places an entry that the dispatcher has selected, where everything can be reserved at once. -/
def tryPlace (s : State) (die : Nat) (bad : List Nat) (q : Ready) : Option State :=
  let t := entryTcb s q
  let r := tRcb t
  let root := effRoot s r
  if !(selectable s die q) || quotaReached s r then none
  else
    let desc := sideDesc s (64 * die) root (fget t 1023 976)
    let begin_ := fun (lo hi : Nat) =>
      match desc with
      | .wait _ => none
      | .bad fva => some (sideImage s q.tcb t lo hi q.age fva)
      | _ =>
        match findGang s die (newDemand t desc) with
        | none => none
        | some gang =>
          if gangRoom s r gang (tHgrp t) (tHgrp t * tXreg t) then
            (saveAreaFor s (gang.headD 0 / 64) (areaSize (tHgrp t) (tScr t))).map (startInst s q.tcb t lo hi q.age gang desc)
          else none
    match q.kind with
    | .first => begin_ (fnat t 895 864) (fnat t 863 832)
    | .remainder next ihi => begin_ next.toNat ihi.toNat
    | .resume i =>
      match find s.insts i, desc with
      | none, _ => some s
      | some _, .wait _ => none
      | some x, .bad fva => some (badImage s i x fva)
      | some x, _ =>
        match findGang s die (resumeDemand x desc) with
        | none => none
        | some gang =>
          let fails := bad ++ badRecords s x
          if !(gangRoom s r (groupCores x gang) x.groups.length ((x.groups.map (fun g => popcount g.2.xheld)).sum)) then none
          else if badCore fails gang.length then some (restoreFails s i x)
          else some (resumeInst s i x gang desc fails)

/-- What the descriptor of an entry's herd waits for. -/
def placeHolds (s : State) (die : Nat) (q : Ready) : List Hold :=
  let t := entryTcb s q
  match sideDesc s (64 * die) (effRoot s (tRcb t)) (fget t 1023 976) with
  | .wait l => l
  | _ => []

/-- PLACEMENT: the first selected entry that can be placed; `bad` lists the records of a save area that fail under memory ECC (R81,
R205). Of two entries that stand selected at once, one of which became READY meanwhile, the one of higher priority is tried first, and the
other is placed where the first cannot be (DESIGN CHOICE, log entry 100: R80 orders the selections and not their placements). -/
def execPlacement (die : Nat) (bad : List Nat) (s : State) : Out :=
  match (s.die die).chosen.findSome? (fun q => (tryPlace s die bad q).map (fun t => (q, t))) with
  | none => .next ((s.die die).chosen.foldl (fun t q => noteHolds t (64 * die) (placeHolds s die q)) s)
  | some (q, t) => .next (t.setDie die { t.die die with chosen := removeFirst (fun x => decide (x = q)) (t.die die).chosen })

/-! ### Halving (R84) -/

/-- The grains that an instance has not claimed. -/
def grainsLeft (x : Inst) : Nat := ceilDiv (x.ihi.toNat - x.next.toNat) (Nat.max 1 (tGrain x.image))

/-- The first instance comes before the second one in the order of R84. -/
def halveBefore (s : State) (a b : Inst) : Bool :=
  let pa := effPrio s (tRcb a.image)
  let pb := effPrio s (tRcb b.image)
  if pa ≠ pb then decide (pb < pa)
  else if grainsLeft a ≠ grainsLeft b then decide (grainsLeft b < grainsLeft a)
  else decide (a.gang.headD 0 < b.gang.headD 0)

def insertHalve (s : State) (e : Nat × Inst) (l : List (Nat × Inst)) : List (Nat × Inst) :=
  match l with
  | [] => [e]
  | f :: r => if halveBefore s e.2 f.2 then e :: f :: r else f :: insertHalve s e r

/-- The halving of an instance for an asker, where its new instance can be reserved there; the new instance takes the task's TCB as
it is now (R92). With a bad descriptor the halving is made, and its instance faults as at any placement (R115; DEDUCED, log
entry 79). -/
def tryHalve (s : State) (asker i : Nat) (x : Inst) : Option State :=
  let t := s.tcb x.tcb
  let r := tRcb t
  let g := grainsLeft x
  let cut := x.next.toNat + ceilDiv g 2 * tGrain x.image
  let split := setTask (setInst s i { x with ihi := BitVec.ofNat 32 cut }) x.tcb 366 351 (fnat t 366 351 + 1)
  if g < 2 ∨ quotaReached s r ∨ !(bit (effDieMask s r) (asker / 64)) then none
  else
    let desc := sideDesc s (asker / 64 * 64) (effRoot s r) (fget t 1023 976)
    match desc with
    | .wait _ => none
    | .bad fva => some (sideImage split x.tcb t cut x.ihi.toNat (fget t 319 256) fva)
    | _ =>
      if !((newDemand t desc).shares.all (coreFits s asker (newDemand t desc))) || !(gangRoom s r [asker] (tHgrp t) (tHgrp t * tXreg t)) then none
      else (saveAreaFor s (asker / 64) (areaSize (tHgrp t) (tScr t))).map (startInst split x.tcb t cut x.ihi.toNat (fget t 319 256) [asker] desc)

/-- HALVING: a core that holds no resident group asks its die for work when nothing is ready there (R84, R95). -/
def execHalving (core : Nat) (s : State) : Out :=
  let die := core / 64
  let d := s.die die
  if decide (256 ≤ core) || (s.core core).groups.any (fun g => g.2.resident) || (d.ready ++ d.chosen).any (selectable s die) ||
      decide (s.recorder.mode = 2) then .next s
  else
    let l := (s.insts.filter (fun e => instRuns s e.1 && decide (tGrain e.2.image ≠ 0) && decide (e.2.gang.headD 256 / 64 = die) &&
      decide (tHgrp (s.tcb e.2.tcb) ≤ 64))).foldl (fun a e => insertHalve s e a) []
    match l.findSome? (fun e => tryHalve s core e.1 e.2) with
    | some t => .next t
    | none => .next s

end Sys2Proof.Machine
end

