-- ==== Sys2Proof/Machine/Stop.lean ====
section
/-! DEFINITION. How instances stop, park, are killed and finish: save areas, pre-emption, the collectors, grains, the final TDONE
and quota crossings (R71, R72, R77, R83, R87 to R91, R181, R202 to R206, R338, R354, R360). -/
namespace Sys2Proof.Machine

/-! ### Reaching the stopping point (R90, R181, R338) -/

/-- The wait of a group that has stopped: none, or a LOCK that has sent ABSENT. -/
def waitStopped (w : Wait) : Bool :=
  match w with
  | .none => true
  | .lkrq 7 _ _ _ => true
  | _ => false

/-- A wait that a stop interrupts at once. -/
def waitInterrupts (w : Wait) : Bool :=
  match w with
  | .lock _ _ _ false => true
  | .lock _ _ _ true => false
  | w => !(waitStopped w) && !(keepsWaiting w)

/-- The places of an instance's groups that a stop interrupts in their instruction. -/
def toInterrupt (s : State) (i : Nat) : List (Nat × Nat) :=
  ((herdGroups s i).filter (fun e => !e.2.2.ended && waitInterrupts e.2.2.wait)).map (fun e => (e.1, e.2.1))

/-- Interrupts a group in its instruction; its record will name the instruction's kind (R203). -/
def stopWaiting (s : State) (core slot : Nat) : State :=
  (interruptWait s core slot).updGroup core slot (fun g => { g with waited := waitCode (s.group core slot).wait })

/-- A group has stopped: it waits for nothing, its store buffer has drained and its loads are complete; under a pre-emption its
notice has run out (R90, R181, R206). -/
def groupStopped (g : Group) (pre : Bool) : Bool :=
  g.accs.isEmpty && (g.ended || (waitStopped g.wait && (!pre || preStopped g)))

/-- The units of a core hold nothing in progress for an instance, and its sinks owe it no firing. -/
def coreStopped (s : State) (core i : Nat) : Bool :=
  let c := s.core core
  c.parts.all (fun p => p.2.munit.all (fun o => decide (o.inst ≠ i)) && p.2.qunit.all (fun o => decide (o.inst ≠ i)) &&
    (match p.2.mstore with | some m => decide (m.inst ≠ i) | none => true)) &&
  (decide (c.sideOwn ≠ some i) || c.firings.isEmpty)

/-- Every engine of an instance has reached its stopping unit, and no fill of its scratchpads is under way. -/
def instStopped (s : State) (i : Nat) (x : Inst) (pre : Bool) : Bool :=
  (herdGroups s i).all (fun e => groupStopped e.2.2 pre) && x.gang.all (fun c => coreStopped s c i && !(fillsOf s c i)) && decide (x.moves = 0)

/-! ### Saving (R149, R154, R203, R206) -/

/-- A group's record; a partner is named by its number in the herd, and every latency passes (R104). -/
def savedGroup (s : State) (g : Group) : Group :=
  { g with
    resident := false, halt := none, follow := none, stop := none, preempt := false, prenote := 0, fired := false, hazards := []
    split := g.split ||| g.rest, rest := 0
    pair := g.pair.map (fun p => ((s.group p.1 p.2).herdIdx, 0)) }

/-- The copies of an instance on a core, as their records say; the issuing group is named by its number on its core of the gang, and GRP
of a side core's copy stays 0 (R368). -/
def savedCopies (c : Core) (i : Nat) : Tbl Copy :=
  (c.copies.filter (fun e => decide (e.2.inst = i))).map (fun e =>
    (e.1, { e.2 with
      rec_ := if e.2.side.isSome then e.2.rec_ else fput e.2.rec_ 41 36 ((c.group (copyGrp e.2)).herdIdx % 64)
      rd := copyLen e.2 - copyRem e.2, buf := [], stopped := none, after := 0 }))

/-- A side core as its record keeps it: its program is loaded again, and what it waits for is asked for again (R203, R206). -/
def savedSide (d : Side) : Side := { d with istore := [], held := [], refused := none }

/-- An instance's core record. -/
def savedCore (c : Core) (i : Nat) : CoreSave :=
  let copies := savedCopies c i
  let cnt := copies.foldl (fun m e => zset m (copyTag e.2) (zget m (copyTag e.2) + 1)) []
  let tabs := (c.tabOwn.filter (fun e => decide (e.2 = i))).map Prod.fst
  let own := decide (c.sideOwn = some i)
  { tags := c.tags, tagCnt := cnt
    tabs := tabs.foldl (fun m k => zsetRun m (64 * k) (zgetRun c.tabs (64 * k) 64)) [], tabHeld := tabs
    routes := if own then c.routes else [], copies := copies
    loader := if own then savedSide c.loader else Side.reset
    storer := if own then savedSide c.storer else Side.reset
    wps := c.wps.filter (fun e => decide (e.2.owner = some i))
    queues := if own then c.queues.map (fun e => (e.1, { e.2 with pushPtr := 0, popPtr := 0 })) else []
    parts := (c.parts.filter (fun e => decide (e.2.owner = some i))).map (fun e => (e.1, { e.2 with regwait := [] }))
    side := own, timer := if own then c.timer else none }

/-- Writes the Pinned pages of a scratchpad back to their backing, as WRB of the instance's arena; they become Unpinned. -/
def unpinPages (s : State) (core i : Nat) : State :=
  match find (s.core core).scratch i with
  | none => s
  | some sc =>
    let a := BitVec.ofNat 12 (instArena s i)
    let g := zget (s.core core).gens a.toNat
    let pages := (sc.pages.filter (fun e => decide (e.2 = 1))).map Prod.fst
    let s1 := pages.foldl (fun t p =>
      (List.range 16).foldl (fun u k =>
        let pa := backingAt u core i p + 256 * k
        if staleAt u (lineOf pa) a g then u else writeLive (retake u pa 256) pa (zgetRun sc.image (4096 * p + 256 * k) 256) a g) t) s
    s1.updCore core (fun c => c.setScratch i { sc with pages := pages.foldl (fun m p => zset m p 2) sc.pages })

/-- The pinned line of a lock is written back and unpinned; the lock stays held (R206). -/
def unpinLocks (s : State) (core : Nat) (lines : List Nat) : State :=
  lines.foldl (fun t l =>
    (cpWriteBack t core l).updCore core (fun c =>
      match find c.l1 l with | some y => c.setLine l { y with pinned := false } | none => c)) s

/-- The instance's copies leave the core, and their counts with them; no bit is set (R154). -/
def dropCopies (c : Core) (i : Nat) (v : CoreSave) : Core :=
  { c with
    copies := c.copies.filter (fun e => decide (e.2.inst ≠ i))
    tagCnt := (List.range 64).foldl (fun m t => zset m t (zget m t - zget v.tagCnt t)) c.tagCnt }

/-- The counters of an instance's groups on a core, zero: what they counted is saved. -/
def clearCounts (c : Core) (i : Nat) : Core :=
  { c with groups := c.groups.map (fun e => (e.1, if e.2.inst = i then { e.2 with ld := [], st := [], cp := [], mx := [], qx := [] } else e.2)) }

/-- An instance leaves a core of its gang at a stop. -/
def vacate (s : State) (core i : Nat) : State :=
  let v := savedCore (s.core core) i
  let lines := (groupsOn s core i).flatMap (fun e => e.2.locks)
  let s0 := s.updCore core (fun c => dropCopies c i v)
  if (groupsOn s core i).isEmpty then s0
  else (leaveCounts (unpinLocks (unpinPages s0 core i) core lines) core i).updCore core (fun c => clearCounts (freeCore c i true) i)

/-- Stops an instance: its state goes to its save area and its cores' resources are released (R88, R90, R206). -/
def stopInst (s : State) (i : Nat) (x : Inst) (state : IState) : State :=
  let groups := (herdGroups s i).foldl (fun m e => put m e.2.2.herdIdx (savedGroup s e.2.2)) ([] : Tbl Group)
  let cores := (List.range x.gang.length).foldl (fun m k => put m k (savedCore (s.core (x.gang.getD k 0)) i)) ([] : Tbl CoreSave)
  let s1 := x.gang.foldl (fun t c => vacate t c i) s
  let live := ((herdGroups s i).map (fun e => e.2.2)).filter (fun g => !g.ended)
  let s2 := writeSaveArea s1 x (x.stops + 1) (if state = .parked then 2 else 1) live cores
  setInst s2 i { x with locs := [], state := state, stops := x.stops + 1, flt := none, groups := groups, cores := cores, unrest := [] }

/-! ### Parking and killing (R87 to R89, R354) -/

/-- The KIND 0 record of a fault: of the group that made it, or of a side core or a copy. -/
def faultRecord (x : Inst) (f : FaultInfo) (locks : List Nat) : BitVec 512 :=
  mkRecord f.fva f.pc x.tcb f.core f.slot f.thr f.cause.toNat f.arena.toNat locks x.next x.ihi 0 (if f.kill then 1 else 0)

/-- A killed task has no instance left: it is KILLED, leaves LIVE, frees its mailbox slot and is forgotten by the queues (R85,
R89). -/
def killDone (s : State) (t : Nat) : State :=
  let r := tRcb (s.tcb t)
  let s1 := if tState (s.tcb t) = 4 then setRegion s r 863 832 (fnat (s.rcb r) 863 832 - 1) else s
  let s2 := uncountLive (setTask (setTaskState s1 t 5) t 379 371 0) r
  settleWork (dropInsts s2 t) (mailEnd s2 t)

/-- The lines that the instances of a task hold locked, by their owners' records (R203, R329). -/
def heldLines (s : State) (t : Nat) : List Nat :=
  (s.locks.filter (fun e => e.2.hvalid && s.insts.any (fun x => decide (x.2.tcb = t) && decide (x.2.area ≤ 256 * e.2.hown.toNat) &&
    decide (256 * e.2.hown.toNat < x.2.area + instAreaSize x.2)))).map Prod.fst

/-- The record of a kill: the fault of the group that made it, and the lines that the task's instances hold, in ascending order
(R354; of more than four the first four, a DESIGN CHOICE, log entry 80). -/
def killRecord (s : State) (x : Inst) (f : FaultInfo) : BitVec 512 := faultRecord x f (heldLines s x.tcb)

/-- An instance of a killed task stops; with the last one the record is written and the task is KILLED (R89, R354). -/
def killInst (s : State) (i : Nat) (x : Inst) : State :=
  let s1 := setInst (stopInst s i x .killed) i { x with locs := [], state := .killed, groups := [], cores := [] }
  if s1.insts.all (fun e => decide (e.2.tcb ≠ x.tcb) || decide (e.2.state = .killed) || decide (e.2.state = .finished)) then
    let s2 := match s1.insts.find? (fun e => decide (e.2.tcb = x.tcb) && e.2.killer) with
      | some (_, k) => (match k.flt with | some f => writeRecord s1 (tRcb k.image) (killRecord s1 k f) | none => s1)
      | none => s1
    killDone s2 x.tcb
  else s1

/-- FAULT_PARK: once every engine has stopped, the state is saved, the record is written and the task is FAULTED; or the instance
of a killed task is gone (R88, R89, R354). -/
def execFaultPark (inst : Nat) (s : State) : Out :=
  match find s.insts inst with
  | none => .next s
  | some x =>
    match (if x.state = .killed then none else x.flt) with
    | none => .next s
    | some f =>
      match toInterrupt s inst with
      | e :: r => .next ((e :: r).foldl (fun t p => stopWaiting t p.1 p.2) s)
      | [] =>
        if !(instStopped s inst x false) then .next s
        else if f.kill then .next (killInst s inst x)
        else
          let own := decide ((s.group f.core f.slot).inst = inst) && decide (f.cause ≠ cSIDEFAULT) && decide (f.pc ≠ 0)
          let locks := if own then (s.group f.core f.slot).locks else []
          let s1 := stopInst s inst x .parked
          .next (taskFaults (writeRecord s1 (tRcb x.image) (faultRecord x f locks)) x.tcb)

/-! ### Pre-emption (R90, R91) -/

/-- A group's notice: one that waits in an instruction stops there, so that it takes the trap at once (R90). -/
def notify (s : State) (core slot : Nat) : State :=
  let s1 := s.updGroup core slot (fun g => { g with prenote := 1 })
  if waitInterrupts (s.group core slot).wait then interruptWait s1 core slot else s1

/-- Every running instance of some regions is to stop; under PNOTE each group has its notice first. -/
def preemptInsts (s : State) (rs : List Nat) : State :=
  (s.insts.filter (fun e => decide (e.2.state = .running) && rs.contains (instRegion s e.1))).foldl (fun t e =>
    let note := effPnote t (instRegion t e.1)
    (herdGroups t e.1).foldl (fun u p =>
      if p.2.2.ended then u
      else
        let v := u.updGroup p.1 p.2.1 (fun g => { g with preempt := true, prenote := 0 })
        if note then notify v p.1 p.2.1 else v)
      (updInst t e.1 (fun x => { x with state := .stopping }))) s

/-- Entries that the distributor has not placed go back to their ready queues (R91 step 1). -/
def unchoose (s : State) (rs : List Nat) : State :=
  { s with sched := s.sched.map (fun (d : Nat × DieSched) =>
      let hit := fun (q : Ready) => rs.contains (tRcb (entryTcb s q))
      (d.1, { d.2 with ready := d.2.ready ++ (d.2.chosen.filter hit).map unsettled, chosen := d.2.chosen.filter (fun q => !(hit q)) })) }

/-- Step 1 of R91 for a region and its admitted descendants: their STATE becomes `st`, PREEMPTING or, for an IDLE region, PREEMPTED
at once, and their engines are to stop. -/
def startPreempt (s : State) (r st : Nat) : State :=
  let rs := (subtree s r).filter (fun q => decide (rState (s.rcb q) ≠ 3))
  unchoose (preemptInsts (rs.foldl (fun t q => setRegion t q 617 615 st) s) rs) rs

/-- An instance of the regions still runs or stops. -/
def anyLive (s : State) (rs : List Nat) : Bool :=
  s.insts.any (fun e => (decide (e.2.state = .running) || decide (e.2.state = .stopping)) && rs.contains (instRegion s e.1))

/-- The TCB of a stopped instance is PREEMPTED. -/
def taskPreempted (s : State) (t : Nat) : State :=
  if tState (s.tcb t) = 2 ∨ tState (s.tcb t) = 1 then setTaskState s t 6 else s

/-- Step 4 of R91: the regions and the tasks of their stopped instances are PREEMPTED. -/
def endPreempt (s : State) (r : Nat) : State :=
  let rs := (subtree s r).filter (fun q => decide (rState (s.rcb q) = 2))
  let s1 := rs.foldl (fun t q => setRegion t q 617 615 3) s
  (s1.insts.filter (fun e => decide (e.2.state = .stopped) && rs.contains (instRegion s1 e.1))).foldl (fun t e => taskPreempted t e.2.tcb) s1

/-- An instance that a pre-emption has stopped. Its region may be PREEMPTED already, where the request named an IDLE one, or even
resumed since: then its TCB is PREEMPTED now, or it rejoins its queue at once (R91). -/
def stoppedNow (s : State) (i : Nat) (x : Inst) : State :=
  let s1 := stopInst s i x .stopped
  let st := rState (s1.rcb (tRcb x.image))
  if st = 2 then s1 else if st = 3 then taskPreempted s1 x.tcb else rejoin s1 i x

/-- ENGINE_STOP: an instance that a pre-emption stops has reached its stopping units; its state is saved (R90, R91 step 2). -/
def execEngineStop (inst : Nat) (s : State) : Out :=
  match find s.insts inst with
  | none => .next s
  | some x =>
    if x.state ≠ .stopping ∨ x.flt.isSome then .next s
    else
      match (toInterrupt s inst).filter (fun p => preStopped (s.group p.1 p.2)) with
      | e :: r => .next ((e :: r).foldl (fun t p => stopWaiting t p.1 p.2) s)
      | [] => if instStopped s inst x true then .next (stoppedNow s inst x) else .next s

/-- PRENOTE_TIMEOUT: a notified group that has not acknowledged stops (R90). -/
def execPrenoteTimeout (core slot : Nat) (s : State) : Out :=
  let g := s.group core slot
  .next (if g.preempt && decide (g.prenote ≠ 0) then s.setGroup core slot { g with prenote := 0 } else s)

/-- A request whose pre-emption has completed is answered, where a command made it (R91 step 4). -/
def answerPreempt (s : State) (p : Preempt) : State :=
  match p.sess with
  | none => s
  | some (n, m) => acceptMsg s n m stOK 0 []

/-- COLLECTOR_COMPLETE: no engine of the regions runs on any die; the pre-emption is complete, and every request that waits for it, or
for the pre-emption of one of its regions, is answered (R91). -/
def execCollectorComplete (die : Nat) (s : State) : Out :=
  let done := fun (p : Preempt) => decide (p.die = die) && !(anyLive s (subtree s p.rcb))
  match s.preempts.find? done with
  | none => .next s
  | some p =>
    let hit := fun (q : Preempt) => (subtree s p.rcb).contains q.rcb
    .next ((s.preempts.filter hit).foldl answerPreempt (endPreempt { s with preempts := s.preempts.filter (fun q => !(hit q)) } p.rcb))

/-! ### Grains, TDONE and the end of an instance (R77, R78, R83, R360) -/

/-- A herd group marks its part of the instance done; a second mark says nothing new. -/
def markDone (s : State) (i h : Nat) : State := updInst s i (fun x => if x.marks.contains h then x else { x with marks := x.marks ++ [h] })

/-- The groups that have marked their part of an instance done. -/
def marksOf (s : State) (i : Nat) : List Nat := match find s.insts i with | some x => x.marks | none => []

/-- A group that has exited and whose operations are complete, and that has not marked its part done. -/
def unmarkedEnd (s : State) (g : Group) : Bool :=
  g.ended && g.quiet && g.accs.isEmpty && (s.insts.any (fun e => decide (e.1 = g.inst))) && !((marksOf s g.inst).contains g.herdIdx)

/-- A group that exits without a final TDONE counts as having executed one when its operations in flight are complete. -/
def settleMarks (s : State) : State := (s.allGroups.filter (fun e => unmarkedEnd s e.2.2)).foldl (fun t e => markDone t e.2.2.inst e.2.2.herdIdx) s

/-- FINAL_TDONE_MARK (R360). -/
def execFinalTdoneMark (core slot : Nat) (s : State) : Out :=
  let g := s.group core slot
  match g.wait with
  | .tdone d =>
    if !g.quiet then .next s
    else
      let s1 := markDone s g.inst g.herdIdx
      let n := (marksOf s1 g.inst).length
      .next (endShown s1 core slot [BitVec.ofNat 32 n] (fun k => writeScal k d (BitVec.ofNat 32 n)))
  | _ => .next s

/-- The destination of a group that waits in a grain TDONE. -/
def grainDst (g : Group) : Option (BitVec 8) := match g.wait with | .grain d => some d | _ => none

/-- GRAIN_CLAIM: every group of the herd that has not exited has arrived; the next grain is claimed (R83, R360). -/
def execGrainClaim (inst : Nat) (s : State) : Out :=
  match find s.insts inst with
  | none => .next s
  | some x =>
    let gs := (herdGroups s inst).filter (fun e => !e.2.2.ended)
    if gs.isEmpty || !(gs.all (fun e => (grainDst e.2.2).isSome)) || !(instRuns s inst) then .next s
    else
      let lo := x.next
      let more := decide (x.next.toNat < x.ihi.toNat)
      let hi := BitVec.ofNat 32 (Nat.min (x.next.toNat + tGrain x.image) x.ihi.toNat)
      let s1 := if more then setInst s inst { x with next := hi } else s
      .next (gs.foldl (fun t e =>
        match grainDst e.2.2 with
        | none => t
        | some d =>
          if more then endShown t e.1 e.2.1 [1, lo, hi] (fun g => writeScal ((g.setScal 2 lo).setScal 3 hi) d 1)
          else endShown t e.1 e.2.1 [0] (fun g => writeScal g d 0)) s1)

/-- Every group of the instance has exited and left with nothing outstanding, and every copy and decode is over (R77, R114). -/
def instOver (s : State) (i : Nat) (x : Inst) : Bool :=
  decide (x.state = .running) && x.flt.isNone && x.locs.isEmpty && x.unrest.isEmpty &&
  s.allGroups.all (fun g => decide (g.2.2.inst ≠ i) || (!g.2.2.resident && g.2.2.quiet && g.2.2.accs.isEmpty)) &&
  s.cores.all (fun c => c.2.copies.all (fun e => decide (e.2.inst ≠ i))) &&
  s.decoders.all (fun d => d.2.all (fun y => decide (y.inst ≠ i)))

/-- INSTANCE_FINISH: unclaimed grains rejoin a ready queue; the task is DONE with its last instance (R77). -/
def execInstanceFinish (inst : Nat) (s : State) : Out :=
  match find s.insts inst with
  | none => .next s
  | some x =>
    if !(instOver s inst x) then .next s
    else
      let t := x.tcb
      let s1 := setTask (setInst s inst { x with state := .finished }) t 379 371 (tInst (s.tcb t) - 1)
      if tGrain x.image ≠ 0 ∧ x.next.toNat < x.ihi.toNat then
        let d := readyDieOf s1 t x.image
        let a := (s1.die d).age
        .next (pushReady (setTask (takeAge s1 d) t 319 256 a.toNat) d { tcb := t, kind := .remainder x.next x.ihi, age := a, image := some x.image })
      else if tInst (s1.tcb t) = 0 ∧ !(s1.sched.any (fun d => (d.2.ready ++ d.2.chosen).any (fun q => decide (q.tcb = t)))) then
        .next (settleWork s1 [.done t])
      else .next s1

/-- QUOTA_CROSSING: the quota record is written once (R72, R87). -/
def execQuotaCrossing (rcb : Nat) (s : State) : Out :=
  match find s.regions rcb with
  | none => .next s
  | some x =>
    if x.crossed || decide (fnat x.rcb 1215 1152 = 0) || decide (fnat x.rcb 1279 1216 < fnat x.rcb 1215 1152) then .next s
    else .next (writeRecord { s with regions := put s.regions rcb { x with crossed := true } } rcb (smallRecord 3 cQUOTA.toNat 0))

end Sys2Proof.Machine
end

