-- ==== Sys2Proof/Machine/Control.lean ====
section
/-! DEFINITION. Transfers of control, the reconvergence stack, EXIT, traps and their return, MODE and FMT, table loads,
and register blocks (R110 to R112, R213 to R216, R243 to R252, R265, R266, R352 to R354). -/
namespace Sys2Proof.Machine

/-- The shape of a uniform instruction with no register operand. -/
def plainUni : Shape := mkShape .uniform true [] [] true

/-- The shape of a uniform instruction that reads scalars or special values. -/
def uniShape (legal : Bool) (regs reads : List (BitVec 8)) : Shape := mkShape .uniform legal regs reads true

/-! ### Transfers (R214, R243, R244) -/

/-- The packet of a linear index lies in the canonical 48-bit range, as a signed address. -/
def inRange48 (l : Int) : Bool := decide (-(2 ^ 47) ≤ l / 7 * 32) && decide (l / 7 * 32 < 2 ^ 47)

/-- The linear index of a PC, its packet address taken as signed. -/
def signedLinear (pc : BitVec 48) : Int := 7 * (pc.toInt / 32) + ((pcSlot pc : Int) - 1)

/-- The packet address of a target outside the canonical range. -/
def farTarget (l : Int) : Option (BitVec 64) := if inRange48 l then none else some (BitVec.ofInt 64 (l / 7 * 32))

/-- A group that a transfer has sent to a linear index. -/
def Group.sentTo (g : Group) (l : Int) : Group := { g with far := farTarget l }

/-- A transfer to a linear index. A target outside the canonical range is reached, and its fetch faults ADDRFORM there
(R243). -/
def jumpTo (x : Ctx) (s : State) (l : Int) (f : Group → Group) : State :=
  commitTo x s (pcOfLinear l) (fun g => (f g).sentTo l)

/-- A transfer by a signed slot offset. -/
def jumpBy (x : Ctx) (s : State) (off : Int) (f : Group → Group) : State := jumpTo x s (signedLinear x.src.pc + off) f

/-- A transfer to a register pair's value (R243). -/
def jumpPair (x : Ctx) (s : State) (v : BitVec 64) : State :=
  let low := lowest x.src.amask
  if !(canonical v) then trap s ⟨cADDRFORM, v, low, 0⟩
  else if decide (v.toNat % 4 ≠ 0) || decide (v.toNat / 4 % 8 = 0) then trap s ⟨cALIGN, v, low, 0⟩
  else commitTo x s (v.setWidth 48) id

/-- BRA (R244). -/
def execBra (o : BitVec 24) (s : State) : Out := startGroup s plainUni (fun x t => jumpBy x t o.toInt id)

/-- The test of BRP over the active mask. -/
def brpTest (q : BitVec 2) (n : BitVec 1) (p m : BitVec 64) : Bool :=
  let c := if n = 1 then ~~~p else p
  match q.toNat with
  | 0 => c &&& m != 0
  | 1 => c &&& m = m
  | _ => c &&& m = 0

/-- BRP (R217, R244). -/
def execBrp (q : BitVec 2) (n : BitVec 1) (p : BitVec 3) (o : BitVec 16) (s : State) : Out :=
  let r := BitVec.ofNat 8 (224 + p.toNat)
  startGroup s (uniShape (q != 3) [r] [r]) (fun x t =>
    if brpTest q n (x.src.pred p.toNat) x.src.amask then jumpBy x t o.toInt id else commitGroup x t id)

/-- JMPR (R243, R244). -/
def execJmpr (a : BitVec 8) (s : State) : Out :=
  startGroup s (uniShape (isScalPair a) [a, a + 1] [a, a + 1]) (fun x t => jumpPair x t (x.src.s64 a))

/-- The link registers s62 and s63. -/
def linkReg : BitVec 8 := 222

/-- CALL (R244). -/
def execCall (o : BitVec 24) (s : State) : Out :=
  startGroup s (uniShape true [linkReg, linkReg + 1] []) (fun x t =>
    let v := pcPair t.cur.nextPc
    let l := signedLinear x.src.pc + o.toInt
    let t1 := t.updCur (fun g => { g with nextPc := pcOfLinear l })
    commitUni x t1 [linkReg, linkReg + 1] [v.setWidth 32, v.extractLsb' 32 32] none
      (fun u => u.updCur (fun g => (writeScal64 g linkReg v).sentTo l)))

/-- RET (R243, R244). -/
def execRet (s : State) : Out :=
  startGroup s (uniShape true [linkReg, linkReg + 1] [linkReg, linkReg + 1]) (fun x t => jumpPair x t (x.src.s64 linkReg))

/-- YIELD (R245). -/
def execYield (s : State) : Out := startGroup s plainUni (fun x t => commitGroup x t id)

/-- NOP (R245). -/
def execNop (s : State) : Out := startGroup s plainUni (fun x t => commitGroup x t id)

/-! ### Divergence (R246 to R248) -/

/-- JPUSH (R246). -/
def execJpush (o : BitVec 24) (s : State) : Out :=
  startGroup s plainUni (fun x t =>
    let e : Entry := { pc := branchTarget x.src.pc o.toInt, kind := 0, mask := x.src.amask, mode := x.src.mode, fmt := x.src.fmt }
    (pushEntry t x.core t.cur e).orElse s t (fun g => commitGroup x (t.setCur g) id))

/-- BDIV (R247). -/
def execBdiv (n : BitVec 1) (p : BitVec 3) (o : BitVec 16) (s : State) : Out :=
  let r := BitVec.ofNat 8 (224 + p.toNat)
  startGroup s (uniShape true [r] [r]) (fun x t =>
    let m := x.src.amask
    let pr := x.src.pred p.toNat
    let taken := m &&& (if n = 1 then ~~~pr else pr)
    let fall := m &&& ~~~taken
    if taken = 0 then commitGroup x t id
    else if fall = 0 then jumpBy x t o.toInt id
    else
      let e : Entry := { pc := branchTarget x.src.pc o.toInt, kind := 1, mask := taken, mode := x.src.mode, fmt := x.src.fmt }
      (pushEntry t x.core t.cur e).orElse s t (fun g => commitGroup x (t.setCur g) (fun k => { k with amask := fall })))

/-- Pops entries until one holds threads (R248); none where the stack runs out. -/
def popLive (s : State) (core slot fuel : Nat) (g : Group) : Res (Option Entry × Group) :=
  match fuel with
  | 0 => .ok (none, g)
  | k + 1 =>
    match popEntry s core slot g with
    | .ok (none, g1) => .ok (none, g1)
    | .ok (some e, g1) => if e.mask = 0 then popLive s core slot k g1 else .ok (some e, g1)
    | .fault c => .fault c
    | .wait l => .wait l
    | .held pa va t a => .held pa va t a

/-- Enough pops to empty the stack and the spilled blocks. -/
def popFuel (g : Group) : Nat := g.stack.length + 16 * spillUsed g + 1

/-- The slot after a PC, by the count of that PC's packet (R214), which no packet needs after its last slot; where the packet cannot be
read, the slot above, and a page that is held is waited for. -/
def slotAfter (s : State) (core : Nat) (root : BitVec 30) (pc : BitVec 48) : Res (BitVec 48) :=
  if pcSlot pc = 7 then .ok (pcNext pc 7)
  else
    match checkNow s core root ((BitVec.ofNat 48 (pcPacket pc)).signExtend 64) 32 .fetch with
    | .ok pa _ _ _ => .ok (pcNext pc (ctlN ((packetWords s pa).getD 0 0)))
    | .fault _ _ => .ok (pcNext pc 7)
    | .wait l => .wait l

/-- The group with an entry's mask, MODE and FMT (R111). -/
def loadEntry (g : Group) (e : Entry) : Group := { g with amask := e.mask, mode := e.mode, fmt := e.fmt }

/-- Where POP continues (R248). -/
def entryPc (s : State) (core : Nat) (root : BitVec 30) (e : Entry) : Res (BitVec 48) :=
  if e.kind = 0 then slotAfter s core root e.pc else .ok e.pc

/-- JOIN (R248). -/
def execJoin (s : State) : Out :=
  startGroup s plainUni (fun x t =>
    (popLive t x.core x.slot (popFuel t.cur) t.cur).orElse s t (fun r =>
      match r.1 with
      | none => commitGroup x (t.setCur r.2) id
      | some e =>
        (entryPc t x.core (instRoot t x.src.inst) e).orElse s t (fun pc => commitTo x (t.setCur r.2) pc (fun g => loadEntry g e))))

/-! ### EXIT (R249, R250, R354) -/

/-- The addresses of the MASK fields of every spilled entry (R249 step 2). -/
def spilledMasks (g : Group) : List (BitVec 64) :=
  (List.range (16 * spillUsed g)).map (fun i => spillAddr g 0 + BitVec.ofNat 64 (32 * i + 16))

/-- The checks of the mask rewrites, in order: the places, or the first failure. -/
def checkAll (s : State) (core : Nat) (root : BitVec 30) (thr : Nat) (size : Nat) (need : Need) (vas : List (BitVec 64)) :
    Res (List (BitVec 64 × Nat × BitVec 12 × BitVec 4 × BitVec 2)) :=
  match vas with
  | [] => .ok []
  | va :: r =>
    match check s core root va size need with
    | .fault c a => .fault ⟨c, va, thr, a⟩
    | .wait l => .wait l
    | .ok pa a gn rg =>
      match checkAll s core root thr size need r with
      | .ok l => .ok ((va, pa, a, gn, rg) :: l)
      | .fault c => .fault c
      | .wait l => .wait l
      | .held q v i c => .held q v i c

/-- The rewrite of the MASK fields as ordinary stores of the group. -/
def rewriteMasks (s : State) (core : Nat) (g : Group) (x : BitVec 64)
    (ps : List (BitVec 64 × Nat × BitVec 12 × BitVec 4 × BitVec 2)) : Group :=
  if ps.isEmpty then g
  else
    let o := addOp g 1 ps.length
    ps.foldl (fun h p =>
      let m : BitVec 64 := ofBytes 64 ((List.range 8).map (fun i => loadByte s core g g.nextAcc (p.2.1 + i)))
      addAccess h { Access.zero with
        op := o.2, kind := .store, addr := p.2.1, size := 8, val := (m &&& ~~~x).setWidth 128, arena := p.2.2.1,
        gen := p.2.2.2.1, regn := p.2.2.2.2, va := p.1, pc := g.pc }) o.1

/-- The places of the mask rewrites, once the old masks may be read (R112, R190). -/
def readyMasks (s : State) (core slot : Nat) (g : Group) (ps : List (BitVec 64 × Nat × BitVec 12 × BitVec 4 × BitVec 2)) :
    Res (List (BitVec 64 × Nat × BitVec 12 × BitVec 4 × BitVec 2)) :=
  match ps.find? (fun p => readHeld s core slot g p.2.1 8) with
  | some p => .held p.2.1 p.1 (lowest g.amask) p.2.2.1
  | none =>
    match ps.find? (fun p => softAt s p.2.1 8) with
    | some p => .fault ⟨cSOFTERR, p.1, lowest g.amask, p.2.2.1⟩
    | none => .ok ps

/-- The ordinary EXIT of the threads of the active mask (R249). Where it leaves only entries whose MASK has become 0, no thread is left, and
the group ends (DESIGN CHOICE, log entry 112). -/
def exitThreads (s0 : State) (x : Ctx) (t : State) : State :=
  let g := t.cur
  let root := instRoot t g.inst
  (checkAll t x.core root (lowest g.amask) 8 .write (spilledMasks g)).orElse s0 t (fun qs =>
    (readyMasks t x.core x.slot g qs).orElse s0 t (fun ps =>
    let g1 := { g with stack := g.stack.map (fun e => { e with mask := e.mask &&& ~~~g.amask }) }
    let g2 := rewriteMasks t x.core g1 g.amask ps
    let t1 := t.setCur g2
    (popLive t1 x.core x.slot (popFuel g2) g2).orElse s0 t (fun r =>
      match r.1 with
      | none => endGroup (commitGroup x (t.setCur { r.2 with mon := none, monHit := false }) id) x.core x.slot
      | some e =>
        (entryPc t1 x.core root e).orElse s0 t (fun pc =>
          commitTo x (t.setCur { r.2 with mon := none, monHit := false }) pc (fun k => loadEntry k e)))))

/-- EXIT (R249); with SACT it kills the task (R354). -/
def execExit (s : State) : Out :=
  startGroup s plainUni (fun x t =>
    if hSact x.src then
      let f := instrFault t ⟨BitVec.ofNat 8 (fnat x.src.hndl 47 40), 0, fnat x.src.hndl 39 34, 0⟩
      killTask t (instTask t x.src.inst) x.src.inst f
    else exitThreads s x t)

/-! ### Traps and their return (R352, R353) -/

/-- The executing group takes a trap at its next slot. -/
def trapAfter (s : State) (code : BitVec 8) : State :=
  if s.focus.step then
    s.updCur (fun g => { g with halt := g.halt.map (fun h => { h with stepErr := true, cause := code }) })
  else
    let g := s.cur
    takeTrap s s.focus.core s.focus.slot
      { instrFault s ⟨code, 0, lowest g.amask, 0⟩ with pc := g.nextPc }

/-- TRAP: XWORD receives the whole word, with the code in its low half (R352). -/
def execTrap (i : BitVec 16) (s : State) : Out :=
  startGroup { s with focus := { s.focus with word := (0x0C00#16 ++ i : BitVec (16 + 16)) } } plainUni
    (fun _ t => trapAfter t cSWTRAP)

/-- Copies of the group whose fault a handler has dealt with resume (R155). -/
def resumeCopies (s : State) (core slot : Nat) : State :=
  let i := (s.group core slot).inst
  s.updCore core (fun c => { c with copies := c.copies.map (fun e =>
    (e.1, if decide (e.2.inst = i) && e.2.side.isNone && decide (fnat e.2.rec_ 41 36 = slot) &&
        (match e.2.stopped with | some f => f.kill | none => false) then { e.2 with stopped := none } else e.2)) })

/-- The return of R196 and R353: pops the top entry whatever its kind. -/
def returnFrom (s0 : State) (x : Ctx) (t : State) (skip : Bool) : State :=
  let g := t.cur
  if g.stack.isEmpty && spillUsed g = 0 then trapCode t cILLEGAL
  else
    (popEntry t x.core x.slot g).orElse s0 t (fun r =>
      match r.1 with
      | none => trapCode t cILLEGAL
      | some e =>
        (if skip then slotAfter t x.core (instRoot t g.inst) e.pc else .ok e.pc).orElse s0 t (fun pc =>
          let sup := hSact g
          let t1 := if sup then resumeCopies (t.setCur r.2) x.core x.slot else t.setCur r.2
          commitTo x t1 pc (fun k => { loadEntry k e with hndl := setBit k.hndl (if sup then 32 else 33) false })))

/-- RTE, continuing at the entry's PC (R353). -/
def execRte (s : State) : Out := startGroup s plainUni (fun x t => returnFrom s x t false)

/-- RTE, the skip form (R353). -/
def execRteSkip (s : State) : Out := startGroup s plainUni (fun x t => returnFrom s x t true)

/-- A word with no instruction, or with an unused field that is not zero, takes the illegal-encoding path (R218, R225). -/
def execIllegalEncoding (word : BitVec 32) (s : State) : Out :=
  let t := { s with focus := { s.focus with word := word } }
  startGroup t { plainUni with legal := false } (fun _ u => u)

/-! ### MODE and FMT (R251) -/

/-- Writes MODE, or takes the illegal-encoding path on a reserved value (R127, R222). -/
def setModeTo (x : Ctx) (t : State) (v : Word) : State :=
  if modeOk v then commitGroup x t (fun g => { g with mode := v }) else trapCode t cILLEGAL

/-- Writes FMT, or takes the illegal-encoding path on a reserved value (R132, R224). -/
def setFmtTo (x : Ctx) (t : State) (v : Word) : State :=
  if fmtOk v then commitGroup x t (fun g => { g with fmt := v }) else trapCode t cILLEGAL

/-- SETMODE, immediate form (R226, R251). -/
def execSetmodeI (i : BitVec 15) (s : State) : Out :=
  startGroup s plainUni (fun x t => setModeTo x t (i ++ 0#17 : BitVec (15 + 17)))

/-- SETMODE from a scalar or a special value (R251). -/
def execSetmode (a : BitVec 8) (s : State) : Out :=
  startGroup s (uniShape (isUni a) [a] [a]) (fun x t => setModeTo x t (x.uni a))

/-- SETFMT (R251). -/
def execSetfmt (a : BitVec 8) (s : State) : Out :=
  startGroup s (uniShape (isUni a) [a] [a]) (fun x t => setFmtTo x t (x.uni a))

/-- GETMODE (R251). -/
def execGetmode (d : BitVec 8) (m : BitVec 1) (s : State) : Out :=
  startGroup s (uniShape (isScal d) [d] []) (fun x t =>
    commitScal x t d (if m = 1 then x.src.fmt else x.src.mode) none)

/-! ### LDTAB (R126, R252) -/

/-- LDTAB (R126, R252). -/
def execLdtab (k : BitVec 4) (a : BitVec 8) (s : State) : Out :=
  startGroup s (mkShape .memory (isScalPair a) [a, a + 1] [a, a + 1] true) (fun x t =>
    if x.act = 0 then commitGroup x t id
    else
      let va := x.src.s64 a
      let fail := fun c ar => trap t ⟨c, va, x.low, ar⟩
      match check t x.core (instRoot t x.src.inst) va 128 .read with
      | .fault c ar => fail c ar
      | .wait l => waitXlat s l
      | .ok pa ar gn rg =>
        match find (t.core x.core).tabOwn k.toNat with
        | some i => if i = x.src.inst then ldtabRead s x t k va pa ar gn rg else fail cTABBUSY 0
        | none => ldtabRead s x t k va pa ar gn rg)
where
  /-- The read and the write of the slot. -/
  ldtabRead (s0 : State) (x : Ctx) (t : State) (k : BitVec 4) (va : BitVec 64) (pa : Nat) (ar : BitVec 12) (gn : BitVec 4)
      (rg : BitVec 2) : State :=
    let g := t.cur
    if readHeld t x.core x.slot g pa 128 then retry s0 (.held pa va x.low ar)
    else if softAt t pa 128 then trap t ⟨cSOFTERR, va, x.low, ar⟩
    else
      let w0 := watch t x.core x.slot 0 x.src.pc [⟨x.low, [va.setWidth 32], va.extractLsb' 32 16, some ar⟩]
      let h := Hit.join x.hit w0.2
      let held : BitVec 64 := match h with | some y => y.held | none => 0
      if held != 0 then retire w0.1 (h.map (fun y => { y with held := x.act })) 0
      else
        let bs := (List.range 128).map (fun i => loadByte w0.1 x.core g g.nextAcc (pa + i))
        let t1 := placeLoad w0.1 x.core { Access.zero with addr := pa, size := 128, arena := ar, gen := gn, regn := rg }
        let t2 := (addAsks t1 x.core [{ askFor x.slot g.nextOp x.low pa 1 false false ar gn rg with secs := 3 <<< (pa % 256 / 64) }]).updCore x.core (fun c => { c with
          tabs := (List.range 64).foldl (fun m i => zset m (64 * k.toNat + i) (ofBytes 16 ((bs.drop (2 * i)).take 2))) c.tabs
          tabOwn := put c.tabOwn k.toNat x.src.inst })
        retire t2 h 0

/-! ### Register blocks (R108, R109, R265, R266) -/

/-- The grant of R108: `k` blocks are free in the pool, the budgets allow them, and no earlier waiter remains. -/
def canGrant (s : State) (core slot k : Nat) : Bool :=
  let c := s.core core
  let p := slot / 16
  decide (k ≤ poolFree c p) && hasRoom s (instRegion s (s.group core slot).inst) 0 0 k &&
  (match (c.part p).regwait with | [] => true | w :: _ => decide (w = slot))

/-- Grants `k` blocks to a group (R108, R71). -/
def grantBlocks (s : State) (core slot k : Nat) : State :=
  let s1 := s.updGroup core slot (fun g => takeBlocks g k)
  let s2 := addUse s1 (instRegion s1 (s1.group core slot).inst) 807 792 (k : Int)
  leaveList s2 core slot

/-- REGACQ (R108, R265). -/
def execRegacq (n : BitVec 16) (s : State) : Out :=
  startGroup s (uniShape (decide (n.toNat ≤ 8)) [] []) (fun x t =>
    let k := min n.toNat (freeSlots x.src).length
    if k = 0 then commitGroup x t id
    else if canGrant t x.core x.slot k then commitGroup x (grantBlocks t x.core x.slot k) id
    else
      (enterWait x t (.regacq k)).updCore x.core (fun c =>
        let p := c.part (x.slot / 16); c.setPart (x.slot / 16) { p with regwait := p.regwait ++ [x.slot] }))

/-- REGREL (R265). -/
def execRegrel (n : BitVec 16) (s : State) : Out :=
  startGroup s (uniShape (decide (n.toNat ≤ 8)) [] []) (fun x t =>
    let k := min n.toNat (popcount x.src.xheld)
    commitUni x t [] [] none (fun u =>
      releaseBlocks (addUse u (instRegion u x.src.inst) 807 792 (-(k : Int))) x.core x.slot k))

/-- The slots of a core that a mask of RVDONATE names in a partition. -/
def donateSlots (part : Nat) (m : BitVec 16) : List Nat := (bitsOf m).map (fun j => 16 * part + j)

/-- RVDONATE (R109, R266). -/
def execRvdonate (d a b : BitVec 8) (s : State) : Out :=
  startGroup s (uniShape (isScal d && isUni a && isUni b) [d, a, b] [a, b]) (fun x t =>
    let m : BitVec 16 := (x.uni a).setWidth 16
    let offer := min (fnat (x.uni b) 3 0) (popcount x.src.xheld)
    let ask := min (fnat (x.uni b) 7 4) (freeSlots x.src).length
    let named := donateSlots (x.slot / 16) m
    let ok := named.contains x.slot && named.all (fun k =>
      let g := t.group x.core k
      g.resident && !g.ended && decide (g.inst = x.src.inst))
    if !ok then commitScal x t d 0x80000000 none
    else enterWait x t (.rvdonate m offer ask d))

end Sys2Proof.Machine
end

