-- ==== Sys2Proof/Machine/Waits.lean ====
section
/-! DEFINITION. LOAD, the faults of accesses that come later, and the events that end waits: page walks, barriers, tags, counters, register blocks, pairs, monitors, and the event
matrix (R108, R109, R113, R118 to R120, R173, R183 to R187, R194, R200, R211, R264 to R266, R364, R371). -/
namespace Sys2Proof.Machine

/-! ### Walks (R210, R211) -/

/-- The entries of a TLB that map nothing of a new entry's page. -/
def apart (l : List TlbEntry) (e : TlbEntry) : List TlbEntry :=
  l.filter (fun x => !(decide (x.root = e.root) && decide (x.base < e.base + e.size) && decide (e.base < x.base + x.size)))

/-- A core's TLB with a new entry; the oldest of its 128 makes way when it is full (R210; log entry 12). -/
def fillTlb (l : List TlbEntry) (e : TlbEntry) : List TlbEntry :=
  let l1 := apart l e
  if l1.length < 128 then l1 ++ [e] else l1.drop 1 ++ [e]

/-- A cluster's TLB with a new entry; the oldest of the 16 ways of its set makes way when they are full (R210; log entry 12). -/
def fillClus (l : List TlbEntry) (e : TlbEntry) : List TlbEntry :=
  let l1 := apart l e
  let peer := fun (x : TlbEntry) => decide (tlbSet x.size x.base = tlbSet e.size e.base)
  if (l1.filter peer).length < 16 then l1 ++ [e] else removeFirst peer l1 ++ [e]

/-- The 64 non-leaf entries of a cluster with those that a walk has read; the oldest make way. -/
def fillUpper (l new : List NonLeaf) : List NonLeaf :=
  let m := l.filter (fun u => !(new.any (fun v => decide (v.root = u.root) && decide (v.level = u.level) && decide (v.part = u.part)))) ++ new
  m.drop (m.length - 64)

/-- A missing page lies in the page of an entry. -/
def inEntry (e : TlbEntry) (root : BitVec 30) (pg : Nat) : Bool :=
  decide (root = e.root) && decide (e.base ≤ pg * 4096) && decide (pg * 4096 < e.base + e.size)

/-- The attribute in force of a page is noted with its first walk (R43). -/
def noteAttr (s : State) (e : TlbEntry) : State :=
  { s with attrs := (pteKeys e.size e.src).foldl (fun m k => if zget m k = 0 then zset m k ((pteRegn e.pte).setWidth 3 + 1) else m) s.attrs }

/-- A walk that has found its page: the cluster's TLB and those of every core that waits for it are filled, and the misses end. -/
def walkFills (s : State) (k : Nat) (e : TlbEntry) (new : List NonLeaf) : State :=
  let u := s.cluster k
  let done := u.walks.filter (fun w => inEntry e w.root w.page)
  let v : Cluster := ⟨fillClus u.tlb e, fillUpper u.upper new, u.walks.filter (fun w => !(inEntry e w.root w.page))⟩
  let s1 := noteAttr { s with clus := put s.clus k v } e
  (done.flatMap (fun w => w.cores)).dedup.foldl (fun t c => t.updCore c (fun d =>
    { d with tlb := fillTlb d.tlb e, miss := d.miss.filter (fun m => !(inEntry e m.1 m.2)) })) s1

/-- A walk that has found no page: the misses end, and the checks that wait for it meet the cause (R207; log entry 12). -/
def walkEnds (s : State) (k : Nat) (w : Walk) : State :=
  let u := s.cluster k
  w.cores.foldl (fun t c => t.updCore c (fun d => { d with miss := d.miss.filter (fun m => decide (m ≠ (w.root, w.page))) }))
    { s with clus := put s.clus k { u with walks := u.walks.filter (fun x => decide (x ≠ w)) } }

/-- WALK_COMPLETE: one of the cluster's 16 walkers, which take the missing pages in order of arrival, has ended its walk of the page of a
virtual address for a core of the cluster (R211). -/
def execWalkComplete (core root va : Nat) (s : State) : Out :=
  let k := core / 8
  let u := s.cluster k
  match (u.walks.take 16).find? (fun w => decide (w.root = BitVec.ofNat 30 root) && decide (w.page = va % 2 ^ 48 / 4096)) with
  | none => .next s
  | some w =>
    match walk s u.upper w.root (w.page * 4096) with
    | .error _ => .next (walkEnds s k w)
    | .ok e => .next (walkFills s k e (walkUppers s u.upper w.root (w.page * 4096)))

/-! ### A trap that a waiting group takes -/

/-- The word at a PC of a group. -/
def wordAt (s : State) (core slot : Nat) (pc : BitVec 48) : Word :=
  match physical s core (instRoot s (s.group core slot).inst) ((BitVec.ofNat 48 (pcPacket pc)).signExtend 64) with
  | some pa => (packetWords s pa).getD (pcSlot pc) 0
  | none => 0

/-- A group whose step fails while it waits: the step has had no effect, and the group stays halted with the cause (R350). -/
def failStep (g : Group) (h : Halt) (code : BitVec 8) : Group :=
  let k := match h.undo with
    | some u => { g with stack := u.1, spill := u.2.1, amask := u.2.2 }
    | none => g
  { k with
    wait := .none, split := g.split ||| g.rest, rest := 0
    halt := some { h with stepErr := true, cause := code, stepWait := false, stepThr := none, undo := none } }

/-- A cause that ends a wait: the PC that it records, and the PC of the instruction that it concerns, whose word the X registers hold
(R197). A step that fails so leaves the group halted (R350). -/
def eventTrap (s : State) (core slot : Nat) (c : Cause) (pc at_ : BitVec 48) : State :=
  let s1 := leaveList s core slot
  let g := s1.group core slot
  let f : FaultInfo := { cause := c.code, fva := c.fva, pc := pc, thr := c.thr, arena := c.arena, word := wordAt s core slot at_
                         kill := false, core := core, slot := slot }
  match g.halt with
  | some h => if h.stepWait then s1.setGroup core slot (failStep g h c.code) else takeTrap (s1.setGroup core slot { g with wait := .none }) core slot f
  | none => takeTrap (s1.setGroup core slot { g with wait := .none }) core slot f

/-! ### Barriers, tags and counters (R183, R184, R186) -/

/-- A cause that the barrier of a waiting WAITPH brings, at the address that the instruction names (R298). -/
def barCause (s : State) (core slot : Nat) (code : BitVec 8) : Cause :=
  let g := s.group core slot
  let va := g.s64 ((wordAt s core slot g.pc).extractLsb' 8 8)
  ⟨code, va, lowest g.amask, match checkNow s core (instRoot s g.inst) va 16 .read with | .ok _ a _ _ => a | _ => 0⟩

/-- WAITPH_END; a barrier whose data have a soft error is read with SOFTERR (R191). -/
def execWaitphEnd (core slot : Nat) (s : State) : Out :=
  match (s.group core slot).wait with
  | .waitph addr scr phase d =>
    match phaseEnd s core slot addr scr phase with
    | some st =>
      if barSoft s scr addr then .next (eventTrap s core slot (barCause s core slot cSOFTERR) (s.group core slot).pc (s.group core slot).pc)
      else .next (endWait ((selfInv s core).updGroup core slot (fun g => writeScal g d (BitVec.ofNat 32 st))) core slot)
    | none => .next s
  | _ => .next s

/-- TAG_WAIT_END. -/
def execTagWaitEnd (core slot : Nat) (s : State) : Out :=
  match (s.group core slot).wait with
  | .tags m all => if tagsMeet (s.core core).tags m all then .next (endWait (selfInv s core) core slot) else .next s
  | _ => .next s

/-- CNTWAIT_END. -/
def execCntwaitEnd (core slot : Nat) (s : State) : Out :=
  let g := s.group core slot
  match g.wait with
  | .cnt cls n => if g.count cls ≤ n then .next (endWait (selfInv s core) core slot) else .next s
  | _ => .next s

/-! ### Register blocks (R108, R109, R266) -/

/-- REGACQ_GRANT: a request that has been withdrawn leaves the list. -/
def execRegacqGrant (core slot : Nat) (s : State) : Out :=
  match (s.group core slot).wait with
  | .regacq k => if canGrant s core slot k then .next (endWait (grantBlocks s core slot k) core slot) else .next s
  | _ => .next (leaveList s core slot)

/-- The registers of a slot, apart from the slot's place. -/
def slotContents (g : Group) (k : Nat) : ZMap 32 :=
  (g.vectors.filter (fun e => decide (slotKey k ≤ e.1) && decide (e.1 < slotKey (k + 1)))).map (fun e => (e.1 - slotKey k, e.2))

/-- A block with contents goes into the lowest free slot. -/
def placeBlock (g : Group) (v : ZMap 32) : Group :=
  match freeSlots g with
  | [] => g
  | k :: _ =>
    let h := clearSlot g k
    { h with xheld := setBit h.xheld k true, vectors := v.foldl (fun m e => zset m (slotKey k + e.1) e.2) h.vectors }

/-- A participant of a rendezvous: its slot, offer, request and destination. -/
structure Donor where
  slot  : Nat
  offer : Nat
  ask   : Nat
  dst   : BitVec 8
  deriving DecidableEq, Repr

/-- The participants among some slots that wait with a mask. -/
def donors (c : Core) (m : BitVec 16) (slots : List Nat) : List Donor :=
  slots.filterMap (fun k =>
    match (c.group k).wait with
    | .rvdonate n o a d => if n = m then some ⟨k, o, a, d⟩ else none
    | _ => none)

/-- Shares of a total, each up to its own bound, in order. -/
def shareOut (l : List Nat) (total : Nat) : List Nat :=
  match l with
  | [] => []
  | n :: r => Nat.min n total :: shareOut r (total - Nat.min n total)

/-- The blocks move from donors to recipients; each participant learns what it gave and received (R109). DESIGN CHOICE (log entry 76): a
group that both offers and receives gives first, so that a block may come into a slot that it has just given up. A result still owed to
a register of a donated block is discarded, as for a released slot (DESIGN CHOICE, log entry 108). -/
def moveBlocks (s : State) (core : Nat) (l : List Donor) : State :=
  let total := Nat.min ((l.map (fun e => e.offer)).sum) ((l.map (fun e => e.ask)).sum)
  let gives := shareOut (l.map (fun e => e.offer)) total
  let takes := shareOut (l.map (fun e => e.ask)) total
  let blocks := (l.zip gives).flatMap (fun e => ((heldSlots (s.group core e.1.slot)).take e.2).map (slotContents (s.group core e.1.slot)))
  let s1 := (l.zip gives).foldl (fun t e => releaseBlocks t core e.1.slot e.2) s
  let s2 := ((l.zip takes).foldl (fun (p : State × List (ZMap 32)) e =>
    (p.1.updGroup core e.1.slot (fun g => (p.2.take e.2).foldl placeBlock g), p.2.drop e.2)) (s1, blocks)).1
  (l.zip (gives.zip takes)).foldl (fun t e =>
    let v : Word := BitVec.ofNat 32 (e.2.1 + 16 * e.2.2)
    endShown t core e.1.slot [v] (fun g => writeScal g e.1.dst v)) s2

/-- RVDONATE_TRANSFER: the last named group has arrived; or one has exited, and every participant completes with no transfer. -/
def execRvdonateTransfer (core slot : Nat) (s : State) : Out :=
  match (s.group core slot).wait with
  | .rvdonate m _ _ _ =>
    let c := s.core core
    let i := (c.group slot).inst
    let named := donateSlots (slot / 16) m
    let l := (donors c m named).filter (fun e => decide ((c.group e.slot).inst = i))
    let gone := named.any (fun k => let g := c.group k; !g.resident || g.ended || decide (g.inst ≠ i))
    if gone then
      .next (l.foldl (fun t e => endShown t core e.slot [0] (fun g => writeScal g e.dst 0)) s)
    else if l.length = named.length then .next (moveBlocks s core l)
    else .next s
  | _ => .next s

/-! ### Cluster pairs (R113, R263, R264) -/

/-- XPAIR_BIND: both groups name each other; or the partner names another group or has exited, and the XPAIR completes unbound. -/
def execXpairBind (core slot : Nat) (s : State) : Out :=
  let g := s.group core slot
  match g.wait with
  | .xpair pc pg =>
    let h := s.group pc pg
    if !h.resident || h.ended || decide (h.inst ≠ g.inst) then .next (endWait s core slot)
    else
      match h.wait with
      | .xpair qc qg =>
        if qc = core ∧ qg = slot then
          let s1 := (s.updGroup core slot (fun k => { k with pair := some (pc, pg) })).updGroup pc pg (fun k => { k with pair := some (core, slot) })
          .next (endWait (endWait s1 core slot) pc pg)
        else .next (endWait s core slot)
      | _ => .next s
  | _ => .next s

/-- One group's side of an exchange: the values arrive, are shown to the watch predicates and are written (R328, R344, R346). -/
def shuffleInto (s : State) (core slot : Nat) (d : BitVec 8) (vs : List (Nat × Word)) : State :=
  let g := s.group core slot
  let w := watchApart s g.started core slot 3 g.pc (inStep g) (vs.map (fun e => ⟨e.1, [e.2], 0, none⟩))
  let held : BitVec 64 := match w.2 with | some h => h.held | none => 0
  let s1 := w.1.updGroup core slot (fun k => writeLanes k d (vs.filter (fun e => !(bit held e.1))))
  match w.2 with
  | none => endWait s1 core slot
  | some h =>
    let s2 := if held = 0 then endWait s1 core slot else s1.updGroup core slot (fun k => { k with split := held ||| k.rest, rest := 0, wait := .none })
    haltGroup s2 core slot (joinHalt g h) 0 0

/-- XSHFL_EXCHANGE: both groups of the binding have arrived; or the binding has ended, and the XSHFL takes PAIRBROKEN. -/
def execXshflExchange (core slot : Nat) (s : State) : Out :=
  let g := s.group core slot
  match g.wait with
  | .xshfl a d act =>
    match g.pair with
    | none => .next (eventTrap s core slot ⟨cPAIRBROKEN, 0, lowest g.amask, 0⟩ g.pc g.pc)
    | some (pc, pg) =>
      let h := s.group pc pg
      match h.wait with
      | .xshfl b e act2 =>
        if h.pair = some (core, slot) then
          let ts := bitsOf (act &&& act2)
          let mine := ts.map (fun t => (t, h.vec b.toNat t))
          let theirs := ts.map (fun t => (t, g.vec a.toNat t))
          .next (shuffleInto (shuffleInto s core slot d mine) pc pg e theirs)
        else .next s
      | _ => .next s
  | _ => .next s

/-! ### Monitors (R187, R200, R301) -/

/-- MWAIT_TIMEOUT: once its cycles have passed, the monitor is disarmed and the group takes MONTIME at the next instruction. -/
def execMwaitTimeout (core slot : Nat) (s : State) : Out :=
  let g := s.group core slot
  match g.wait with
  | .mwait =>
    if g.monHit || g.mrem != 0 then .next s
    else
      let s1 := s.setGroup core slot { g with mon := none, monHit := false, mrem := 0 }
      .next (eventTrap s1 core slot ⟨cMONTIME, 0, lowest g.amask, 0⟩ g.nextPc g.pc)
  | _ => .next s

/-- Every MWAIT whose line has been written ends as an acquire (R187). -/
def endMonitors (s : State) : State :=
  (s.allGroups.filter (fun e => e.2.2.monHit && decide (e.2.2.wait = .mwait))).foldl (fun t e =>
    endWait ((selfInv t e.1).updGroup e.1 e.2.1 (fun g => { g with mon := none, monHit := false, mrem := 0 })) e.1 e.2.1) s

/-! ### The event matrix (R118 to R120, R364, R371) -/

/-- A firing that nothing consumes at once: PEND counts it, or it is lost to saturation. -/
def pendFiring (c : Core) (sink : Nat) : Core :=
  let r := c.route sink
  { c with routes := zset c.routes sink (if fnat r 61 56 = 63 then setBit r 62 true else fput r 61 56 (fnat r 61 56 + 1)) }

/-- The oldest gated copy command that waits for a sink. -/
def gatedCopy (c : Core) (sink : Nat) : Option Nat :=
  (argmin (fun e => e.2.order) (c.copies.filter (fun e => !e.2.started && decide (fnat e.2.rec_ 35 33 + 2 = sink)))).map Prod.fst

/-- A firing's credit of the barrier at PARAM; one that fails its checks is discarded, and the holder is parked (R364). -/
def creditFiring (s : State) (core i sink : Nat) : Option State :=
  let va := barAddr (fget ((s.core core).route sink) 55 12)
  match creditAt s core i va 1 0 false with
  | .ok t => some t
  | .wait l => some ((noteHolds s core l).updCore core (fun c => { c with firings := sink :: c.firings }))
  | .held _ _ _ _ => none
  | .fault c => some (creditFails s core i c)

/-- What a sink does with a firing (R119). -/
def consumeFiring (s : State) (core i sink : Nat) : Option State :=
  let c := s.core core
  if sink ≤ 1 then
    if (c.side (decide (sink = 1))).status = 2 then some (sideWake s core (decide (sink = 1)) c)
    else some (s.setCore core (pendFiring c sink))
  else if sink ≤ 9 then
    match gatedCopy c sink with
    | some k =>
      some (s.updCore core (fun d => match find d.copies k with
        | some y => { d with copies := put d.copies k { y with started := true } }
        | none => d))
    | none => some (s.setCore core (pendFiring c sink))
  else if sink ≤ 11 then some ((releaseGate s core sink).getD (s.setCore core (pendFiring c sink)))
  else creditFiring s core i sink

/-- EVENT_FIRING. -/
def execEventFiring (core sink : Nat) (s : State) : Out :=
  let c := s.core core
  if !(c.firings.contains sink) then .next s
  else
    let s1 := s.setCore core { c with firings := removeFirst (fun k => decide (k = sink)) c.firings }
    match c.sideOwn with
    | none => .next s1
    | some i => .next ((consumeFiring s1 core i sink).getD s)

/-- SIDE_TIMER_EXPIRY. -/
def execSideTimerExpiry (core : Nat) (s : State) : Out :=
  if (s.core core).timer.isSome then .next (pulse (s.updCore core (fun c => { c with timer := none })) core 30) else .next s

/-! ### Held accesses and pages (R190, R201, R335) -/

/-- An access of a group is held at a line that another group holds locked. -/
def accessHeld (s : State) (core slot : Nat) (a : Access) : Bool :=
  !a.scr && !a.perf && !(isFence a) && decide (a.addr < 2 ^ 40) && heldByOther s core slot (lineOf a.addr)

/-- Takes an access and its request out of the machine: it is not performed. -/
def abandonAccess (s : State) (core slot : Nat) (a : Access) : State :=
  let mine := fun (p : Packet) =>
    decide (p.core.toNat = core) && decide (p.grp.toNat = slot) && [0x04, 0x08, 0x09].contains p.op.toNat && decide (accOfPkt s p = some a.id)
  let s1 := { s with
    net := s.net.filter (fun x => !(mine x.pkt)), wq := s.wq.filter (fun (e : WqEntry) => decide (e.src ≠ WqFrom.group core slot a.id)) }
  (s1.updCore core (fun c => { c with reqs := c.reqs.filter (fun r => !(mine r.pkt)) })).updGroup core slot
    (fun g => dropAccess (countAccess g a) a)

/-- A fault of an access after its instruction's start: its parts that are not performed are dropped, and the group takes the cause
at the access's own instruction (R194; log entry 62). A group in LOCK first sends ABSENT, and an operation that others still answer
comes to its end first. -/
def accessFault (s : State) (core slot : Nat) (a : Access) (code : BitVec 8) : State :=
  let g := s.group core slot
  let rest := g.accs.filter (fun b => decide (b.op = a.op) && !b.perf && (!b.sent || decide (b.id = a.id)))
  let go := eventTrap (rest.foldl (fun t b => abandonAccess t core slot b) s) core slot ⟨code, a.va, a.thr, a.arena⟩ a.pc a.pc
  match g.wait with
  | .lock _ _ _ _ => interruptWait s core slot
  | .lkrq 7 _ _ _ => go
  | w => if keepsWaiting w then s else go

/-- The lock-hold timeout of an access (R335). -/
def holdFault (s : State) (core slot : Nat) (a : Access) : State := accessFault s core slot a cLOCKHOLD

/-- A pop that waited is performed: its threads take entries, and what they receive is written unless the group has exited (R250,
R300). Once the group's herd has left the core its queues have been discarded, and the next holder's are not touched (R114, R117). -/
def popLate (s : State) (core slot q : Nat) (a : Access) : State :=
  let ts := if a.uni then [a.thr] else bitsOf a.mask
  if !(sideHeld s core slot) then finishAccess s core slot a
  else match a.dst, a.pred with
  | d :: _, some p =>
    let r := popEntries { s with focus := { s.focus with step := a.step } } (some a.born) core slot q a.pc ts
    let s1 := (popTaken r core slot q).updGroup core slot (fun k => popWrites k d p a.uni a.mask r)
    lateHalt (finishAccess { s1 with focus := s.focus } core slot a) core slot r.hit 0 a.pc
  | _, _ =>
    let items := (((s.core core).queue q).items).take ts.length
    finishAccess (popTaken ⟨s, [], ts.zip items, [], none⟩ core slot q) core slot a

/-- LOAD (R173, R179, R190, R300). -/
def execLoad (core slot acc : Nat) (soft : Bool) (s : State) : Out :=
  let g := s.group core slot
  match accOf g acc with
  | none => .next s
  | some a =>
    if decide (a.kind = .load) && !a.perf && mayPerform g.accs a && (a.scr || !(heldByOther s core slot (lineOf a.addr))) then
      if soft && !a.scr && !g.ended && writtenAt s a.addr a.size then .next (if g.halt.isNone then accessFault s core slot a cSOFTERR else s)
      else
      let s1 := prepareLoad s core a
      let bs := loadBytes s1 core slot a
      let s2 := placeLoad s1 core a
      let s3 := if a.acq then selfInv s2 core else s2
      .next (finishAccess (arriveDatum s3 core slot a bs) core slot a)
    else
      match a.kind with
      | .pop q => .next (if !a.perf && mayPerform g.accs a then popLate s core slot q a else s)
      | _ => .next s

/-- An atomic, a reduction or a barrier operation of a group reads data with an uncorrectable soft error (R157, R191). -/
def wqSoft (s : State) (e : WqEntry) : Option (Nat × Nat × Access) :=
  match e.kind, e.src with
  | .atomic _, .group c g acc => if bad then (accOf (s.group c g) acc).map (fun a => (c, g, a)) else none
  | .reduce _, .group c g acc => if bad then (accOf (s.group c g) acc).map (fun a => (c, g, a)) else none
  | .barArr _, .group c g acc => if bad then (accOf (s.group c g) acc).map (fun a => (c, g, a)) else none
  | .barExp, .group c g acc => if bad then (accOf (s.group c g) acc).map (fun a => (c, g, a)) else none
  | _, _ => none
where
  bad : Bool := !(wqStale s e) && softAt s e.addr e.size

/-- WQPERF (R157, R176); an operation that meets a soft error is not performed, and its group takes SOFTERR (R191). -/
def execWqperf (line : Nat) (s : State) : Out :=
  match s.wq.find? (fun e => decide (lineOf e.addr = line)) with
  | none => .next s
  | some e =>
    if wqHeld s e then .next s
    else
      let r := wqApply { s with wq := removeFirst (fun f => decide (lineOf f.addr = line)) s.wq } e
      match wqSoft s e with
      | some (c, g, a) => .next (if (s.group c g).ended then wqReply r.2 e r.1
          else if (s.group c g).halt.isNone then accessFault s c g a cSOFTERR else s)
      | none => .next (wqReply r.2 e r.1)

/-- The line at which a copy stands, its next source line or its next destination line, and what its checks give. -/
def copyAt (s : State) (core : Nat) (y : Copy) (src : Bool) : Option (BitVec 64 × Xlat) :=
  let at_ := if src then copySrc y + y.rd else copyDst y + (copyLen y - copyRem y)
  let left := if src then copyLen y - y.rd else copyRem y
  if left = 0 then none
  else if (if src then srcScr (copyDir y) else dstScr (copyDir y)) then
    some (BitVec.ofNat 64 at_, scrPages s core y.inst at_ (Nat.min (256 - at_ % 256) left))
  else some (copyVa at_, check s core (instRoot s y.inst) (copyVa at_) 4 (if src then .read else .write))

/-- The first of a copy's two lines that a test selects. -/
def copyStuck (s : State) (core : Nat) (y : Copy) (p : Xlat → Bool) : Option (BitVec 64 × Xlat) :=
  if !(copyRuns s y) then none else [true, false].findSome? (fun b => match copyAt s core y b with
    | some r => if p r.2 then some r else none
    | none => none)

/-- A copy line held at a locked line stops with LOCKHOLD (R155). -/
def copyHoldFault (s : State) (core k : Nat) (y : Copy) : State :=
  match copyStuck s core y (fun r => match r with | .ok pa _ _ _ => heldLine s (lineOf pa) | _ => false) with
  | some (va, .ok _ ar _ _) => copyStop s core k y ⟨cLOCKHOLD, va, 0, ar⟩
  | _ => s

/-! ### What is waited for in vain (R149, R191, R201) -/

/-- The cause that a failed wait brings: PAGEWAIT for a coherence page, SOFTERR for a fill. -/
def holdCode (h : Hold) : BitVec 8 := match h with | .fill _ _ _ => cSOFTERR | _ => cPAGEWAIT

/-- The machine in which what waits for `h` meets it with its cause. -/
def refusing (s : State) (h : Hold) : State := { s with focus := { s.focus with refused := some h } }

/-- A step of an engine in which it meets `h` with its cause. -/
def meeting (s : State) (h : Hold) (f : State → State) : State := { f (refusing s h) with focus := s.focus }

/-- Checks wait for `h`. -/
def xlatWaits (h : Hold) (r : Xlat) : Bool := match r with | .wait l => l.any (sameHold h) | _ => false

/-- A credit waits for `h`. -/
def creditWaits (h : Hold) (r : Res State) : Bool := match r with | .wait l => l.any (sameHold h) | _ => false

/-- A copy's line that waits for `h` stops the command, and its credit that does is discarded with its fault (R155, R157). -/
def copyMeets (s : State) (core k : Nat) (h : Hold) (y : Copy) : State :=
  match copyStuck s core y (xlatWaits h) with
  | some (va, _) =>
    match copyStuck (refusing s h) core y (fun r => match r with | .fault c _ => decide (c = holdCode h) | _ => false) with
    | some (_, .fault c ar) => copyStop s core k y ⟨c, va, 0, ar⟩
    | _ => s
  | none =>
    if copyRuns s y && decide (copyRem y = 0) && creditWaits h (copyCredit s core y) then meeting s h (fun t => copyFinish t core k y) else s

/-- The wait of a group for `h` fails: it runs its instruction again, which meets `h` with its cause. -/
def refuseWait (h : Hold) (g : Group) : Group :=
  match g.wait with
  | .xlat l => if l.any (sameHold h) then { g with wait := .refused h } else g
  | _ => g

/-- The same of a side core. -/
def refuseSide (h : Hold) (d : Side) : Side := if d.held.any (sameHold h) then { d with held := [], refused := some h } else d

/-- What a core's groups and side cores wait for in vain. -/
def refuseCore (h : Hold) (c : Core) : Core :=
  { c with
    groups := c.groups.map (fun (e : Nat × Group) => (e.1, refuseWait h e.2))
    loader := refuseSide h c.loader, storer := refuseSide h c.storer }

/-- A decoder meets `h` where its next read, its next line or its credit waits for it: a read fault, or the fault of its submitter. -/
def streamMeets (s : State) (h : Hold) (n : Nat) : State :=
  match decQueue s n with
  | [] => s
  | x :: _ =>
    let r := streamNext x
    let o := x.dst + x.done * x.landed.length + x.pos
    let left := x.landed.length - x.pos
    if decide (r.2 ≠ 0) && xlatWaits h (checkNow s x.core (instRoot s x.inst) r.1 1 .read) then meeting s h (fun t => decoderRead t n x)
    else if decide (left ≠ 0) && xlatWaits h (scrPages s x.dcore x.inst o (Nat.min (256 - o % 256) left)) then meeting s h (fun t => decoderLand t n x)
    else if !x.landed.isEmpty && decide (left = 0) && creditWaits h (creditAt s x.dcore x.inst (BitVec.ofNat 64 x.bar) 0 x.landed.length false) then
      meeting s h (fun t => decoderFinish t n x)
    else s

/-- A firing whose credit waits for `h` is discarded, and its holder parked (R364). -/
def firingMeets (s : State) (core sink : Nat) (h : Hold) : State :=
  match (s.core core).sideOwn with
  | none => s
  | some i =>
    let va := barAddr (fget ((s.core core).route sink) 55 12)
    if decide (12 ≤ sink) && creditWaits h (creditAt s core i va 1 0 false) then
      let s1 := s.updCore core (fun c => { c with firings := removeFirst (fun k => decide (k = sink)) c.firings })
      meeting s1 h (fun t => (creditFiring t core i sink).getD t)
    else s

/-- Everything that waits for `h` fails: groups and side cores as they run their instruction again, engines at once (R191, R201). -/
def failHold (s : State) (h : Hold) : State :=
  let s1 := { s with cores := s.cores.map (fun (k : Nat × Core) => (k.1, refuseCore h k.2)) }
  let s2 := s1.cores.foldl (fun t k => k.2.copies.foldl (fun u e => copyMeets u k.1 e.1 h e.2) t) s1
  let s3 := s2.cores.foldl (fun t k => k.2.firings.foldl (fun u n => firingMeets u k.1 n h) t) s2
  s3.decoders.foldl (fun t d => streamMeets t h d.1) s3

/-- The accesses held for a page fail (R201). -/
def failPage (s : State) (pg : Nat) : State :=
  failHold { s with pages := put s.pages pg { s.page pg with want := none, asked := none } } (.page pg false)

/-- The pages of scratchpads whose fill has ended with a soft error. -/
def softFills (s : State) : List (Nat × Nat × Nat) :=
  s.cores.flatMap (fun c => c.2.scratch.flatMap (fun e =>
    (e.2.soft.filter (fun p => !(engBusy s (.fill c.1 e.1 p)))).map (fun p => (c.1, e.1, p))))

/-- Such a page is Absent again, and what has waited for it meets SOFTERR (R149, R191). -/
def failFill (s : State) (f : Nat × Nat × Nat) : State :=
  failHold (s.updCore f.1 (fun c =>
    let sc := c.scratchOf f.2.1
    c.setScratch f.2.1 { sc with pages := zset sc.pages f.2.2 0, soft := sc.soft.filter (fun p => decide (p ≠ f.2.2)) }))
    (.fill f.1 f.2.1 f.2.2)

def settleFills (s : State) : State := (softFills s).foldl failFill s

end Sys2Proof.Machine
end

