-- ==== Sys2Proof/Machine/Coltos.lean ====
section
/-! DEFINITION. The Coltos commands, the sessions that order them, and the meaning of every message that arrives (R46 to R66,
R408 to R411). -/
namespace Sys2Proof.Machine

/-- What a command does when its turn comes: it is answered; it waits and is tried again; it is over and has no answer. -/
inductive Ran where
  | reply (s : State) (stat arg0 : Nat) (payload : List Byte)
  | wait (s : State)
  | gone (s : State)

def Ran.ok (s : State) : Ran := .reply s stOK 0 []
def Ran.bad (s : State) (stat : Nat) : Ran := .reply s stat 0 []

/-- A command that makes one access to a range of memory: it waits while the range is held (R44, R335). -/
def onRange (s : State) (pa len : Nat) (write : Bool) (k : Ran) : Ran :=
  if portHeld s pa len write then .wait (portWant s pa len write) else k

/-! ### Memory commands (R53, R411) -/

/-- A command that writes its payload to a range as WRB, and goes on once every home has answered ACK (R53). -/
def writes (s : State) (n : Nat) (m : Msg) (len : Nat) (k : State → Ran) : Ran :=
  let x := s.session n
  let pa := m.arg0.toNat
  if x.wrote then (if engBusy s (.session n) then .wait s else k s)
  else onRange s pa len true (.wait (portWrite (setSession s n { x with wrote := true }) m.port pa m.payload (.session n)))

def runMemwr (s : State) (n : Nat) (m : Msg) : Ran :=
  let pa := m.arg0.toNat
  if guarded pa m.payload.length then .bad s stBADARG
  else if !(inMemory pa m.payload.length) then .bad s stFAULT
  else writes s n m m.payload.length Ran.ok

def runMemrd (s : State) (pa n : Nat) : Ran :=
  if n = 0 ∨ 4064 < n then .bad s stBADARG
  else if !(inMemory pa n) then .bad s stFAULT
  else onRange s pa n false (if softAt s pa n then .bad (wakeHomes s pa n) stFAULT else .reply (wakeHomes s pa n) stOK 0 (homeBytes s pa n))

/-- The alignment and length that PTWR and CBWR require. -/
def blockRule (pa len unit : Nat) : Bool := decide (pa % unit = 0) && decide (len % unit = 0) && decide (len ≠ 0)

/-- The entries of a PTWR, each with its address. -/
def ptwrEntries (pa : Nat) (bs : List Byte) : List (Nat × BitVec 64) :=
  (List.range (bs.length / 8)).map (fun i => (pa + 8 * i, ofBytes 64 ((bs.drop (8 * i)).take 8)))

def isLeafPte (e : BitVec 64) : Bool := pteV e && pteLeaf e

/-- CBSYNC on an entry: the page that a leaf maps is flushed, and what was filled from the entry goes (R43, R53, R212). -/
def syncPte (s : State) (at_ : Nat) (e : BitVec 64) : State :=
  forgetPte (if isLeafPte e then flushPage s (ptePage e) (pteSize e) else s) at_

def runPtwr (s : State) (n : Nat) (m : Msg) : Ran :=
  let pa := m.arg0.toNat
  let bs := m.payload
  let es := ptwrEntries pa bs
  if !(blockRule pa bs.length 8) || guarded pa bs.length then .bad s stBADARG
  else if !(inMemory pa bs.length) then .bad s stFAULT
  else writes s n m bs.length (fun t =>
    if es.any (fun e => isLeafPte e.2 && !(queueClear t (ptePage e.2) (pteSize e.2))) then .wait t
    else .ok (es.foldl (fun u e => syncPte u e.1 e.2) t))

/-- The addresses on which a CBWR makes its CBSYNCs. -/
def cbwrAddrs (pa len : Nat) : List Nat :=
  (if pa % 256 = 0 then [] else [pa - 128]) ++ (List.range (len / 128)).map (fun i => pa + 128 * i)

def runCbwr (s : State) (n : Nat) (m : Msg) : Ran :=
  let pa := m.arg0.toNat
  let bs := m.payload
  if !(blockRule pa bs.length 128) || guarded pa bs.length then .bad s stBADARG
  else if !(inMemory pa bs.length) then .bad s stFAULT
  else writes s n m bs.length (fun t => .ok ((cbwrAddrs pa bs.length).foldl syncBlock t))

/-! ### ARTWR (R161) -/

/-- The SW fields of an entry but SWDATA: PARENT, VALID and QUOTA. -/
def swPart (e : ArenaEntry) : Nat × Bool × Nat := (aParent e, aValid e, aQuota e)

/-- One entry breaks no rule of R161. -/
def artwrOk (s : State) (n : Nat) (e : ArenaEntry) : Bool :=
  let c := s.arena n
  let p := s.arena (aParent e)
  (decide (n ≠ 0) || decide (swPart e = swPart c)) &&
  (!(aValid c) || (aValid e && decide (aParent e = aParent c))) &&
  (!(aValid e) || (!(aBusy c) && (decide (n = 0) || ((decide (aParent e = 0) || aValid p) && decide (aDepth p ≠ 8)))))

/-- One entry is written: the SW fields and SWDATA; one that becomes VALID gets its DEPTH and is not sealed. -/
def artwrPut (s : State) (n : Nat) (e : ArenaEntry) : State :=
  let c := s.arena n
  let new := aValid e && !(aValid c)
  let c1 := fput (fput (setBit (fput c 127 116 (aParent e)) 107 (aValid e)) 95 76 (aQuota e)) 63 0 (fnat e 63 0)
  s.setArena n (if new then setBit (fput c1 104 101 (aDepth (s.arena (aParent e)) + 1)) 106 false else c1)

/-- The entries in order, each checked on the table that the earlier ones leave; none if one of them breaks a rule. -/
def artwrAll (s : State) (n : Nat) (es : List ArenaEntry) : Option State :=
  match es with
  | [] => some s
  | e :: r => if artwrOk s n e then artwrAll (artwrPut s n e) (n + 1) r else none

def runArtwr (s : State) (a0 : Nat) (bs : List Byte) : Ran :=
  let n := bs.length / 16
  if decide (bs.length % 16 ≠ 0) || decide (n = 0) || decide (4096 < a0 + n) then .bad s stBADARG
  else
    match artwrAll s a0 ((List.range n).map (fun i => ofBytes 128 ((bs.drop (16 * i)).take 16))) with
    | some t => .ok t
    | none => .bad s stBADARG

/-! ### Tasks and regions (R53, R59, R75, R91, R410) -/

def runLaunch (s : State) (rcb tcb : Nat) : Ran :=
  if rcb % 256 ≠ 0 ∨ tcb % 128 ≠ 0 then .bad s stBADARG
  else if !(inMemory rcb 256) || !(inMemory tcb 128) then .bad s stFAULT
  else
    let t := tcb / 128
    let x := readTcb s t
    onRange s tcb 128 false
      (if tRcb x * 256 ≠ rcb then .bad s stBADARG
       else
         match admitTask s t x none with
         | some u => .ok u
         | none => .bad s stBADARG)

/-- MAIL (R59, R85). Its acceptance step is the launch, so one that waits for a slot arrives only then: launches that stores and copies
have made pending come first, and it takes the ordinal after theirs (DESIGN CHOICE, log entry 77). It is answered OK also where its launch
fails admission and leaves a KIND 4 record (DESIGN CHOICE, log entry 98). -/
def runMail (s : State) (n : Nat) (m : Msg) : Ran :=
  let pa := m.arg0.toNat
  if pa % 256 ≠ 0 ∨ 256 < m.payload.length then .bad s stBADARG
  else
    match mailboxOf s (pa / 256) with
    | none => .bad s stNOMBX
    | some (k, b) =>
      match freeMailSlot s b with
      | none => .wait s
      | some i => writes s n m 256 (fun t => let p := arriveAt t k b i; .ok (settleWork p.1 p.2))

/-- The region whose pre-emption in progress stops a region, and the die that collects for it. -/
def preemptOver (s : State) (r : Nat) : Option (Nat × Nat) :=
  (s.preempts.find? (fun p => (subtree s p.rcb).contains r)).map (fun p => (p.rcb, p.die))

/-- PREEMPT by the state of its region (R91); it is answered by COLLECTOR_COMPLETE where engines must stop first. -/
def runPreempt (s : State) (n : Nat) (m : Msg) : Ran :=
  let r := m.arg0.toNat / 256
  let die := m.port / 2
  if m.arg0.toNat % 256 ≠ 0 ∨ (find s.regions r).isNone then .bad s stBADARG
  else if s.preempts.any (fun p => decide (p.sess = some (n, m))) then .wait s
  else if rState (s.rcb r) = 3 then .ok s
  else if rState (s.rcb r) = 2 then
    let o := (preemptOver s r).getD (r, die)
    .wait { s with preempts := s.preempts ++ [{ rcb := o.1, die := o.2, sess := some (n, m) }] }
  else if rState (s.rcb r) = 0 then .ok (startPreempt s r 3)
  else
    let s1 := startPreempt s r 2
    .wait { s1 with preempts := s1.preempts ++ [{ rcb := r, die := die, sess := some (n, m) }] }

/-- The payload of QUERY (R410). -/
def queryBytes (s : State) (r : Nat) : List Byte :=
  let q := ovrRegion s r 610
  let x := s.rcb q
  let head := natOfBytes (homeBytes s (q * 256 + 132) 4)
  let at_ := fnat x 1055 1030 * 4096 + 64 * (head % 2 ^ fnat x 1029 1025)
  natBytes (rState (s.rcb r)) 4 ++ natBytes ((fnat x 1119 1088 + 2 ^ 32 - head) % 2 ^ 32) 4 ++ natBytes at_ 8 ++
    natBytes (fnat x 1151 1120) 4 ++ List.replicate 44 0

def runQuery (s : State) (pa : Nat) : Ran :=
  if pa % 256 ≠ 0 ∨ (find s.regions (pa / 256)).isNone then .bad s stBADARG else .reply s stOK 0 (queryBytes s (pa / 256))

def runAttest (s : State) (nonce : List Byte) : Ran :=
  if nonce.length ≠ 32 then .bad s stBADARG
  else .reply s stOK 0 (attestReport s nonce)

/-! ### RECCTL (R64, R66) -/

/-- A new mode: the reply carries OVERFLOW where recording had stopped. -/
def runMode (s : State) (r : Recorder) : Ran :=
  let t := { s with recorder := r }
  if s.recorder.mode = 3 then .reply t stOVERFLOW s.recorder.unrec.toNat [] else .ok t

/-- The ring of a RECCTL: its base and size, and the count where there is one (log entry 16). -/
def ringOk (base size : Nat) : Bool := decide (base % 4096 = 0) && decide (size % 4096 = 0)

/-- A ring that may be used. -/
def onRing (s : State) (base size : Nat) (k : Ran) : Ran :=
  if !(ringOk base size) || guarded base size then .bad s stBADARG else if !(inMemory base size) then .bad s stFAULT else k

/-- RECCTL (R64). Where recording had stopped, a RECCTL that is answered BADARG or FAULT keeps its status, and OVERFLOW goes with the next
one that is accepted (DESIGN CHOICE, log entry 83). -/
def runRecctl (s : State) (n : Nat) (m : Msg) : Ran :=
  let base := m.arg0.toNat
  let size := natOfBytes (m.payload.take 8)
  let count := natOfBytes (m.payload.drop 8)
  match m.arg1.toNat % 4 with
  | 0 => runMode s Recorder.reset
  | 1 =>
    if m.payload.length ≠ 8 then .bad s stBADARG
    else onRing s base size (runMode s { Recorder.reset with mode := 1, base := base, size := size })
  | 2 =>
    if m.payload.length ≠ 16 then .bad s stBADARG
    else
      onRing s base size (runMode s (if count = 0 then Recorder.reset else
        { Recorder.reset with mode := 2, base := base, size := size, count := BitVec.ofNat 64 count, ctl := some (n, m) }))
  | _ => .bad s stBADARG

/-! ### FWLOAD (R14, R16, R53, R55) -/

/-- A segment: a rejection of step 3 is answered at the last one, and an accepted form is checked by IMAGE_VERIFY. -/
def runFwload (s : State) (n : Nat) (m : Msg) : Ran :=
  let off := m.arg0.toNat
  if n ≠ 0 ∨ 3 ≤ s.boot.state.toNat then .bad s stSTATE
  else if s.boot.state = 2 ∨ (s.boot.state = 1 ∧ off = 0 ∧ s.boot.imgLen ≠ 0) then .bad s stBUSY
  else
    let t := storeSegment s off m.payload
    if !(bit m.arg1 0) then .ok t
    else if !(Config.imageWellFormed (imageBytes t)) then .bad (dropImage t) stIMGFORMAT
    else .wait { t with boot := { t.boot with state := 2 } }

/-! ### Page messages (R45, R62, R63) -/

/-- A coherence page that exists. -/
def pageArg (m : Msg) : Bool := decide (m.arg0.toNat % 65536 = 0) && inMemory m.arg0.toNat 65536

/-- A page is given up: its recall begins or goes on, and the command ends once nothing of the page is left and no lock holds it back
(R45 steps 1 to 4). -/
def runHand (s : State) (page : Nat) (kind : HandKind) (locked : Bool) (k : State → State) : Ran :=
  let s1 := beginHand s page kind
  match handOf s1 page with
  | none => .wait s1
  | some h =>
    let s2 := advanceHand s1 h
    if handReady s1 h && !locked then .ok (k s2) else .wait s2

/-- PGRECALL: new translations wait; the page is handed over once its write queues, its accesses and its locks are clear. -/
def runRecall (s : State) (m : Msg) : Ran :=
  let page := m.arg0.toNat
  if !(pageArg m) || decide ((s.page (page / 65536)).state ≠ 0) then .bad s stBADARG
  else
    runHand s page (.give (m.arg1.toNat / 2) (bit m.arg1 0)) (pageLocked s page 65536) (fun t => handOver t page (m.arg1.toNat / 2) (bit m.arg1 0))

def runPginv (s : State) (m : Msg) : Ran :=
  let page := m.arg0.toNat
  if !(pageArg m) || decide ((s.page (page / 65536)).state = 0) then .bad s stBADARG
  else runHand s page .drop (pageLocked s page 65536) (fun t => dropShared t page)

def runPgxfer (s : State) (m : Msg) : Ran :=
  let page := m.arg0.toNat
  let i := m.arg1.toNat / 2 / 4064
  if !(pageArg m) || decide (m.arg1.toNat / 2 ≠ segOff i) || decide (16 < i) || decide (m.payload.length ≠ segLen i) then .bad s stBADARG
  else
    match (s.page (page / 65536)).asked with
    | none => .bad s stBADARG
    | some own => .ok (installSegment s page i own m.payload)

/-! ### Operations that fail (R201, R335) -/

/-- The range that a command waits for, and whether it writes. -/
def commandRange (m : Msg) : Option (Nat × Nat × Bool) :=
  let a := m.arg0.toNat
  match m.cmd.toNat with
  | 0x05 => some (a, m.payload.length, true)
  | 0x06 => some (a, m.arg1.toNat, false)
  | 0x07 => some (a, m.payload.length, true)
  | 0x09 => some (a, m.payload.length, true)
  | 0x0A => some (m.arg1.toNat, 128, false)
  | 0x0B => some (a, 256, true)
  | _ => none

/-- A waiting command is answered FAULT; what it could write has been written (log entry 47). -/
def failCommand (s : State) (n : Nat) (m : Msg) : State :=
  let t := match commandRange m with
    | some (a, _, true) => writeFree s a m.payload
    | _ => s
  acceptMsg t n m stFAULT 0 []

/-- The command that a session executes waits for a range that a test selects. -/
def failIf (p : State → Nat → Nat → Bool → Bool) (s : State) (n : Nat) : State :=
  match (s.session n).running with
  | none => s
  | some m =>
    match commandRange m with
    | none => s
    | some (a, len, w) => if p s a len w && !((s.session n).wrote) then failCommand s n m else s

/-- A remote operation completes (R46, R47). -/
def complete (s : State) (o : RemoteOp) (ok : Bool) (data : List Byte) : State :=
  { s with comps := s.comps ++ [{ port := o.port, ep := o.ep, ok := ok, data := data }] }

/-- A waiting remote operation gets an error completion. -/
def failRemote (s : State) (o : RemoteOp) : State :=
  complete (if o.write then writeFree s o.addr o.data else s) o false []

/-- Every waiting remote operation that a test selects fails. -/
def failRemotes (s : State) (p : RemoteOp → Bool) : State :=
  (s.remotes.filter (fun o => !o.sent && p o)).foldl failRemote { s with remotes := s.remotes.filter (fun o => o.sent || !(p o)) }

/-- A packet is the request of an engine's transaction. -/
def engRequest (r : EngReq) (p : Packet) : Bool :=
  decide (p.cls = 0) && decide (p.op = r.pkt.op) && decide (p.src = r.pkt.src) && decide (p.txn = r.pkt.txn)

/-- A remote atomic has not been performed: it waits at its port, on its way, or in its home's write queue. -/
def atomPending (s : State) (r : EngReq) : Bool :=
  decide (r.pkt.op = 0x08) && (r.due.isSome || s.net.any (fun x => engRequest r x.pkt) ||
    s.wq.any (fun e => decide (e.src = .port r.pkt.src r.pkt.txn.toNat)))

/-- A remote atomic is given up, and ends with FAULT (R60). -/
def failAtom (s : State) (r : EngReq) : State :=
  let s1 := { s with
    engReqs := removeFirst (fun x => decide (x = r)) s.engReqs
    net := if r.fresh then s.net else s.net.filter (fun x => !(engRequest r x.pkt))
    wq := if r.fresh then s.wq else s.wq.filter (fun e => decide (e.src ≠ .port r.pkt.src r.pkt.txn.toNat)) }
  match r.use with
  | .atom ep aseq => atomDone s1 (portOfStop r.pkt.src) ep aseq stFAULT []
  | u => replayEnds s1 u

/-- The remote atomics that a test of their address selects end with FAULT. -/
def failAtoms (s : State) (p : Nat → Bool) : State :=
  (s.engReqs.filter (fun r => atomPending s r && p r.pkt.pa.toNat)).foldl failAtom s

/-- The wait for a page has failed: every access that it held faults, and every operation of a port gets FAULT (R201). -/
def pageFails (s : State) (pg : Nat) : State :=
  let stuck := fun (t : State) (a len : Nat) (w : Bool) => (rangePages a len).contains pg && !(pageAllows t (pg * 65536) w)
  let s1 := s.sessions.foldl (fun t e => failIf stuck t e.1) s
  let s2 := failRemotes s1 (fun o => stuck s1 o.addr o.len o.write)
  failPage (failAtoms s2 (fun a => decide (a / 65536 = pg) && decide ((s2.page pg).state ≠ 0))) pg

/-- PGREFUSE (R63). -/
def runPgrefuse (s : State) (m : Msg) : Ran :=
  let pg := m.arg0.toNat / 65536
  if !(pageArg m) then .bad s stBADARG
  else if (s.page pg).asked.isNone then .ok s
  else .ok (pageFails s pg)

/-! ### Any command in its turn -/

/-- The header has a bit or a length that R49 does not allow. -/
def badHeader (m : Msg) : Bool := decide (m.flags.toNat / 2 ≠ 0) || decide (4064 < m.len.toNat)

/-- The message is a reply (R49). -/
def isReply (m : Msg) : Bool := bit m.flags 0

/-- Commands that are unsequenced, and codes that only the device sends (R49, R53). -/
def unseqCode (c : Nat) : Bool := [0x01, 0x02, 0x0C].contains c
def deviceCode (c : Nat) : Bool := [0x40, 0x41, 0x42].contains c
/-- An assigned code (R53). -/
def knownCode (c : Nat) : Bool :=
  (decide (1 ≤ c) && decide (c ≤ 0x10)) || (decide (0x20 ≤ c) && decide (c ≤ 0x27)) || deviceCode c

/-- The commands that replay does not refuse (R66). -/
def replayLets (c : Nat) : Bool := [0x01, 0x02, 0x04, 0x0E, 0x10].contains c

/-- Before READY, and after a stop, only these sequenced commands are executed: FWLOAD and RESET on session 0 through port 0 (R55,
R56). -/
def bootLets (s : State) (m : Msg) : Bool :=
  decide (s.boot.state = 4) || (decide (m.sess = 0) && decide (m.port = 0) && (decide (m.cmd = 0x03) || decide (m.cmd = 0x04)))

/-- A sequenced command whose turn has come in a session, or that replay applies. A page message that only the manager takes,
which is the host, is BADARG (R62). -/
def runCommand (s : State) (n : Nat) (m : Msg) : Ran :=
  let c := m.cmd.toNat
  let a := m.arg0.toNat
  if badHeader m || unseqCode c || deviceCode c then .bad s stBADARG
  else if !(bootLets s m) then .bad s stSTATE
  else if !(knownCode c) then .bad s stBADCMD
  else if decide (s.recorder.mode = 2) && decide (n ≠ replaySession) && !(replayLets c) then .bad s stREPLAYING
  else
    match c with
    | 0x03 => runFwload s n m
    | 0x04 => .gone (restartBoot s)
    | 0x05 => runMemwr s n m
    | 0x06 => runMemrd s a m.arg1.toNat
    | 0x07 => runPtwr s n m
    | 0x08 => runArtwr s a m.payload
    | 0x09 => runCbwr s n m
    | 0x0A => runLaunch s a m.arg1.toNat
    | 0x0B => runMail s n m
    | 0x0D => runPreempt s n m
    | 0x0E => runQuery s a
    | 0x0F => runAttest s m.payload
    | 0x10 => runRecctl s n m
    | 0x21 => runRecall s m
    | 0x22 => runPginv s m
    | 0x24 => runPgxfer s m
    | 0x26 => runPgrefuse s m
    | _ => .bad s stBADARG

/-! ### Sessions (R48, R50 to R52, R55) -/

/-- A message's turn in its session: a reply of the peer is accepted, a command runs. -/
def runTurn (s : State) (n : Nat) (m : Msg) : State :=
  if isReply m && !(badHeader m) then acceptQuiet s n m
  else
    match runCommand s n m with
    | .reply t stat arg0 bs => acceptMsg t n m stat arg0 bs
    | .wait t => setSession t n { t.session n with running := some m }
    | .gone t => t

/-- The message that waits in the reorder buffer and is next in order. -/
def nextInOrder (x : Session) : Option Msg := x.reorder.find? (fun m => decide (m.seq = seqSucc x.lacc))

/-- Executes what a session can execute: one message after another, while none waits and the retransmit ring has room. -/
def pump (fuel : Nat) (s : State) (n : Nat) : State :=
  match fuel with
  | 0 => s
  | k + 1 =>
    let x := s.session n
    if !x.opened || x.running.isSome || ringFull x then s
    else
      match nextInOrder x with
      | none => s
      | some m => pump k (runTurn (setSession s n { x with reorder := x.reorder.filter (fun r => decide (r.seq ≠ m.seq)) }) n m) n

/-- A reset that is next after the image check that runs is not kept waiting (R16; log entry 50). -/
def resetWaits (s : State) : Bool :=
  let x := s.session 0
  decide (s.boot.state = 2) && x.reorder.any (fun m => decide (m.cmd = 0x04) && !(badHeader m) && decide (m.seq = seqSucc (seqSucc x.lacc)))

def pumpSession (s : State) (n : Nat) : State := if n = 0 && resetWaits s then restartBoot s else pump 32 s n

/-- A sequenced message in its session (R50). -/
def inSession (s : State) (n : Nat) (m0 : Msg) : State :=
  let m := { m0 with sess := BitVec.ofNat 8 n }
  let x := { takeAck (s.session n) m.ackseq with port := m.port }
  let s1 := setSession s n x
  let d := seqDist x.lacc m.seq
  let twice := (match x.running with | some r => decide (r.seq = m.seq) | none => false) || x.reorder.any (fun r => decide (r.seq = m.seq))
  if decide (d = 0) || decide (2 ^ 31 ≤ d) || twice then pumpSession (answerPlain s1 m stDUP x.lacc.toNat []) n
  else if 17 < d then pumpSession (answerPlain s1 m stGAP x.lacc.toNat []) n
  else pumpSession (setSession s1 n { x with reorder := x.reorder ++ [m] }) n

/-- The session that a message names, if its source holds it. -/
def ownSession (s : State) (m : Msg) : Option Nat :=
  let n := m.sess.toNat
  let x := s.session n
  if decide (n < 64) && x.opened && decide (x.holder = some m.ep) then some n else none

/-- The first sequenced message with SEQ 1 and SESS 0 on port 0 binds session 0 (R48). -/
def bindBoot (s : State) (m : Msg) : State :=
  let x := s.session 0
  if decide (m.sess = 0) && decide (m.seq = 1) && decide (m.port = 0) && x.opened && x.holder.isNone then
    setSession s 0 { x with holder := some m.ep }
  else s

/-- The lowest free session other than 0. -/
def freeSession (s : State) : Option Nat := (List.range 64).find? (fun k => decide (k ≠ 0) && !(s.session k).opened)

/-- Opens a session for an endpoint. -/
def openSession (s : State) (k : Nat) (m : Msg) : State :=
  setSession s k { Session.reset with opened := true, holder := some m.ep, port := m.port }

/-- A sequenced message arrives: it takes its turn in its session, or in one that it opens, whatever the boot state (R48, R49, R52). -/
def receiveSeq (s0 : State) (m : Msg) : State :=
  let s := bindBoot s0 m
  match ownSession s m with
  | some n => inSession s n m
  | none =>
    if m.seq ≠ 1 then answerPlain s m stNOSESS 0 []
    else
      match freeSession s with
      | none => answerPlain s m stNOSESS 0 []
      | some k => inSession (openSession s k m) k m

/-! ### Unsequenced messages (R52, R53, R60, R61, R408) -/

/-- The STATUS payload of a session (R408). -/
def statusBytes (s : State) (n : Nat) : List Byte :=
  let x := if n < 64 then s.session n else Session.reset
  let old := match x.ring with | [] => 0 | m :: _ => m.seq
  let r := s.recorder
  let unrec := if r.mode = 3 then r.unrec else if r.mode = 0 then 0 else r.ord
  let head := if x.opened then toBytes x.lacc 4 ++ toBytes x.lsent 4 ++ toBytes x.ackrx 4 ++ toBytes old 4 else List.replicate 16 0
  head ++ [s.boot.state, s.boot.cause, r.mode.setWidth 8, BitVec.ofNat 8 (b2n x.opened)] ++ List.replicate 4 0 ++ toBytes unrec 8 ++
    (List.range 8).map (fun p => (zget s.ports p).setWidth 8) ++ List.replicate 24 0 ++ mapBytes s

/-- The first SEQ of a RESEND does not come before the other. -/
def notBefore (a b : BitVec 32) : Bool := decide (seqDist a b < 2 ^ 31)

/-- Sends retained messages again, from a SEQ on, by a port. -/
def resendFrom (s : State) (n : Nat) (a : BitVec 32) (port : Nat) : State :=
  ((s.session n).ring.filter (fun r => notBefore a r.seq)).foldl (fun t r => sendMsg t { r with port := port }) s

/-- RESEND (R53; log entry 51). -/
def receiveResend (s : State) (m : Msg) : State :=
  let n := m.sess.toNat
  let x := if n < 64 then s.session n else Session.reset
  let a : BitVec 32 := m.arg0.setWidth 32
  let after := decide (0 < seqDist x.lsent a) && decide (seqDist x.lsent a < 2 ^ 31)
  match x.ring with
  | [] => answerPlain s m stOK x.lsent.toNat []
  | r :: _ =>
    if after then answerPlain s m stOK x.lsent.toNat []
    else if notBefore r.seq a then answerPlain (resendFrom s n a m.port) m stOK x.lsent.toNat []
    else answerPlain s m stGAP r.seq.toNat []

/-- The operand width of a remote atomic, in bytes. -/
def atomSize (m : Msg) : Nat := if bit m.arg1 4 then 8 else 4

/-- The request breaks a rule of R60. -/
def atomBad (m : Msg) : Bool :=
  (atomOf (m.arg1.toNat % 16)).isNone || decide (fnat m.arg1 15 5 ≠ 0) || (decide (m.arg1.toNat % 16 = 1) && bit m.arg1 4) ||
  decide (m.arg0.toNat % atomSize m ≠ 0) || decide (m.len ≠ 16)

/-- A port sends a remote atomic as ATOM to the home of its address, and asks for the page that it may wait for (R38, R44, R60). -/
def sendAtom (s : State) (port pa : Nat) (op : AtomOp) (size : Nat) (val cmp : BitVec 64) (u : EngUse) : State :=
  let pr := linePair s (lineOf pa)
  sendPort (portWant s pa size true)
    { withPair (engHome 0x08 (stopOfPort port) pa 0 0) pr.1 pr.2 0 with inl := atomBits op size val cmp } u

/-- The oldest entry of the cache is replaced; if it is pending, those who wait for it still receive its result (R61). -/
def idemDrop (l : List IdemEntry) : List IdemEntry :=
  match l with
  | [] => []
  | e :: r => if e.out then e :: idemDrop r else if e.res.isNone then { e with out := true } :: r else r

/-- The cache with a new pending entry; the oldest one of 4,096 makes way (R61). -/
def idemAdd (s : State) (m : Msg) (aseq : BitVec 32) : State :=
  let l := (find s.idem m.port).getD []
  let l1 := if (l.filter (fun e => !e.out)).length < 4096 then l else idemDrop l
  { s with idem := put s.idem m.port (l1 ++ [{ ep := m.ep, aseq := aseq, res := none, wait := [m], out := false }]) }

/-- A remote atomic that misses the cache is sent to its home's write queue, to be performed once (R60). -/
def startAtom (s : State) (m : Msg) (aseq : BitVec 32) (op : AtomOp) : State :=
  let pa := m.arg0.toNat
  let s1 := idemAdd s m aseq
  if !(inMemory pa (atomSize m)) then atomDone s1 m.port m.ep aseq stFAULT []
  else
    sendAtom s1 m.port pa op (atomSize m) (ofBytes 64 (m.payload.take (atomSize m))) (ofBytes 64 ((m.payload.drop 8).take (atomSize m)))
      (.atom m.ep aseq)

/-- ATOM (R60, R61, R66). -/
def receiveAtom (s : State) (m : Msg) : State :=
  let aseq : BitVec 32 := m.arg1.extractLsb' 16 32
  match atomOf (m.arg1.toNat % 16) with
  | none => answerPlain s m stBADARG 0 []
  | some op =>
    if atomBad m || guarded m.arg0.toNat (atomSize m) then answerPlain s m stBADARG 0 []
    else if s.recorder.mode = 2 then answerPlain s m stREPLAYING 0 []
    else
      let l := (find s.idem m.port).getD []
      let hit := fun (e : IdemEntry) => decide (e.ep = m.ep) && decide (e.aseq = aseq) && !e.out
      match l.find? hit with
      | none => startAtom s m aseq op
      | some e =>
        match e.res with
        | some r => answerPlain s m r.2.toNat 0 r.1
        | none => { s with idem := put s.idem m.port (replaceFirst hit (fun (e : IdemEntry) => { e with wait := e.wait ++ [m] }) l) }

/-- The peer's answer to the STATUS that follows a warm restart: the device sends again what the peer has not accepted, and asks
for what it has not accepted itself (R57, R58). -/
def takeStatus (s : State) (n : Nat) (m : Msg) : State :=
  let peer : BitVec 32 := ofBytes 32 (m.payload.take 4)
  let sent : BitVec 32 := ofBytes 32 ((m.payload.drop 4).take 4)
  let x := s.session n
  let s1 := resendFrom s n (seqSucc peer) m.port
  if 0 < seqDist x.lacc sent ∧ seqDist x.lacc sent < 2 ^ 31 ∧ sent ≠ 0 then
    sendPlain s1 { mkMsg 0x02 n 0 m.port m.ep with arg0 := (seqSucc x.lacc).setWidth 64 }
  else s1

/-- An unsequenced STATUS or RESEND conveys the ACKSEQ of the session that it names, if its source holds it (R52). -/
def ackPlain (s : State) (m : Msg) : State :=
  match ownSession s m with
  | some n => setSession s n (takeAck (s.session n) m.ackseq)
  | none => s

/-- Before READY and after a stop, STATUS and RESEND are executed, only on session 0 through port 0, and no other unsequenced command (R55,
R56). -/
def plainLets (s : State) (m : Msg) : Bool :=
  decide (s.boot.state = 4) || (decide (m.sess = 0) && decide (m.port = 0) && (decide (m.cmd = 0x01) || decide (m.cmd = 0x02)))

/-- An unsequenced message arrives (R49, R53). -/
def receivePlain (s0 : State) (m : Msg) : State :=
  let c := m.cmd.toNat
  if badHeader m then answerPlain s0 m stBADARG 0 []
  else if isReply m then
    let s := ackPlain s0 m
    match ownSession s m with
    | some n => if m.cmd = 0x01 && decide (m.payload.length = 384) then takeStatus s n m else pumpSession s n
    | none => s
  else if knownCode c && !(unseqCode c) then answerPlain s0 m stBADARG 0 []
  else if !(plainLets s0 m) then answerPlain s0 m stSTATE 0 []
  else if !(knownCode c) then answerPlain s0 m stBADCMD 0 []
  else
    match c with
    | 0x01 => let s := ackPlain s0 m; answerPlain s m stOK 0 (statusBytes s m.sess.toNat)
    | 0x02 => receiveResend (ackPlain s0 m) m
    | _ => receiveAtom s0 m

/-! ### Messages arrive (R46, R49) -/

/-- The device is powered and not held in reset. -/
def alive (s : State) : Bool := s.boot.powered && !s.boot.thermtrip

/-- A message can arrive by its port: the port is up, and the payload has the length that LEN says. -/
def arrives (s : State) (m : Msg) : Bool :=
  alive s && decide (m.port < 8) && decide (zget s.ports m.port ≠ 0) && decide (m.payload.length = m.len.toNat)

/-- Work arrives by a port: the port and the management core of its die, which handles it, are Active (R23; log entry 97). -/
def wakeHost (s : State) (port : Nat) : State := wakeIf (wakeFor s (.port port)) (.mgmt (port / 2))

/-- A message is handled. -/
def receive (s : State) (m : Msg) : State :=
  let s1 := wakeHost s m.port
  if m.seq = 0 then receivePlain s1 m else receiveSeq s1 m

/-- The arrival of a message of one of the table's rows. -/
def arrival (s : State) (m : Msg) (ok : Bool) : Out := if ok && arrives s m then .next (receive s m) else .next s

/-- The arrival of a command with a code. -/
def command (s : State) (m : Msg) (code : Nat) : Out := arrival s m (!(isReply m) && decide (m.cmd.toNat = code))

/-- STATUS (R53, R408). -/
def execStatus (m : Msg) (s : State) : Out := command s m 0x01
/-- RESEND (R53). -/
def execResend (m : Msg) (s : State) : Out := command s m 0x02
/-- FWLOAD (R14, R16, R53, R55). -/
def execFwload (m : Msg) (s : State) : Out := command s m 0x03
/-- RESET (R16, R53). -/
def execReset (m : Msg) (s : State) : Out := command s m 0x04
/-- MEMWR (R47, R53, R146, R202). -/
def execMemwr (m : Msg) (s : State) : Out := command s m 0x05
/-- MEMRD (R53). -/
def execMemrd (m : Msg) (s : State) : Out := command s m 0x06
/-- PTWR (R43, R53, R411). -/
def execPtwr (m : Msg) (s : State) : Out := command s m 0x07
/-- ARTWR (R53, R161, R411). -/
def execArtwr (m : Msg) (s : State) : Out := command s m 0x08
/-- CBWR (R53, R92, R411). -/
def execCbwr (m : Msg) (s : State) : Out := command s m 0x09
/-- LAUNCH (R53, R75). -/
def execLaunch (m : Msg) (s : State) : Out := command s m 0x0A
/-- MAIL (R59, R85). -/
def execMail (m : Msg) (s : State) : Out := command s m 0x0B
/-- ATOM (R60, R61). -/
def execAtom (m : Msg) (s : State) : Out := command s m 0x0C
/-- PREEMPT (R53, R91). -/
def execPreempt (m : Msg) (s : State) : Out := command s m 0x0D
/-- QUERY (R53, R410). -/
def execQuery (m : Msg) (s : State) : Out := command s m 0x0E
/-- ATTEST (R22, R53). -/
def execAttest (m : Msg) (s : State) : Out := command s m 0x0F

/-- RECCTL with a mode. -/
def recctl (s : State) (m : Msg) (mode : Nat) : Out :=
  arrival s m (!(isReply m) && decide (m.cmd.toNat = 0x10) && decide (m.arg1.toNat % 4 = mode))

/-- RECCTL mode 0 (R64). -/
def execRecctlOff (m : Msg) (s : State) : Out := recctl s m 0
/-- RECCTL mode 1 (R64). -/
def execRecctlRecord (m : Msg) (s : State) : Out := recctl s m 1
/-- RECCTL mode 2 (R66). -/
def execRecctlReplay (m : Msg) (s : State) : Out := recctl s m 2
/-- RECCTL mode 3 (R64). -/
def execRecctlBadarg (m : Msg) (s : State) : Out := recctl s m 3

/-- A message with an unassigned code (R53). -/
def execBadcmd (m : Msg) (s : State) : Out := arrival s m (!(isReply m) && !(knownCode m.cmd.toNat))
/-- A message with a code that only the device sends (R49). -/
def execDeviceOnlyCode (m : Msg) (s : State) : Out := arrival s m (!(isReply m) && deviceCode m.cmd.toNat)
/-- A reply or refusal of the peer (R52). -/
def execColtosReply (m : Msg) (s : State) : Out := arrival s m (isReply m)

/-- The page that the device is to ask its manager for (R44, R62). -/
def askedPage (s : State) (m : Msg) : Option Bool :=
  let c := s.page (m.arg0.toNat / 65536)
  if decide (m.seq = 0) && pageArg m && c.asked.isNone && (s.session 0).holder.isSome then c.want else none

/-- PGREQ: the device asks for a page that its accesses wait for; or such a message arrives from a peer, and the device is no
manager (R62). -/
def execPgreq (m : Msg) (s : State) : Out :=
  match askedPage s m with
  | some own =>
    let pg := m.arg0.toNat / 65536
    let s1 := wakeIf s (.mgmt (dieOf (pg * 65536)))
    .next (sendManager (setPage s1 pg { s.page pg with asked := some own }) 0x20 (pg * 65536) (BitVec.ofNat 48 (b2n own)) 0)
  | none => command s m 0x20
/-- PGRECALL (R45, R63). -/
def execPgrecall (m : Msg) (s : State) : Out := command s m 0x21
/-- PGINV (R63). -/
def execPginv (m : Msg) (s : State) : Out := command s m 0x22
/-- PGIACK, which only the manager takes (R62). -/
def execPgiack (m : Msg) (s : State) : Out := command s m 0x23
/-- PGXFER (R63). -/
def execPgxfer (m : Msg) (s : State) : Out := command s m 0x24
/-- PGDONE, which only the manager takes (R62). -/
def execPgdone (m : Msg) (s : State) : Out := command s m 0x25
/-- PGREFUSE (R63, R201). -/
def execPgrefuse (m : Msg) (s : State) : Out := command s m 0x26
/-- PGACK, which only the manager takes (R62). -/
def execPgack (m : Msg) (s : State) : Out := command s m 0x27

/-! ### Remote operations (R46, R47) -/

/-- A transport operation can arrive by a port. -/
def portUp (s : State) (port : Nat) : Bool := alive s && decide (port < 8) && decide (zget s.ports port ≠ 0)

/-- A remote operation stays in its port's list. -/
def keepRemote (s : State) (o : RemoteOp) : State := { s with remotes := s.remotes ++ [o] }

/-- Performs a remote operation whose range is free: a read completes, and a write makes its WRBs (R47). -/
def performRemote (s : State) (o : RemoteOp) : State :=
  if o.write then keepRemote (portWrite s o.port o.addr o.data (.remote o.id)) { o with sent := true }
  else complete (wakeHomes s o.addr o.len) o true (homeBytes s o.addr o.len)

/-- A remote operation goes on: a write that has its ACKs is recorded and completes (R47, R64); another one is performed, or waits. -/
def tryRemote (s : State) (o : RemoteOp) : State :=
  if o.sent then
    if engBusy s (.remote o.id) then keepRemote s o else complete (appendRecord s 1 255 o.port 0 o.addr o.data) o true []
  else if portHeld s o.addr o.len o.write then
    keepRemote (portWant s o.addr o.len o.write) o
  else performRemote s o

/-- A remote operation arrives. -/
def startRemote (s : State) (o : RemoteOp) : State :=
  let bad := !(inMemory o.addr o.len) || (o.write && guarded o.addr o.len) || decide (s.recorder.mode = 2)
  if bad then complete s o false [] else tryRemote { s with nextRem := s.nextRem + 1 } { o with id := s.nextRem }

/-- REMOTE_WRITE (R47). One that arrives before READY is ignored and gets no completion, and so does a read (DESIGN CHOICE, log entry
84). -/
def execRemoteWrite (port ep addr : Nat) (data : List Byte) (s : State) : Out :=
  if portUp s port && decide (s.boot.state = 4) then
    .next (startRemote (wakeFor s (.port port))
      { id := 0, sent := false, port := port, ep := ep, addr := addr, len := data.length, write := true, data := data })
  else .next s

/-- REMOTE_READ (R47). -/
def execRemoteRead (port ep addr len : Nat) (s : State) : Out :=
  if portUp s port && decide (s.boot.state = 4) then
    .next (startRemote (wakeFor s (.port port))
      { id := 0, sent := false, port := port, ep := ep, addr := addr, len := len, write := false, data := [] })
  else .next s

/-- UNRELIABLE_DELIVERY_REQUEST: the packet is dropped, and the error response returned (R46). -/
def execUnreliableDeliveryRequest (port ep : Nat) (s : State) : Out :=
  if portUp s port then .next { s with comps := s.comps ++ [{ port := port, ep := ep, ok := false, data := [] }] } else .next s

/-- A message that came by a port that has failed is answered by another one. -/
def movePort (old new : Nat) (m : Msg) : Msg := if m.port = old then { m with port := new } else m

/-- PORT_FAILURE: the port is down; its sessions go on by another one (R12, R48). Which of the remaining ports the device uses until the
peer moves a session itself is a DESIGN CHOICE: the lowest one that is up (log entry 85). -/
def execPortFailure (port : Nat) (s : State) : Out :=
  if portUp s port then
    let ps := zset s.ports port 0
    let other := ((List.range 8).find? (fun p => decide (zget ps p ≠ 0))).getD port
    .next { s with
      ports := ps
      preempts := s.preempts.map (fun (p : Preempt) => { p with sess := p.sess.map (fun (q : Nat × Msg) => (q.1, movePort port other q.2)) })
      sessions := s.sessions.map (fun (e : Nat × Session) =>
        (e.1, { e.2 with port := if e.2.port = port then other else e.2.port, running := e.2.running.map (movePort port other) })) }
  else .next s

/-! ### Replay (R66) -/

/-- Applies a recorded command: it runs as in its session, and has no reply; its record is complete with it. -/
def applyMessage (s : State) (r : ReplayRec) : State := runTurn (recordBegun s) replaySession (msgOf r.body r.port 0)

/-- Applies a recorded remote write through its port; the record is complete with the last ACK. -/
def applyWrite (s : State) (r : ReplayRec) : State :=
  if portHeld s r.addr r.len true then portWant s r.addr r.len true
  else replayEnds (portWrite (recordBegun s) r.port r.addr r.body .replay) .replay

/-- Applies a recorded remote atomic in its home's write queue, through its port (log entry 24). -/
def applyAtom (s : State) (r : ReplayRec) : State :=
  let a1 : BitVec 64 := ofBytes 64 (r.body.take 8)
  match atomOf (a1.toNat % 16) with
  | none => recordApplied s r.len
  | some op =>
    let size := if bit a1 4 then 8 else 4
    sendAtom (recordBegun s) r.port r.addr op size (ofBytes 64 ((r.body.drop 8).take size)) (ofBytes 64 ((r.body.drop 16).take size)) .replay

/-- REPLAY_APPLY (R66). -/
def execReplayApply (s : State) : Out :=
  let r := nextRecord s
  if s.recorder.mode ≠ 2 ∨ !(replayQuiet s) then .next s
  else
    match r.kind with
    | 0 => .next (applyMessage s r)
    | 1 => .next (applyWrite s r)
    | 2 => .next (applyAtom s r)
    | _ => .next s

/-- REPLAY_MONITOR_TIMEOUT: the launch that is next has not come (R66). -/
def execReplayMonitorTimeout (s : State) : Out :=
  let k := (nextRecord s).kind
  if decide (s.recorder.mode = 2) && replayQuiet s && (decide (k = 3) || decide (k = 4)) then .next (replayDiverged s) else .next s

/-! ### Timeouts of holds and of pages (R201, R335) -/

/-- A session's command that is held at a locked line, or a hand-over that one holds back, is given up. -/
def sessionHold (s : State) (n : Nat) : State :=
  match (s.session n).running with
  | none => s
  | some m =>
    let page := m.arg0.toNat
    if m.cmd = 0x21 then 
      (match handOf s page with
      | some h => if handReady s h && pageLocked s page 65536 then acceptMsg (refuseHand s page) n m stREFUSED 0 [] else s
      | none => s)
    else failIf (fun t a len _ => rangeLocked t a len) s n

/-- The decoder's next read meets a locked line. -/
def decoderHeld (s : State) (x : Submission) : Bool :=
  decide ((streamNext x).2 ≠ 0) &&
    match physical s x.core (instRoot s x.inst) (streamNext x).1 with
    | some pa => heldLine s (lineOf pa)
    | none => false

/-- The lock-hold timeout of a group that waits in its instruction at a locked line: a read that its lock holds back, or the barrier of a
WAITPH (R190, R252, R335). -/
def waitHold (s : State) (core slot : Nat) : State :=
  let g := s.group core slot
  match g.wait with
  | .held pa va t a => if heldByOther s core slot (lineOf pa) then eventTrap s core slot ⟨cLOCKHOLD, va, t, a⟩ g.pc g.pc else s
  | .waitph addr false _ _ =>
    if heldByOther s core slot (lineOf addr) then eventTrap s core slot (barCause s core slot cLOCKHOLD) g.pc g.pc else s
  | _ => s

/-- LOCKHOLD_TIMEOUT (R335): of a group's access or wait (`slot` below 64) or of a copy (`slot` less 64) on a core; of the command of a
session (`core` 256), of a decoder (257), of a remote atomic at a line (258), or of a remote operation (259), each named by
`slot`. -/
def execLockholdTimeout (core slot acc : Nat) (s : State) : Out :=
  if core < 256 then
    if slot < 64 then
      match accOf (s.group core slot) acc with
      | none => .next (waitHold s core slot)
      | some a => if accessHeld s core slot a && (s.group core slot).halt.isNone then .next (holdFault s core slot a) else .next s
    else
      match find (s.core core).copies (slot - 64) with
      | none => .next s
      | some y => .next (copyHoldFault s core (slot - 64) y)
  else if core = 256 then .next (sessionHold s slot)
  else if core = 257 then
    match decQueue s slot with
    | [] => .next s
    | x :: _ => if decoderHeld s x && instRuns s x.inst then .next (setHead s slot { x with fault := true }) else .next s
  else if core = 258 then .next (failAtoms s (fun a => decide (lineOf a = slot) && heldLine s slot))
  else if core = 259 then
    match s.remotes[slot]? with
    | none => .next s
    | some o =>
      if !o.sent && rangeLocked s o.addr o.len then .next (failRemote { s with remotes := s.remotes.eraseIdx slot } o) else .next s
  else .next s

/-- PAGEWAIT_TIMEOUT (R201). -/
def execPagewaitTimeout (page : Nat) (s : State) : Out := if (s.page page).want.isSome then .next (pageFails s page) else .next s

/-! ### What goes on between steps -/

/-- Every command that waits is tried again, and what can then be executed is executed. One that waits in another session when replay
starts is so refused REPLAYING, as an inbound one is (DESIGN CHOICE, log entry 86). -/
def settleSessions (s : State) : State :=
  s.sessions.foldl (fun t e =>
    match (t.session e.1).running with
    | some m => if m.cmd = 0x03 then pumpSession t e.1 else pumpSession (runTurn t e.1 m) e.1
    | none => if e.1 = replaySession then t else pumpSession t e.1) s

/-- Every remote operation that waits is tried again, the oldest first. -/
def settleRemotes (s : State) : State := s.remotes.foldl tryRemote { s with remotes := [] }

end Sys2Proof.Machine
end

