-- ==== Sys2Proof/Machine/Power.lean ====
section
/-! DEFINITION. The blocks that have power states, the work that makes them Active, and their waking (R8, R23). -/
namespace Sys2Proof.Machine

/-- The block exists (R8). -/
def blockExists (k : Block) : Bool :=
  match k with
  | .core n => decide (n < 256)
  | .slice n => decide (n < 64)
  | .port n => decide (n < 8)
  | .decoder n => decide (n < 32)
  | .mgmt d => decide (d < 4)

/-- No work is present at the block. -/
def blockIdle (s : State) (k : Block) : Bool :=
  match k with
  | .core n =>
    let c := s.core n
    c.groups.all (fun g => !g.2.resident) && c.copies.isEmpty && c.reqs.isEmpty && c.asks.isEmpty &&
    s.net.all (fun x => !(x.isLanded && decide (x.pkt.dst = stopOfCore n) && decide (x.pkt.core.toNat = n)))
  | .slice n => s.wq.all (fun e => decide (homeOfLine (lineOf e.addr) ≠ n)) &&
    s.net.all (fun x => !(x.isLanded && decide (x.pkt.dst = stopOfSlice n))) && s.fetches.all (fun f => decide (f.pkt.src ≠ stopOfSlice n))
  | .port n =>
    s.remotes.all (fun o => decide (o.port ≠ n)) && s.engReqs.all (fun r => decide (r.pkt.src ≠ stopOfPort n)) &&
    s.sessions.all (fun e => match e.2.running with | some m => decide (m.port ≠ n) | none => true)
  | .decoder n => (decQueue s n).isEmpty
  | .mgmt d =>
    s.preempts.isEmpty && s.sessions.all (fun e => e.2.running.isNone) && s.hands.all (fun h => decide (dieOf h.page ≠ d)) &&
    (decide (d ≠ 0) || !s.boot.powered || decide (s.boot.state = 4))

/-- The block of a key of the table of power states. -/
def blockOf (k : Nat) : Block :=
  if k < 256 then .core k else if k < 320 then .slice (k - 256) else if k < 328 then .port (k - 320)
  else if k < 360 then .decoder (k - 328) else .mgmt (k - 360)

/-- Every block at which work is present is Active (R23). -/
def wakeBusy (s : State) : State :=
  (s.power.filter (fun e => decide (e.2.state ≠ 0) && !(blockIdle s (blockOf e.1)))).foldl (fun t e => wakeFor t (blockOf e.1)) s

end Sys2Proof.Machine
end

