-- ==== Sys2Proof/Machine/Boot.lean ====
section
/-! DEFINITION. The steps of boot, of restarts and of power: R12 to R24, R53, R56 and R58. -/
namespace Sys2Proof.Machine

/-! ### Boot (R14, R15, R53, R56) -/

/-- POWER_ON: mask ROM reads the PUF array once, keeps the response, and brings up port 0 on the lanes that trained (R13, R14,
R20, R48). -/
def execPowerOn (lanes : Nat) (s : State) : Out :=
  if s.boot.powered then .next s
  else
    .next (restartBoot { s with
      boot := { s.boot with puf := Config.pufArray s.tick }, ports := zset [] 0 (portWidth lanes), power := [] })

/-- PORT_TRAINING_RETRY: while port 0 has trained no lane in step 2 (R14). -/
def execPortTrainingRetry (lanes : Nat) (s : State) : Out :=
  if alive s && decide (s.boot.state = 0) && decide (zget s.ports 0 = 0) then
    .next { s with ports := zset s.ports 0 (portWidth lanes) }
  else .next s

/-- A message that mask ROM or firmware sends on session 0 by port 0, unsequenced. -/
def announce (s : State) (code stat : Nat) (bs : List Byte) : State := sendPlain s (withPayload (mkMsg code 0 stat 0 (hostEp s)) bs)

/-- BOOTWAIT, in step 2 (R53). -/
def execBootwait (s : State) : Out :=
  if alive s && decide (s.boot.state = 0) && decide (zget s.ports 0 ≠ 0) then .next (announce s 0x40 0 []) else .next s

/-- A further image that arrived during the check is refused with BUSY in its turn (R16; log entry 50). -/
def refuseWaiting (fuel : Nat) (s : State) : State :=
  match fuel with
  | 0 => s
  | k + 1 =>
    let x := s.session 0
    match nextInOrder x with
    | none => s
    | some m =>
      if m.cmd ≠ 0x03 ∨ badHeader m then s
      else
        refuseWaiting k (acceptMsg (setSession s 0 { x with reorder := x.reorder.filter (fun r => decide (r.seq ≠ m.seq)) }) 0 m stBUSY 0 [])

/-- IMAGE_VERIFY: the FWLOAD that brought the last segment is answered (R14 steps 4 to 7, R15). -/
def execImageVerify (s : State) : Out :=
  match (s.session 0).running with
  | none => .next s
  | some m =>
    if s.boot.state ≠ 2 then .next s
    else
      let img := imageBytes s
      let c := verifyCode img
      .next (refuseWaiting 16 (acceptMsg (if c = stOK then acceptImage s img else dropImage s) 0 m c 0 []))

/-- BOOT_BRINGUP (R14 steps 7 to 11). -/
def execBootBringup (r : BistReport) (s : State) : Out :=
  if alive s && decide (s.boot.state = 3) then .next (bringUp s r) else .next s

/-- STOPPED (R53, R56). -/
def execStopped (s : State) : Out :=
  if alive s && decide (s.boot.state = 5) && decide (zget s.ports 0 ≠ 0) then .next (announce s 0x42 s.boot.cause.toNat (mapBytes s))
  else .next s

/-- WARM_RESTART: sessions and rings survive; what was executing has not been accepted; STATUS goes out on every open session
(R51, R58; log entry 52). -/
def execWarmRestart (s : State) : Out :=
  if alive s && decide (3 ≤ s.boot.state.toNat) then
    let s1 := { s with
      sessions := s.sessions.map (fun (e : Nat × Session) => (e.1, { e.2 with running := none, wrote := false, reorder := [] }))
      preempts := s.preempts.map (fun (p : Preempt) => { p with sess := none }) }
    .next (s1.sessions.foldl (fun t e =>
      if e.2.opened then sendPlain t (mkMsg 0x01 e.1 0 e.2.port (e.2.holder.getD 0)) else t) (wakeIf s1 (.mgmt 0)))
  else .next s

/-- The package without power, or held in reset: nothing is kept but what has left the device (R11, R24). -/
def lost (s : State) : State := { State.reset with tick := s.tick, agenda := s.agenda, outbox := s.outbox, comps := s.comps }

/-- POWER_REMOVED (R11, R24). -/
def execPowerRemoved (s : State) : Out := if s.boot.powered then .next (lost s) else .next s

/-- THERMTRIP_N is asserted, and the package is held in reset until its power goes (R24). -/
def trip (s : State) : State := { lost s with boot := { Boot.reset with powered := true, thermtrip := true } }

/-- THERMTRIP: some sensor stands at 120 degrees (R24). -/
def execThermtrip (s : State) : Out := if alive s then .next (trip s) else .next s

/-! ### The power states of blocks (R23, R24) -/

/-- A block changes its power state, if it exists, is idle and stands in another one. -/
def blockEnters (s : State) (k : Block) (ok : Bool) (state : BitVec 2) (f : State → State) : Out :=
  if alive s && blockExists k && blockIdle s k && ok then .next (setPower (f s) k { s.blockPower k with state := state }) else .next s

/-- CLOCK_GATED_ENTRY. -/
def execClockGatedEntry (k : Block) (s : State) : Out := blockEnters s k (decide ((s.blockPower k).state = 0)) 1 id

/-- RETENTION_ENTRY. -/
def execRetentionEntry (k : Block) (s : State) : Out := blockEnters s k (decide ((s.blockPower k).state = 1)) 2 id

/-- Only decoders and ports 2 to 7 enter Off. -/
def mayBeOff (k : Block) : Bool :=
  match k with
  | .port n => decide (2 ≤ n)
  | .decoder _ => true
  | _ => false

/-- The block loses its contents. -/
def blockLoses (k : Block) (s : State) : State :=
  match k with
  | .port n => { s with idem := del s.idem n }
  | .decoder n => { s with decoders := del s.decoders n }
  | _ => s

/-- OFF_ENTRY. -/
def execOffEntry (k : Block) (s : State) : Out :=
  blockEnters s k (mayBeOff k && !(s.blockPower k).used && decide ((s.blockPower k).state ≠ 3)) 3 (blockLoses k)

/-- WAKE_REQUEST. -/
def execWakeRequest (k : Block) (s : State) : Out :=
  if alive s && blockExists k && decide ((s.blockPower k).state ≠ 0) then .next (wakeFor s k) else .next s

/-- The issue rate at a junction temperature (R24). Between the points that R24 names the rate stays as it was; so on the way down from 105
degrees it is one cycle in four down to 95, also between 100 and 105 (DESIGN CHOICE, log entry 87). -/
def throttleRate (old : BitVec 2) (temp : Int) : BitVec 2 :=
  if 105 ≤ temp then 2 else if 100 ≤ temp then (if old = 2 then 2 else 1) else if temp < 95 then 0 else old

/-- Only cores and slices throttle themselves. -/
def mayThrottle (k : Block) : Bool :=
  match k with
  | .core _ => true
  | .slice _ => true
  | _ => false

/-- THERMAL_THROTTLE: a block's sensor reads a temperature; 120 degrees on any sensor trip (R24). -/
def execThermalThrottle (k : Block) (temp : Int) (s : State) : Out :=
  if alive s && blockExists k && decide (120 ≤ temp) then .next (trip s)
  else if alive s && blockExists k && mayThrottle k then
    .next (setPower s k { s.blockPower k with rate := throttleRate (s.blockPower k).rate temp })
  else .next s

end Sys2Proof.Machine
end

