-- ==== Sys2Proof/Machine/Fabric.lean ====
section
/-! DEFINITION. Coherence messages: the requests of cores at the home, replicas of sealed lines, the replies, and the control messages
at the cores (R35 to R40, R147, R167, R177). The values that groups read and write are those of the ordering machine (R170; log entry
15). -/
namespace Sys2Proof.Machine

/-! ### Sealed lines (R37) -/

/-- DATS of a sealed line, with the sectors that the request names. -/
def sealedReply (line : Nat) (p : Packet) (a : BitVec 12) (g : BitVec 4) (bs : List Byte) : Packet :=
  { withPair (withSectors (replyPkt 0x10 line p) p.smask bs) a g p.regn with hint := 1 }

/-- A fetch is of a slice and a line. -/
def isFetch (stop : BitVec 7) (line : Nat) (f : Fetch) : Bool := decide (f.pkt.src = stop) && decide (pktLine f.pkt = line)

/-- The slice of the requester's die has no replica: it fetches one from the home with RDS, or lets the request wait for one that it is
fetching. -/
def joinFetch (s : State) (line : Nat) (p : Packet) : State :=
  if s.fetches.any (isFetch p.dst line) then
    { s with fetches := replaceFirst (isFetch p.dst line) (fun f => { f with reqs := f.reqs ++ [p] }) s.fetches }
  else
    let q := { p with src := p.dst, dst := homeStop line, smask := 15 }
    send { s with fetches := s.fetches ++ [⟨q, [p], none⟩] } q

/-- A read at a slice that is not the line's home: from its replica. -/
def serveReplica (s : State) (slice line : Nat) (p : Packet) : State :=
  match find s.replicas (replicaKey slice line) with
  | some r =>
    send { s with replicas := put s.replicas (replicaKey slice line) { r with used := s.tick } }
      (sealedReply line p r.arena r.gen (zgetRun r.bytes 0 256))
  | none => joinFetch s line p

/-- A read of a sealed line at its home, which tracks no copy. -/
def serveSealed (s : State) (line : Nat) (p : Packet) : State :=
  let g := s.sgen (homeOfLine line) p.arena.toNat
  send (fillL2 s line p.arena g) (sealedReply line p p.arena g (homeBytes s (line * 256) 256))

/-- A replica's data reach the slice that has asked for them: it keeps them unless they are stale or the line is sealed no more, and
answers every request that waits. -/
def takeReplica (s : State) (slice : Nat) (p : Packet) : State :=
  let line := pktLine p
  match s.fetches.find? (isFetch p.dst line) with
  | none => s
  | some f =>
    let s1 := { s with fetches := removeFirst (isFetch p.dst line) s.fetches }
    let s2 := if bit p.hint 0 && decide (p.gen = s1.sgen slice p.arena.toNat) then putReplica s1 slice line p.arena p.gen p.data else s1
    sendAll s2 (f.reqs.map (fun q => { withPair (withSectors (replyPkt 0x10 line q) q.smask p.data) p.arena p.gen q.regn with hint := p.hint }))

/-- The fetches whose back-off has passed are sent again (R40). -/
def settleFetches (s : State) : State :=
  (s.fetches.filter (fun f => match f.due with | some d => decide (d ≤ s.loopClock) | none => false)).foldl (fun t f =>
    send { t with fetches := replaceFirst (fun g => decide (g = f)) (fun g => { g with due := none }) t.fetches } f.pkt) s

/-! ### RDS, RDX, UPG, OWNW (R37, R39, R40) -/

/-- A CP line, from the L2 and with no entry (R39). -/
def serveCp (s : State) (line : Nat) (p : Packet) : State :=
  let s1 := fillL2 s line p.arena (s.sgen (homeOfLine line) p.arena.toNat)
  send s1 (dataReply s1 0x11 line p)

/-- The service of a request that needs an entry: the line enters the L2, and a refusal is made where R40 asks for it. -/
def serveEntry (s : State) (line : Nat) (p : Packet) (k : State → State) : State :=
  if !(mayServe s p line) then refuse s p line true
  else withRoom s line p (fun t =>
    k (fillL2 (serviced t line) line p.arena (t.sgen (homeOfLine line) p.arena.toNat)))

/-- RDS at its home (R37, R39). -/
def serveRds (s : State) (line : Nat) (p : Packet) : State :=
  let c := p.core.toNat
  if sealedPkt s p then serveSealed s line p
  else if p.regn = 2 then serveCp s line p
  else serveEntry s line p (fun t =>
    if p.regn = 1 then
      let all : BitVec 64 := BitVec.allOnes 64
      let os := otherOwners t line c all
      if os.isEmpty then completeReq t line p else awaitCores t line os (some p) none (os.map (wordsMsg t 0x21 line all p.txn))
    else
      match otherOwner t line c with
      | none => completeReq t line p
      | some o => awaitCores t line [o] (some p) none [ctlMsg t 0x21 line p.txn o])

/-- RDS: a read shared, at the line's home or at the slice of the requester's die (R37, R39). -/
def execRds (p : Packet) (s : State) : Out :=
  let line := pktLine p
  askedIf s p (decide (p.op = 0x01)) (fun t =>
    match (if p.dst = homeStop line then none else sliceOfStop p.dst) with
    | some h => serveReplica t h line p
    | none => serveRds t line p)

/-- RDX of an HC or CP line (R39). -/
def execRdx (p : Packet) (s : State) : Out :=
  let line := pktLine p
  askedIf s p (decide (p.op = 0x02)) (fun t =>
    if p.regn = 2 then serveCp t line p else serveEntry t line p (fun u => serveExclusive u line p))

/-- UPG: an upgrade of a listed S copy; every other one is handled as RDX (R39, R40 item 4). -/
def execUpg (p : Packet) (s : State) : Out :=
  let line := pktLine p
  askedIf s p (decide (p.op = 0x03)) (fun t =>
    serveEntry t line p (fun u =>
      let d := u.dirAt line
      let listed := decide (d.state = 1) && !d.cvec && d.ptrs.contains p.core.toNat
      serveExclusive u line (if listed then p else { p with op := 0x02 })))

/-- The lines of a slice for which it holds ownership. -/
def ownedLines (s : State) (home : Nat) : List Nat :=
  s.own.foldl (fun l e => if homeOfLine (e.1 / 64) = home ∧ !(l.contains (e.1 / 64)) then l ++ [e.1 / 64] else l) []

/-- A slice holds ownership for at most 2,048 lines (R39). -/
def ownFull (s : State) (line : Nat) : Bool :=
  let l := ownedLines s (homeOfLine line)
  !(l.contains line) && decide (2048 ≤ l.length)

/-- OWNW: other owners first give the words up; a stale one is discarded (R39, R167). -/
def execOwnw (p : Packet) (s : State) : Out :=
  let line := pktLine p
  let words : BitVec 64 := p.inl.extractLsb' 0 64
  askedIf s p (decide (p.op = 0x07)) (fun t =>
    if staleAt t line p.arena p.gen then send t (ackPkt line p 0)
    else if ownFull t line then refuse t p line false
    else serveEntry t line p (fun u =>
      let os := otherOwners u line p.core.toNat words
      if os.isEmpty then completeReq u line p
      else awaitCores u line os (some p) none (os.map (wordsMsg u 0x23 line words p.txn))))

/-! ### EVC and EVD (R35, R40 item 6) -/

/-- The home clears the core's pointer, in exact mode alone (R35). -/
def clearPointer (s : State) (line core : Nat) : State :=
  let d := s.dirAt line
  if d.cvec then s
  else
    let l := d.ptrs.filter (fun c => decide (c ≠ core))
    if d.state = 1 ∨ d.state = 2 then setDir s line { d with ptrs := l, state := if l.isEmpty then 0 else d.state }
    else s

/-- EVC and EVD at the home: a stale one is discarded; it is refused while the line is busy, but for the owner that the entry awaits
(R40 items 1, 6 and 8, R167). -/
def takeEvict (s : State) (p : Packet) : State :=
  let line := pktLine p
  let c := p.core.toNat
  let d := s.dirAt line
  let owner := decide (d.state = 3) && d.wait.contains c && decide (d.before = 2 ∨ d.before = 4)
  if staleAt s line p.arena p.gen || owner then send s (ackPkt line p 0)
  else if !(mayServe s p line) then refuse s p line true
  else send (clearPointer (serviced s line) line c) (ackPkt line p 0)

/-- EVC (R35). -/
def execEvc (p : Packet) (s : State) : Out := askedIf s p (decide (p.op = 0x05)) (fun t => takeEvict t p)
/-- EVD (R35): the sectors are in memory since the core gave them up (log entry 15). -/
def execEvd (p : Packet) (s : State) : Out := askedIf s p (decide (p.op = 0x06)) (fun t => takeEvict t p)

/-! ### PFLR (R43) -/

/-- PFLR: once the home's write queue holds nothing of the page, PFL goes to every core (R43 steps 2 and 3). -/
def execPflr (p : Packet) (s : State) : Out :=
  askedIf s p (decide (p.op = 0x0B)) (fun t =>
    match flushOf t p.core.toNat p.grp.toNat with
    | none => t
    | some f => sendPfl t f (pktLine p))

/-! ### Replies at the core (R28, R37 to R40, R147) -/

/-- The pair is the core's current one: a stale fill is not installed (R167). -/
def freshPair (s : State) (core : Nat) (a : BitVec 12) (g : BitVec 4) : Bool := decide (g = zget (s.core core).gens a.toNat)

/-- The request that a reply answers. -/
def replyTo? (s : State) (p : Packet) : Option Request :=
  match findReq s p.core.toNat p.txn.toNat with
  | some r => if pktLine r.pkt = pktLine p then some r else none
  | none => none

/-- A fill is kept: no INV has overtaken it, its pair is fresh, and its request has reserved a line (R30, R40 item 5, R147, R167). -/
def mayKeep (s : State) (core : Nat) (r : Request) : Bool :=
  !r.invd && freshPair s core r.pkt.arena r.pkt.gen && (find (s.core core).l1 (pktLine r.pkt)).isSome

/-- A fill that is not kept: the line that it had reserved is free again, and reads whose generation has passed are issued again under
the new one (R166, R167). -/
def dropFill (s : State) (core : Nat) (r : Request) : State :=
  let q := r.pkt
  let s1 := dropEmpty s core (pktLine q)
  if freshPair s core q.arena q.gen || r.pref || decide (q.op ≠ 0x01) then s1
  else addAsks s1 core [{ slot := q.grp.toNat, op := 0, thr := q.thr.toNat, line := pktLine q, secs := r.secs, words := 0, write := false
                          pref := false, arena := q.arena, gen := zget (s.core core).gens q.arena.toNat, regn := q.regn }]

/-- Holds the sectors of a reply as a copy of a kind. -/
def holdReply (s : State) (core : Nat) (kind : BitVec 2) (a : BitVec 12) (g : BitVec 4) (p : Packet) : State :=
  let line := pktLine p
  let secs := bitsOf p.smask
  s.updCore core (fun c =>
    let c1 := (secs.zip (List.range secs.length)).foldl (fun k e =>
      holdBytes k kind a g (line * 256 + 64 * e.1) ((p.data.drop (64 * e.2)).take 64)) c
    c1.setLine line { c1.line line with sectors := (c1.line line).sectors ||| p.smask })

/-- Sectors of a copy are valid: what its words or bytes are, the ordering machine says (R171). -/
def markSectors (s : State) (core line : Nat) (kind : BitVec 2) (a : BitVec 12) (g : BitVec 4) (secs : BitVec 4) : State :=
  s.updCore core (fun c =>
    let l := c.line line
    c.setLine line { l with kind := kind, sectors := l.sectors ||| secs, arena := a, gen := g })

/-- The bytes of some sectors of a CP line that the core does not hold are filled (R42, R173). -/
def fillCp (s : State) (core line : Nat) (a : BitVec 12) (g : BitVec 4) (secs : BitVec 4) : State :=
  markSectors ((bitsOf secs).foldl (fun t k => holdFresh t core 2 a g (line * 256 + 64 * k) 64) s) core line 2 a g secs

/-- DATS at a core: the copy is kept untracked for a sealed line, as the unowned words of a prefetch for an SC line, else as a shared
copy (R37, R39, R288). -/
def takeDats (s : State) (p : Packet) : State :=
  let core := p.core.toNat
  let line := pktLine p
  match replyTo? s p with
  | none => s
  | some r =>
    let q := r.pkt
    let t := serveAsks (endReq s core p.txn.toNat) core line p.smask false
    if !(mayKeep t core r) then dropFill t core r
    else if bit p.hint 0 then
      if aSealed (t.arena q.arena.toNat) && freshPair t core p.arena p.gen then holdReply t core 3 q.arena q.gen p else dropFill t core r
    else if q.regn = 1 then
      markSectors (if r.pref then holdFresh t core 1 q.arena q.gen (line * 256) 256 else t) core line 1 q.arena q.gen p.smask
    else installLine t core line 1 p.smask q.arena q.gen

/-- DATS: at the slice that fetches a replica, or at a core (R37, R39). -/
def execDats (p : Packet) (s : State) : Out :=
  deliverIf s p (decide (p.op = 0x10)) (fun t =>
    match sliceOfStop p.dst with
    | some h => takeReplica t h p
    | none => takeDats t p)

/-- DATX: a line of a scratchpad's page, a lock grant, a CP line, or an exclusive copy (R38, R39, R149). -/
def execDatx (p : Packet) (s : State) : Out :=
  deliverIf s p (decide (p.op = 0x11)) (fun t =>
    let core := p.core.toNat
    let line := pktLine p
    if t.engReqs.any (engOf p) then filled t p
    else if 3072 ≤ p.txn.toNat then lockGranted t p
    else
      match replyTo? t p with
      | none => t
      | some r =>
        let t1 := serveAsks (endReq t core p.txn.toNat) core line p.smask true
        let q := r.pkt
        if !(mayKeep t1 core r) then dropFill t1 core r
        else if q.regn = 2 then fillCp t1 core line q.arena q.gen p.smask
        else if (t1.core core).groups.any (fun k => k.2.locks.contains line) then pinLine t1 core line q.arena q.gen
        else installLine t1 core line 2 p.smask q.arena q.gen)

/-- GNTX: the core's copy becomes exclusive (R39). -/
def execGntx (p : Packet) (s : State) : Out :=
  deliverIf s p (decide (p.op = 0x12)) (fun t =>
    let core := p.core.toNat
    let line := pktLine p
    match replyTo? t p with
    | none => t
    | some r =>
      let t1 := endReq t core p.txn.toNat
      if !(mayKeep t1 core r) then dropFill t1 core r
      else serveAsks (installLine t1 core line 2 0 r.pkt.arena r.pkt.gen) core line r.secs true)

/-- ACK: of a write of a copy engine or a port, of a lock operation, of a page flush, or of another request (R38). -/
def execAck (p : Packet) (s : State) : Out :=
  deliverIf s p (decide (p.op = 0x13)) (fun t =>
    if t.engReqs.any (engOf p) then engAcked t p
    else if 3648 ≤ p.txn.toNat then flushAcked t p
    else if 3072 ≤ p.txn.toNat then lockAcked t p
    else dropEmpty (endReq t p.core.toNat p.txn.toNat) p.core.toNat (pktLine p))

/-- The time before which a refused request is not sent again: 16 × HINT loop cycles (R40). -/
def backOff (s : State) (p : Packet) : Nat := s.loopClock + 16 * p.hint.toNat

/-- NACK: the request stays outstanding, refused (R40). -/
def execNack (p : Packet) (s : State) : Out :=
  deliverIf s p (decide (p.op = 0x14)) (fun t =>
    if (sliceOfStop p.dst).isSome then
      { t with fetches := replaceFirst (isFetch p.dst (pktLine p)) (fun f => { f with due := some (backOff t p) }) t.fetches }
    else if t.engReqs.any (engOf p) then
      { t with engReqs := replaceFirst (engOf p) (fun r => { r with due := some (backOff t p) }) t.engReqs }
    else
      t.updCore p.core.toNat (fun c => { c with reqs := c.reqs.map (fun r =>
        if decide (r.pkt.txn = p.txn) && decide (pktLine r.pkt = pktLine p) then { r with refused := true, due := backOff t p } else r) }))

/-- A refused LOCK or RESUME is not sent again once its group has given it up (R336, R338). -/
def mayResend (s : State) (core : Nat) (r : Request) : Bool :=
  let code := txnCode r.pkt.txn.toNat
  if decide (r.pkt.txn.toNat < 3072) || decide (3648 ≤ r.pkt.txn.toNat) || (decide (code ≠ 0) && decide (code ≠ 7)) then true
  else match (s.group core (txnGrp r.pkt.txn.toNat)).wait with
    | .lock _ _ _ false => true
    | _ => false

/-- The back-off of a refused request has passed, and it is sent again (R40). -/
def execRequestRetry (core txn : Nat) (s : State) : Out :=
  let hit := fun (r : Request) => decide (r.pkt.txn.toNat = txn) && r.refused && decide (r.due ≤ s.loopClock) && mayResend s core r
  match (s.core core).reqs.find? hit with
  | none => .next s
  | some r =>
    .next (send (s.updCore core (fun c => { c with reqs := replaceFirst hit (fun q => { q with refused := false }) c.reqs })) r.pkt)

/-- A reservation that was not taken within 4,096 loop cycles lapses, and the next refused request is recorded (R40 item 2). -/
def execReservationLapse (line : Nat) (s : State) : Out :=
  match find s.resv line with
  | none => .next s
  | some v => .next (if resvOver s v then lapse s line else s)

/-! ### Answers at the home (R39, R40) -/

/-- IACK (R39). -/
def execIack (p : Packet) (s : State) : Out :=
  deliverIf s p (decide (p.op = 0x15)) (fun t => takeAnswer t (pktLine p) p.core.toNat)

/-- RCD: the recalled data are in memory since the owner's answer (R39; log entry 15). -/
def execRcd (p : Packet) (s : State) : Out :=
  deliverIf s p (decide (p.op = 0x16)) (fun t => takeAnswer t (pktLine p) p.core.toNat)

/-! ### Control messages at the core (R38 to R40) -/

/-- INV: an outstanding fill is marked, and the copy goes (R40 item 5). -/
def execInv (p : Packet) (s : State) : Out :=
  deliverIf s p (decide (p.op = 0x20)) (fun t =>
    let core := p.core.toNat
    let line := pktLine p
    send (dropLine (markFills t core (fun l => decide (l = line))) core line) (answerTo p 0x15))

/-- An owner's answer, with the data of some sectors of a line as the core holds them; none means clean or already evicted (R38). -/
def rcdPkt (s : State) (core line : Nat) (secs : BitVec 4) (p : Packet) : Packet :=
  if secs = 0 then answerTo p 0x16 else withSectors (answerTo p 0x16) secs (coreLine s core line)

/-- DWN: an HC owner writes back and keeps a shared copy; an SC owner sends the words of the mask that it still owns, and keeps them
(R38, R40 item 6). -/
def execDwn (p : Packet) (s : State) : Out :=
  deliverIf s p (decide (p.op = 0x21)) (fun t =>
    let core := p.core.toNat
    let line := pktLine p
    if p.regn = 1 then
      let ws := ownedMask t line core (p.inl.extractLsb' 0 64)
      send t (rcdPkt t core line (wordSectors ws) p)
    else
      let l := (t.core core).line line
      if l.st = 2 then
        send (t.updCore core (fun c => c.setLine line { l with st := 1, dirty := 0 })) (rcdPkt t core line l.dirty p)
      else send t (answerTo p 0x16))

/-- RCL: the owner writes back and invalidates its copy; a pinned line is unpinned (R38, R337). -/
def execRcl (p : Packet) (s : State) : Out :=
  deliverIf s p (decide (p.op = 0x22)) (fun t =>
    let core := p.core.toNat
    let line := pktLine p
    match find (t.core core).l1 line with
    | none => send t (answerTo p 0x16)
    | some l => send (flushLine t core line) (rcdPkt t core line (dirtySectors l) p))

/-- OWNX: the SC owner gives up the words of the mask (R38, R39). -/
def execOwnx (p : Packet) (s : State) : Out :=
  deliverIf s p (decide (p.op = 0x23)) (fun t =>
    let core := p.core.toNat
    let line := pktLine p
    let ws := ownedMask t line core (p.inl.extractLsb' 0 64)
    send ((bitsOf ws).foldl (fun u i => evictWord u (line * 64 + i)) t) (rcdPkt t core line (wordSectors ws) p))

/-! ### Unassigned messages (R38) -/

/-- The class of a message code, where it is assigned. -/
def opClass (op : Nat) : Option Nat :=
  if decide (1 ≤ op) && decide (op ≤ 0x0B) then some 0
  else if decide (0x10 ≤ op) && decide (op ≤ 0x19) then some 1
  else if decide (0x20 ≤ op) && decide (op ≤ 0x26) then some 2
  else none

/-- A packet with an unassigned code, the wrong class, or an unassigned lock operation is discarded, and the management core
of the stop's die receives an error record, for which it wakes (R23, R38, R332). -/
def execUnassignedMessage (p : Packet) (s : State) : Out :=
  if opClass p.op.toNat ≠ some p.cls.toNat ∨ (p.op = 0x0A ∧ 8 < lockCode p) then
    let t := (anyArrival s p).getD s
    .next (wakeIf { t with errors := t.errors ++ [p.dst.toNat / 32] } (.mgmt (p.dst.toNat / 32)))
  else .next s

end Sys2Proof.Machine
end

