-- ==== Sys2Proof/Machine/Integer.lean ====
section
/-! DEFINITION. Integer arithmetic, shifts, word instructions, moves, compares and SEL (R228, R253 to R260). -/
namespace Sys2Proof.Machine

/-! ### Elements -/

/-- Applies a function to every element of the operand words under a TYPE (R253). -/
def intElems (ty : Nat) (ws : List Word) (f : List Nat → Nat × Flags) : Word × Flags :=
  let w := intWidth ty
  joinRes w ((List.range (intCount ty)).map (fun e => f (ws.map (fun v => elemAt v w e))))

/-- The value of each element of an operand, signed or unsigned as the TYPE is. -/
def val (ty : Nat) (x : Nat) : Int := elemVal (intWidth ty) (intSigned ty) x

/-- The word whose every element is an immediate, extended to the element width (R228). -/
def immWord (ty : Nat) (signed : Bool) (i : BitVec 8) : Word :=
  let w := intWidth ty
  joinElems w (List.replicate (intCount ty) (wrap w (if signed then i.toInt else (i.toNat : Int))))

/-- Bits 2w−1 : w of an exact product. -/
def highPart (w : Nat) (p : Int) : Nat := wrap w (p / 2 ^ w)

/-! ### Arithmetic (R255) -/

/-- Two operands, the exact result fitted (R255, R131). -/
def fit2 (m : Word) (f : Int → Int → Int) (a b : Word) : Word × Flags :=
  let ty := mType m
  intElems ty [a, b] (fun l => fitInt (mSat m) (intWidth ty) (intSigned ty) (f (val ty (l.getD 0 0)) (val ty (l.getD 1 0))))

/-- One operand, the exact result fitted. -/
def fit1 (m : Word) (f : Int → Int) (a : Word) : Word × Flags :=
  let ty := mType m
  intElems ty [a] (fun l => fitInt (mSat m) (intWidth ty) (intSigned ty) (f (val ty (l.getD 0 0))))

/-- a × b + d, fitted once. -/
def fitMad (m : Word) (a b d : Word) : Word × Flags :=
  let ty := mType m
  intElems ty [a, b, d] (fun l =>
    fitInt (mSat m) (intWidth ty) (intSigned ty) (val ty (l.getD 0 0) * val ty (l.getD 1 0) + val ty (l.getD 2 0)))

/-- Two operands, a result that SAT does not touch. -/
def plain2 (m : Word) (f : Nat → Int → Int → Nat) (a b : Word) : Word × Flags :=
  let ty := mType m
  intElems ty [a, b] (fun l => (f (intWidth ty) (val ty (l.getD 0 0)) (val ty (l.getD 1 0)), 0))

/-- The common course of a two-operand integer instruction. -/
def int2 (s : State) (d a b : BitVec 8) (f : Word → Word → Word → Word × Flags) : Out :=
  let m := s.cur.mode
  arith s (formShape d [a, b]) d (fun r => f m (r a) (r b))

/-- The common course of an immediate form. -/
def intI (s : State) (d a : BitVec 8) (i : Word) (f : Word → Word → Word → Word × Flags) : Out :=
  let m := s.cur.mode
  arith s (formShape d [a]) d (fun r => f m (r a) i)

def int1 (s : State) (d a : BitVec 8) (f : Word → Word → Word × Flags) : Out :=
  let m := s.cur.mode
  arith s (formShape d [a]) d (fun r => f m (r a))

def addFn (m a b : Word) : Word × Flags := fit2 m (fun x y => x + y) a b
def subFn (m a b : Word) : Word × Flags := fit2 m (fun x y => x - y) a b
def mulFn (m a b : Word) : Word × Flags := fit2 m (fun x y => x * y) a b
def mulhiFn (m a b : Word) : Word × Flags := plain2 m (fun w x y => highPart w (x * y)) a b
def minFn (m a b : Word) : Word × Flags := plain2 m (fun w x y => wrap w (min x y)) a b
def maxFn (m a b : Word) : Word × Flags := plain2 m (fun w x y => wrap w (max x y)) a b
def absFn (m a : Word) : Word × Flags := fit1 m (fun x => (x.natAbs : Int)) a
def negFn (m a : Word) : Word × Flags := fit1 m (fun x => -x) a

/-- ADD (R255). -/
def execAdd (d a b : BitVec 8) (s : State) : Out := int2 s d a b addFn
/-- SUB (R255). -/
def execSub (d a b : BitVec 8) (s : State) : Out := int2 s d a b subFn
/-- MUL (R255). -/
def execMul (d a b : BitVec 8) (s : State) : Out := int2 s d a b mulFn
/-- MULHI (R255). -/
def execMulhi (d a b : BitVec 8) (s : State) : Out := int2 s d a b mulhiFn
/-- MAD (R255). -/
def execMad (d a b : BitVec 8) (s : State) : Out :=
  let m := s.cur.mode
  arith s (formShape d [a, b, d]) d (fun r => fitMad m (r a) (r b) (r d))
/-- MIN (R255). -/
def execMin (d a b : BitVec 8) (s : State) : Out := int2 s d a b minFn
/-- MAX (R255). -/
def execMax (d a b : BitVec 8) (s : State) : Out := int2 s d a b maxFn
/-- ABS (R255). -/
def execAbs (d a : BitVec 8) (s : State) : Out := int1 s d a absFn
/-- NEG (R255). -/
def execNeg (d a : BitVec 8) (s : State) : Out := int1 s d a negFn
/-- ADD, immediate form (R228, R255). -/
def execAddI (d a i : BitVec 8) (s : State) : Out := intI s d a (immWord (mType s.cur.mode) true i) addFn
/-- MUL, immediate form (R228, R255). -/
def execMulI (d a i : BitVec 8) (s : State) : Out := intI s d a (immWord (mType s.cur.mode) true i) mulFn

/-! ### Shifts (R256) -/

/-- The elements of a shift: the value and the amount, both unsigned. -/
def shift2 (m : Word) (f : Nat → Nat → Nat → Nat) (a b : Word) : Word × Flags :=
  let ty := mType m
  intElems ty [a, b] (fun l => (f (intWidth ty) (l.getD 0 0) (l.getD 1 0), 0))

def shlFn (m a b : Word) : Word × Flags := shift2 m (fun w x k => if w ≤ k then 0 else x * 2 ^ k % 2 ^ w) a b
def shrFn (m a b : Word) : Word × Flags := shift2 m (fun w x k => if w ≤ k then 0 else x / 2 ^ k) a b
def sraFn (m a b : Word) : Word × Flags := shift2 m (fun w x k => wrap w (toSigned w x / 2 ^ (min k w))) a b

/-- The amount of an immediate shift, in every element (R228). -/
def immShift (ty : Nat) (i : BitVec 5) : Word := immWord ty false (i.setWidth 8)

/-- SHL (R256). -/
def execShl (d a b : BitVec 8) (s : State) : Out := int2 s d a b shlFn
/-- SHR (R256). -/
def execShr (d a b : BitVec 8) (s : State) : Out := int2 s d a b shrFn
/-- SRA (R256). -/
def execSra (d a b : BitVec 8) (s : State) : Out := int2 s d a b sraFn
/-- SHL, immediate form (R228, R256). -/
def execShlI (d a : BitVec 8) (i : BitVec 5) (s : State) : Out := intI s d a (immShift (mType s.cur.mode) i) shlFn
/-- SHR, immediate form (R228, R256). -/
def execShrI (d a : BitVec 8) (i : BitVec 5) (s : State) : Out := intI s d a (immShift (mType s.cur.mode) i) shrFn
/-- SRA, immediate form (R228, R256). -/
def execSraI (d a : BitVec 8) (i : BitVec 5) (s : State) : Out := intI s d a (immShift (mType s.cur.mode) i) sraFn

/-! ### Word instructions (R257, R258) -/

def word2 (s : State) (d a b : BitVec 8) (f : Word → Word → Word) : Out := int2 s d a b (fun _ x y => (f x y, 0))
def word1 (s : State) (d a : BitVec 8) (f : Word → Word) : Out := int1 s d a (fun _ x => (f x, 0))
/-- The immediate of AND, OR and XOR supplies every element of the TYPE (R228; log entry 19). -/
def wordI (s : State) (d a i : BitVec 8) (f : Word → Word → Word) : Out :=
  intI s d a (immWord (mType s.cur.mode) false i) (fun _ x y => (f x y, 0))

def leadingZeros (x : Word) : Nat := ((List.range 32).find? (fun i => x.getLsbD (31 - i))).getD 32
def reverseBits (x : Word) : Word := maskOf 32 ((bitsOf x).map (fun i => 31 - i))

def fieldPos (b : Word) : Nat := fnat b 4 0
def fieldLen (b : Word) : Nat := min (fnat b 9 5 + 1) (32 - fieldPos b)
def bfxFn (a b : Word) : Word :=
  let n := fieldLen b
  let x := a.toNat / 2 ^ fieldPos b % 2 ^ n
  if bit b 10 then BitVec.ofInt 32 (toSigned n x) else BitVec.ofNat 32 x
def bfiFn (a b d : Word) : Word := fput d (fieldPos b + fieldLen b - 1) (fieldPos b) a.toNat

/-- AND (R257). -/
def execAnd (d a b : BitVec 8) (s : State) : Out := word2 s d a b (fun x y => x &&& y)
/-- OR (R257). -/
def execOr (d a b : BitVec 8) (s : State) : Out := word2 s d a b (fun x y => x ||| y)
/-- XOR (R257). -/
def execXor (d a b : BitVec 8) (s : State) : Out := word2 s d a b (fun x y => x ^^^ y)
/-- NOT (R257). -/
def execNot (d a : BitVec 8) (s : State) : Out := word1 s d a (fun x => ~~~x)
/-- AND, immediate form (R228, R257). -/
def execAndI (d a i : BitVec 8) (s : State) : Out := wordI s d a i (fun x y => x &&& y)
/-- OR, immediate form (R228, R257). -/
def execOrI (d a i : BitVec 8) (s : State) : Out := wordI s d a i (fun x y => x ||| y)
/-- XOR, immediate form (R228, R257). -/
def execXorI (d a i : BitVec 8) (s : State) : Out := wordI s d a i (fun x y => x ^^^ y)
/-- POPC (R257). -/
def execPopc (d a : BitVec 8) (s : State) : Out := word1 s d a (fun x => BitVec.ofNat 32 (popcount x))
/-- CLZ (R257). -/
def execClz (d a : BitVec 8) (s : State) : Out := word1 s d a (fun x => BitVec.ofNat 32 (leadingZeros x))
/-- BREV (R257). -/
def execBrev (d a : BitVec 8) (s : State) : Out := word1 s d a reverseBits
/-- BFX (R257). -/
def execBfx (d a b : BitVec 8) (s : State) : Out := word2 s d a b bfxFn
/-- BFI (R257). -/
def execBfi (d a b : BitVec 8) (s : State) : Out :=
  arith s (formShape d [a, b, d]) d (fun r => (bfiFn (r a) (r b) (r d), 0))
/-- LDI (R257, R258). -/
def execLdi (d : BitVec 8) (i : BitVec 16) (s : State) : Out := arith s (formShape d []) d (fun _ => (i.signExtend 32, 0))
/-- LDIH (R257, R258). -/
def execLdih (d : BitVec 8) (i : BitVec 16) (s : State) : Out :=
  arith s (formShape d [d]) d (fun r => ((i ++ (r d).extractLsb' 0 16 : BitVec (16 + 16)), 0))

/-- A source of MOV: a predicate gives one thread's bit (R258). -/
def movSrc (r : BitVec 8) : Bool := isSrc r || isPred r

/-- A source of MOV in the uniform pipe: a predicate gives the bit that the threads of the active mask share, and a free bit
where they differ (log entry 20). -/
def movUni (tick : Nat) (x : Ctx) (a : BitVec 8) : Word :=
  if isPred a then
    let m := x.src.pred (predNo a) &&& x.act
    if m = x.act then 1 else if m = 0 then 0 else Config.freeWord tick &&& 1
  else x.uni a

/-- MOV runs in the lane for a vector destination, and for a predicate with a source that differs between threads. To a predicate from a
scalar or a special value it is uniform: GUARD does not narrow it, and it writes the whole active mask (DESIGN CHOICE, log entry 111). -/
def movLane (d a : BitVec 8) : Bool := isVec d || (isPred d && (perThread [a] || isPred a))

/-- The shape of MOV (R258). -/
def movShape (d a : BitVec 8) : Shape :=
  mkShape (if movLane d a then .lane else .uniform)
    (if isVec d then movSrc a else if isScal d then isUni a || isPred a else isPred d && movSrc a) [d, a] [a] (!(movLane d a))

/-- MOV (R257, R258). -/
def execMov (d a : BitVec 8) (s : State) : Out :=
  startGroup s (movShape d a) (fun x t =>
    if isVec d then commitLane x t (laneResults x d (fun i => (x.lane a i, 0)))
    else if isScal d then commitScal x t d (movUni t.tick x a) (some 0)
    else if movLane d a then
      commitLane x t ((bitsOf x.act).map (fun i => ⟨i, [], some (d, bit (x.lane a i) 0), some 0⟩))
    else
      commitUni x t [d] [] (some 0) (fun u => u.updCur (fun g => writePred g d x.act (if bit (x.uni a) 0 then x.act else 0))))

/-- The address that LEAS forms (R258). -/
def leasFn (lo hi b : Word) : BitVec 64 :=
  ((((hi ++ lo : BitVec (32 + 32)) + b.signExtend 64)).setWidth 48).signExtend 64

/-- The shape of LEAS: register pairs in d and a (R258). -/
def leasShape (d a b : BitVec 8) : Shape :=
  mkShape (if uniForm d then .uniform else .lane)
    (alignedTo 2 d && alignedTo 2 a &&
      ((isVec d && (isVec a || isScal a) && isSrc b) || (isScal d && isScal a && isUni b)))
    [d, d + 1, a, a + 1, b] [a, a + 1, b] (uniForm d)

/-- LEAS (R258). -/
def execLeas (d a b : BitVec 8) (s : State) : Out :=
  startGroup s (leasShape d a b) (fun x t =>
      if uniForm d then commitScal64 x t d (leasFn (x.uni a) (x.uni (a + 1)) (x.uni b)) (some 0)
      else commitLane x t ((bitsOf x.act).map (fun i =>
        let v := leasFn (x.lane a i) (x.lane (a + 1) i) (x.lane b i)
        ⟨i, [(d, v.setWidth 32), (d + 1, v.extractLsb' 32 32)], none, some 0⟩)))

/-- The shape of SEL: every thread of the active mask takes part, and the lane form reads the predicate that GUARD names
(R223, R260). -/
def selShape (g : Group) (d a b : BitVec 8) : Shape :=
  let regs := if uniForm d then [] else guardReg g
  let sh := formShape d [a, b]
  { sh with full := true, regs := sh.regs ++ regs, reads := sh.reads ++ regs }

/-- SEL (R223, R260). -/
def execSel (d a b : BitVec 8) (s : State) : Out :=
  startGroup s (selShape s.cur d a b) (fun x t =>
    if uniForm d then commitScal x t d (x.uni a) (some 0)
    else
      let m := guardMask x.src
      commitLane x t (laneResults x d (fun i => (if bit m i then x.lane a i else x.lane b i, 0))))

/-! ### Compares (R259) -/

/-- The relation of every element: all ones where it holds, and whether it holds in all. -/
def cmpElems (ty : Nat) (sg : Bool) (f : Int → Int → Bool) (a b : Word) : Word × Bool × Flags :=
  let w := intWidth ty
  let rs := (List.range (intCount ty)).map (fun e => f (elemVal w sg (elemAt a w e)) (elemVal w sg (elemAt b w e)))
  (joinElems w (rs.map (fun r => if r then 2 ^ w - 1 else 0)), rs.all id, 0)

def cmp2 (s : State) (d a b : BitVec 8) (sg : Bool) (f : Int → Int → Bool) : Out :=
  let ty := mType s.cur.mode
  compare s (cmpShape d [a, b]) d [a, b] (fun r => cmpElems ty sg f (r a) (r b))

/-- The immediate form: signed or zero-extended as R228 gives. -/
def cmpI (s : State) (d a i : BitVec 8) (sgn sg : Bool) (f : Int → Int → Bool) : Out :=
  let ty := mType s.cur.mode
  compare s (cmpShape d [a]) d [a] (fun r => cmpElems ty sg f (r a) (immWord ty sgn i))

/-- CMPEQ (R259). -/
def execCmpeq (d a b : BitVec 8) (s : State) : Out := cmp2 s d a b false (fun x y => x = y)
/-- CMPNE (R259). -/
def execCmpne (d a b : BitVec 8) (s : State) : Out := cmp2 s d a b false (fun x y => x ≠ y)
/-- CMPLT (R259). -/
def execCmplt (d a b : BitVec 8) (s : State) : Out := cmp2 s d a b true (fun x y => x < y)
/-- CMPLE (R259). -/
def execCmple (d a b : BitVec 8) (s : State) : Out := cmp2 s d a b true (fun x y => x ≤ y)
/-- CMPLTN (R259). -/
def execCmpltn (d a b : BitVec 8) (s : State) : Out := cmp2 s d a b false (fun x y => x < y)
/-- CMPLEN (R259). -/
def execCmplen (d a b : BitVec 8) (s : State) : Out := cmp2 s d a b false (fun x y => x ≤ y)
/-- CMPEQ, immediate form (R228, R259). -/
def execCmpeqI (d a i : BitVec 8) (s : State) : Out := cmpI s d a i true false (fun x y => x = y)
/-- CMPNE, immediate form (R228, R259). -/
def execCmpneI (d a i : BitVec 8) (s : State) : Out := cmpI s d a i true false (fun x y => x ≠ y)
/-- CMPLT, immediate form (R228, R259). -/
def execCmpltI (d a i : BitVec 8) (s : State) : Out := cmpI s d a i true true (fun x y => x < y)
/-- CMPLE, immediate form (R228, R259). -/
def execCmpleI (d a i : BitVec 8) (s : State) : Out := cmpI s d a i true true (fun x y => x ≤ y)
/-- CMPLTN, immediate form (R228, R259). -/
def execCmpltnI (d a i : BitVec 8) (s : State) : Out := cmpI s d a i false false (fun x y => x < y)
/-- CMPLEN, immediate form (R228, R259). -/
def execCmplenI (d a i : BitVec 8) (s : State) : Out := cmpI s d a i false false (fun x y => x ≤ y)

end Sys2Proof.Machine
end

