-- ==== Sys2Proof/Machine/Lanes.lean ====
section
/-! DEFINITION. The lane instructions: exchanges, votes, and the pairing of groups across clusters (R113, R261 to R264). -/
namespace Sys2Proof.Machine

/-! ### Exchanges (R261) -/

/-- The value of thread `u` where it takes part, else of thread `t`. -/
def fromLane (x : Ctx) (a : BitVec 8) (t u : Nat) : Word := if bit x.act u then x.lane a u else x.lane a t

/-- The shape of SHFL and SHFLX. -/
def shflShape (d a b : BitVec 8) : Shape := mkShape .lane (isVec d && isVec a && isSrc b) [d, a, b] [a, b] false

/-- SHFL (R261). -/
def execShfl (d a b : BitVec 8) (s : State) : Out :=
  startGroup s (shflShape d a b) (fun x t =>
    commitLane x t (laneMoves x d (fun i => fromLane x a i (fnat (x.lane b i) 5 0))))

/-- SHFLX (R261). -/
def execShflx (d a b : BitVec 8) (s : State) : Out :=
  startGroup s (shflShape d a b) (fun x t =>
    commitLane x t (laneMoves x d (fun i => fromLane x a i (Nat.xor i (fnat (x.lane b i) 5 0)))))

/-- The lowest thread that takes part in the segment of `2^k` threads around `t`. -/
def segLow (act : BitVec 64) (k t : Nat) : Nat :=
  ((bitsOf act).find? (fun u => decide (u / 2 ^ k = t / 2 ^ k))).getD t

/-- The shape of BCAST. -/
def bcastShape (d a b : BitVec 8) : Shape := mkShape .lane (isVec d && isVec a && isUni b) [d, a, b] [a, b] false

/-- BCAST (R261). -/
def execBcast (d a b : BitVec 8) (s : State) : Out :=
  startGroup s (bcastShape d a b) (fun x t =>
    let k := min 6 (fnat (x.uni b) 2 0)
    commitLane x t (laneMoves x d (fun i => x.lane a (segLow x.act k i))))

/-- The threads that take part and hold a value. -/
def sameValue (x : Ctx) (a : BitVec 8) (v : Word) : BitVec 64 :=
  maskOf 64 ((bitsOf x.act).filter (fun u => decide (x.lane a u = v)))

/-- The shape of MATCH: a register pair as destination. -/
def matchShape (d a : BitVec 8) : Shape :=
  mkShape (if isScal d then .laneUni else .lane) (isVec a && (isVecPair d || isScalPair d)) [d, d + 1, a] [a] (isScal d)

/-- MATCH, with a vector or a scalar destination (R261, R262). -/
def execMatchv (d a : BitVec 8) (s : State) : Out :=
  startGroup s (matchShape d a) (fun x t =>
      if isScal d then
        if x.act = 0 then retire t x.hit 0
        else
          let m := sameValue x a (x.lane a x.low)
          commitUni x t [] [m.setWidth 32, m.extractLsb' 32 32] none (fun u => u.updCur (fun g => writeScal64 g d m))
      else
        commitLane x t ((bitsOf x.act).map (fun i =>
          let m := sameValue x a (x.lane a i)
          ⟨i, [(d, m.setWidth 32), (d + 1, m.extractLsb' 32 32)], none, none⟩)))

/-! ### Votes (R262) -/

/-- A lane-to-uniform instruction that writes one scalar; with no thread it has no effect (R98, R262). -/
def vote (s : State) (sh : Shape) (d : BitVec 8) (f : Ctx → Word) : Out :=
  startGroup s sh (fun x t =>
    if x.act = 0 then retire t x.hit 0
    else commitUni x t [] [f x] none (fun u => u.updCur (fun g => writeScal g d (f x))))

/-- The shapes of BALLOT, of VANY and VALL, and of RDUNI. -/
def ballotShape (d a : BitVec 8) : Shape := mkShape .laneUni (isScalPair d && isPred a) [d, d + 1, a] [a] true
def voteShape (d a : BitVec 8) : Shape := mkShape .laneUni (isScal d && isPred a) [d, a] [a] true
def rduniShape (d a b : BitVec 8) : Shape := mkShape .laneUni (isScal d && isVec a && isUni b) [d, a, b] [a, b] true

/-- BALLOT (R262). -/
def execBallot (d a : BitVec 8) (s : State) : Out :=
  startGroup s (ballotShape d a) (fun x t =>
    if x.act = 0 then retire t x.hit 0
    else
      let m := x.src.pred (predNo a) &&& x.act
      commitUni x t [] [m.setWidth 32, m.extractLsb' 32 32] none (fun u => u.updCur (fun g => writeScal64 g d m)))

/-- VANY (R262). -/
def execVany (d a : BitVec 8) (s : State) : Out :=
  vote s (voteShape d a) d
    (fun x => if x.src.pred (predNo a) &&& x.act = 0 then 0 else 1)

/-- VALL (R262). -/
def execVall (d a : BitVec 8) (s : State) : Out :=
  vote s (voteShape d a) d
    (fun x => if x.src.pred (predNo a) &&& x.act = x.act then 1 else 0)

/-- RDUNI (R262). -/
def execRduni (d a b : BitVec 8) (s : State) : Out :=
  vote s (rduniShape d a b) d (fun x =>
    let u := fnat (x.uni b) 5 0
    x.lane a (if bit x.act u then u else x.low))

/-! ### Cluster pairs (R113, R263, R264) -/

/-- The checks of XPAIR (R263). -/
def pairOk (s : State) (core slot pc pg : Nat) : Bool :=
  let i := (s.group core slot).inst
  let g := s.group pc pg
  (match find s.insts i with | some y => y.gang.contains pc | none => false) &&
  decide (pc / 8 = Nat.xor (core / 8) 1) && g.resident && !g.ended && decide (g.inst = i)

/-- The shapes of XPAIR and XSHFL. The class of XPAIR is not stated: it is uniform, and GUARD does not narrow it (DESIGN CHOICE, log entry
111). -/
def xpairShape (a b : BitVec 8) : Shape := mkShape .uniform (isUni a && isUni b) [a, b] [a, b] true
def xshflShape (d a : BitVec 8) : Shape := mkShape .lane (isVec d && isVec a) [d, a] [a] false

/-- A group names its partner: those that wait for it and that it does not name complete unbound (R263). -/
def passOver (s : State) (core slot pc pg : Nat) : State :=
  (s.allGroups.filter (fun e => decide (e.2.2.wait = .xpair core slot) && !(decide (e.1 = pc) && decide (e.2.1 = pg)))).foldl
    (fun t e => endWait t e.1 e.2.1) s

/-- XPAIR (R263). -/
def execXpair (a b : BitVec 8) (s : State) : Out :=
  startGroup s (xpairShape a b) (fun x t =>
    let pc := fnat (x.uni a) 7 0
    let pg := fnat (x.uni b) 5 0
    if !(pairOk t x.core x.slot pc pg) then trapCode t cPAIRINVALID
    else enterWait x (passOver (unpair t x.core x.slot) x.core x.slot pc pg) (.xpair pc pg))

/-- XSHFL (R113, R264). -/
def execXshfl (d a : BitVec 8) (s : State) : Out :=
  startGroup s (xshflShape d a) (fun x t =>
    match x.src.pair with
    | none => trapCode t cPAIRBROKEN
    | some _ => enterWait x t (.xshfl a d x.act))

end Sys2Proof.Machine
end

