-- ==== Sys2Proof/Machine/Ortho.lean ====
section
/-! DEFINITION. The orthogonal unit: q registers, the Q instructions, and what the unit does (R141, R320 to R328). -/
namespace Sys2Proof.Machine

/-! ### q registers (R320) -/

def qhK (h : BitVec 64) : Nat := fnat h 5 0
def qhAuto (h : BitVec 64) : Bool := bit h 8
def qhSpill (h : BitVec 64) : Bool := bit h 9
def qhTile (h : BitVec 64) : Nat := fnat h 11 10
def qhDvalid (h : BitVec 64) : Bool := bit h 12
def qhComp (h : BitVec 64) : Nat := fnat h 63 48

/-- Column `r` of V. -/
def vCol (p : Partition) (q r : Nat) : List Word := zgetRun p.qv (q * 2048 + 64 * r) 64
/-- Row `r` of T. -/
def tRow (p : Partition) (q r : Nat) : List Word := zgetRun p.qt (q * 1024 + 32 * r) 32

/-- V and T of a q register zeroed. -/
def clearVT (p : Partition) (q : Nat) : Partition :=
  { p with
    qv := keepKeys (fun k => decide (k / 2048 ≠ q)) p.qv
    qt := keepKeys (fun k => decide (k / 1024 ≠ q)) p.qt }

/-! ### Products (R324) -/

/-- A 64 by 64 matrix by rows. -/
abbrev Mat := List (List Word)

def transpose (m : Mat) (n : Nat) : Mat := (List.range n).map (fun j => m.map (fun r => r.getD j 0))

def tileMat (p : Partition) (n : Nat) : Mat := (List.range 64).map (tileRow p n)
def setTile (p : Partition) (n : Nat) (m : Mat) : Partition := (m.zipIdx).foldl (fun q r => setTileRow q n r.2 r.1) p
def identityMat : Mat := (List.range 64).map (fun i => (List.range 64).map (fun j => if i = j then 0x3F800000#32 else 0))

/-- A matrix with the flags of each row, and those that every active thread receives. -/
structure Product where
  rows : Mat
  fl   : List Flags
  all  : Flags
  deriving Repr

def orFlags (l : List Flags) : Flags := l.foldl (fun a b => a ||| b) 0

/-- A product that raised nothing. -/
def plainProduct (m : Mat) : Product := ⟨m, List.replicate 64 0, 0⟩

def addRowFlags (a b : List Flags) : List Flags := (a.zip b).map (fun e => e.1 ||| e.2)

/-- C[i][j] := RNE(C[i][j] − u) for a row, with the flags of the DOTs and of the roundings. -/
def subRow (c : List Word) (us : List (Word × Flags)) : List Word × Flags :=
  let rs := (c.zip us).map (fun e => let r := subF32 e.1 e.2.1; (r.1, r.2 ||| e.2.2))
  (rs.map Prod.fst, orFlags (rs.map Prod.snd))

/-- The indices of T that meet reflector `r`: `r` to `k − 1`, or 0 to `r`. -/
def tRange (low : Bool) (k r : Nat) : List Nat := if low then List.range (r + 1) else (List.range k).filter (fun s => decide (r ≤ s))

/-- The compact factor applied from the left: Q·C, or Qᵀ·C with `tr`. -/
def compactLeft (vs : Mat) (t : Nat → Nat → Word) (k : Nat) (tr : Bool) (c : Mat) : Product :=
  let cols := transpose c 64
  let w1 := vs.map (fun v => cols.map (fun x => dotF32 v x))
  let w1v := fun r j => ((w1.getD r []).getD j (0, 0)).1
  let w2 := (List.range k).map (fun r =>
    let ix := tRange tr k r
    let ts := ix.map (fun s => if tr then t s r else t r s)
    (List.range 64).map (fun j => dotF32 ts (ix.map (fun s => w1v s j))))
  let w2c := transpose (w2.map (fun r => r.map Prod.fst)) 64
  let rs := (c.zipIdx).map (fun e =>
    let vi := vs.map (fun v => v.getD e.2 0)
    subRow e.1 (w2c.map (fun col => dotF32 vi col)))
  ⟨rs.map Prod.fst, rs.map Prod.snd, orFlags ((w1 ++ w2).flatMap (fun r => r.map Prod.snd))⟩

/-- The compact factor applied from the right: C·Q, or C·Qᵀ with `tr`. -/
def compactRight (vs : Mat) (t : Nat → Nat → Word) (k : Nat) (tr : Bool) (c : Mat) : Product :=
  let rs := c.map (fun row =>
    let w1 := vs.map (fun v => dotF32 row v)
    let w2 := (List.range k).map (fun r =>
      let ix := tRange (!tr) k r
      dotF32 (ix.map (fun s => (w1.getD s (0, 0)).1)) (ix.map (fun s => if tr then t r s else t s r)))
    let ws := w2.map Prod.fst
    let y := subRow row ((List.range 64).map (fun j => dotF32 ws (vs.map (fun v => v.getD j 0))))
    (y.1, y.2 ||| orFlags ((w1 ++ w2).map Prod.snd)))
  ⟨rs.map Prod.fst, rs.map Prod.snd, 0⟩

/-- DP: the tile whose elements are DOTs of rows and columns. -/
def denseProduct (x y : Mat) : Product :=
  let cols := transpose y 64
  let rs := x.map (fun r => cols.map (fun c => dotF32 r c))
  ⟨rs.map (fun r => r.map Prod.fst), rs.map (fun r => orFlags (r.map Prod.snd)), 0⟩

/-- One product after another: the flags add up. -/
def Product.andThen (a : Product) (f : Mat → Product) : Product :=
  let b := f a.rows
  ⟨b.rows, addRowFlags a.fl b.fl, a.all ||| b.all⟩

/-- The compact factor of a q register. -/
def compactOf (p : Partition) (q : Nat) (left tr : Bool) (c : Mat) : Product :=
  let k := qhK (zget p.qhdr q)
  let vs := (List.range k).map (vCol p q)
  let t := fun r s => zget p.qt (q * 1024 + 32 * r + s)
  if k = 0 then plainProduct c
  else if left then compactLeft vs t k tr c else compactRight vs t k tr c

/-- The four applies (R324): the compact factor and, where it is in use, the D factor, in the order of the table. -/
def applyOf (p : Partition) (q : Nat) (left tr : Bool) (c : Mat) : Product :=
  let h := zget p.qhdr q
  let d := tileMat p (qhTile h)
  let comp := compactOf p q left tr
  if !(qhDvalid h) then comp c
  else
    let dn := if tr then transpose d 64 else d
    let dense := fun m => if left then denseProduct dn m else denseProduct m dn
    if left != tr then (comp c).andThen dense else (dense c).andThen comp

/-- RECOMPACT (R325): the partition after it, and the rows of the spill tile. -/
def recompact (p : Partition) (q : Nat) : Partition × Product :=
  let h := zget p.qhdr q
  let r := compactOf p q false false (tileMat p (qhTile h))
  let h1 := fput (fput (setBit h 12 true) 63 48 (Nat.min 65535 (qhComp h + 1))) 5 0 0
  let p1 := clearVT (setTile p (qhTile h) r.rows) q
  ({ p1 with qhdr := zset p1.qhdr q h1 }, r)

/-- QAPPEND's own part: the new column of T with its flags, and the partition with the reflector (R323). -/
def appendTo (p : Partition) (q : Nat) (v : List Word) (tau : Word) : Partition × List Word × Flags :=
  let h := zget p.qhdr q
  let k := qhK h
  let w := (List.range k).map (fun r => dotF32 (vCol p q r) v)
  let us := (List.range k).map (fun r =>
    let u := dotF32 ((tRow p q r).drop r |>.take (k - r)) ((w.map Prod.fst).drop r)
    let m := mulF32 (negF32 tau) u.1
    (m.1, u.2 ||| m.2))
  let col := us.map Prod.fst ++ [tau]
  let qt1 := (col.zipIdx).foldl (fun m e => zset m (q * 1024 + 32 * e.2 + k) e.1) p.qt
  ({ p with qt := qt1, qv := zsetRun p.qv (q * 2048 + 64 * k) v, qhdr := zset p.qhdr q (fput h 5 0 (k + 1)) }, col,
   orFlags (w.map Prod.snd ++ us.map Prod.snd))

/-! ### Starting a Q instruction (R321, R323) -/

/-- QINIT (R232, R322). -/
def execQinit (q sp au : BitVec 1) (t : BitVec 2) (s : State) : Out :=
  unitInstr s (unitShape (decide (sp = 1) || (decide (au = 0) && decide (t = 0))) [] [] [] true) true (.qinit q sp au t) [] [] noWord
    noWord

/-- An older instruction of the orthogonal unit names the q register. -/
def qBusy (s : State) (q : BitVec 1) : Bool := (curPart s).qunit.any (fun o => decide (qName o.instr = q.toNat))

/-- QAPPEND (R321, R323). -/
def execQappend (q : BitVec 1) (v a : BitVec 8) (s : State) : Out :=
  startGroup s (unitShape (isVec v && (isScal a || isZero a)) [v, a] [v, a] [] true) (fun x t =>
    if x.act = 0 then retire t x.hit 0
    else unitStart s x t true (fun w0 v0 u =>
      let h := zget (curPart u).qhdr q.toNat
      if qBusy t q then retry w0 .busy
      else if decide (qhK h = 32) && !(qhAuto h) then trapCode v0 cORTHCAP
      else retire (enterUnit x u true (.qappend q v a) [v] [] (x.uni a) 0) x.hit 0))

/-- An apply. -/
def applyInstr (s : State) (i : Instr) : Out := unitInstr s (unitShape true [] [] [] true) true i [] [] noWord noWord

/-- QAPPL (R324). -/
def execQappl (q : BitVec 1) (t : BitVec 2) (s : State) : Out := applyInstr s (.qappl q t)
/-- QAPPLT (R324). -/
def execQapplt (q : BitVec 1) (t : BitVec 2) (s : State) : Out := applyInstr s (.qapplt q t)
/-- QAPPR (R324). -/
def execQappr (q : BitVec 1) (t : BitVec 2) (s : State) : Out := applyInstr s (.qappr q t)
/-- QAPPRT (R324). -/
def execQapprt (q : BitVec 1) (t : BitVec 2) (s : State) : Out := applyInstr s (.qapprt q t)

/-- QCOUNT (R321, R326). -/
def execQcount (q : BitVec 1) (a : BitVec 8) (s : State) : Out :=
  startGroup s (unitShape (isScal a) [a] [] [] true) (fun x t =>
    if x.act = 0 then retire t x.hit 0
    else unitStart s x t true (fun w0 _ u =>
      if qBusy t q then retry w0 .busy else retire (enterUnit x u true (.qcount q a) [] [a] 0 0) x.hit 0))

/-- QCOMPACT (R325). -/
def execQcompact (q : BitVec 1) (s : State) : Out := applyInstr s (.qcompact q)

/-- QDENSE (R326). -/
def execQdense (q : BitVec 1) (t : BitVec 2) (s : State) : Out := applyInstr s (.qdense q t)

/-! ### What the unit does -/

/-- The rows of a product that the watch predicates see: those of active threads, with their flags. -/
def productShown (o : UnitOp) (r : Product) : List Row :=
  (bitsOf o.act).map (fun i => (i, r.rows.getD i [], r.fl.getD i 0 ||| r.all))

/-- The partition after a Q instruction, and the rows that the watch predicates see. -/
def orthRows (p : Partition) (o : UnitOp) : Partition × List Row :=
  let app := fun (q : BitVec 1) (t : BitVec 2) (left tr : Bool) =>
    let r := applyOf p q.toNat left tr (tileMat p t.toNat)
    (setTile p t.toNat r.rows, productShown o r)
  match o.instr with
  | .qinit q sp au t =>
    let p1 := clearVT p q.toNat
    let h : BitVec 64 := fput (setBit (setBit 0 8 (au = 1)) 9 (sp = 1)) 11 10 t.toNat
    let p2 := { p1 with qhdr := zset p1.qhdr q.toNat h }
    if sp = 1 then (setTile p2 t.toNat identityMat, productShown o (plainProduct identityMat)) else (p2, [])
  | .qappend q v _ =>
    let r := if qhK (zget p.qhdr q.toNat) = 32 then
        let c := recompact p q.toNat
        (c.1, productShown o c.2)
      else (p, [])
    let vv := (List.range 64).map (fun i => if bit o.act i then zget o.vecs (64 * v.toNat + i) else 0)
    let a := appendTo r.1 q.toNat vv o.scal
    (a.1, r.2 ++ [(0, a.2.1, a.2.2)])
  | .qappl q t => app q t true false
  | .qapplt q t => app q t true true
  | .qappr q t => app q t false false
  | .qapprt q t => app q t false true
  | .qcompact q =>
    let h := zget p.qhdr q.toNat
    if qhSpill h && decide (qhK h ≠ 0) then
      let c := recompact p q.toNat
      (c.1, productShown o c.2)
    else (p, [])
  | .qdense q t =>
    let h := zget p.qhdr q.toNat
    let base := if qhDvalid h then tileMat p (qhTile h) else identityMat
    let r := compactOf p q.toNat false false base
    (setTile p t.toNat r.rows, productShown o r)
  | _ => (p, [])

/-- Source 25 of the event matrix pulses (R118). -/
def orthPulses (i : Instr) : Bool :=
  match i with
  | .qinit _ _ _ _ => false
  | .qcount _ _ => false
  | _ => true

/-- The head of the orthogonal unit may execute: no older M instruction names a tile of it. -/
def orthReady (p : Partition) (o : UnitOp) : Bool :=
  p.munit.all (fun m => decide (o.order ≤ m.order) || !((mTiles p m.instr).any (fun t => (qTiles p o.instr).contains t)))

/-- Performs the head of the orthogonal unit. -/
def orthPerform (s : State) (core part : Nat) (p : Partition) (o : UnitOp) : State :=
  match o.instr with
  | .qcount q a =>
    let s1 := s.updCore core (fun c => c.setPart part p)
    let v : Word := (zget p.qhdr q.toNat).setWidth 32
    let s2 := s1.updGroup core o.slot (fun g => if decide (g.inst = o.inst) && !g.ended then writeScal g a v else g)
    unitDone s2 core o true
  | i =>
    let r := orthRows p o
    let s1 := unitDone (s.updCore core (fun c => c.setPart part r.1)) core o true
    showRows (if orthPulses i then pulseFor s1 core o.inst 25 else s1) core o r.2

/-- ORTHOGONAL_UNIT_EXECUTE: the oldest instruction of a partition's orthogonal unit executes (R308). -/
def execOrthogonalUnitExecute (core part : Nat) (s : State) : Out :=
  let p := (s.core core).part part
  match p.qunit with
  | [] => .next s
  | o :: r =>
    if p.owner != some o.inst then .next (unitDone (s.updCore core (fun c => c.setPart part { p with qunit := r })) core o true)
    else if orthReady p o then .next (orthPerform s core part { p with qunit := r } o)
    else .next s

end Sys2Proof.Machine
end

