-- ==== Sys2Proof/Machine/Tasks.lean ====
section
/-! DEFINITION. Task and system instructions: TSPAWN, TDONE, TDEP, MBXREG, EVROUTE, CSRRD, CSRWR and PREACK (R112, R230,
R355 to R364). -/
namespace Sys2Proof.Machine

/-! ### Control blocks that an instruction names (R358, R361, R362) -/

/-- A read of a block is not allowed yet: the group's older accesses come first, and another group's lock holds it back (R179,
R190). -/
def blockHeld (s : State) (x : Ctx) (pa size : Nat) : Bool :=
  let p : Access := { Access.zero with id := s.cur.nextAcc, addr := pa, size := size }
  readHeld s x.core x.slot s.cur pa size || s.cur.accs.any (fun b => !b.perf && !(isFence b) && b.overlaps p)

/-- Checks one block address of the executing group: aligned to `size`, then R209; with `rd`, a block that the instruction reads. -/
def blockAt (s : State) (x : Ctx) (va : BitVec 64) (size : Nat) (need : Need) (rd : Bool) : Res Nat :=
  match check s x.core (instRoot s x.src.inst) va size need with
  | .fault c a => .fault ⟨c, va, x.low, a⟩
  | .wait l => .wait l
  | .ok pa a _ _ =>
    if rd && blockHeld s x pa size then .held pa va x.low a
    else if rd && softAt s pa size then .fault ⟨cSOFTERR, va, x.low, a⟩
    else .ok pa

/-! ### TSPAWN (R75, R358, R359) -/

/-- TSPAWN. -/
def execTspawn (d a : BitVec 8) (s : State) : Out :=
  startGroup s (onceShape (isScal d && isScalPair a) [d, a, a + 1] [a, a + 1]) (fun x t =>
    if x.act = 0 then commitOnce x t id
    else
      (blockAt t x (x.src.s64 a) 128 .both true).orElse s t (fun pa =>
        let k := pa / 128
        match admitTask t k (readTcb t k) (some (instRegion t x.src.inst)) with
        | none => trap t ⟨cADMIT, 0, x.low, 0⟩
        | some u => commitOnce x u (fun v => v.updCur (fun g => writeScal g d (BitVec.ofNat 32 (tState (v.tcb k)))))))

/-! ### TDONE (R360) -/

/-- TDONE, the final form: FINAL_TDONE_MARK completes it. -/
def execTdoneFinal (d : BitVec 8) (s : State) : Out :=
  startGroup s (uniShape (isScal d) [d] []) (fun x t => if x.act = 0 then commitOnce x t id else enterWait x t (.tdone d))

/-- TDONE, the grain form: a plain task has no grain; for a range task GRAIN_CLAIM completes the rendezvous. -/
def execTdoneGrain (d : BitVec 8) (s : State) : Out :=
  startGroup s (uniShape (isScal d) [d] []) (fun x t =>
    if x.act = 0 then commitOnce x t id
    else if tGrain (instTcb t x.src.inst) = 0 then commitScal x t d 0 none
    else enterWait x t (.grain d))

/-! ### TDEP (R361) -/

/-- The bits of a successor field. -/
def succBits (k : Nat) : Nat × Nat :=
  match k with
  | 0 => (767, 737)
  | 1 => (736, 706)
  | 2 => (703, 673)
  | _ => (672, 642)

/-- Raises the PEND of a successor: in its snapshot, or in memory where it is not admitted. -/
def raisePend (s : State) (t : Nat) : State :=
  match find s.tasks t with
  | some x => setTask s t 799 784 (tPend x.tcb + 1)
  | none => hwWrite s (t * 128 + 98) (natBytes (tPend (readTcb s t) + 1) 2)

/-- The status of a TDEP, and the state after it. -/
def addDependency (s : State) (p q : Nat) : Nat × State :=
  match find s.tasks p with
  | none => (4, s)
  | some x =>
    let n := tNsucc x.tcb
    if tState x.tcb = 3 then (1, s)
    else if tState x.tcb = 5 then (5, s)
    else if 4 ≤ n then (2, s)
    else if (match find s.tasks q with | some y => decide (1 ≤ tState y.tcb) | none => false) then (3, s)
    else
      let b := succBits n
      (0, setTask (setTask (raisePend s q) p b.1 b.2 q) p 783 781 (n + 1))

/-- TDEP. -/
def execTdep (d a b : BitVec 8) (s : State) : Out :=
  startGroup s (onceShape (isScal d && isScalPair a && isScalPair b) [d, a, a + 1, b, b + 1] [a, a + 1, b, b + 1]) (fun x t =>
    if x.act = 0 then commitOnce x t id
    else
      (blockAt t x (x.src.s64 a) 128 .both true).orElse s t (fun pa =>
        (blockAt t x (x.src.s64 b) 128 .both true).orElse s t (fun qa =>
          let r := addDependency t (pa / 128) (qa / 128)
          commitOnce x r.2 (fun u => u.updCur (fun g => writeScal g d (BitVec.ofNat 32 r.1))))))

/-! ### MBXREG (R85, R362) -/

/-- The result of MBXREG. -/
def mailResult (status die n : Nat) : Word :=
  (BitVec.ofNat 8 status ++ 0#12 ++ BitVec.ofNat 2 die ++ BitVec.ofNat 10 n : BitVec (8 + 12 + 2 + 10))

/-- The result of an MBXREG that names no mailbox: the number that it shows is free. -/
def mailFails (s : State) (status line : Nat) : Word := mailResult status (dieOf (line * 256)) (fnat (Config.freeWord s.tick) 9 0)

/-- The lowest free mailbox of a die. -/
def freeMailbox (s : State) (die : Nat) : Option Nat := (List.range 1024).find? (fun i => (find s.mailbox (die * 1024 + i)).isNone)

/-- The template is one, and passes the checks of R75. -/
def templateOk (s : State) (tmpl : Nat) : Bool :=
  let x := readTcb s tmpl
  bit x 416 && tcbOk (setBit x 416 false) &&
  match admitPath s (tRcb x) with
  | none => false
  | some u => decide (effDieMask u (tRcb x) ≠ 0)

/-- Unbinds a line. -/
def unbindLine (s : State) (line : Nat) : Word × State :=
  match mailboxOf s line with
  | none => (mailFails s 3 line, s)
  | some (k, _) => (mailResult 0 (k / 1024) (k % 1024), { s with mailbox := del s.mailbox k })

/-- Binds a line to a template and to the slots of a pool, as task keys. -/
def bindLine (s : State) (line tmpl : Nat) (pool : List Nat) : Word × State :=
  let die := dieOf (line * 256)
  if (mailboxOf s line).isSome then (mailFails s 2 line, s)
  else if !(templateOk s tmpl) then (mailFails s 4 line, s)
  else
    match freeMailbox s die with
    | none => (mailFails s 1 line, s)
    | some i =>
      (mailResult 0 die i, setMailbox s (die * 1024 + i) { line := line, tmpl := tmpl, pool := pool, pend := [], count := 0 })

/-- The TCBs of the `n` pool slots at a base address, each checked as a load (R362). -/
def poolAt (s : State) (x : Ctx) (va : BitVec 64) (n : Nat) : Res (List Nat) :=
  match n with
  | 0 => .ok []
  | k + 1 =>
    match blockAt s x va 128 .read false, poolAt s x (va + 128) k with
    | .ok pa, .ok l => .ok (pa / 128 :: l)
    | .ok _, r => r
    | .fault c, _ => .fault c
    | .wait l, _ => .wait l
    | .held a v t m, _ => .held a v t m

/-- MBXREG. -/
def execMbxreg (d a b : BitVec 8) (s : State) : Out :=
  let quad := runOf b 4
  startGroup s (onceShape (isScal d && isScalPair a && isScal b && alignedTo 4 b) (d :: a :: (a + 1) :: quad) (a :: (a + 1) :: quad))
    (fun x t =>
      let done := fun (r : Word × State) => commitOnce x r.2 (fun u => u.updCur (fun g => writeScal g d r.1))
      if x.act = 0 then commitOnce x t id
      else
        (blockAt t x (x.src.s64 a) 256 .read false).orElse s t (fun pa =>
          let tmpl := x.src.s64 b
          let pool : BitVec 64 := ((x.src.s (b + 3)).setWidth 16 ++ x.src.s (b + 2) : BitVec (16 + 32)).signExtend 64
          let size := fnat (x.src.s (b + 3)) 31 24 + 1
          if tmpl = 0 then done (unbindLine t (lineOf pa))
          else
            (blockAt t x tmpl 128 .read true).orElse s t (fun ta =>
              (poolAt t x pool size).orElse s t (fun qs => done (bindLine t (lineOf pa) (ta / 128) qs)))))

/-! ### EVROUTE (R120, R364) -/

/-- The address that PARAM names, from a scalar pair. -/
def paramAddr (lo hi : Word) : BitVec 64 := (hi.setWidth 16 ++ lo.extractLsb' 4 28 ++ 0#4 : BitVec (16 + 28 + 4)).signExtend 64

/-- A sink's new route word; firings that it has not counted yet are discarded. -/
def setRoute (s : State) (core n : Nat) (mask : Word) (all : Bool) (param : BitVec 44) : State :=
  s.updCore core (fun c => { c with
    routes := zset c.routes n (fput (setBit (fput 0 127 96 mask.toNat) 63 all) 55 12 param.toNat)
    firings := c.firings.filter (fun k => decide (k ≠ n)) })

/-- EVROUTE, the route form. -/
def execEvroute (n : BitVec 4) (a b : BitVec 8) (s : State) : Out :=
  startGroup s (uniShape (isUni a && isScalPair b) [a, b, b + 1] [a, b, b + 1]) (fun x t =>
    if !(sideHeld t x.core x.slot) then trap t ⟨cSIDENOTHELD, 0, x.low, 0⟩
    else
      let lo := x.src.s b
      let va := paramAddr lo (x.src.s (b + 1))
      let set := fun (p : BitVec 44) => commitOnce x t (fun u => setRoute u x.core n.toNat (x.uni a) (bit lo 0) p)
      if n.toNat < 12 then set 0
      else if fnat lo 3 1 ≠ 0 then trap t ⟨cALIGN, va, x.low, 0⟩
      else
        match barCheck t x.core x.src.inst va .write with
        | .fault c ar => trap t ⟨c, va, x.low, ar⟩
        | .wait l => waitXlat s l
        | .ok _ _ _ _ => set (va.extractLsb' 4 44))

/-- EVROUTE, the signal form. -/
def execEvrouteSignal (s : State) : Out :=
  startGroup s plainUni (fun x t =>
    if !(sideHeld t x.core x.slot) then trap t ⟨cSIDENOTHELD, 0, x.low, 0⟩
    else commitOnce x t (fun u => pulse u x.core 29))

/-! ### Special registers (R112, R230, R355, R356) -/

/-- The words of a register; 0 where the number names none. -/
def csrWords (n : Nat) : Nat :=
  if n ≤ 1 then 1 else if n = 2 then 2 else if n = 3 then 6 else if n ≤ 8 then 1 else if n = 9 then 2 else if n = 10 then 1 else 0

/-- The CSR number names a word of a register. -/
def csrLegal (c : BitVec 16) : Bool := decide (fnat c 7 0 < csrWords (fnat c 15 8))

/-- What a register word reads as. -/
def csrValue (s : State) (core : Nat) (g : Group) (c : BitVec 16) : Word :=
  let w := fnat c 7 0
  match fnat c 15 8 with
  | 0 => g.mode
  | 1 => g.fmt
  | 2 => (s.core core).tags.extractLsb' (32 * w) 32
  | 3 => g.hndl.extractLsb' (32 * w) 32
  | 4 => g.xop
  | 5 => g.xd
  | 6 => g.xa
  | 7 => g.xb
  | 8 => g.xword
  | 9 => g.spill.extractLsb' (32 * w) 32
  | _ => g.save.setWidth 32

/-- CSRRD. -/
def execCsrrd (d : BitVec 8) (c : BitVec 16) (s : State) : Out :=
  startGroup s (uniShape (isScal d && csrLegal c) [d] []) (fun x t => commitScal x t d (csrValue t x.core x.src c) none)

/-- UPC with one of its words replaced; bits 148:144 of the register stay zero (R195). -/
def putUpc (h : BitVec 192) (w : Nat) (v : Word) : BitVec 192 :=
  if w = 5 then fput h 191 160 v.toNat else if w = 4 then fput h 159 149 (fnat v 31 21) else h

/-- SPILL with the software fields of one of its words replaced. -/
def putSpill (p : BitVec 64) (w : Nat) (v : Word) : BitVec 64 :=
  if w = 1 then fput (fput p 63 52 (fnat v 31 20)) 38 32 (fnat v 6 0) else fput p 31 0 v.toNat

/-- A write of SPILL is refused while blocks are spilled (R112). -/
def spillBusy (old new : BitVec 64) : Bool :=
  decide (fnat old 51 40 ≠ 0) && (decide (fnat old 38 0 ≠ fnat new 38 0) || decide (fnat new 63 52 < fnat old 51 40))

/-- CSRWR. -/
def execCsrwr (a : BitVec 8) (c : BitVec 16) (s : State) : Out :=
  startGroup s (uniShape (isUni a && csrLegal c) [a] [a]) (fun x t =>
    let v := x.uni a
    let w := fnat c 7 0
    match fnat c 15 8 with
    | 0 => setModeTo x t v
    | 1 => setFmtTo x t v
    | 3 => commitGroup x t (fun g => { g with hndl := putUpc g.hndl w v })
    | 4 => commitGroup x t (fun g => { g with xop := v })
    | 5 => commitGroup x t (fun g => { g with xd := v })
    | 6 => commitGroup x t (fun g => { g with xa := v })
    | 7 => commitGroup x t (fun g => { g with xb := v })
    | 8 => commitGroup x t (fun g => { g with xword := v })
    | 9 =>
      let p := putSpill x.src.spill w v
      if spillBusy x.src.spill p then trapCode t cSPILLBUSY else commitGroup x t (fun g => { g with spill := p })
    | _ => commitGroup x t id)

/-! ### PREACK (R90, R357) -/

/-- PREACK: a group that has received a notice stops at the boundary after it. -/
def execPreack (s : State) : Out := startGroup s plainUni (fun x t => commitGroup x t (fun g => { g with prenote := 0 }))

end Sys2Proof.Machine
end

