-- ==== Sys2Proof/Machine/WatchOps.lean ====
section
/-! DEFINITION. The watch and halt instructions: WPSET, WPCLR, WPRD, HLTRD, HLTWR, HLTSTEP and HLTRES (R343, R347 to R351). -/
namespace Sys2Proof.Machine

/-! ### Watch predicates (R343, R347) -/

/-- A control word as WPSET writes it: HITS is 0, and a reserved code turns the predicate off. -/
def watchWord (v : BitVec 64) : BitVec 64 :=
  let w := fput v 63 56 0
  if bit v 55 || decide (6 ≤ fnat v 51 49) || decide (fnat v 46 45 = 3) then fput w 44 43 3 else w

/-- The herd holds the predicate, or nobody does. -/
def watchMine (s : State) (core inst n : Nat) : Bool :=
  match ((s.core core).watch n).owner with
  | none => true
  | some i => decide (i = inst)

def setWatch (s : State) (core n : Nat) (w : Watch) : State := s.updCore core (fun c => { c with wps := put c.wps n w })

/-- WPSET. -/
def execWpset (n : BitVec 4) (a b : BitVec 8) (s : State) : Out :=
  startGroup s (uniShape (isScalPair a && isScalPair b) [a, a + 1, b, b + 1] [a, a + 1, b, b + 1]) (fun x t =>
    commitUni x t [] [] none (fun u =>
      if watchMine u x.core x.src.inst n.toNat then
        setWatch u x.core n.toNat { ctl := watchWord (x.src.s64 a), opa := x.src.s b, opb := x.src.s (b + 1), owner := some x.src.inst,
                                         since := u.tick }
      else u))

/-- WPCLR: the holding herd clears the predicate and gives up its claim. -/
def execWpclr (n : BitVec 4) (s : State) : Out :=
  startGroup s plainUni (fun x t =>
    commitUni x t [] [] none (fun u => if watchMine u x.core x.src.inst n.toNat then setWatch u x.core n.toNat Watch.reset else u))

/-- WPRD. -/
def execWprd (d : BitVec 8) (n : BitVec 4) (s : State) : Out :=
  startGroup s (uniShape (isScal d && alignedTo 4 d) (runOf d 4) []) (fun x t =>
    let w := if watchMine t x.core x.src.inst n.toNat then (t.core x.core).watch n.toNat else Watch.reset
    commitUni x t [] [w.ctl.setWidth 32, w.ctl.extractLsb' 32 32, w.opa, w.opb] none (fun u => u.updCur (fun g =>
      writeScal (writeScal (writeScal64 g d w.ctl) (d + 2) w.opa) (d + 3) w.opb)))

/-! ### Targets (R348) -/

/-- The lowest halted group of a herd, in core and then group order. -/
def firstHalted (s : State) (inst : Nat) : Option (Nat × Nat) :=
  (s.allGroups.find? (fun e => e.2.2.resident && decide (e.2.2.inst = inst) && e.2.2.halt.isSome)).map (fun e => (e.1, e.2.1))

/-- The target that a scalar names; none where it names no group. -/
def haltTarget (s : State) (inst : Nat) (t : Word) : Option (Nat × Nat) :=
  if t = 0xFFFFFFFF then firstHalted s inst else if fnat t 31 14 ≠ 0 then none else some (fnat t 7 0, fnat t 13 8)

/-- A group of the herd, or of a region at or below the executing group's own in supervisor state. -/
def targetAllowed (s : State) (x : Ctx) (t : Option (Nat × Nat)) : Bool :=
  match t with
  | none => true
  | some (c, g) =>
    let k := s.group c g
    (k.resident && decide (k.inst = x.src.inst)) ||
    (hSact x.src && (!k.resident || (pathOf s (instRegion s k.inst)).contains (instRegion s x.src.inst)))

/-- The halted target, if it is one. -/
def haltedGroup (s : State) (t : Option (Nat × Nat)) : Option (Nat × Nat × Group × Halt) :=
  match t with
  | none => none
  | some (c, g) =>
    let k := s.group c g
    match k.resident, k.halt with
    | true, some h => some (c, g, k, h)
    | _, _ => none

/-- The shape of a HLT instruction: watch predicates do not see it (R344). -/
def haltShape (legal : Bool) (regs reads : List (BitVec 8)) : Shape :=
  { mkShape .uniform legal regs reads true with seen := false }

/-- The common course of the HLT instructions: the target is found and allowed, or the instruction traps SUPERV. -/
def haltInstr (s : State) (sh : Shape) (a : BitVec 8) (k : Ctx → State → Option (Nat × Nat) → State) : Out :=
  startGroup s sh (fun x t =>
    let tg := haltTarget t x.src.inst (x.uni a)
    if targetAllowed t x tg then k x t tg else trapCode t cSUPERV)

/-! ### Items (R349) -/

/-- The status word of a halted group. -/
def haltStatus (h : Halt) : Word :=
  (1#1 ++ h.scope ++ h.wp ++ h.thr ++ BitVec.ofBool h.stepErr ++ h.cause ++ BitVec.ofBool h.stepWait ++ 0#9 :
    BitVec (1 + 2 + 4 + 6 + 1 + 8 + 1 + 9))

/-- A register of a halted group, for one thread. -/
def haltReg (g : Group) (r : BitVec 8) (thr : Nat) : Word :=
  if isVec r then g.vec r.toNat thr
  else if isScal r then g.s r
  else if isPred r then (if bit (g.pred (predNo r)) thr then 1 else 0)
  else 0

/-- Word `w` of stack entry `e`, entry 0 the oldest. -/
def haltEntry (g : Group) (n : Nat) : Word :=
  match g.stack.reverse[n / 8]? with
  | some e => (entryBits e).extractLsb' (32 * (n % 8)) 32
  | none => 0

/-- What HLTRD reads. -/
def haltItem (core slot : Nat) (g : Group) (h : Halt) (i : Word) : Word :=
  let n := fnat i 9 0
  let mid := decide (fnat i 23 10 = 0)
  match fnat i 31 24 with
  | 0 =>
    if !mid then 0
    else match n with
      | 0 => haltStatus h
      | 1 => g.pc.setWidth 32
      | 2 => (g.pc.extractLsb' 32 16).setWidth 32
      | 3 => g.mode
      | 4 => g.fmt
      | 5 => g.amask.setWidth 32
      | 6 => g.amask.extractLsb' 32 32
      | 7 => (g.split ||| g.rest).setWidth 32
      | 8 => (g.split ||| g.rest).extractLsb' 32 32
      | 9 => g.xheld.setWidth 32
      | 10 => BitVec.ofNat 32 g.stack.length
      | 11 => h.flags.setWidth 32
      | 12 => BitVec.ofNat 32 (core + 256 * slot)
      | 13 => h.loadPc.setWidth 32
      | 14 => (h.loadPc.extractLsb' 32 16).setWidth 32
      | _ => 0
  | 1 => if n = 0 then haltReg g (fget i 23 16) (fnat i 15 10) else 0
  | 2 => if mid then haltEntry g n else 0
  | _ => 0

/-- HLTRD. -/
def execHltrd (d a b : BitVec 8) (s : State) : Out :=
  haltInstr s (haltShape (isScal d && isUni a && isUni b) [d, a, b] [a, b]) a (fun x t tg =>
    let v := match haltedGroup t tg with
      | some (c, g, k, h) => haltItem c g k h (x.uni b)
      | none => 0
    commitOnce x t (fun u => u.updCur (fun g => writeScal g d v)))

/-- Replaces one word of a thread mask. -/
def putHalf (m : BitVec 64) (high : Bool) (v : Word) : BitVec 64 := if high then fput m 63 32 v.toNat else fput m 31 0 v.toNat

/-- A group with a new mask; SPLIT stays within it. -/
def withMask (g : Group) (m : BitVec 64) : Group := { g with amask := m, split := g.split &&& m, rest := g.rest &&& m }

/-- Writes a register of a halted group, for one thread. -/
def putHaltReg (g : Group) (r : BitVec 8) (thr : Nat) (v : Word) : Group :=
  if isVec r then writeLane g r thr v
  else if isScal r then writeScal g r v
  else if isPred r then writePred g r (maskOf 64 [thr]) (if bit v 0 then maskOf 64 [thr] else 0)
  else g

/-- What HLTWR writes. -/
def putHaltItem (g : Group) (i v : Word) : Group :=
  let n := fnat i 9 0
  match fnat i 31 24 with
  | 0 =>
    if fnat i 23 10 ≠ 0 then g
    else match n with
      | 1 => { g with pc := fput g.pc 31 0 (v.toNat / 4 * 4), split := 0, rest := 0, far := none }
      | 2 => { g with pc := fput g.pc 47 32 v.toNat, split := 0, rest := 0, far := none }
      | 3 => { g with mode := v }
      | 4 => { g with fmt := v }
      | 5 => withMask g (putHalf g.amask false v)
      | 6 => withMask g (putHalf g.amask true v)
      | 7 => { g with split := putHalf (g.split ||| g.rest) false v &&& g.amask, rest := 0 }
      | 8 => { g with split := putHalf (g.split ||| g.rest) true v &&& g.amask, rest := 0 }
      | _ => g
  | 1 => if n = 0 then putHaltReg g (fget i 23 16) (fnat i 15 10) v else g
  | _ => g

/-- HLTWR. -/
def execHltwr (d a b : BitVec 8) (s : State) : Out :=
  haltInstr s (haltShape (isUni d && isUni a && isUni b) [d, a, b] [d, a, b]) a (fun x t tg =>
    commitUni x t [] [] none (fun u =>
      match haltedGroup u tg with
      | some (c, g, k, _) => u.setGroup c g (putHaltItem k (x.uni b) (x.uni d))
      | none => u))

/-! ### Steps and resumption (R350, R351) -/

/-- A halted group as a step of a thread finds it; none where the step has no effect. -/
def stepSetup (g : Group) (h : Halt) (u : Nat) : Option Group :=
  let one : BitVec 64 := maskOf 64 [u]
  let h1 := { h with stepWait := true, stepThr := some u, stepErr := false, cause := 0, undo := none }
  if h.stepWait then none
  else if g.split ≠ 0 then
    if bit g.split u then some { g with split := one, rest := g.split &&& ~~~one, halt := some h1 } else none
  else if bit g.amask u then some { g with halt := some h1 }
  else none

/-- HLTSTEP: the target's next turn runs one instruction for the thread. -/
def execHltstep (a b : BitVec 8) (s : State) : Out :=
  haltInstr s (haltShape (isUni a && isUni b) [a, b] [a, b]) a (fun x t tg =>
    commitUni x t [] [] none (fun u =>
      match haltedGroup u tg with
      | some (c, g, k, h) =>
        match stepSetup k h (fnat (x.uni b) 5 0) with
        | some k1 => { u.setGroup c g k1 with agenda := .group c g :: u.agenda }
        | none => u
      | none => u))

/-- A group runs again. One that waits in the instruction of a step goes on waiting; a step that has not started is given up, and all
the threads of SPLIT execute the instruction (R350, R351). -/
def unhalt (g : Group) : Group :=
  if mayRetry g.wait then { g with halt := none, follow := none, split := g.split ||| g.rest, rest := 0 }
  else { g with halt := none, follow := none }

/-- HLTRES. -/
def execHltres (a : BitVec 8) (s : State) : Out :=
  haltInstr s (haltShape (isUni a) [a] [a]) a (fun x t tg =>
    commitUni x t [] [] none (fun u =>
      if x.uni a = 0xFFFFFFFF then
        (herdGroups u x.src.inst).foldl (fun v e => if e.2.2.halt.isSome then v.setGroup e.1 e.2.1 (unhalt e.2.2) else v) u
      else
        match haltedGroup u tg with
        | some (c, g, k, _) => u.setGroup c g (unhalt k)
        | none => u))

end Sys2Proof.Machine
end

