-- ==== Sys2Proof/Machine/Dispatch.lean ====
section
/-! DEFINITION. One arm for each instruction: the direct call of its meaning. -/
namespace Sys2Proof.Machine

def exec (i : Instr) (s : State) : Host.Outcome State Fault Refusal :=
  match i with
  | .powerOn lanes => Sys2Proof.Machine.execPowerOn lanes s
  | .portTrainingRetry lanes => Sys2Proof.Machine.execPortTrainingRetry lanes s
  | .bootwait => Sys2Proof.Machine.execBootwait s
  | .fwload m => Sys2Proof.Machine.execFwload m s
  | .imageVerify => Sys2Proof.Machine.execImageVerify s
  | .bootBringup r => Sys2Proof.Machine.execBootBringup r s
  | .stopped => Sys2Proof.Machine.execStopped s
  | .reset m => Sys2Proof.Machine.execReset m s
  | .warmRestart => Sys2Proof.Machine.execWarmRestart s
  | .clockGatedEntry k => Sys2Proof.Machine.execClockGatedEntry k s
  | .retentionEntry k => Sys2Proof.Machine.execRetentionEntry k s
  | .offEntry k => Sys2Proof.Machine.execOffEntry k s
  | .wakeRequest k => Sys2Proof.Machine.execWakeRequest k s
  | .thermalThrottle k temp => Sys2Proof.Machine.execThermalThrottle k temp s
  | .thermtrip => Sys2Proof.Machine.execThermtrip s
  | .status m => Sys2Proof.Machine.execStatus m s
  | .resend m => Sys2Proof.Machine.execResend m s
  | .memwr m => Sys2Proof.Machine.execMemwr m s
  | .memrd m => Sys2Proof.Machine.execMemrd m s
  | .ptwr m => Sys2Proof.Machine.execPtwr m s
  | .artwr m => Sys2Proof.Machine.execArtwr m s
  | .cbwr m => Sys2Proof.Machine.execCbwr m s
  | .launch m => Sys2Proof.Machine.execLaunch m s
  | .mail m => Sys2Proof.Machine.execMail m s
  | .atom m => Sys2Proof.Machine.execAtom m s
  | .preempt m => Sys2Proof.Machine.execPreempt m s
  | .query m => Sys2Proof.Machine.execQuery m s
  | .attest m => Sys2Proof.Machine.execAttest m s
  | .recctlOff m => Sys2Proof.Machine.execRecctlOff m s
  | .recctlRecord m => Sys2Proof.Machine.execRecctlRecord m s
  | .recctlReplay m => Sys2Proof.Machine.execRecctlReplay m s
  | .replayApply => Sys2Proof.Machine.execReplayApply s
  | .replayMonitorTimeout => Sys2Proof.Machine.execReplayMonitorTimeout s
  | .badcmd m => Sys2Proof.Machine.execBadcmd m s
  | .remoteWrite port ep addr data => Sys2Proof.Machine.execRemoteWrite port ep addr data s
  | .remoteRead port ep addr len => Sys2Proof.Machine.execRemoteRead port ep addr len s
  | .pgreq m => Sys2Proof.Machine.execPgreq m s
  | .pgrecall m => Sys2Proof.Machine.execPgrecall m s
  | .pginv m => Sys2Proof.Machine.execPginv m s
  | .pgiack m => Sys2Proof.Machine.execPgiack m s
  | .pgxfer m => Sys2Proof.Machine.execPgxfer m s
  | .pgdone m => Sys2Proof.Machine.execPgdone m s
  | .pgrefuse m => Sys2Proof.Machine.execPgrefuse m s
  | .pgack m => Sys2Proof.Machine.execPgack m s
  | .pagewaitTimeout page => Sys2Proof.Machine.execPagewaitTimeout page s
  | .rds p => Sys2Proof.Machine.execRds p s
  | .rdx p => Sys2Proof.Machine.execRdx p s
  | .upg p => Sys2Proof.Machine.execUpg p s
  | .wrb p => Sys2Proof.Machine.execWrb p s
  | .evc p => Sys2Proof.Machine.execEvc p s
  | .evd p => Sys2Proof.Machine.execEvd p s
  | .ownw p => Sys2Proof.Machine.execOwnw p s
  | .fabricAtom p => Sys2Proof.Machine.execFabricAtom p s
  | .redn p => Sys2Proof.Machine.execRedn p s
  | .lkrqLock p => Sys2Proof.Machine.execLkrqLock p s
  | .lkrqTrylock p => Sys2Proof.Machine.execLkrqTrylock p s
  | .lkrqUnlock p => Sys2Proof.Machine.execLkrqUnlock p s
  | .lkrqProbe p => Sys2Proof.Machine.execLkrqProbe p s
  | .lkrqFree p => Sys2Proof.Machine.execLkrqFree p s
  | .lkrqUnlink p => Sys2Proof.Machine.execLkrqUnlink p s
  | .lkrqAbsent p => Sys2Proof.Machine.execLkrqAbsent p s
  | .lkrqResume p => Sys2Proof.Machine.execLkrqResume p s
  | .lkrqHoldmove p => Sys2Proof.Machine.execLkrqHoldmove p s
  | .pflr p => Sys2Proof.Machine.execPflr p s
  | .dats p => Sys2Proof.Machine.execDats p s
  | .datx p => Sys2Proof.Machine.execDatx p s
  | .gntx p => Sys2Proof.Machine.execGntx p s
  | .ack p => Sys2Proof.Machine.execAck p s
  | .nack p => Sys2Proof.Machine.execNack p s
  | .requestRetry core txn => Sys2Proof.Machine.execRequestRetry core txn s
  | .reservationLapse line => Sys2Proof.Machine.execReservationLapse line s
  | .iack p => Sys2Proof.Machine.execIack p s
  | .rcd p => Sys2Proof.Machine.execRcd p s
  | .ares p => Sys2Proof.Machine.execAres p s
  | .packMessage p => Sys2Proof.Machine.execPackMessage p s
  | .dack p => Sys2Proof.Machine.execDack p s
  | .inv p => Sys2Proof.Machine.execInv p s
  | .dwn p => Sys2Proof.Machine.execDwn p s
  | .rcl p => Sys2Proof.Machine.execRcl p s
  | .ownx p => Sys2Proof.Machine.execOwnx p s
  | .pfl p => Sys2Proof.Machine.execPfl p s
  | .drop p => Sys2Proof.Machine.execDrop p s
  | .qsw reg => Sys2Proof.Machine.execQsw reg s
  | .quiesceSweepDone => Sys2Proof.Machine.execQuiesceSweepDone s
  | .unassignedMessage p => Sys2Proof.Machine.execUnassignedMessage p s
  | .load core slot acc soft => Sys2Proof.Machine.execLoad core slot acc soft s
  | .drain core slot acc => Sys2Proof.Machine.execDrain core slot acc s
  | .wqperf line => Sys2Proof.Machine.execWqperf line s
  | .evict core word => Sys2Proof.Machine.execEvict core word s
  | .cpwb core line => Sys2Proof.Machine.execCpwb core line s
  | .wback line => Sys2Proof.Machine.execWback line s
  | .discard core word => Sys2Proof.Machine.execDiscard core word s
  | .read e => Sys2Proof.Machine.execRead e s
  | .land e => Sys2Proof.Machine.execLand e s
  | .finish e => Sys2Proof.Machine.execFinish e s
  | .dispatch die => Sys2Proof.Machine.execDispatch die s
  | .tileProbeTimeout die cand => Sys2Proof.Machine.execTileProbeTimeout die cand s
  | .placement die bad => Sys2Proof.Machine.execPlacement die bad s
  | .halving core => Sys2Proof.Machine.execHalving core s
  | .grainClaim inst => Sys2Proof.Machine.execGrainClaim inst s
  | .finalTdoneMark core slot => Sys2Proof.Machine.execFinalTdoneMark core slot s
  | .instanceFinish inst => Sys2Proof.Machine.execInstanceFinish inst s
  | .quotaCrossing rcb => Sys2Proof.Machine.execQuotaCrossing rcb s
  | .faultPark inst => Sys2Proof.Machine.execFaultPark inst s
  | .engineStop inst => Sys2Proof.Machine.execEngineStop inst s
  | .prenoteTimeout core slot => Sys2Proof.Machine.execPrenoteTimeout core slot s
  | .collectorComplete die => Sys2Proof.Machine.execCollectorComplete die s
  | .walkComplete core root va => Sys2Proof.Machine.execWalkComplete core root va s
  | .waitphEnd core slot => Sys2Proof.Machine.execWaitphEnd core slot s
  | .tagWaitEnd core slot => Sys2Proof.Machine.execTagWaitEnd core slot s
  | .cntwaitEnd core slot => Sys2Proof.Machine.execCntwaitEnd core slot s
  | .regacqGrant core slot => Sys2Proof.Machine.execRegacqGrant core slot s
  | .rvdonateTransfer core slot => Sys2Proof.Machine.execRvdonateTransfer core slot s
  | .xpairBind core slot => Sys2Proof.Machine.execXpairBind core slot s
  | .xshflExchange core slot => Sys2Proof.Machine.execXshflExchange core slot s
  | .lockTimeout core slot => Sys2Proof.Machine.execLockTimeout core slot s
  | .lockholdTimeout core slot acc => Sys2Proof.Machine.execLockholdTimeout core slot acc s
  | .deadlockWalk line node => Sys2Proof.Machine.execDeadlockWalk line node s
  | .mwaitTimeout core slot => Sys2Proof.Machine.execMwaitTimeout core slot s
  | .eventFiring core sink => Sys2Proof.Machine.execEventFiring core sink s
  | .sideTimerExpiry core => Sys2Proof.Machine.execSideTimerExpiry core s
  | .frameLanding dec data => Sys2Proof.Machine.execFrameLanding dec data s
  | .frameDecodeFailure dec boff ecode => Sys2Proof.Machine.execFrameDecodeFailure dec boff ecode s
  | .matrixUnitExecute core part => Sys2Proof.Machine.execMatrixUnitExecute core part s
  | .orthogonalUnitExecute core part => Sys2Proof.Machine.execOrthogonalUnitExecute core part s
  | .bra o => Sys2Proof.Machine.execBra o s
  | .brp q n p o => Sys2Proof.Machine.execBrp q n p o s
  | .jmpr a => Sys2Proof.Machine.execJmpr a s
  | .call o => Sys2Proof.Machine.execCall o s
  | .ret => Sys2Proof.Machine.execRet s
  | .jpush o => Sys2Proof.Machine.execJpush o s
  | .bdiv n p o => Sys2Proof.Machine.execBdiv n p o s
  | .join => Sys2Proof.Machine.execJoin s
  | .exit => Sys2Proof.Machine.execExit s
  | .yield => Sys2Proof.Machine.execYield s
  | .nop => Sys2Proof.Machine.execNop s
  | .trap imm => Sys2Proof.Machine.execTrap imm s
  | .rte => Sys2Proof.Machine.execRte s
  | .rteSkip => Sys2Proof.Machine.execRteSkip s
  | .setmodeI imm => Sys2Proof.Machine.execSetmodeI imm s
  | .setmode a => Sys2Proof.Machine.execSetmode a s
  | .setfmt a => Sys2Proof.Machine.execSetfmt a s
  | .getmode d m => Sys2Proof.Machine.execGetmode d m s
  | .ldtab k a => Sys2Proof.Machine.execLdtab k a s
  | .regacq n => Sys2Proof.Machine.execRegacq n s
  | .regrel n => Sys2Proof.Machine.execRegrel n s
  | .rvdonate d a b => Sys2Proof.Machine.execRvdonate d a b s
  | .add d a b => Sys2Proof.Machine.execAdd d a b s
  | .sub d a b => Sys2Proof.Machine.execSub d a b s
  | .mul d a b => Sys2Proof.Machine.execMul d a b s
  | .mulhi d a b => Sys2Proof.Machine.execMulhi d a b s
  | .mad d a b => Sys2Proof.Machine.execMad d a b s
  | .min d a b => Sys2Proof.Machine.execMin d a b s
  | .max d a b => Sys2Proof.Machine.execMax d a b s
  | .abs d a => Sys2Proof.Machine.execAbs d a s
  | .neg d a => Sys2Proof.Machine.execNeg d a s
  | .and d a b => Sys2Proof.Machine.execAnd d a b s
  | .or d a b => Sys2Proof.Machine.execOr d a b s
  | .xor d a b => Sys2Proof.Machine.execXor d a b s
  | .not d a => Sys2Proof.Machine.execNot d a s
  | .shl d a b => Sys2Proof.Machine.execShl d a b s
  | .shr d a b => Sys2Proof.Machine.execShr d a b s
  | .sra d a b => Sys2Proof.Machine.execSra d a b s
  | .popc d a => Sys2Proof.Machine.execPopc d a s
  | .clz d a => Sys2Proof.Machine.execClz d a s
  | .brev d a => Sys2Proof.Machine.execBrev d a s
  | .bfx d a b => Sys2Proof.Machine.execBfx d a b s
  | .bfi d a b => Sys2Proof.Machine.execBfi d a b s
  | .sel d a b => Sys2Proof.Machine.execSel d a b s
  | .cmpeq d a b => Sys2Proof.Machine.execCmpeq d a b s
  | .cmpne d a b => Sys2Proof.Machine.execCmpne d a b s
  | .cmplt d a b => Sys2Proof.Machine.execCmplt d a b s
  | .cmple d a b => Sys2Proof.Machine.execCmple d a b s
  | .cmpltn d a b => Sys2Proof.Machine.execCmpltn d a b s
  | .cmplen d a b => Sys2Proof.Machine.execCmplen d a b s
  | .ldi d imm => Sys2Proof.Machine.execLdi d imm s
  | .ldih d imm => Sys2Proof.Machine.execLdih d imm s
  | .mov d a => Sys2Proof.Machine.execMov d a s
  | .leas d a b => Sys2Proof.Machine.execLeas d a b s
  | .addI d a imm => Sys2Proof.Machine.execAddI d a imm s
  | .mulI d a imm => Sys2Proof.Machine.execMulI d a imm s
  | .andI d a imm => Sys2Proof.Machine.execAndI d a imm s
  | .orI d a imm => Sys2Proof.Machine.execOrI d a imm s
  | .xorI d a imm => Sys2Proof.Machine.execXorI d a imm s
  | .shlI d a imm => Sys2Proof.Machine.execShlI d a imm s
  | .shrI d a imm => Sys2Proof.Machine.execShrI d a imm s
  | .sraI d a imm => Sys2Proof.Machine.execSraI d a imm s
  | .cmpeqI d a imm => Sys2Proof.Machine.execCmpeqI d a imm s
  | .cmpneI d a imm => Sys2Proof.Machine.execCmpneI d a imm s
  | .cmpltI d a imm => Sys2Proof.Machine.execCmpltI d a imm s
  | .cmpleI d a imm => Sys2Proof.Machine.execCmpleI d a imm s
  | .cmpltnI d a imm => Sys2Proof.Machine.execCmpltnI d a imm s
  | .cmplenI d a imm => Sys2Proof.Machine.execCmplenI d a imm s
  | .fadd d a b => Sys2Proof.Machine.execFadd d a b s
  | .fsub d a b => Sys2Proof.Machine.execFsub d a b s
  | .fmul d a b => Sys2Proof.Machine.execFmul d a b s
  | .fma d a b => Sys2Proof.Machine.execFma d a b s
  | .fmin d a b => Sys2Proof.Machine.execFmin d a b s
  | .fmax d a b => Sys2Proof.Machine.execFmax d a b s
  | .fneg d a => Sys2Proof.Machine.execFneg d a s
  | .fabs d a => Sys2Proof.Machine.execFabs d a s
  | .fcmpeq d a b => Sys2Proof.Machine.execFcmpeq d a b s
  | .fcmplt d a b => Sys2Proof.Machine.execFcmplt d a b s
  | .fcmple d a b => Sys2Proof.Machine.execFcmple d a b s
  | .fcmpun d a b => Sys2Proof.Machine.execFcmpun d a b s
  | .frcp d a => Sys2Proof.Machine.execFrcp d a s
  | .frsq d a => Sys2Proof.Machine.execFrsq d a s
  | .fsin d a => Sys2Proof.Machine.execFsin d a s
  | .fcos d a => Sys2Proof.Machine.execFcos d a s
  | .fexp2 d a => Sys2Proof.Machine.execFexp2 d a s
  | .flog2 d a => Sys2Proof.Machine.execFlog2 d a s
  | .cvt d a t f => Sys2Proof.Machine.execCvt d a t f s
  | .qnt d a => Sys2Proof.Machine.execQnt d a s
  | .dqnt d a => Sys2Proof.Machine.execDqnt d a s
  | .pack d a b => Sys2Proof.Machine.execPack d a b s
  | .unpack d a e => Sys2Proof.Machine.execUnpack d a e s
  | .shfl d a b => Sys2Proof.Machine.execShfl d a b s
  | .shflx d a b => Sys2Proof.Machine.execShflx d a b s
  | .ballot d a => Sys2Proof.Machine.execBallot d a s
  | .vany d a => Sys2Proof.Machine.execVany d a s
  | .vall d a => Sys2Proof.Machine.execVall d a s
  | .matchv d a => Sys2Proof.Machine.execMatchv d a s
  | .rduni d a b => Sys2Proof.Machine.execRduni d a b s
  | .bcast d a b => Sys2Proof.Machine.execBcast d a b s
  | .xpair a b => Sys2Proof.Machine.execXpair a b s
  | .xshfl d a => Sys2Proof.Machine.execXshfl d a s
  | .ldb d a b => Sys2Proof.Machine.execLdb d a b s
  | .ldh d a b => Sys2Proof.Machine.execLdh d a b s
  | .ldw d a b => Sys2Proof.Machine.execLdw d a b s
  | .ldd d a b => Sys2Proof.Machine.execLdd d a b s
  | .ldq d a b => Sys2Proof.Machine.execLdq d a b s
  | .stb d a b => Sys2Proof.Machine.execStb d a b s
  | .sth d a b => Sys2Proof.Machine.execSth d a b s
  | .stw d a b => Sys2Proof.Machine.execStw d a b s
  | .std d a b => Sys2Proof.Machine.execStd d a b s
  | .stq d a b => Sys2Proof.Machine.execStq d a b s
  | .lds d a w => Sys2Proof.Machine.execLds d a w s
  | .sts d a w => Sys2Proof.Machine.execSts d a w s
  | .ldacq d a b => Sys2Proof.Machine.execLdacq d a b s
  | .strel d a b => Sys2Proof.Machine.execStrel d a b s
  | .pref a b => Sys2Proof.Machine.execPref a b s
  | .fenceA => Sys2Proof.Machine.execFenceA s
  | .fenceR => Sys2Proof.Machine.execFenceR s
  | .fenceAr => Sys2Proof.Machine.execFenceAr s
  | .aadd d a b => Sys2Proof.Machine.execAadd d a b s
  | .afadd d a b => Sys2Proof.Machine.execAfadd d a b s
  | .amin d a b => Sys2Proof.Machine.execAmin d a b s
  | .amax d a b => Sys2Proof.Machine.execAmax d a b s
  | .aand d a b => Sys2Proof.Machine.execAand d a b s
  | .aor d a b => Sys2Proof.Machine.execAor d a b s
  | .axor d a b => Sys2Proof.Machine.execAxor d a b s
  | .axchg d a b => Sys2Proof.Machine.execAxchg d a b s
  | .acas d a b => Sys2Proof.Machine.execAcas d a b s
  | .redadd a b => Sys2Proof.Machine.execRedadd a b s
  | .redfadd a b => Sys2Proof.Machine.execRedfadd a b s
  | .redmin a b => Sys2Proof.Machine.execRedmin a b s
  | .redmax a b => Sys2Proof.Machine.execRedmax a b s
  | .redor a b => Sys2Proof.Machine.execRedor a b s
  | .cpy a b => Sys2Proof.Machine.execCpy a b s
  | .cpys a b => Sys2Proof.Machine.execCpys a b s
  | .tagwany a => Sys2Proof.Machine.execTagwany a s
  | .tagwall a => Sys2Proof.Machine.execTagwall a s
  | .tagff d a => Sys2Proof.Machine.execTagff d a s
  | .tagclr a => Sys2Proof.Machine.execTagclr a s
  | .barinit a b => Sys2Proof.Machine.execBarinit a b s
  | .bararr a b => Sys2Proof.Machine.execBararr a b s
  | .barexp a b => Sys2Proof.Machine.execBarexp a b s
  | .waitph d a b => Sys2Proof.Machine.execWaitph d a b s
  | .cntwait k n => Sys2Proof.Machine.execCntwait k n s
  | .enq d a q => Sys2Proof.Machine.execEnq d a q s
  | .deq d a q => Sys2Proof.Machine.execDeq d a q s
  | .monitor a => Sys2Proof.Machine.execMonitor a s
  | .mwait a => Sys2Proof.Machine.execMwait a s
  | .anew d a b => Sys2Proof.Machine.execAnew d a b s
  | .adrop d a l r => Sys2Proof.Machine.execAdrop d a l r s
  | .aseal d a => Sys2Proof.Machine.execAseal d a s
  | .aquota d a b => Sys2Proof.Machine.execAquota d a b s
  | .aquery d a => Sys2Proof.Machine.execAquery d a s
  | .cbsync a => Sys2Proof.Machine.execCbsync a s
  | .mloadb x a => Sys2Proof.Machine.execMloadb x a s
  | .mma c x a => Sys2Proof.Machine.execMma c x a s
  | .mmas c x a m e => Sys2Proof.Machine.execMmas c x a m e s
  | .mmab c x => Sys2Proof.Machine.execMmab c x s
  | .mbyp c r => Sys2Proof.Machine.execMbyp c r s
  | .mdrain c a => Sys2Proof.Machine.execMdrain c a s
  | .mstore c a m => Sys2Proof.Machine.execMstore c a m s
  | .mzero c => Sys2Proof.Machine.execMzero c s
  | .qinit q p k t => Sys2Proof.Machine.execQinit q p k t s
  | .qappend q v x => Sys2Proof.Machine.execQappend q v x s
  | .qappl q t => Sys2Proof.Machine.execQappl q t s
  | .qapplt q t => Sys2Proof.Machine.execQapplt q t s
  | .qappr q t => Sys2Proof.Machine.execQappr q t s
  | .qapprt q t => Sys2Proof.Machine.execQapprt q t s
  | .qcount q x => Sys2Proof.Machine.execQcount q x s
  | .qcompact q => Sys2Proof.Machine.execQcompact q s
  | .qdense q t => Sys2Proof.Machine.execQdense q t s
  | .lock d a b => Sys2Proof.Machine.execLock d a b s
  | .trylock d a => Sys2Proof.Machine.execTrylock d a s
  | .unlock a => Sys2Proof.Machine.execUnlock a s
  | .lkprobe d a => Sys2Proof.Machine.execLkprobe d a s
  | .lkfree d a => Sys2Proof.Machine.execLkfree d a s
  | .wpset n a b => Sys2Proof.Machine.execWpset n a b s
  | .wpclr n => Sys2Proof.Machine.execWpclr n s
  | .wprd d n => Sys2Proof.Machine.execWprd d n s
  | .hltrd d a b => Sys2Proof.Machine.execHltrd d a b s
  | .hltwr d a b => Sys2Proof.Machine.execHltwr d a b s
  | .hltstep a b => Sys2Proof.Machine.execHltstep a b s
  | .hltres a => Sys2Proof.Machine.execHltres a s
  | .tspawn d a => Sys2Proof.Machine.execTspawn d a s
  | .tdoneFinal d => Sys2Proof.Machine.execTdoneFinal d s
  | .tdoneGrain d => Sys2Proof.Machine.execTdoneGrain d s
  | .tdep d a b => Sys2Proof.Machine.execTdep d a b s
  | .mbxreg d a b => Sys2Proof.Machine.execMbxreg d a b s
  | .evroute n a b => Sys2Proof.Machine.execEvroute n a b s
  | .evrouteSignal => Sys2Proof.Machine.execEvrouteSignal s
  | .csrrd d c => Sys2Proof.Machine.execCsrrd d c s
  | .csrwr x c => Sys2Proof.Machine.execCsrwr x c s
  | .preack => Sys2Proof.Machine.execPreack s
  | .mhalt => Sys2Proof.Machine.execMhalt s
  | .mevwait => Sys2Proof.Machine.execMevwait s
  | .msignal => Sys2Proof.Machine.execMsignal s
  | .mtimer x => Sys2Proof.Machine.execMtimer x s
  | .mqpush q x d => Sys2Proof.Machine.execMqpush q x d s
  | .mqpop q x d => Sys2Proof.Machine.execMqpop q x d s
  | .mqcnt q d => Sys2Proof.Machine.execMqcnt q d s
  | .mtagr w d => Sys2Proof.Machine.execMtagr w d s
  | .mcpy x d => Sys2Proof.Machine.execMcpy x d s
  | .mbarc c b x => Sys2Proof.Machine.execMbarc c b x s
  | .mavdec x d => Sys2Proof.Machine.execMavdec x d s
  | .rvLui d imm => Sys2Proof.Machine.execRvLui d imm s
  | .rvAuipc d imm => Sys2Proof.Machine.execRvAuipc d imm s
  | .rvJal d imm => Sys2Proof.Machine.execRvJal d imm s
  | .rvJalr d x imm => Sys2Proof.Machine.execRvJalr d x imm s
  | .rvBeq x t imm => Sys2Proof.Machine.execRvBeq x t imm s
  | .rvBne x t imm => Sys2Proof.Machine.execRvBne x t imm s
  | .rvBlt x t imm => Sys2Proof.Machine.execRvBlt x t imm s
  | .rvBge x t imm => Sys2Proof.Machine.execRvBge x t imm s
  | .rvBltu x t imm => Sys2Proof.Machine.execRvBltu x t imm s
  | .rvBgeu x t imm => Sys2Proof.Machine.execRvBgeu x t imm s
  | .rvLb d x imm => Sys2Proof.Machine.execRvLb d x imm s
  | .rvLh d x imm => Sys2Proof.Machine.execRvLh d x imm s
  | .rvLw d x imm => Sys2Proof.Machine.execRvLw d x imm s
  | .rvLbu d x imm => Sys2Proof.Machine.execRvLbu d x imm s
  | .rvLhu d x imm => Sys2Proof.Machine.execRvLhu d x imm s
  | .rvSb x t imm => Sys2Proof.Machine.execRvSb x t imm s
  | .rvSh x t imm => Sys2Proof.Machine.execRvSh x t imm s
  | .rvSw x t imm => Sys2Proof.Machine.execRvSw x t imm s
  | .rvAddi d x imm => Sys2Proof.Machine.execRvAddi d x imm s
  | .rvSlti d x imm => Sys2Proof.Machine.execRvSlti d x imm s
  | .rvSltiu d x imm => Sys2Proof.Machine.execRvSltiu d x imm s
  | .rvXori d x imm => Sys2Proof.Machine.execRvXori d x imm s
  | .rvOri d x imm => Sys2Proof.Machine.execRvOri d x imm s
  | .rvAndi d x imm => Sys2Proof.Machine.execRvAndi d x imm s
  | .rvSlli d x imm => Sys2Proof.Machine.execRvSlli d x imm s
  | .rvSrli d x imm => Sys2Proof.Machine.execRvSrli d x imm s
  | .rvSrai d x imm => Sys2Proof.Machine.execRvSrai d x imm s
  | .rvAdd d x t => Sys2Proof.Machine.execRvAdd d x t s
  | .rvSub d x t => Sys2Proof.Machine.execRvSub d x t s
  | .rvSll d x t => Sys2Proof.Machine.execRvSll d x t s
  | .rvSlt d x t => Sys2Proof.Machine.execRvSlt d x t s
  | .rvSltu d x t => Sys2Proof.Machine.execRvSltu d x t s
  | .rvXor d x t => Sys2Proof.Machine.execRvXor d x t s
  | .rvSrl d x t => Sys2Proof.Machine.execRvSrl d x t s
  | .rvSra d x t => Sys2Proof.Machine.execRvSra d x t s
  | .rvOr d x t => Sys2Proof.Machine.execRvOr d x t s
  | .rvAnd d x t => Sys2Proof.Machine.execRvAnd d x t s
  | .rvFence f d => Sys2Proof.Machine.execRvFence f d s
  | .rvMul d x t => Sys2Proof.Machine.execRvMul d x t s
  | .rvMulh d x t => Sys2Proof.Machine.execRvMulh d x t s
  | .rvMulhsu d x t => Sys2Proof.Machine.execRvMulhsu d x t s
  | .rvMulhu d x t => Sys2Proof.Machine.execRvMulhu d x t s
  | .rvDiv d x t => Sys2Proof.Machine.execRvDiv d x t s
  | .rvDivu d x t => Sys2Proof.Machine.execRvDivu d x t s
  | .rvRem d x t => Sys2Proof.Machine.execRvRem d x t s
  | .rvRemu d x t => Sys2Proof.Machine.execRvRemu d x t s
  | .powerRemoved => Sys2Proof.Machine.execPowerRemoved s
  | .portFailure port => Sys2Proof.Machine.execPortFailure port s
  | .coltosReply m => Sys2Proof.Machine.execColtosReply m s
  | .sealBroadcast core arena => Sys2Proof.Machine.execSealBroadcast core arena s
  | .illegalEncoding word => Sys2Proof.Machine.execIllegalEncoding word s
  | .sideUnsupportedEncoding word => Sys2Proof.Machine.execSideUnsupportedEncoding word s
  | .recctlBadarg m => Sys2Proof.Machine.execRecctlBadarg m s
  | .unreliableDeliveryRequest port ep => Sys2Proof.Machine.execUnreliableDeliveryRequest port ep s
  | .deviceOnlyCode m => Sys2Proof.Machine.execDeviceOnlyCode m s

end Sys2Proof.Machine
end

