-- ==== Sys2Proof/Machine/Settle.lean ====
section
/-! DEFINITION. What follows every step: fences and monitors whose condition holds, commands and remote operations that wait, and
the passing of time. -/
namespace Sys2Proof.Machine

/-- An acquire fence of the list whose older loads have all been performed. -/
def fenceDue (l : List Access) (a : Access) : Bool :=
  !a.perf && isFence a && l.all (fun b => decide (a.id ≤ b.id) || b.perf || !(isLoadLike b))

/-- The fences that are due are marked, and those that order nothing any more leave the list. -/
def passFences (g : Group) : Group :=
  { g with accs := dropFences (g.accs.map (fun a => if fenceDue g.accs a then { a with perf := true } else a)) }

/-- FENCE.A and FENCE.AR make their SELFINV once every older load has been performed (R178, R289). -/
def settleFences (s : State) : State :=
  (s.allGroups.filter (fun e => e.2.2.accs.any (fenceDue e.2.2.accs))).foldl (fun t e => (selfInv t e.1).updGroup e.1 e.2.1 passFences) s

/-- The lookups of every core that has requests (R151, R152). -/
def settleLookups (s : State) : State := (s.cores.filter (fun c => !c.2.asks.isEmpty)).foldl (fun t c => settleAsks t c.1) s

/-- What follows every step. -/
def settleAll (s : State) : State :=
  settleSweeps (settleMarks (settleResv (settleEngines (settleFills (settleFetches (settleLookups (settleRemotes (settleSessions (endMonitors (settleFences s))))))))))

/-- Time passes, two loop cycles for each core cycle, and a block at which work is present is Active (R7, R23, R27). -/
def passCycles (s : State) : State := wakeBusy (moveNet (2 * Config.stepCycles s.tick) (passTime s))

end Sys2Proof.Machine
end

