-- ==== Sys2Proof/Machine/Eligible.lean ====
section
/-! DEFINITION. The instruction that a word is, the groups of a core that are eligible to start their next one, and the slack tag of
the requests that a step forms (R31, R102, R116, R225). -/
namespace Sys2Proof.Machine

/-- The instruction of a group's word; a word with no instruction takes the illegal-encoding path (R225). -/
def groupInstr (w : Word) : Instr :=
  match decodeGroup w with
  | some i => i
  | none => .illegalEncoding w

/-- The instruction of a side core's word; one that R366 and R367 do not list is unsupported (R116). -/
def sideInstr (w : Word) : Instr :=
  match decodeSide w with
  | some i => i
  | none => .sideUnsupportedEncoding w

/-- The executing group with a branch target on record; every start clears it. -/
def probeMark (s : State) : State := s.updCur (fun g => { g with far := some (BitVec.allOnes 64) })

/-- An instruction that the scoreboard does not hold back: it starts, so it does not leave the state as it finds it. -/
def starts (i : Instr) (s : State) : Bool :=
  match exec i (probeMark s) with
  | .next t => decide (t ≠ probeMark s)
  | _ => true

/-- The group is eligible: it is resident and does not wait, its next instruction needs no register whose scoreboard bit is set, and the
free choice lets its stall count and the resources of R101 be free (R102; log entry 9). -/
def eligible (s : State) (core slot : Nat) : Bool :=
  !(Config.issueHeld s.tick core slot) &&
  match fetchGroup s core slot with
  | .done _ => false
  | .word t w => starts (groupInstr w) t

/-- The eligible groups of a core (R102). -/
def eligibleCount (s : State) (core : Nat) : Nat := ((List.range 64).filter (eligible s core)).length

/-- The requests that the step has formed carry their slack tags (R31). -/
def tagRequests (s : State) : State := (untaggedCores s).foldl (fun t c => setSlack t c (eligibleCount s c)) s

/-- What follows every turn: the step is counted, what has come to its end ends, and time passes. -/
def afterTurn (s : State) : State := passCycles (tagRequests (settleAll { s with tick := s.tick + 1 }))

end Sys2Proof.Machine
end

