-- ==== Sys2Proof/Machine/Place.lean ====
section
/-! DEFINITION. An instruction word placed where a step fetches it. It stands for what BOOT_BRINGUP, the host's control
blocks and page tables, LAUNCH, DISPATCH, PLACEMENT and the walk of its page leave: a resident group whose PC is in a mapped packet, or a side
core with a program (R14, R73 to R82, R114, R115; log entry 2). -/
namespace Sys2Proof.Machine

/-- Where the placed program's tables, blocks and packet lie: the page-table root at 1 MiB, the region's control block,
the task's control block, and the page of the packet, which also is virtual address 0x1000. -/
def placeRoot : Nat := 0x100000
def placeRcb : Nat := 0x110000
def placeTcb : Nat := 0x110800
def placePage : Nat := 0x120000

/-- The leaf that maps the packet's page for reading, writing and fetching. -/
def placePte : Nat := 2 ^ 63 + 2 ^ 62 + 2 ^ 47 + 2 ^ 46 + 2 ^ 45 + 2 ^ 44 + placePage

/-- The TLB entry that a walk to it leaves. -/
def placeTlb : TlbEntry :=
  { root := BitVec.ofNat 30 (placeRoot / 256), base := 0x1000, size := 0x1000, pte := BitVec.ofNat 64 placePte, src := 0x103008 }

/-- The bytes of the four table levels that map virtual page 1 to the packet's page for reading, writing and fetching,
and of the packet: its control word, for one valid slot with stall code 7, and the word. -/
def placeMemory (m : Memory) (w : Word) : Memory :=
  let pte := fun (v : Nat) => natBytes v 8
  let m1 := zsetRun m placeRoot (pte (2 ^ 63 + 0x101000))
  let m2 := zsetRun m1 0x101000 (pte (2 ^ 63 + 0x102000))
  let m3 := zsetRun m2 0x102000 (pte (2 ^ 63 + 0x103000))
  let m4 := zsetRun m3 0x103008 (pte placePte)
  let m5 := zsetRun m4 placePage (natBytes 0x10000007 4)
  zsetRun m5 (placePage + 4) (toBytes w 4)

/-- The region: running, with every override and all dies. -/
def placeRegion : BitVec 2048 :=
  fput (fput (fput (fput (fput 0 617 615 1) 614 609 63) 623 620 15) 1029 1025 4) 959 930 (placeRoot / 256)

/-- The task: running, with one group. -/
def placeTask : BitVec 1024 :=
  fput (fput (fput (fput 0 575 546 (placeRcb / 256)) 447 437 1) 383 380 2) 379 371 1

/-- One instance of the task runs as group 0 of core 0, which holds the core's side resources. -/
def placeInst (s : State) : State :=
  let i := s.nextInst
  let x : Inst :=
    { tcb := placeTcb / 128, image := placeTask, next := 0, ihi := 0, gang := [0], locs := [(0, 0)], state := .running, marks := [], age := 0,
      area := 0xF00000000, stops := 0, flt := none, groups := [], cores := [], unrest := [], moves := 0, killer := false }
  { s with
    insts := put s.insts i x, nextInst := i + 1
    regions := put s.regions (placeRcb / 256) { rcb := placeRegion, crossed := false }
    tasks := put s.tasks (placeTcb / 128) { tcb := placeTask, mbx := false }
    boot := { s.boot with powered := true, state := 4 }
    arenas := zset s.arenas 1 (setBit 0 107 true) }

/-- A group word in slot 1 of the packet at virtual address 0x1000. -/
def placeGroupWord (s : State) (w : Word) : State :=
  let i := s.nextInst
  let s1 := placeInst s
  let g : Group := { Group.reset with resident := true, inst := i, pc := 0x1004, amask := BitVec.allOnes 64 }
  let c : Core := { Core.reset with groups := [(0, g)], sideOwn := some i, tlb := [placeTlb] }
  { s1 with live := placeMemory s1.live w, cores := put s1.cores 0 c, agenda := [.group 0 0] }

/-- A side-core word at address 0 of the loader of core 0. -/
def placeSideWord (s : State) (w : Word) : State :=
  let i := s.nextInst
  let s1 := placeInst s
  let g : Group := { Group.reset with resident := true, inst := i, pc := 0x1004, amask := BitVec.allOnes 64 }
  let d : Side := { Side.reset with istore := zsetRun [] 0 (toBytes w 4), status := 1 }
  let c : Core := { Core.reset with groups := [(0, g)], sideOwn := some i, loader := d }
  { s1 with cores := put s1.cores 0 c, agenda := [.side 0 false] }

end Sys2Proof.Machine
end

