-- ==== Sys2Proof/Machine/Step.lean ====
section
/-! DEFINITION. One step of the machine: the next turn of the agenda, or the turn that the free schedule names (R172; log
entry 1). A turn is a group's next instruction, a side core's next instruction, or an event. -/
namespace Sys2Proof.Machine

/-- A group's turn. -/
def groupTurn (s : State) (core slot : Nat) : Host.Outcome State Fault Refusal :=
  match fetchGroup s core slot with
  | .done t => .next (settle s t core slot)
  | .word t w =>
    match exec (groupInstr w) t with
    | .next u => .next (settle s u core slot)
    | .fault f => .fault f
    | .refused r => .refused r

/-- A side core's turn. -/
def sideTurn (s : State) (core : Nat) (storer : Bool) : Host.Outcome State Fault Refusal :=
  match fetchSide s core storer with
  | .done t => .next t
  | .word t w => exec (sideInstr w) t

/-- The effect of one turn. -/
def takeTurn (s : State) (t : Turn) : Host.Outcome State Fault Refusal :=
  match t with
  | .group core slot => groupTurn s core slot
  | .side core storer => sideTurn s core storer
  | .event i => if isEvent i then exec i { s with focus := { s.focus with step := false } } else .next s

/-- One step. -/
def step (s : State) : Host.Outcome State Fault Refusal :=
  let r := match s.agenda with
    | t :: l => takeTurn { s with agenda := l } t
    | [] => takeTurn s (Config.schedule s.tick)
  match r with
  | .next u => .next (afterTurn u)
  | .fault f => .fault f
  | .refused r => .refused r

/-- The state with an instruction placed where the next step fetches it, in a group or in a side core (log entry 2). -/
def State.withFetchWord (s : State) (nbits w : Nat) : State :=
  let v : Word := if nbits ≤ 32 then BitVec.ofNat 32 w else 0
  match decodeMbadun v with
  | some _ => placeSideWord s v
  | none => placeGroupWord s v

end Sys2Proof.Machine
end

