-- ==== Sys2Proof/Safety.lean ====
section
/-! DEFINITION. What a safe run is, and the terms in which the statements about single instructions are made: when a group's
instruction starts undisturbed, and how the group goes on after it. -/
namespace Sys2Proof

/-- A run of `k` steps from a state reaches a next state. -/
def Safe (k : Nat) (s : Machine.State) : Prop := ∃ t, Host.Core.run core k s = .next t

namespace Machine

/-- The executing group starts an instruction of a shape undisturbed: the scoreboard lets it start (R103), no latency is
open (R104), no start-time cause holds (R193), no watch predicate stands on its core (R344), no halt is at work
(R346, R350), and its PC stands where its last transfer of control led (R243). -/
abbrev Starts (s : State) (sh : Shape) : Prop :=
  blocked s.cur sh (ctlStall s.focus.ctl (pcSlot s.cur.pc)) = false ∧ s.cur.hazards = [] ∧
  startCause s s.focus.core s.cur sh false = none ∧ (s.core s.focus.core).wps = [] ∧ s.cur.split = 0 ∧
  s.cur.halt = none ∧ s.focus.step = false ∧ s.cur.rest = 0 ∧ s.cur.far = none

/-- The threads that take part in an instruction of a shape (R223). -/
def taking (s : State) (sh : Shape) : BitVec 64 := if narrows sh then narrowed s.cur else s.cur.amask

/-- What an undisturbed instruction reads at its start (R97). -/
def startCtx (s : State) (sh : Shape) : Ctx :=
  { core := s.focus.core, slot := s.focus.slot, clk := (s.core s.focus.core).clk, src := s.cur, act := taking s sh, hit := none }

/-- The slot that follows the executing instruction (R214). -/
def State.after (s : State) : BitVec 48 := pcNext s.cur.pc (ctlN s.focus.ctl)

/-- The group begins an instruction: the slot after it is noted, and no latency is open. -/
def begun (s : State) : Group := { s.cur with nextPc := s.after, hazards := [] }

/-- The group goes on to a slot. -/
def Group.resumed (g : Group) (pc : BitVec 48) : Group := { g with pc := pc, split := 0, wait := .none, fired := false }

/-- The machine after a transfer of control to a slot that has changed nothing but its group: `g` is the group with what
the instruction has written, and `ds` are the scalars and predicates that the uniform pipe has written, whose latency
opens (R104). -/
def State.goesTo (s : State) (ds : List (BitVec 8)) (pc : BitVec 48) (g : Group) : State :=
  s.setCur ({ g with nextPc := pc, hazards := hazardsOf s.cur ds }.resumed pc)

/-- The machine after an instruction that has changed nothing but its group: the group goes on at the next slot. -/
def State.goesOn (s : State) (ds : List (BitVec 8)) (g : Group) : State := s.goesTo ds s.after g

/-- The machine at the start of an instruction. -/
def State.begins (s : State) : State := s.setCur (begun s)

/-- The machine after an instruction that waits: the group keeps its place and notes the step, and nothing else changes. -/
def State.waits (s : State) (w : Wait) : State := s.setCur { begun s with wait := w, started := s.tick }

/-- The machine after an instruction that computes one word from its operands: a scalar destination receives the word of the
uniform pipe, a vector destination one word for each thread that takes part (R254). -/
def State.wrote (s : State) (sh : Shape) (d : BitVec 8) (f : (BitVec 8 → Word) → Word) : State :=
  if uniForm d then s.goesOn [d] (writeScal s.cur d (f (startCtx s sh).uni))
  else s.goesOn [] (writeLanes s.cur d ((bitsOf (taking s sh)).map (fun t => (t, f (fun r => (startCtx s sh).lane r t)))))

/-- Wherever it starts undisturbed, the instruction computes one word from its operands and changes nothing else. -/
def Computes (i : Instr) (d : BitVec 8) (sh : State → Shape) (f : State → (BitVec 8 → Word) → Word) : Prop :=
  ∀ s, Starts s (sh s) → exec i s = .next (s.wrote (sh s) d (f s))

/-- The machine after a compare: a predicate receives one bit for each thread, or one bit for the whole active mask where no
source differs between threads; another destination receives the word (R259, R274). -/
def State.compared (s : State) (sh : Shape) (d : BitVec 8) (srcs : List (BitVec 8)) (f : (BitVec 8 → Word) → Word × Bool) : State :=
  let x := startCtx s sh
  if isPred d then
    if perThread srcs then
      s.goesOn [] ((bitsOf x.act).foldl (fun g t =>
        writePred g d (maskOf 64 [t]) (if (f (fun r => x.lane r t)).2 then maskOf 64 [t] else 0)) s.cur)
    else s.goesOn [d] (writePred s.cur d x.act (if (f x.uni).2 then x.act else 0))
  else s.wrote sh d (fun r => (f r).1)

/-- Wherever it starts undisturbed, the compare writes its relation and changes nothing else. -/
def Decides (i : Instr) (d : BitVec 8) (srcs : List (BitVec 8)) (sh : State → Shape)
    (f : State → (BitVec 8 → Word) → Word × Bool) : Prop :=
  ∀ s, Starts s (sh s) → exec i s = .next (s.compared (sh s) d srcs (f s))

/-- The machine after an instruction whose effect is `t`: the group goes on at the next slot, and no latency is open. -/
def State.ends (s t : State) : State := t.updCur (fun g => { g with hazards := [] }.resumed s.after)

/-- A group with the accesses of an instruction as one operation of a class, counted, marked on the scoreboard for its
destinations, and each given its number and the instruction's place and start (R103, R174, R183, R347). -/
def Group.entered (g : Group) (born cls : Nat) (dst : List (BitVec 8)) (l : List Access) : Group :=
  if l.isEmpty then g
  else addScore (l.foldl (fun h a => addAccess h { a with op := g.nextOp, pc := g.pc, step := false, born := born }) (addOp g cls l.length).1) g.nextOp dst

/-- The machine after an instruction that has entered accesses: the group goes on with them, and the requests of its loads and stores,
one for each line, wait for their lookups (R151). -/
def State.issued (s : State) (cls : Nat) (dst : List (BitVec 8)) (l : List Access) : State :=
  addAsks (s.goesOn [] (s.cur.entered s.tick cls dst l)) s.focus.core (asksOf s.focus.slot s.cur.nextOp false l)

/-- The matrix or orthogonal unit of the group's partition takes its instruction (R306, R308, R413): the herd holds the partition's
matrix state or nobody does, one of the two places is free, and for a gated start the herd holds the side resources and the group has
consumed a firing or consumes one in its turn. `v` is the machine behind the gate. -/
def unitTakes (s : State) (isQ : Bool) (v : State) : Prop :=
  let p := curPart s.begins
  let sink := if isQ then 11 else 10
  (mGate s.cur.mode = true → sideHeld s.begins s.focus.core s.focus.slot = true) ∧
  (p.owner = none ∨ p.owner = some s.cur.inst) ∧ (if isQ then p.qunit else p.munit).length < 2 ∧
  (if mGate s.cur.mode && !s.cur.fired then gatePass s.begins sink else some s.begins) = some v

/-- The machine at the start of a matrix instruction: the partition's matrix state is the herd's, zeroed where nobody held it
(R307). -/
def State.claimed (s v : State) : State := claimPart v s.focus.core (s.focus.slot / 16) s.cur.inst

/-- The checks of an access pass. -/
def Xlat.passes (x : Xlat) : Bool :=
  match x with
  | .ok _ _ _ _ => true
  | _ => false

/-- The handler packet at an address can be fetched by a group. -/
def handlerReady (s : State) (core slot : Nat) (pc : BitVec 48) : Bool :=
  decide (pc ≠ 0) && (check s core (instRoot s (s.group core slot).inst) (pc.signExtend 64) 32 .fetch).passes

/-- What a group is after its entry to a handler (R196, R197): `sup` names the supervisor handler. -/
def Group.inHandler (g : Group) (f : FaultInfo) (sup : Bool) : Group :=
  setXregs { g with
    stack := { pc := f.pc, kind := 0, mask := g.amask, mode := g.mode, fmt := g.fmt } :: g.stack
    hndl := setBit (fput (fput (fput g.hndl 95 48 f.pc.toNat) 47 40 f.cause.toNat) 39 34 f.thr) (if sup then 32 else 33) true
    mode := 0, fmt := 0, pc := (if sup then hSpc g else hUpc g) + 4, wait := .none, split := 0, rest := 0
    far := none, entry := none, fired := false, hazards := [] } f

/-- A reply or a control message has reached its stop and is the head of its ejection queue; `t` is the machine without it (R27, R29). -/
def Arrives (s : State) (p : Packet) (t : State) : Prop := headArrival s p = some t

/-- A request has reached its slice, may be served, and is the one that the slice serves next; `t` is the machine without it (R32). -/
def Asks (s : State) (p : Packet) (t : State) : Prop := asked s p = some t

/-- A message arrives as the next one of its open session, which executes nothing and waits for nothing before it; `t` is the
machine that executes it (R50, R52). -/
def InTurn (s : State) (n : Nat) (m : Msg) (t : State) : Prop :=
  let x := takeAck (s.session n) m.ackseq
  arrives s m = true ∧ isReply m = false ∧ badHeader m = false ∧ s.boot.state = 4 ∧ s.recorder.mode ≠ 2 ∧ m.seq ≠ 0 ∧
  m.sess.toNat = n ∧ n < 64 ∧ (s.session n).opened = true ∧ (s.session n).holder = some m.ep ∧ (s.session n).reorder = [] ∧
  (s.session n).running = none ∧ m.seq = seqSucc (s.session n).lacc ∧ ringFull x = false ∧
  t = setSession (wakeHost s m.port) n { x with port := m.port, reorder := [] }

/-- A command's acceptance, after which its session goes on with what it holds next (R50, R51). -/
def accepted (t : State) (n : Nat) (m : Msg) (stat arg0 : Nat) (bs : List Byte) : State := pump 31 (acceptMsg t n m stat arg0 bs) n

end Machine

end Sys2Proof
end

