-- ==== Sys2Proof/Certificates/Slice0/Obligations.lean ====
section
/-! DEFINITION. The statements about the model that are to be proved. -/

open Sys2Proof Sys2Proof.Machine

/-! ### Integer and word instructions -/

/-- R253, R255: the arithmetic instructions complete with the exact result of each element fitted to the element, and change
only their destination, the pc and the open latency. -/
def Obligations.IntegerArithmeticCompletes : Prop :=
  ∀ d a b i : BitVec 8,
    Computes (.add d a b) d (fun _ => formShape d [a, b]) (fun s r => (fit2 s.cur.mode (fun x y => x + y) (r a) (r b)).1) ∧
    Computes (.sub d a b) d (fun _ => formShape d [a, b]) (fun s r => (fit2 s.cur.mode (fun x y => x - y) (r a) (r b)).1) ∧
    Computes (.mul d a b) d (fun _ => formShape d [a, b]) (fun s r => (fit2 s.cur.mode (fun x y => x * y) (r a) (r b)).1) ∧
    Computes (.mulhi d a b) d (fun _ => formShape d [a, b])
      (fun s r => (plain2 s.cur.mode (fun w x y => wrap w (x * y / 2 ^ w)) (r a) (r b)).1) ∧
    Computes (.mad d a b) d (fun _ => formShape d [a, b, d]) (fun s r => (fitMad s.cur.mode (r a) (r b) (r d)).1) ∧
    Computes (.min d a b) d (fun _ => formShape d [a, b])
      (fun s r => (plain2 s.cur.mode (fun w x y => wrap w (if x ≤ y then x else y)) (r a) (r b)).1) ∧
    Computes (.max d a b) d (fun _ => formShape d [a, b])
      (fun s r => (plain2 s.cur.mode (fun w x y => wrap w (if x ≤ y then y else x)) (r a) (r b)).1) ∧
    Computes (.abs d a) d (fun _ => formShape d [a]) (fun s r => (fit1 s.cur.mode (fun x => |x|) (r a)).1) ∧
    Computes (.neg d a) d (fun _ => formShape d [a]) (fun s r => (fit1 s.cur.mode (fun x => -x) (r a)).1) ∧
    Computes (.addI d a i) d (fun _ => formShape d [a])
      (fun s r => (fit2 s.cur.mode (fun x y => x + y) (r a) (immWord (mType s.cur.mode) true i)).1) ∧
    Computes (.mulI d a i) d (fun _ => formShape d [a])
      (fun s r => (fit2 s.cur.mode (fun x y => x * y) (r a) (immWord (mType s.cur.mode) true i)).1)

/-- R256, R228: shifts complete; an amount of the element width or more gives 0, or the sign for SRA. -/
def Obligations.ShiftsComplete : Prop :=
  ∀ (d a b : BitVec 8) (i : BitVec 5),
    Computes (.shl d a b) d (fun _ => formShape d [a, b]) (fun s r => (shlFn s.cur.mode (r a) (r b)).1) ∧
    Computes (.shr d a b) d (fun _ => formShape d [a, b]) (fun s r => (shrFn s.cur.mode (r a) (r b)).1) ∧
    Computes (.sra d a b) d (fun _ => formShape d [a, b]) (fun s r => (sraFn s.cur.mode (r a) (r b)).1) ∧
    Computes (.shlI d a i) d (fun _ => formShape d [a]) (fun s r => (shlFn s.cur.mode (r a) (immShift (mType s.cur.mode) i)).1) ∧
    Computes (.shrI d a i) d (fun _ => formShape d [a]) (fun s r => (shrFn s.cur.mode (r a) (immShift (mType s.cur.mode) i)).1) ∧
    Computes (.sraI d a i) d (fun _ => formShape d [a]) (fun s r => (sraFn s.cur.mode (r a) (immShift (mType s.cur.mode) i)).1)

/-- R257: the word instructions complete with the bits of the whole word. It rests also on log entry 19, the model's reading. -/
def Obligations.WordInstructionsComplete : Prop :=
  ∀ (d a b i : BitVec 8) (h : BitVec 16),
    Computes (.and d a b) d (fun _ => formShape d [a, b]) (fun _ r => r a &&& r b) ∧
    Computes (.or d a b) d (fun _ => formShape d [a, b]) (fun _ r => r a ||| r b) ∧
    Computes (.xor d a b) d (fun _ => formShape d [a, b]) (fun _ r => r a ^^^ r b) ∧
    Computes (.not d a) d (fun _ => formShape d [a]) (fun _ r => ~~~(r a)) ∧
    Computes (.popc d a) d (fun _ => formShape d [a])
      (fun _ r => BitVec.ofNat 32 ((List.range 32).filter (fun k => (r a).getLsbD k)).length) ∧
    Computes (.clz d a) d (fun _ => formShape d [a]) (fun _ r => BitVec.ofNat 32 (leadingZeros (r a))) ∧
    Computes (.brev d a) d (fun _ => formShape d [a]) (fun _ r => (r a).reverse) ∧
    Computes (.bfx d a b) d (fun _ => formShape d [a, b]) (fun _ r => bfxFn (r a) (r b)) ∧
    Computes (.bfi d a b) d (fun _ => formShape d [a, b, d]) (fun _ r => bfiFn (r a) (r b) (r d)) ∧
    Computes (.ldi d h) d (fun _ => formShape d []) (fun _ _ => h.signExtend 32) ∧
    Computes (.ldih d h) d (fun _ => formShape d [d]) (fun _ r => (h ++ (r d).extractLsb' 0 16 : BitVec (16 + 16))) ∧
    Computes (.andI d a i) d (fun _ => formShape d [a]) (fun s r => r a &&& immWord (mType s.cur.mode) false i) ∧
    Computes (.orI d a i) d (fun _ => formShape d [a]) (fun s r => r a ||| immWord (mType s.cur.mode) false i) ∧
    Computes (.xorI d a i) d (fun _ => formShape d [a]) (fun s r => r a ^^^ immWord (mType s.cur.mode) false i)

/-- R259, R228: the integer compares complete. A predicate destination receives whether the relation holds in every element;
another destination receives all ones in the elements where it holds. The signed relations compare signed elements, the
others unsigned ones. -/
def Obligations.IntegerComparesComplete : Prop :=
  ∀ d a b i : BitVec 8,
    let two := fun (mk : BitVec 8 → BitVec 8 → BitVec 8 → Instr) (sg : Bool) (f : Int → Int → Bool) =>
      Decides (mk d a b) d [a, b] (fun _ => cmpShape d [a, b])
        (fun s r => let v := cmpElems (mType s.cur.mode) sg f (r a) (r b); (v.1, v.2.1))
    let imm := fun (mk : BitVec 8 → BitVec 8 → BitVec 8 → Instr) (sx sg : Bool) (f : Int → Int → Bool) =>
      Decides (mk d a i) d [a] (fun _ => cmpShape d [a])
        (fun s r => let v := cmpElems (mType s.cur.mode) sg f (r a) (immWord (mType s.cur.mode) sx i); (v.1, v.2.1))
    two .cmpeq false (fun x y => decide (x = y)) ∧ two .cmpne false (fun x y => decide (x ≠ y)) ∧
    two .cmplt true (fun x y => decide (x < y)) ∧ two .cmple true (fun x y => decide (x ≤ y)) ∧
    two .cmpltn false (fun x y => decide (x < y)) ∧ two .cmplen false (fun x y => decide (x ≤ y)) ∧
    imm .cmpeqI true false (fun x y => decide (x = y)) ∧ imm .cmpneI true false (fun x y => decide (x ≠ y)) ∧
    imm .cmpltI true true (fun x y => decide (x < y)) ∧ imm .cmpleI true true (fun x y => decide (x ≤ y)) ∧
    imm .cmpltnI false false (fun x y => decide (x < y)) ∧ imm .cmplenI false false (fun x y => decide (x ≤ y))

/-- R258: MOV and LEAS complete wherever they start undisturbed. MOV writes the source word of each thread to a vector, one word to
a scalar, and bit 0 of the source to a predicate: of each thread, or of the uniform pipe for the whole active mask where the
source is a uniform one. LEAS writes the sign-extended 48-bit sum to a register pair. A scalar that receives a predicate whose
bits differ between the threads holds a free bit (log entry 20). It rests also on log entry 22, the model's reading. -/
def Obligations.MovesComplete : Prop :=
  ∀ d a b : BitVec 8, ∀ s : State,
    (Starts s (movShape d a) →
      let x := startCtx s (movShape d a)
      exec (.mov d a) s = .next (
        if isVec d then s.goesOn [] (writeLanes s.cur d ((bitsOf x.act).map (fun t => (t, x.lane a t))))
        else if isScal d then s.goesOn [d] (writeScal s.cur d (movUni s.tick x a))
        else if perThread [a] || isPred a then
          s.goesOn [] ((bitsOf x.act).foldl (fun g t =>
            writePred g d (maskOf 64 [t]) (if bit (x.lane a t) 0 then maskOf 64 [t] else 0)) s.cur)
        else s.goesOn [d] (writePred s.cur d s.cur.amask (if bit (x.uni a) 0 then s.cur.amask else 0)))) ∧
    (Starts s (leasShape d a b) →
      let x := startCtx s (leasShape d a b)
      let sum := fun (lo hi c : Word) => (((hi ++ lo : BitVec (32 + 32)) + c.signExtend 64).setWidth 48).signExtend 64
      exec (.leas d a b) s = .next (if isScal d then
          s.goesOn [d, d + 1] (writeScal64 s.cur d (sum (x.uni a) (x.uni (a + 1)) (x.uni b)))
        else s.goesOn [] ((bitsOf x.act).foldl (fun g t =>
          let v : BitVec 64 := sum (x.lane a t) (x.lane (a + 1) t) (x.lane b t)
          writeLane (writeLane g d t (v.setWidth 32)) (d + 1) t (v.extractLsb' 32 32)) s.cur)))

/-- R260 with its encoding: SEL writes to every active thread the whole word a where its guard test holds and b otherwise;
with GUARD 0 every active thread receives a, and a scalar destination receives a. -/
def Obligations.SelWritesByTheGuardTest : Prop :=
  ∀ d a b : BitVec 8,
    decodeGroup (0x35#8 ++ d ++ a ++ b : BitVec (8 + 8 + 8 + 8)) = some (.sel d a b) ∧
    ∀ s, Starts s (selShape s.cur d a b) →
      let x := startCtx s (selShape s.cur d a b)
      exec (.sel d a b) s = .next (if isScal d then s.goesOn [d] (writeScal s.cur d (x.uni a))
        else s.goesOn [] (writeLanes s.cur d ((bitsOf s.cur.amask).map
          (fun t => (t, if fnat s.cur.mode 31 28 = 0 ∨ bit (guardMask s.cur) t = true then x.lane a t else x.lane b t)))))

/-- R131, R255 at TYPE i32: without SAT, ADD, SUB, MUL and MAD give the result modulo 2^32 and raise no flag; with SAT, ADD gives
the nearest signed 32-bit value and raises SA exactly where that differs from the exact sum. -/
def Obligations.I32ArithmeticWrapsOrSaturates : Prop :=
  ∀ m a b d : Word, mType m = 0 →
    (mSat m = false → fit2 m (fun x y => x + y) a b = (a + b, 0) ∧ fit2 m (fun x y => x - y) a b = (a - b, 0) ∧
      fit2 m (fun x y => x * y) a b = (a * b, 0) ∧ fitMad m a b d = (a * b + d, 0)) ∧
    (mSat m = true →
      let v := a.toInt + b.toInt
      let c := if v < -(2 ^ 31) then -(2 ^ 31) else if 2 ^ 31 - 1 < v then 2 ^ 31 - 1 else v
      fit2 m (fun x y => x + y) a b = (BitVec.ofInt 32 c, if v = c then 0 else fSA))

/-! ### Floating point and conversions -/

/-- R270 to R273: the float instructions complete with the exact result of each element rounded once, and FNEG and FABS with the
sign bits changed. It rests also on log entry 73, the model's reading. -/
def Obligations.FloatArithmeticCompletes : Prop :=
  ∀ d a b : BitVec 8,
    let two := fun (i : Instr) (f : Fmt → Arith → Fp → Fp → Nat × Flags) =>
      Computes i d (fun s => floatShape s.cur.mode (formShape d [a, b]))
        (fun s r => (fpElems s.cur.mode [r a, r b] (fun fm ar l => f fm ar (fpAt l 0) (fpAt l 1))).1)
    two (.fadd d a b) addFp ∧ two (.fsub d a b) subFp ∧ two (.fmul d a b) mulFp ∧
    two (.fmin d a b) (fun fm ar x y => minmaxFp fm ar false x y) ∧ two (.fmax d a b) (fun fm ar x y => minmaxFp fm ar true x y) ∧
    Computes (.fma d a b) d (fun s => floatShape s.cur.mode (formShape d [a, b, d]))
      (fun s r => (fpElems s.cur.mode [r a, r b, r d] (fun fm ar l => fmaFp fm ar (fpAt l 0) (fpAt l 1) (fpAt l 2))).1) ∧
    Computes (.fneg d a) d (fun s => floatShape s.cur.mode (formShape d [a])) (fun s r => r a ^^^ signMask s.cur.mode) ∧
    Computes (.fabs d a) d (fun s => floatShape s.cur.mode (formShape d [a])) (fun s r => r a &&& ~~~(signMask s.cur.mode))

/-- R274: the float compares complete with their relations. -/
def Obligations.FloatComparesComplete : Prop :=
  ∀ d a b : BitVec 8,
    let cmp := fun (i : Instr) (rel : Fp → Fp → Bool) =>
      Decides i d [a, b] (fun s => floatShape s.cur.mode (cmpShape d [a, b])) (fun s r =>
        let fm := fmtOf (mType s.cur.mode)
        let rs := (List.range (32 / fm.width)).map (fun e =>
          rel (decodeFp fm (mFtz s.cur.mode) (elemAt (r a) fm.width e)) (decodeFp fm (mFtz s.cur.mode) (elemAt (r b) fm.width e)))
        (joinElems fm.width (rs.map (fun h => if h then 2 ^ fm.width - 1 else 0)), rs.all id))
    cmp (.fcmpeq d a b) (fun x y => !(x.isNan || y.isNan) && decide (cmpFp x y = 0)) ∧
    cmp (.fcmplt d a b) (fun x y => !(x.isNan || y.isNan) && decide (cmpFp x y < 0)) ∧
    cmp (.fcmple d a b) (fun x y => !(x.isNan || y.isNan) && decide (cmpFp x y ≤ 0)) ∧
    cmp (.fcmpun d a b) (fun x y => x.isNan || y.isNan)

/-- R142 to R144, R275 to R281: the conversions, the quantisations and the element moves complete; the special functions complete
with the special and exact cases of R144 and a free value within the bound of R143 elsewhere (log entry 8). It rests also on log
entry 22, the model's reading. -/
def Obligations.ConversionsAndSpecialFunctionsComplete : Prop :=
  (∀ d a b : BitVec 8, ∀ (t f : BitVec 4) (e : BitVec 3),
    Computes (.cvt d a t f) d (fun _ => cvtShape d a t f) (fun s r => (cvtWord s.cur.mode t.toNat f.toNat (r a)).1) ∧
    Computes (.qnt d a) d (fun s => quantShape s.cur d a)
      (fun s r => (qntWord s.cur (tabEntries (s.core s.focus.core) (fmtBtab s.cur.fmt)) (r a)).1) ∧
    Computes (.dqnt d a) d (fun s => quantShape s.cur d a)
      (fun s r => (dqntWord s.cur (tabEntries (s.core s.focus.core) (fmtBtab s.cur.fmt)) (r a)).1) ∧
    Computes (.pack d a b) d (fun s => packShape s.cur.mode d a b) (fun s r => packWord (mType s.cur.mode) (r a) (r b)) ∧
    Computes (.unpack d a e) d (fun s => unpackShape s.cur.mode d a e) (fun s r => unpackWord (mType s.cur.mode) e.toNat (r a))) ∧
  (∀ d a : BitVec 8,
    let fn := fun (i : Instr) (k : Nat) =>
      Computes i d (fun s => specialShape s.cur.mode d a) (fun s r =>
        (fpElems s.cur.mode [r a] (fun fm ar l => specialFp s.tick k fm ar.ftz ar.sat (fpAt l 0))).1)
    fn (.frcp d a) 0 ∧ fn (.frsq d a) 1 ∧ fn (.fsin d a) 2 ∧ fn (.fcos d a) 3 ∧ fn (.fexp2 d a) 4 ∧ fn (.flog2 d a) 5)

/-! ### Lanes -/

/-- R98, R261, R262: the exchanges complete; each thread that takes part receives the value of its source thread. The lane-to-
uniform instructions complete with their scalar; with no thread taking part they have no effect. It rests also on log entry 22,
the model's reading. -/
def Obligations.LaneInstructionsComplete : Prop :=
  (∀ d a b : BitVec 8, ∀ s : State,
    (Starts s (shflShape d a b) →
      let x := startCtx s (shflShape d a b)
      let from_ : (Nat → Nat) → Out := fun src => .next (s.goesOn [] (writeLanes s.cur d ((bitsOf x.act).map
        (fun t => (t, x.lane a (if bit x.act (src t) then src t else t))))))
      exec (.shfl d a b) s = from_ (fun t => (x.lane b t).toNat % 64) ∧
      exec (.shflx d a b) s = from_ (fun t => Nat.xor t ((x.lane b t).toNat % 64))) ∧
    (Starts s (bcastShape d a b) →
      let x := startCtx s (bcastShape d a b)
      exec (.bcast d a b) s = .next (s.goesOn [] (writeLanes s.cur d ((bitsOf x.act).map
        (fun t => (t, x.lane a (segLow x.act (min 6 ((x.uni b).toNat % 8)) t))))))) ∧
    (Starts s (matchShape d a) → isVec d = true →
      let x := startCtx s (matchShape d a)
      exec (.matchv d a) s = .next (s.goesOn [] ((bitsOf x.act).foldl (fun g t =>
        let m := sameValue x a (x.lane a t)
        writeLane (writeLane g d t (m.setWidth 32)) (d + 1) t (m.extractLsb' 32 32)) s.cur)))) ∧
  (∀ d a b : BitVec 8, ∀ s : State,
    let votes := fun (i : Instr) (sh : Shape) (f : Ctx → Group → Group) => Starts s sh →
      exec i s = .next (s.goesOn [] (if taking s sh = 0 then s.cur else f (startCtx s sh) s.cur))
    votes (.ballot d a) (ballotShape d a) (fun x g => writeScal64 g d (g.pred (predNo a) &&& x.act)) ∧
    votes (.vany d a) (voteShape d a) (fun x g => writeScal g d (if g.pred (predNo a) &&& x.act = 0 then 0 else 1)) ∧
    votes (.vall d a) (voteShape d a) (fun x g => writeScal g d (if g.pred (predNo a) &&& x.act = x.act then 1 else 0)) ∧
    votes (.rduni d a b) (rduniShape d a b) (fun x g => writeScal g d
      (x.lane a (if bit x.act ((x.uni b).toNat % 64) then (x.uni b).toNat % 64 else lowest x.act))) ∧
    (isScal d = true → votes (.matchv d a) (matchShape d a)
      (fun x g => writeScal64 g d (sameValue x a (x.lane a (lowest x.act))))))

/-- R113, R263, R264: XPAIR ends the group's binding, lets those that wait for this group and that it does
not name complete unbound, and waits for its partner, and a bound XSHFL waits for the exchange; a
binding is made where both groups name each other, and the exchange gives each thread active in both groups the partner's
value. -/
def Obligations.ClusterPairsComplete : Prop :=
  (∀ d a b : BitVec 8, ∀ s : State,
    (Starts s (xpairShape a b) →
      let x := startCtx s (xpairShape a b)
      let pc := (x.uni a).toNat % 256
      let pg := (x.uni b).toNat % 64
      pairOk (s.setCur (begun s)) s.focus.core s.focus.slot pc pg = true →
      exec (.xpair a b) s = .next ((passOver (unpair (s.setCur (begun s)) s.focus.core s.focus.slot) s.focus.core s.focus.slot
        pc pg).updCur (fun g => { g with wait := .xpair pc pg }))) ∧
    (Starts s (xshflShape d a) → s.cur.pair.isSome = true →
      exec (.xshfl d a) s = .next (s.waits (.xshfl a d (taking s (xshflShape d a)))))) ∧
  (∀ c k pc pg : Nat, ∀ s : State, (c, k) ≠ (pc, pg) →
    let g := s.group c k
    let h := s.group pc pg
    g.wait = .xpair pc pg → h.wait = .xpair c k → h.resident = true → h.ended = false → h.inst = g.inst →
    exec (.xpairBind c k) s = .next ((s.setGroup c k ({ g with pair := some (pc, pg) }.goOn g.nextPc)).setGroup pc pg
      ({ h with pair := some (c, k) }.goOn h.nextPc))) ∧
  (∀ c k pc pg : Nat, ∀ s : State, ∀ a d b e : BitVec 8, ∀ m n : BitVec 64, (c, k) ≠ (pc, pg) →
    let g := s.group c k
    let h := s.group pc pg
    g.wait = .xshfl a d m → h.wait = .xshfl b e n → g.pair = some (pc, pg) → h.pair = some (c, k) →
    (s.core c).wps = [] → (s.core pc).wps = [] →
    exec (.xshflExchange c k) s = .next (
      (s.setGroup c k ((writeLanes g d ((bitsOf (m &&& n)).map (fun t => (t, h.vec b.toNat t)))).goOn g.nextPc)).setGroup pc pg
        ((writeLanes h e ((bitsOf (m &&& n)).map (fun t => (t, g.vec a.toNat t)))).goOn h.nextPc)))

/-! ### Control flow -/

/-- R243 to R245: BRA, BRP, JMPR, CALL and RET complete at their targets; BRP with QNT 0 branches where some thread of the active
mask passes, with QNT 1 where every one does, with QNT 2 where none does. A register target with bits 1:0 not zero or with slot
field 0 takes ALIGN at the jumping instruction, and one that is not canonical takes ADDRFORM. NOP and YIELD change nothing but the
pc and the open latency. -/
def Obligations.TransfersComplete : Prop :=
  (∀ (s : State) (o : BitVec 24) (q : BitVec 2) (n : BitVec 1) (p : BitVec 3) (i : BitVec 16) (a : BitVec 8),
    let at_ := fun k : Int => signedLinear s.cur.pc + k
    let passes := fun t : Nat => xor (bit (s.cur.pred p.toNat) t) (decide (n = 1))
    let test := match q.toNat with
      | 0 => (bitsOf s.cur.amask).any passes
      | 1 => (bitsOf s.cur.amask).all passes
      | _ => !((bitsOf s.cur.amask).any passes)
    let pr := BitVec.ofNat 8 (224 + p.toNat)
    let slotPc := fun v : BitVec 64 => canonical v = true ∧ v.toNat % 4 = 0 ∧ v.toNat / 4 % 8 ≠ 0
    (Starts s plainUni → exec (.bra o) s = .next (s.goesTo [] (pcOfLinear (at_ o.toInt)) (s.cur.sentTo (at_ o.toInt)))) ∧
    (Starts s (uniShape (q != 3) [pr] [pr]) →
      exec (.brp q n p i) s = .next (
        if test then s.goesTo [] (pcOfLinear (at_ i.toInt)) (s.cur.sentTo (at_ i.toInt)) else s.goesOn [] s.cur)) ∧
    (Starts s (uniShape (isScalPair a) [a, a + 1] [a, a + 1]) → slotPc (s.cur.s64 a) →
      exec (.jmpr a) s = .next (s.goesTo [] ((s.cur.s64 a).setWidth 48) s.cur)) ∧
    (Starts s (uniShape true [222, 223] [222, 223]) → slotPc (s.cur.s64 222) →
      exec .ret s = .next (s.goesTo [] ((s.cur.s64 222).setWidth 48) s.cur)) ∧
    (Starts s (uniShape true [222, 223] []) →
      exec (.call o) s = .next (s.goesTo [222, 223] (pcOfLinear (at_ o.toInt))
        ((writeScal64 s.cur 222 (s.after.signExtend 64)).sentTo (at_ o.toInt))))) ∧
  (∀ (s : State) (a : BitVec 8),
    let checked := fun (i : Instr) (sh : Shape) (v : BitVec 64) => Starts s sh →
      (canonical v = false → exec i s = .next (trap s.begins ⟨cADDRFORM, v, lowest s.cur.amask, 0⟩)) ∧
      (canonical v = true → v.toNat % 4 ≠ 0 ∨ v.toNat / 4 % 8 = 0 →
        exec i s = .next (trap s.begins ⟨cALIGN, v, lowest s.cur.amask, 0⟩))
    checked (.jmpr a) (uniShape (isScalPair a) [a, a + 1] [a, a + 1]) (s.cur.s64 a) ∧
    checked .ret (uniShape true [222, 223] [222, 223]) (s.cur.s64 222)) ∧
  (∀ s, Starts s plainUni → exec .nop s = .next (s.goesOn [] s.cur) ∧ exec .yield s = .next (s.goesOn [] s.cur))

/-- R111, R246 to R248: JPUSH pushes a RECONV entry; BDIV splits the active mask, pushing a PATH entry for the taken set only where
both sets hold threads. JOIN restores the mask, MODE and FMT of the top entry that holds threads and continues at the slot after a
RECONV entry's PC, whose packet gives its count, or at the PC of another; where that packet's page is held the JOIN waits. Entries that
EXIT has emptied are discarded, and with an empty stack it only advances. -/
def Obligations.DivergenceAndJoinComplete : Prop :=
  (∀ (s : State) (o : BitVec 24) (n : BitVec 1) (p : BitVec 3) (i : BitVec 16),
    let pr := BitVec.ofNat 8 (224 + p.toNat)
    let taken := s.cur.amask &&& (if n = 1 then ~~~(s.cur.pred p.toNat) else s.cur.pred p.toNat)
    let fall := s.cur.amask &&& ~~~taken
    let entry := fun (k : Int) (kind : BitVec 2) (m : BitVec 64) =>
      (⟨branchTarget s.cur.pc k, kind, m, s.cur.mode, s.cur.fmt⟩ : Entry)
    (Starts s plainUni → s.cur.stack.length < 32 →
      exec (.jpush o) s = .next (s.goesOn [] { s.cur with stack := entry o.toInt 0 s.cur.amask :: s.cur.stack })) ∧
    (Starts s (uniShape true [pr] [pr]) → taken = 0 → exec (.bdiv n p i) s = .next (s.goesOn [] s.cur)) ∧
    (Starts s (uniShape true [pr] [pr]) → taken ≠ 0 → fall = 0 →
      exec (.bdiv n p i) s = .next (s.goesTo [] (pcOfLinear (signedLinear s.cur.pc + i.toInt))
        (s.cur.sentTo (signedLinear s.cur.pc + i.toInt)))) ∧
    (Starts s (uniShape true [pr] [pr]) → taken ≠ 0 → fall ≠ 0 → s.cur.stack.length < 32 →
      exec (.bdiv n p i) s = .next (s.goesOn [] { s.cur with
        stack := entry i.toInt 1 taken :: s.cur.stack, amask := fall }))) ∧
  (∀ (s : State) (pc : BitVec 48) (l : List Hold), Starts s plainUni → spillUsed s.cur = 0 →
    match s.cur.stack.dropWhile (fun e => decide (e.mask = 0)) with
    | [] => exec .join s = .next (s.goesOn [] { s.cur with stack := [] })
    | e :: r =>
      let to_ := if e.kind = 0 then slotAfter s s.focus.core (instRoot s s.cur.inst) e.pc else .ok e.pc
      (to_ = .ok pc → exec .join s = .next (s.goesTo [] pc
        { s.cur with stack := r, amask := e.mask, mode := e.mode, fmt := e.fmt })) ∧
      (to_ = .wait l → exec .join s = .next (waitXlat s l)))

/-- R249, R250: EXIT removes the threads of the active mask from every entry; where no entry holds a thread any more the group
ends, otherwise it continues at the top entry that does, or waits where the packet of that entry's PC lies in a page that is held. -/
def Obligations.ExitCompletes : Prop :=
  ∀ (s : State) (pc : BitVec 48) (l : List Hold), Starts s plainUni → spillUsed s.cur = 0 → hSact s.cur = false →
    match (s.cur.stack.map (fun e => { e with mask := e.mask &&& ~~~s.cur.amask })).dropWhile (fun e => decide (e.mask = 0)) with
    | [] => exec .exit s = .next (endGroup (s.goesOn [] { s.cur with stack := [], mon := none, monHit := false })
        s.focus.core s.focus.slot)
    | e :: r =>
      let to_ := if e.kind = 0 then slotAfter s s.focus.core (instRoot s s.cur.inst) e.pc else .ok e.pc
      (to_ = .ok pc → exec .exit s = .next (s.goesTo [] pc
        { s.cur with stack := r, amask := e.mask, mode := e.mode, fmt := e.fmt, mon := none, monHit := false })) ∧
      (to_ = .wait l → exec .exit s = .next (waitXlat s l))

/-! ### Traps and their return -/

/-- R44, R88, R191, R192, R196 to R199, R211: taking a trap. A U-class cause with a user handler that is not active goes to that handler,
and a fault in a TRAPOK region to the supervisor handler; a U-class cause without a user handler, or inside it, is a fault, but PRENOTE
without one, which stops the group before any trap is taken. Where the handler can be fetched and the stack has room, EPC, CAUSE and THR
are set with UACT or SACT, a RECONV entry with the mask, MODE and FMT of the stopping point is pushed, MODE and FMT become 0, the active
mask stays, the X registers show the word, and the group continues at the handler; nothing else in the machine changes. A handler whose
fetch faults, or a supervisor handler at address 0, parks with TRAPFETCH, the handler's address and ARENA 0; one whose translation has to
wait holds the entry. A fault outside a TRAPOK region, a P-class cause, and any cause under SACT stop the group, and its instance is to be
parked with the fault; HNDL then shows the stopping point, the cause and the thread. It rests also on log entry 102, the model's
reading. -/
def Obligations.TrapsEnterOrPark : Prop :=
  (∀ (s : State) (core slot : Nat) (f : FaultInfo) (c : BitVec 8) (a : BitVec 12) (l : List Hold),
    let g := s.group core slot
    let user := isUClass f.cause = true ∧ hUpc g ≠ 0 ∧ hUact g = false
    let fault := (isUClass f.cause = false ∨ hUpc g = 0 ∨ hUact g = true) ∧ ¬(f.cause = cPRENOTE ∧ hUpc g = 0)
    let super := fault ∧ effTrapOk s (instRegion s g.inst) = true
    let fetch := fun pc : BitVec 48 => check s core (instRoot s g.inst) (pc.signExtend 64) 32 .fetch
    let noFetch := fun pc : BitVec 48 => { f with cause := cTRAPFETCH, fva := pc.signExtend 64, arena := 0 }
    hSact g = false → isPClass f.cause = false →
    (user → g.stack.length < 32 → handlerReady s core slot (hUpc g) = true →
      takeTrap s core slot f = s.setGroup core slot (g.inHandler f false)) ∧
    (super → g.stack.length < 32 → handlerReady s core slot (hSpc g) = true →
      takeTrap s core slot f = s.setGroup core slot (g.inHandler f true)) ∧
    (user → fetch (hUpc g) = .fault c a → takeTrap s core slot f = parkGroup s core slot (noFetch (hUpc g))) ∧
    (super → hSpc g = 0 ∨ fetch (hSpc g) = .fault c a → takeTrap s core slot f = parkGroup s core slot (noFetch (hSpc g))) ∧
    (user → fetch (hUpc g) = .wait l → takeTrap s core slot f = holdEntry s core slot f false l) ∧
    (super → hSpc g ≠ 0 → fetch (hSpc g) = .wait l → takeTrap s core slot f = holdEntry s core slot f true l) ∧
    (fault → effTrapOk s (instRegion s g.inst) = false → takeTrap s core slot f = parkGroup s core slot f)) ∧
  (∀ (s : State) (core slot : Nat) (f : FaultInfo),
    let g := s.group core slot
    let k := (parkGroup s core slot f).group core slot
    (hSact g = true ∨ isPClass f.cause = true → takeTrap s core slot f = parkGroup s core slot f) ∧
    k.stop = some f ∧ k.pc = f.pc ∧ fget k.hndl 47 40 = f.cause ∧ (f.thr < 64 → fnat k.hndl 39 34 = f.thr) ∧
    (f.cause ≠ cTRAPFETCH → hEpc k = f.pc) ∧ hUact k = hUact g ∧ hSact k = hSact g)

/-- R155, R191, R193, R196, R218, R225, R352, R353: TRAP takes SWTRAP with the next slot as its stopping point and the whole word, its
code in the low half. RTE pops the top entry whatever its kind, restores its mask, MODE and FMT, clears SACT, or UACT where SACT is
clear, and continues at the entry's PC; its skip form continues at the slot after it, or waits where that PC's packet lies in a page that
is held, and from the supervisor handler the group's
stopped copies resume. A word with no instruction takes ILLEGAL at itself, once its group may start. -/
def Obligations.TrapsAndReturnsComplete : Prop :=
  (∀ (s : State) (i : BitVec 16),
    let w : Word := (0x0C00#16 ++ i : BitVec (16 + 16))
    let s1 := { s with focus := { s.focus with word := w } }
    Starts s plainUni →
    exec (.trap i) s = .next (takeTrap (s1.setCur (begun s)) s.focus.core s.focus.slot
      { cause := cSWTRAP, fva := 0, pc := s.after, thr := lowest s.cur.amask, arena := 0, word := w, kill := false
        core := s.focus.core, slot := s.focus.slot })) ∧
  (∀ (s : State) (e : Entry) (r : List Entry) (pc : BitVec 48) (l : List Hold), Starts s plainUni → s.cur.stack = e :: r →
    spillUsed s.cur = 0 →
    let next := slotAfter s s.focus.core (instRoot s s.cur.inst) e.pc
    let back := fun pc : BitVec 48 =>
      let k := (if hSact s.cur then resumeCopies s.begins s.focus.core s.focus.slot else s.begins)
      k.setCur ({ s.cur with
        stack := r, amask := e.mask, mode := e.mode, fmt := e.fmt,
        hndl := setBit s.cur.hndl (if hSact s.cur then 32 else 33) false, nextPc := pc, hazards := [] }.resumed pc)
    exec .rte s = .next (back e.pc) ∧
    (next = .ok pc → exec .rteSkip s = .next (back pc)) ∧ (next = .wait l → exec .rteSkip s = .next (waitXlat s l))) ∧
  (∀ (s : State) (w : BitVec 32),
    blocked s.cur plainUni (ctlStall s.focus.ctl (pcSlot s.cur.pc)) = false → s.cur.hazards = [] → s.focus.step = false →
    exec (.illegalEncoding w) s = .next (takeTrap { s with focus := { s.focus with word := w } } s.focus.core s.focus.slot
      { cause := cILLEGAL, fva := 0, pc := s.cur.pc, thr := lowest s.cur.amask, arena := 0, word := w, kill := false
        core := s.focus.core, slot := s.focus.slot }))

/-- R193, R194: an instruction whose start-time cause holds takes that trap at itself and has no other effect; stated for a float, a
lane, a quantising, a matrix and a supervisor instruction. The causes stand in their order: an illegal form, a register that is not
held, a table slot that is not held, and supervisor state; LKFREE outside it takes SUPERV. -/
def Obligations.StartTimeCausesTrap : Prop :=
  ∀ (s : State) (c : BitVec 8) (d a b : BitVec 8) (n : BitVec 2),
    let at_ := fun (i : Instr) (sh : Shape) =>
      blocked s.cur sh (ctlStall s.focus.ctl (pcSlot s.cur.pc)) = false → s.cur.hazards = [] →
      startCause s s.focus.core s.cur sh false = some c → exec i s = .next (trapCode s c)
    let free := { onceShape (isScal d && isScalPair a) [d, a, a + 1] [a, a + 1] with superv := true }
    at_ (.fadd d a b) (floatShape s.cur.mode (formShape d [a, b])) ∧ at_ (.sel d a b) (selShape s.cur d a b) ∧
    at_ (.shfl d a b) (shflShape d a b) ∧ at_ (.qnt d a) (quantShape s.cur d a) ∧
    at_ (.mmab n n) (unitShape true [] [] (bTabs s n.toNat) false) ∧ at_ (.lkfree d a) free ∧
    (isScal d = true → isScalPair a = true → [d, a, a + 1].all (heldReg s.cur) = true → hSact s.cur = false →
      startCause s s.focus.core s.cur free false = some cSUPERV) ∧
    (isScal d = false → startCause s s.focus.core s.cur free false = some cILLEGAL) ∧
    (∀ sh, sh.legal = true → sh.cls ≠ .matrix → sh.regs.all (heldReg s.cur) = false →
      startCause s s.focus.core s.cur sh false = some cREGNOTHELD) ∧
    (∀ sh, sh.legal = true → sh.regs.all (heldReg s.cur) = true → sh.tabs.all (tabHeld s s.focus.core s.cur) = false →
      startCause s s.focus.core s.cur sh false = some cTABNOTHELD)

/-! ### MODE, FMT, tables and register blocks -/

/-- R127, R132, R251: the mode instructions complete where the value is legal, and GETMODE reads MODE or FMT; a reserved MODE or FMT
value takes ILLEGAL and leaves MODE and FMT unchanged. -/
def Obligations.ModeInstructionsComplete : Prop :=
  (∀ (s : State) (i : BitVec 15) (a d : BitVec 8) (m : BitVec 1),
    (Starts s plainUni → modeOk (i ++ 0#17 : BitVec (15 + 17)) = true →
      exec (.setmodeI i) s = .next (s.goesOn [] { s.cur with mode := (i ++ 0#17 : BitVec (15 + 17)) })) ∧
    (Starts s (uniShape (isUni a) [a] [a]) → modeOk ((startCtx s (uniShape (isUni a) [a] [a])).uni a) = true →
      exec (.setmode a) s = .next (s.goesOn [] { s.cur with mode := (startCtx s (uniShape (isUni a) [a] [a])).uni a })) ∧
    (Starts s (uniShape (isUni a) [a] [a]) → fmtOk ((startCtx s (uniShape (isUni a) [a] [a])).uni a) = true →
      exec (.setfmt a) s = .next (s.goesOn [] { s.cur with fmt := (startCtx s (uniShape (isUni a) [a] [a])).uni a })) ∧
    (Starts s (uniShape (isScal d) [d] []) →
      exec (.getmode d m) s = .next (s.goesOn [d] (writeScal s.cur d (if m = 1 then s.cur.fmt else s.cur.mode))))) ∧
  (∀ (s : State) (a : BitVec 8), Starts s (uniShape (isUni a) [a] [a]) →
    let v := (startCtx s (uniShape (isUni a) [a] [a])).uni a
    (modeOk v = false → exec (.setmode a) s = .next (trapCode s.begins cILLEGAL)) ∧
    (fmtOk v = false → exec (.setfmt a) s = .next (trapCode s.begins cILLEGAL)))

/-- R126, R252: LDTAB with a thread taking part reads 128 bytes at a checked, aligned address into its slot, 16 bits an entry, and
the herd then holds the slot; it is one load, whose request of two sectors waits for its lookup (R151). With no thread it only
advances. It rests also on log entries 12 and 62, the model's reading. -/
def Obligations.LdtabCompletes : Prop :=
  ∀ (s : State) (k : BitVec 4) (a : BitVec 8) (pa : Nat) (ar : BitVec 12) (gn : BitVec 4) (rg : BitVec 2),
    let sh := mkShape .memory (isScalPair a) [a, a + 1] [a, a + 1] true
    Starts s sh →
    (taking s sh = 0 → exec (.ldtab k a) s = .next (s.goesOn [] s.cur)) ∧
    (taking s sh ≠ 0 → check s s.focus.core (instRoot s s.cur.inst) (s.cur.s64 a) 128 .read = .ok pa ar gn rg →
      (find (s.core s.focus.core).tabOwn k.toNat = none ∨ find (s.core s.focus.core).tabOwn k.toNat = some s.cur.inst) →
      readHeld s.begins s.focus.core s.focus.slot (begun s) pa 128 = false → softAt s.begins pa 128 = false →
      let bs := (List.range 128).map (fun i => loadByte s.begins s.focus.core (begun s) s.cur.nextAcc (pa + i))
      let ask := { askFor s.focus.slot s.cur.nextOp (startCtx s sh).low pa 1 false false ar gn rg with secs := 3 <<< (pa % 256 / 64) }
      exec (.ldtab k a) s = .next (retire
        ((addAsks (placeLoad s.begins s.focus.core { Access.zero with addr := pa, size := 128, arena := ar, gen := gn, regn := rg })
          s.focus.core [ask]).updCore s.focus.core (fun c => { c with
            tabs := (List.range 64).foldl (fun m i => zset m (64 * k.toNat + i) (ofBytes 16 ((bs.drop (2 * i)).take 2))) c.tabs
            tabOwn := put c.tabOwn k.toNat s.cur.inst })) none 0))

/-- R108, R109, R265, R266: REGACQ is granted at once where its blocks are free and no earlier request waits, and waits otherwise;
REGREL frees the highest held slots; a waiting request is granted by its event. RVDONATE whose mask lacks its group, or names a
slot without a group of its herd, completes with 0x8000_0000; otherwise it waits; when every named group of the herd waits with
the same mask, the blocks move. It rests also on log entries 75 and 76, the model's reading. -/
def Obligations.RegisterBlocksComplete : Prop :=
  (∀ (s : State) (n : BitVec 16),
    let sh := uniShape (decide (n.toNat ≤ 8)) [] []
    let k := min n.toNat (freeSlots s.cur).length
    let l := min n.toNat (popcount s.cur.xheld)
    let c := s.focus.core
    let g := s.focus.slot
    (Starts s sh → k = 0 → exec (.regacq n) s = .next (s.goesOn [] s.cur)) ∧
    (Starts s sh → k ≠ 0 → canGrant s.begins c g k = true →
      exec (.regacq n) s = .next (retire (grantBlocks s.begins c g k) none 0)) ∧
    (Starts s sh → k ≠ 0 → canGrant s.begins c g k = false →
      exec (.regacq n) s = .next ((s.waits (.regacq k)).updCore c (fun c =>
        let p := c.part (g / 16); c.setPart (g / 16) { p with regwait := p.regwait ++ [g] }))) ∧
    (Starts s sh → exec (.regrel n) s = .next (retire
      (releaseBlocks (addUse s.begins (instRegion s s.cur.inst) 807 792 (-(l : Int))) c g l) none 0)) ∧
    (∀ b h j : Nat, (s.group b h).wait = .regacq j → canGrant s b h j = true →
      exec (.regacqGrant b h) s = .next (endWait (grantBlocks s b h j) b h))) ∧
  (∀ (s : State) (d a b : BitVec 8),
    let sh := uniShape (isScal d && isUni a && isUni b) [d, a, b] [a, b]
    let x := startCtx s sh
    let m : BitVec 16 := (x.uni a).setWidth 16
    let named := donateSlots (s.focus.slot / 16) m
    let ok := named.contains s.focus.slot && named.all (fun k =>
      let g := s.begins.group s.focus.core k
      g.resident && !g.ended && decide (g.inst = s.cur.inst))
    (Starts s sh → ok = false → exec (.rvdonate d a b) s = .next (s.goesOn [d] (writeScal s.cur d 0x80000000))) ∧
    (Starts s sh → ok = true → exec (.rvdonate d a b) s = .next (s.waits (.rvdonate m
      (min ((x.uni b).toNat % 16) (popcount s.cur.xheld)) (min ((x.uni b).toNat / 16 % 16) (freeSlots s.cur).length) d))) ∧
    (∀ (c h : Nat) (n : BitVec 16) (o q : Nat) (e : BitVec 8), (s.group c h).wait = .rvdonate n o q e →
      (∀ k ∈ donateSlots (h / 16) n, (s.group c k).resident = true ∧ (s.group c k).ended = false ∧
        (s.group c k).inst = (s.group c h).inst ∧ ∃ o q e, (s.group c k).wait = .rvdonate n o q e) →
      exec (.rvdonateTransfer c h) s = .next (moveBlocks s c (donors (s.core c) n (donateSlots (h / 16) n)))))

/-! ### Memory instructions -/

/-- R103, R174, R193, R194, R283 to R286: where the checks of every access pass, the loads and stores complete with one access for
each thread that takes part, or one for a uniform form, entered as one operation of ld or st; a load marks its destinations on
the scoreboard; the requests, one for each line, wait for their lookups (R151); and memory is as before. Where a check fails,
the fault of the lowest failing thread is taken and nothing is entered. It rests also on log entry 14, the model's reading. -/
def Obligations.LoadsAndStoresComplete : Prop :=
  (∀ (s : State) (d a b : BitVec 8) (ps : List Placed),
    let u := isScal d
    let loads := fun (i : Instr) (w : Nat) (acq : Bool) =>
      let n := regsFor w
      let sh := memShape (dataReg n d) d a b n false
      Starts s sh → globalChecks (startCtx s sh) s.begins w .read u a b = .ok ps →
      exec i s = .next (s.issued 0 (runOf d n)
        (ps.map (fun p => { accessAt false u .load w p with dst := runOf d n, acq := acq })))
    let stores := fun (i : Instr) (w : Nat) (rel : Bool) =>
      let n := regsFor w
      let sh := memShape (storeReg n d) d a b n true
      Starts s sh → globalChecks (startCtx s sh) s.begins w .write u a b = .ok ps →
      exec i s = .next (s.issued 1 [] (ps.map (fun p =>
        { accessAt false u .store w p with val := datum (datumWords (startCtx s sh) u d n p.thr), rel := rel, mail := rel })))
    loads (.ldb d a b) 1 false ∧ loads (.ldh d a b) 2 false ∧ loads (.ldw d a b) 4 false ∧ loads (.ldd d a b) 8 false ∧
    loads (.ldq d a b) 16 false ∧ loads (.ldacq d a b) 4 true ∧
    stores (.stb d a b) 1 false ∧ stores (.sth d a b) 2 false ∧ stores (.stw d a b) 4 false ∧ stores (.std d a b) 8 false ∧
    stores (.stq d a b) 16 false ∧ stores (.strel d a b) 4 true) ∧
  (∀ (s : State) (d a b : BitVec 8) (c : Cause),
    (∀ w acq, let sh := memShape (dataReg (regsFor w) d) d a b (regsFor w) false
      Starts s sh → globalChecks (startCtx s sh) s.begins w .read (isScal d) a b = .fault c →
      loadInstr s w acq d a b = .next (trap s.begins c)) ∧
    (∀ w rel, let sh := memShape (storeReg (regsFor w) d) d a b (regsFor w) true
      Starts s sh → globalChecks (startCtx s sh) s.begins w .write (isScal d) a b = .fault c →
      storeInstr s w rel d a b = .next (trap s.begins c)))

/-- R149, R178, R179, R287 to R289: LDS and STS complete with one access for each thread to the herd's scratchpad, after the pages
they touch have been filled and pinned. PREF whose translations are at hand completes with one request for all sectors of each
line that a thread's checked address names (R151); a fence completes as a marker among the group's accesses, and FENCE.A and
FENCE.AR drop the core's unowned words where no older load is outstanding. It rests also on log entry 21, the model's reading. -/
def Obligations.ScratchpadPrefetchAndFencesComplete : Prop :=
  (∀ (s : State) (d a : BitVec 8) (w : BitVec 3) (ps : List Placed),
    let n := regsFor (2 ^ w.toNat)
    let u := isScal d
    let pinned := pinAll s.begins s.focus.core s.cur.inst (2 ^ w.toNat) ps
    let shl := scrShape w (dataReg n d) d a n false
    let shs := scrShape w (storeReg n d) d a n true
    (Starts s shl → scrChecks (startCtx s shl) s.begins (2 ^ w.toNat) u a = .ok ps →
      exec (.lds d a w) s = .next (s.ends (pinned.updCur (fun g => g.entered s.tick 0 (runOf d n)
        (ps.map (fun p => { accessAt true u .load (2 ^ w.toNat) p with dst := runOf d n })))))) ∧
    (Starts s shs → scrChecks (startCtx s shs) s.begins (2 ^ w.toNat) u a = .ok ps →
      exec (.sts d a w) s = .next (s.ends (pinned.updCur (fun g => g.entered s.tick 1 []
        (ps.map (fun p => { accessAt true u .store (2 ^ w.toNat) p with val := datum (datumWords (startCtx s shs) u d n p.thr) }))))))) ∧
  (∀ (s : State) (a b : BitVec 8),
    let sh := mkShape .memory (addrPair a && isSrc b) [a, a + 1, b] [a, a + 1, b] false
    let fence := fun (i : Instr) (acq rel : Bool) => Starts s plainUni →
      let clear := !(s.cur.accs.any (fun a => isLoadLike a && !a.perf))
      exec i s = .next (s.ends ((if acq && clear then selfInv s.begins s.focus.core else s.begins).updCur (fun g =>
        if g.accs.isEmpty then g
        else addAccess g { Access.zero with kind := .fence acq rel, perf := clear || !acq, pc := g.pc })))
    (Starts s sh → prefHolds (startCtx s sh) s.begins a b = [] →
      exec (.pref a b) s = .next (s.ends (addAsks s.begins s.focus.core ((prefPlaces (startCtx s sh) s.begins a b).foldl (fun l p =>
        coalesce { askFor s.focus.slot s.cur.nextOp p.thr p.pa 1 false true p.arena p.gen p.regn with secs := 15 } l) [])))) ∧
    fence .fenceA true false ∧ fence .fenceR false true ∧ fence .fenceAr true true)

/-- R290, R292: where their checks pass, the atomics and reductions complete with one access of 4 bytes for each thread, the atomics
counting in ld and the reductions in st; AMIN and AMAX order as TYPE says. It rests also on log entry 23, the model's reading. -/
def Obligations.AtomicsComplete : Prop :=
  ∀ (s : State) (d a b : BitVec 8) (ps : List Placed),
    let u := isScal d
    let m := s.cur.mode
    let atomics := fun (i : Instr) (op : AtomOp) (legal cas : Bool) =>
      let sh := memShape (dataReg 1 d && legal) d a b 1 cas
      let x := startCtx s sh
      Starts s sh →
      checkThreads (fun va => check s.begins x.core (instRoot s.begins x.src.inst) va 4 .both) (pairValue x u a) (accThreads x u) =
        .ok ps →
      exec i s = .next (s.goesOn [] (s.cur.entered s.tick 0 [d] (ps.map (fun p => { accessAt false u (.atomic op) 4 p with
        dst := [d], val := (operand x u b p.thr).setWidth 128, cmp := if cas then operand x u d p.thr else 0 }))))
    let reduces := fun (i : Instr) (op : AtomOp) (legal : Bool) =>
      let sh := mkShape .memory (legal && addrPair a && isSrc b) [a, a + 1, b] [a, a + 1, b] false
      let x := startCtx s sh
      Starts s sh →
      checkThreads (fun va => check s.begins x.core (instRoot s.begins x.src.inst) va 4 .write) (pairValue x false a) (bitsOf x.act) =
        .ok ps →
      exec i s = .next (s.goesOn [] (s.cur.entered s.tick 1 [] (ps.map (fun p => { accessAt false false (.reduce op) 4 p with
        val := (x.lane b p.thr).setWidth 128 }))))
    let ordered := decide (mType m = 0) || decide (mType m = 1)
    let mn := if mType m = 1 then AtomOp.minU else AtomOp.minS
    let mx := if mType m = 1 then AtomOp.maxU else AtomOp.maxS
    atomics (.aadd d a b) .add true false ∧ atomics (.afadd d a b) .fadd true false ∧ atomics (.amin d a b) mn ordered false ∧
    atomics (.amax d a b) mx ordered false ∧ atomics (.aand d a b) .and true false ∧ atomics (.aor d a b) .or true false ∧
    atomics (.axor d a b) .xor true false ∧ atomics (.axchg d a b) .xchg true false ∧ atomics (.acas d a b) .cas true true ∧
    reduces (.redadd a b) .add true ∧ reduces (.redfadd a b) .fadd true ∧ reduces (.redmin a b) mn ordered ∧
    reduces (.redmax a b) mx ordered ∧ reduces (.redor a b) .or true

/-! ### Copies, barriers, waits, queues and monitors -/

/-- R153, R154, R293 to R295: CPY and CPYS whose checks pass take the lowest free command slot, clear their tag's bit and count it;
the tag instructions complete, or wait where their tags are not set. It rests also on log entry 28, the model's reading. -/
def Obligations.CopiesAndTagsComplete : Prop :=
  ∀ (s : State) (d a b : BitVec 8) (k : Nat),
    let c := s.focus.core
    let quad := fun r => isScal r && alignedTo 4 r
    let copies := fun (i : Instr) (dir : Bool) =>
      let sh := onceShape (quad a && quad b) (runOf a 4 ++ runOf b 4) (runOf a 4 ++ runOf b 4)
      let cmd := copyCmd (startCtx s sh) a b dir
      Starts s sh → taking s sh ≠ 0 → copyCheck cmd ((s.begins.core c).scratchOf s.cur.inst).size = none →
      freeCopy (s.begins.core c) = some k →
      let o := addOp (begun s) 2 1
      exec i s = .next (s.ends (startCopy (s.begins.setCur o.1) c k cmd
        { rec_ := copyRec cmd s.focus.slot, inst := s.cur.inst, op := o.2, after := o.1.nextAcc, rd := 0, buf := []
          started := false, order := 0, side := none, stopped := none }))
    let sh := onceShape (isScalPair a) [a, a + 1] [a, a + 1]
    let m := s.cur.s64 a
    let tags := (s.core c).tags
    copies (.cpy a b) false ∧ copies (.cpys a b) true ∧
    (Starts s sh → taking s sh ≠ 0 → (m = 0 → exec (.tagwany a) s = .next (s.ends s.begins)) ∧
      (tags &&& m ≠ 0 → exec (.tagwany a) s = .next (s.ends (selfInv s.begins c))) ∧
      (m ≠ 0 → tags &&& m = 0 → exec (.tagwany a) s = .next (s.waits (.tags m false)))) ∧
    (Starts s sh → taking s sh ≠ 0 → (m = 0 → exec (.tagwall a) s = .next (s.ends s.begins)) ∧
      (m ≠ 0 → tags &&& m = m → exec (.tagwall a) s = .next (s.ends (selfInv s.begins c))) ∧
      (tags &&& m ≠ m → exec (.tagwall a) s = .next (s.waits (.tags m true)))) ∧
    (let shf := onceShape (isScal d && isScalPair a) [d, a, a + 1] [a, a + 1];
      Starts s shf → taking s shf ≠ 0 → exec (.tagff d a) s = .next (s.ends (if tags &&& m = 0 then
          s.begins.updCur (fun g => writeScal g d 64)
        else (selfInv s.begins c).updCur (fun g => writeScal g d (BitVec.ofNat 32 (lowest (tags &&& m))))))) ∧
    (Starts s sh → taking s sh ≠ 0 → exec (.tagclr a) s = .next (s.ends (s.begins.updCore c (fun c =>
      { c with tags := c.tags &&& ~~~(maskOf 64 ((bitsOf m).filter (fun i => zget c.tagCnt i = 0))) })))) ∧
    (∀ h j : Nat, ∀ n : BitVec 64, ∀ all : Bool, (s.group h j).wait = .tags n all → tagsMeet (s.core h).tags n all = true →
      exec (.tagWaitEnd h j) s = .next (endWait (selfInv s h) h j))

/-- R157, R158, R191, R296 to R298: a barrier instruction whose address passes its check enters one credit step that counts in st, BARARR
as a release with one arrival for each thread that takes part; WAITPH completes with its status where the phase has ended, and
otherwise waits until it has; a barrier with a soft error is read with SOFTERR. It rests also on log entries 25 and 26, the model's reading. -/
def Obligations.BarriersComplete : Prop :=
  ∀ (s : State) (d a b : BitVec 8) (pa : Nat) (ar : BitVec 12) (gn : BitVec 4) (rg : BitVec 2),
    let c := s.focus.core
    let credits := fun (i : Instr) (legal : Bool) (rs : List (BitVec 8)) (rel : Bool) (kind : Ctx → AccKind) (val : Ctx → BitVec 64) =>
      let sh := onceShape (addrPair a && legal) (a :: (a + 1) :: rs) (a :: (a + 1) :: rs)
      let x := startCtx s sh
      let va := pairValue x false a x.low
      Starts s sh → taking s sh ≠ 0 → barCheck s.begins c s.cur.inst va .write = .ok pa ar gn rg →
      exec i s = .next (s.ends ((if isScrBar va then pinRange s.begins c s.cur.inst pa 16 else s.begins).updCur (fun g =>
        g.entered s.tick 1 [] [{ accessAt (isScrBar va) true (kind x) 16 ⟨x.low, va, pa, ar, gn, rg⟩ with
          val := (val x).setWidth 128, rel := rel }])))
    credits (.barinit a b) (isScalPair b) [b, b + 1] false (fun _ => .barInit) (fun x => x.src.s64 b) ∧
    credits (.bararr a b) (isUni b) [b] true (fun x => .barArr (popcount x.act)) (fun x => (x.uni b).setWidth 64) ∧
    credits (.barexp a b) (isScalPair b) [b, b + 1] false (fun _ => .barExp) (fun x => x.src.s64 b) ∧
    (let sh := onceShape (isScal d && addrPair a && isUni b) [d, a, a + 1, b] [a, a + 1, b];
      let x := startCtx s sh;
      let va := pairValue x false a x.low;
      let p : BitVec 16 := (x.uni b).setWidth 16;
      let t := if isScrBar va then pinRange s.begins c s.cur.inst pa 16 else s.begins;
      Starts s sh → taking s sh ≠ 0 → barCheck s.begins c s.cur.inst va .read = .ok pa ar gn rg →
      (∀ st, phaseEnd t c s.focus.slot pa (isScrBar va) p = some st → barSoft s.begins (isScrBar va) pa = true →
        exec (.waitph d a b) s = .next (trap s.begins ⟨cSOFTERR, va, x.low, ar⟩)) ∧
      (∀ st, phaseEnd t c s.focus.slot pa (isScrBar va) p = some st → barSoft s.begins (isScrBar va) pa = false →
        exec (.waitph d a b) s = .next (s.ends ((selfInv t c).updCur (fun g => writeScal g d (BitVec.ofNat 32 st))))) ∧
      (phaseEnd t c s.focus.slot pa (isScrBar va) p = none →
        exec (.waitph d a b) s = .next (t.updCur (fun g => { g with wait := .waitph pa (isScrBar va) p d, started := s.tick })))) ∧
    (∀ (h j at_ st : Nat) (scr : Bool) (p : BitVec 16) (e : BitVec 8), (s.group h j).wait = .waitph at_ scr p e →
      phaseEnd s h j at_ scr p = some st → barSoft s scr at_ = false →
      exec (.waitphEnd h j) s = .next (endWait ((selfInv s h).updGroup h j (fun g => writeScal g e (BitVec.ofNat 32 st))) h j))

/-- R183, R200, R301: CNTWAIT completes where at most n operations of its class are outstanding and otherwise waits; MONITOR arms
the group's monitor on its line; MWAIT completes where no monitor is armed or its line has been written, and otherwise waits; at
the timeout the monitor is disarmed and the group takes MONTIME. It rests also on log entries 26, 29 and 30, the model's
reading. -/
def Obligations.CounterAndMonitorWaitsComplete : Prop :=
  ∀ (s : State) (k : BitVec 3) (n : BitVec 16) (a : BitVec 8) (pa : Nat) (ar : BitVec 12) (gn : BitVec 4) (rg : BitVec 2),
    let c := s.focus.core
    let shc := { onceShape (decide (k.toNat ≤ 4)) [] [] with full := true }
    let shm := onceShape (isScalPair a) [a, a + 1] [a, a + 1]
    let shw := onceShape (isUni a) [a] [a]
    (Starts s shc → s.cur.count k.toNat ≤ n.toNat → exec (.cntwait k n) s = .next (s.ends (selfInv s.begins c))) ∧
    (Starts s shc → n.toNat < s.cur.count k.toNat → exec (.cntwait k n) s = .next (s.waits (.cnt k.toNat n.toNat))) ∧
    (∀ h j q m : Nat, (s.group h j).wait = .cnt q m → (s.group h j).count q ≤ m →
      exec (.cntwaitEnd h j) s = .next (endWait (selfInv s h) h j)) ∧
    (Starts s shm → taking s shm ≠ 0 → check s.begins c (instRoot s.begins s.cur.inst) (s.cur.s64 a) 1 .read = .ok pa ar gn rg →
      exec (.monitor a) s = .next (s.goesOn [] { s.cur with mon := some (lineOf pa), monArena := ar, monHit := false })) ∧
    (Starts s shw → taking s shw ≠ 0 → s.cur.mon = none → exec (.mwait a) s = .next (s.goesOn [] s.cur)) ∧
    (Starts s shw → taking s shw ≠ 0 → s.cur.mon ≠ none → s.cur.monHit = true →
      exec (.mwait a) s = .next (s.ends ((selfInv s.begins c).updCur (fun g => { g with mon := none, monHit := false, mrem := 0 })))) ∧
    (Starts s shw → taking s shw ≠ 0 → s.cur.mon ≠ none → s.cur.monHit = false →
      exec (.mwait a) s = .next (s.setCur { begun s with
        wait := .mwait, started := s.tick, mrem := mwaitCycles s.cur.mrem ((startCtx s shw).uni a) })) ∧
    (∀ h j : Nat, (s.group h j).wait = .mwait → (s.group h j).monHit = false → (s.group h j).mrem = 0 →
      exec (.mwaitTimeout h j) s = .next (eventTrap
        (s.setGroup h j { s.group h j with mon := none, monHit := false, mrem := 0 }) h j
        ⟨cMONTIME, 0, lowest (s.group h j).amask, 0⟩ (s.group h j).nextPc (s.group h j).pc))

/-- R114, R117, R187, R300: a group whose herd holds the side resources completes ENQ with a push among its accesses, as a release
that owes it its predicate; and DEQ, once the ordering rules allow, by popping one entry for each thread in ascending order
while entries remain, the threads beyond receiving predicate 1 and keeping their destination. It rests also on log entry 35, the
model's reading. -/
def Obligations.QueueInstructionsComplete : Prop :=
  ∀ (s : State) (d a : BitVec 8) (q : BitVec 3),
    let c := s.focus.core
    let u := isScal d
    (let sh := queueShape (storeReg 1 d) d a true u;
      let x := startCtx s sh;
      Starts s sh → sideHeld s.begins c s.focus.slot = true → taking s sh ≠ 0 →
      exec (.enq d a q) s = .next (s.goesOn [] (s.cur.entered s.tick 1 [a] [{ Access.zero with
        kind := .push q.toNat, addr := pushAddr q.toNat, thr := x.low, pred := some a, uni := u, rel := true
        mask := if u then s.cur.amask else taking s sh, words := (accThreads x u).map (operand x u d) }]))) ∧
    (let sh := queueShape (dataReg 1 d) d a false u;
      let x := startCtx s sh;
      let ts := accThreads x u;
      let items := ((s.begins.core c).queue q.toNat).items;
      let got := ts.zip items;
      let t := queueTake s.begins c q.toNat (2 + s.focus.slot / 16) got.length;
      Starts s sh → sideHeld s.begins c s.focus.slot = true → taking s sh ≠ 0 → popReady (begun s) = true →
      exec (.deq d a q) s = .next (s.ends ((if got.isEmpty then t else selfInv t c).updCur (fun g =>
        let o := { (addOp g 0 0).1 with ld := dropDone (addOp g 0 0).1.ld }
        if u then writePred (got.foldl (fun k e => writeScal k d e.2) o) a s.cur.amask (if got.isEmpty then s.cur.amask else 0)
        else writePred (writeLanes o d got) a (maskOf 64 ts) (maskOf 64 (ts.drop items.length))))))

/-! ### The matrix and orthogonal units -/

/-- R306 to R317: an M instruction that its unit takes completes by entering the unit, where it counts in mx; MDRAIN marks its 64
registers on the scoreboard, and MLOADB and MSTORE pin the scratchpad pages they name after their checks. It rests also on log
entry 54, the model's reading. -/
def Obligations.MatrixInstructionsComplete : Prop :=
  ∀ (s : State) (c n : BitVec 2) (a m : BitVec 8) (e : BitVec 3) (r : BitVec 1) (k : State),
    let core := s.focus.core
    let enters := fun (i : Instr) (sh : Shape) (vecs dst : List (BitVec 8)) => Starts s sh → taking s sh ≠ 0 → unitTakes s false k →
      exec i s = .next (s.ends (enterUnit (startCtx s sh) (s.claimed k) false i vecs dst 0 0))
    let ra := aRegs (fmtA s.cur.fmt)
    let vs := runOf a ra
    enters (.mma c n a) (unitShape (isVec a && alignedTo ra a) vs vs (aTabs s ++ bTabs s n.toNat) false) vs [] ∧
    enters (.mmas c n a m e) (unitShape (isVec a && alignedTo ra a && isVecPair m && decide (e.toNat < 3)) (vs ++ [m, m + 1])
      (vs ++ [m, m + 1]) (aTabs s ++ bTabs s n.toNat) false) (vs ++ [m, m + 1]) [] ∧
    enters (.mmab c n) (unitShape true [] [] (bTabs s n.toNat) false) [] [] ∧
    enters (.mbyp c r) (unitShape (decide (fmtA s.cur.fmt < 4)) [] [] [] false) [] [] ∧
    enters (.mdrain c a) (unitShape (decide (a.toNat % 32 = 0) && decide (a.toNat ≤ 96)) (runOf a 64) [] [] false) [] (runOf a 64) ∧
    enters (.mzero c) (unitShape true [] [] [] false) [] [] ∧
    (let sh := unitShape (isScal a && decide (fmtB s.cur.fmt ≠ 2) && decide (fmtB s.cur.fmt ≠ 3)) [a] [a] [] true;
     let v := s.cur.s a;
     let off := fnat v 18 0;
     let len := 32 * (fnat v 21 19 + 1) * rowBytes (fmtB s.cur.fmt);
     Starts s sh → taking s sh ≠ 0 → unitTakes s false k →
      (scrRange s.begins core s.cur.inst off len 64).passes = true →
      exec (.mloadb n a) s = .next (s.ends (enterUnit (startCtx s sh) (pinRange (s.claimed k) core s.cur.inst off len) false
        (.mloadb n a) [] [] v 0))) ∧
    (let sh := unitShape (isScal a && (isScal m || isZero m)) [a, m] [a, m] [] true;
     let off := fnat (s.cur.s a) 18 0;
     let bar := if isZero m then none else some (s.cur.s m).toNat;
     let pinned := pinRange (s.claimed k) core s.cur.inst off 16384;
     Starts s sh → taking s sh ≠ 0 → unitTakes s false k →
      (scrRange s.begins core s.cur.inst off 16384 256).passes = true →
      (∀ b, bar = some b → (scrRange s.begins core s.cur.inst b 16 16).passes = true) →
      exec (.mstore c a m) s = .next (s.ends (enterUnit (startCtx s sh)
        (match bar with | some b => pinRange pinned core s.cur.inst b 16 | none => pinned) false (.mstore c a m) [] []
        (BitVec.ofNat 32 off) (BitVec.ofNat 32 (bar.getD 0)))))

/-- R306, R308, R320 to R326: a Q instruction that its unit takes completes by entering the unit, where it counts in qx; QAPPEND and
QCOUNT wait for the older instructions of their q register, and QAPPEND traps ORTHCAP where k is 32 without AUTO. It rests also
on log entries 54 and 73, the model's reading. -/
def Obligations.OrthogonalInstructionsComplete : Prop :=
  ∀ (s : State) (q sp au : BitVec 1) (t : BitVec 2) (v a : BitVec 8) (k : State),
    let enters := fun (i : Instr) (sh : Shape) => Starts s sh → taking s sh ≠ 0 → unitTakes s true k →
      exec i s = .next (s.ends (enterUnit (startCtx s sh) (s.claimed k) true i [] [] 0 0))
    let plain := unitShape true [] [] [] true
    let sha := unitShape (isVec v && (isScal a || isZero a)) [v, a] [v, a] [] true
    let shc := unitShape (isScal a) [a] [] [] true
    let full := decide (qhK (zget (curPart (s.claimed k)).qhdr q.toNat) = 32) && !(qhAuto (zget (curPart (s.claimed k)).qhdr q.toNat))
    enters (.qinit q sp au t) (unitShape (decide (sp = 1) || (decide (au = 0) && decide (t = 0))) [] [] [] true) ∧
    enters (.qappl q t) plain ∧ enters (.qapplt q t) plain ∧ enters (.qappr q t) plain ∧ enters (.qapprt q t) plain ∧
    enters (.qcompact q) plain ∧ enters (.qdense q t) plain ∧
    (Starts s sha → taking s sha ≠ 0 → qBusy s.begins q = false → unitTakes s true k →
      (full = false → exec (.qappend q v a) s = .next (s.ends (enterUnit (startCtx s sha) (s.claimed k) true (.qappend q v a) [v] []
        ((startCtx s sha).uni a) 0))) ∧
      (full = true → exec (.qappend q v a) s = .next (trapCode k cORTHCAP))) ∧
    (Starts s shc → taking s shc ≠ 0 → qBusy s.begins q = false → unitTakes s true k →
      exec (.qcount q a) s = .next (s.ends (enterUnit (startCtx s shc) (s.claimed k) true (.qcount q a) [] [a] 0 0)))

/-- R308: each unit executes its oldest instruction, once no older instruction of the other unit names a tile that it uses; an
instruction whose herd has left the core has no effect but its completion. It rests also on log entry 54, the model's reading. -/
def Obligations.UnitsExecuteInOrder : Prop :=
  ∀ (s : State) (core part : Nat) (o : UnitOp) (r : List UnitOp),
    let p := (s.core core).part part
    (p.munit = o :: r →
      (p.owner = some o.inst → matrixReady s core p o = true →
        exec (.matrixUnitExecute core part) s = .next (matrixPerform s core part { p with munit := r } o)) ∧
      (p.owner ≠ some o.inst → p.mstore = none → exec (.matrixUnitExecute core part) s =
        .next (unitDone (s.updCore core (fun c => c.setPart part { p with munit := r })) core o false))) ∧
    (p.qunit = o :: r →
      (p.owner = some o.inst → orthReady p o = true →
        exec (.orthogonalUnitExecute core part) s = .next (orthPerform s core part { p with qunit := r } o)) ∧
      (p.owner ≠ some o.inst → exec (.orthogonalUnitExecute core part) s =
        .next (unitDone (s.updCore core (fun c => c.setPart part { p with qunit := r })) core o true)))

/-- R317 with its encoding: MZERO makes every element of row i of its tile +0 for each active thread i, keeps the other rows of the
tile, and raises no flag. -/
def Obligations.MzeroClearsActiveRows : Prop :=
  ∀ c : BitVec 2, decodeGroup (0xC7#8 ++ c ++ 0#22 : BitVec (8 + 2 + 22)) = some (.mzero c) ∧
    ∀ (p : Partition) (o : UnitOp), o.instr = .mzero c → zwf p.tiles = true →
      (∀ i j : Nat, i < 64 → j < 64 → zget (matrixRows p o).1.tiles (c.toNat * 4096 + 64 * i + j) =
        if bit o.act i then 0 else zget p.tiles (c.toNat * 4096 + 64 * i + j)) ∧
      ∀ r ∈ (matrixRows p o).2, r.2.2 = 0

/-! ### Arenas, drops, seals and CBSYNC -/

/-- R161 to R169, R188, R189, R302, R303: the arena instructions complete with their entries changed, or leave their part to the
drops, sweeps and seal broadcasts that end them. It rests also on log entries 7 and 27, the model's reading. -/
def Obligations.ArenaInstructionsComplete : Prop :=
  ∀ (s : State) (d a b : BitVec 8) (l r : BitVec 1) (k : Nat),
    let one := onceShape (isScal d && [a].all isUni) [d, a] [a]
    let two := onceShape (isScal d && [a, b].all isUni) [d, a, b] [a, b]
    let n := fun sh => fnat ((startCtx s sh).uni a) 11 0
    let result := fun (t : State) (v : Word) => s.ends (t.updCur (fun g => writeScal g d v))
    (let p := fnat ((startCtx s two).uni b) 11 0;
      Starts s two → taking s two ≠ 0 → (n two ≠ 0 → aBusy (s.arena (n two)) = false) →
      (p ≠ 0 → aBusy (s.arena p) = false ∧ aValid (s.arena p) = true ∧ aDepth (s.arena p) < 8) →
      freeArena s (n two) = some k →
      (aDss (s.arena k) < 8 →
        exec (.anew d a b) s = .next (result (s.begins.setArena k (newEntry s k p)) (arenaResult 0 k (aGen (s.arena k))))) ∧
      (8 ≤ aDss (s.arena k) → exec (.anew d a b) s = .next (startSweep
        ((setBusy (s.begins.setArena k (newEntry s k p)) k true).updCur (fun g => { g with wait := .anew k d, started := s.tick })) k
        s.focus.core s.focus.slot))) ∧
    (let tree := if r = 1 then arenaTree s (n one) else [n one];
      Starts s one → taking s one ≠ 0 → n one ≠ 0 → aValid (s.arena (n one)) = true → aBusy (s.arena (n one)) = false →
      tree.any (fun j => aBusy (s.arena j)) = false → (l = 1 → r = 0 → (arenaTree s (n one)).length ≤ 1) →
      exec (.adrop d a l r) s = .next (dropNext
        ((tree.foldl (fun u j => setBusy u j true) s.begins).updCur (fun g => { g with
          wait := .adrop tree tree (decide (l = 1)) d, started := s.tick }))
        s.focus.core s.focus.slot tree (decide (l = 1)) d tree)) ∧
    (Starts s one → taking s one ≠ 0 → n one ≠ 0 → aValid (s.arena (n one)) = true → aBusy (s.arena (n one)) = false →
      aSealed (s.arena (n one)) = false → arenaLocked s (n one) = false → releaseReady s.begins.cur = true →
      let t := (setBusy s.begins (n one) true).updCur (fun g => { g with wait := .aseal (n one) d, started := s.tick })
      exec (.aseal d a) s = .next { t with
        seals := t.seals ++ [{ arena := n one, cores := List.range 256, sent := false, core := s.focus.core, slot := s.focus.slot }] }) ∧
    (Starts s two → taking s two ≠ 0 → n two ≠ 0 → aValid (s.arena (n two)) = true → aBusy (s.arena (n two)) = false →
      exec (.aquota d a b) s = .next (result (putArena s.begins (n two) 95 76 (fnat ((startCtx s two).uni b) 19 0)) (arenaStatus s.begins 0))) ∧
    (let sh := onceShape (isScalPair d && isUni a) [d, d + 1, a] [a];
      Starts s sh → taking s sh ≠ 0 → exec (.aquery d a) s = .next (s.ends (s.begins.updCur (fun g =>
        writeScal64 g d ((s.arena (n sh)).extractLsb' 64 64))))) ∧
    (let sh := onceShape (isScalPair a) [a, a + 1] [a, a + 1];
      let v := s.cur.s64 a;
      Starts s sh → taking s sh ≠ 0 → releaseReady s.begins.cur = true →
      (fnat v 63 62 = 0 → exec (.cbsync a) s = .next (s.ends (selfInv (syncBlock s.begins (fnat v 37 0)) s.focus.core))) ∧
      (fnat v 63 62 = 2 → hSact s.cur = true → exec (.cbsync a) s = .next (s.ends (selfInv s.begins s.focus.core))) ∧
      (fnat v 63 62 = 1 → hSact s.cur = true →
        let e := readPte s.begins (fnat v 37 0)
        ((pteV e && pteLeaf e) = true → exec (.cbsync a) s = .next (startFlush (s.waits (.sync 1 (fnat v 37 0))) s.focus.core
          s.focus.slot (ptePage e) (pteSize e) e)) ∧
        ((pteV e && pteLeaf e) = false → exec (.cbsync a) s = .next (s.ends (selfInv (forgetPte s.begins (fnat v 37 0))
          s.focus.core)))))

/-- R165, R166, R169, R188: the messages and tokens of drops, sweeps and seals. A slice or a core that DROP reaches applies the logged
drop and answers; the last answer ends the ADROP, as an acquire, with an all-zero result; a sweep's token that may leave its
stop moves on; a sweep without tokens, once every unit has reported, clears DSS and the instruction that asked for it goes on; a core
marks a broadcast arena sealed and drops its translations, and gives up its CP lines once its stores have drained; after the last core
the homes recall the copies of the arena, and SEALED is set once they have been answered. It rests also on log entries 7, 61, 74 and 92, the model's
reading. -/
def Obligations.DropsAndSealsComplete : Prop :=
  ∀ (s t : State) (p : Packet) (d : Drop) (k : Nat) (rd : BitVec 8),
    (Arrives s p t → p.op = 0x25 → t.drops.find? (fun d => decide (d.arena = p.arena.toNat) && decide (d.gen = p.gen)) = some d →
      (∀ h, sliceOfStop p.dst = some h →
        exec (.drop p) s = .next (send (setDrop (dropSlice t h d.arena d.gen) d (fun e =>
          { e with slices := e.slices.filter (fun k => decide (k ≠ h)) })) (dackPkt d p.dst))) ∧
      (sliceOfStop p.dst = none →
        exec (.drop p) s = .next (send (setDrop (dropCore t p.core.toNat d.arena d.gen) d (fun e =>
          { e with cores := e.cores.filter (fun k => decide (k ≠ p.core.toNat)) })) (dackPkt d p.dst)))) ∧
    (Arrives s p t → p.op = 0x19 → t.drops = [d] → d.arena = p.arena.toNat → d.gen = p.gen →
      (1 < d.acks → exec (.dack p) s = .next { t with drops := [{ d with acks := d.acks - 1 }] }) ∧
      (∀ all, d.acks = 1 → (t.group d.core d.slot).wait = .adrop all [] false rd →
        exec (.dack p) s = .next (endAnswered (selfInv (all.foldl (fun u a => setBusy u a false) { t with drops := [] }) d.core)
          d.core d.slot (fun g => writeScal g rd 0)))) ∧
    (∀ (reg : Nat) (w : Sweep) (x : Token), s.sweeps = [w] →
      w.tokens.find? (fun t => decide (t.loop = reg / 112) && decide (t.at_ = reg % 112) && tokenMoves s t) = some x →
      exec (.qsw reg) s = .next { s with sweeps := [{ w with
        tokens := w.tokens.flatMap (fun u => if u = x then moveToken s x else [u]) }] }) ∧
    (∀ w, s.sweeps = [w] → w.tokens = [] → w.units = [] → w.engs = [] → (s.group w.core w.slot).wait = .anew k rd →
      let u := putArena { s with sweeps := [] } w.arena 111 108 0
      exec .quiesceSweepDone s = .next (endAnswered (setBusy u k false) w.core w.slot (fun g =>
        writeScal g rd (arenaResult 0 k (aGen (u.arena k)))))) ∧
    (∀ z c, s.seals.find? (fun z => decide (z.arena = k)) = some z → c ∈ z.cores → k ∉ (s.core c).sealed →
      exec (.sealBroadcast c k) s = .next (({ s with clus := s.clus.map (fun (e : Nat × Cluster) => (e.1,
          if e.1 = c / 8 then { e.2 with tlb := e.2.tlb.filter (fun f => decide ((pteArena f.pte).toNat ≠ k)) } else e.2)) }).setCore c
        { s.core c with
          sealed := k :: (s.core c).sealed, tlb := (s.core c).tlb.filter (fun f => decide ((pteArena f.pte).toNat ≠ k)) })) ∧
    (∀ z c, s.seals.find? (fun z => decide (z.arena = k)) = some z → c ∈ z.cores → k ∈ (s.core c).sealed →
      storesDrained (s.core c) k = true → cpRoom s c k = true →
      let u := (cpLines (s.core c) k).foldl (fun t e => giveUpLine t c e.1) s
      exec (.sealBroadcast c k) s = .next { u with seals := u.seals.map (fun y =>
        if y.arena = k then { y with cores := y.cores.filter (fun j => decide (j ≠ c)) } else y) }) ∧
    (∀ z c, s.seals.find? (fun z => decide (z.arena = k)) = some z → z.cores = [] →
      (z.sent = false → homesDrained s k = true → exec (.sealBroadcast c k) s = .next (recallArena s k)) ∧
      (z.sent = true → noneBusy s k = true → exec (.sealBroadcast c k) s = .next (finishSeal s z)))

/-! ### Locks -/

/-- R331 to R337, R339, R342: the lock instructions whose checks pass. LOCK of a line that the group holds has status SELF; of
another line it reserves a line of its cache, sends its operation and waits for the grant, as TRYLOCK does; UNLOCK enters the release; LKPROBE and LKFREE ask
the home. It rests also on log entries 26 and 56, the model's reading. -/
def Obligations.LockInstructionsComplete : Prop :=
  ∀ (s : State) (d a b : BitVec 8) (pa : Nat) (ar : BitVec 12) (gn : BitVec 4) (rg : BitVec 2),
    let c := s.focus.core
    let slot := s.focus.slot
    let line := lineOf pa
    let va := s.cur.s64 a
    let root := instRoot s.begins s.cur.inst
    let shl := onceShape ((isScal b || isZero b) && (isScal d || isPred d) && isScalPair a) [d, a, a + 1, b] [a, a + 1, b]
    let sht := onceShape (true && (isScal d || isPred d) && isScalPair a) [d, a, a + 1] [a, a + 1]
    let shu := onceShape (isScalPair a) [a, a + 1] [a, a + 1]
    let shp := onceShape (isScalPair d && isScalPair a) [d, d + 1, a, a + 1] [a, a + 1]
    let shf := { onceShape (isScal d && isScalPair a) [d, a, a + 1] [a, a + 1] with superv := true }
    let low := fun sh => (startCtx s sh).low
    let asks := fun (u : State) (sh : Shape) (code : Nat) (w : Wait) =>
      (sendReq (endReq u c (lockTxn code slot)) c
        (withPair (lockMsg code line c slot (low sh) s.cur.save) ar gn rg)).updCur (fun g => { g with wait := w, started := s.tick })
    let free := line ∉ s.cur.locks ∧ unlockPending s.begins.cur line = false ∧ s.cur.locks.length < 4 ∧
      setPinned (s.begins.core c) line = false
    (check s.begins c root va 4 .both = .ok pa ar gn rg → s.cur.lkgr = false →
      (Starts s shl → taking s shl ≠ 0 →
        (line ∈ s.cur.locks → exec (.lock d a b) s = .next (s.ends (s.begins.updCur (fun g => writeStatus g d lkSELF)))) ∧
        (∀ u, free → stoppedHere s line = false → takeWay s.begins c line = some u →
          exec (.lock d a b) s = .next (asks u shl 0 (.lock line d (low shl) false)))) ∧
      (Starts s sht → taking s sht ≠ 0 →
        (line ∈ s.cur.locks → exec (.trylock d a) s = .next (s.ends (s.begins.updCur (fun g => writeStatus g d lkSELF)))) ∧
        (∀ u, free → takeWay s.begins c line = some u →
          exec (.trylock d a) s = .next (asks u sht 1 (.lkrq 1 line d (low sht)))))) ∧
    (check s.begins c root va 4 .unlock = .ok pa ar gn rg →
      (Starts s shu → taking s shu ≠ 0 → exec (.unlock a) s = .next (s.ends (s.begins.updCur (fun g =>
        if line ∈ g.locks then addUnlock g line else g)))) ∧
      (Starts s shp → taking s shp ≠ 0 → exec (.lkprobe d a) s = .next (asks s.begins shp 3 (.lkrq 3 line d (low shp)))) ∧
      (Starts s shf → taking s shf ≠ 0 → releaseReady s.begins.cur = true →
        exec (.lkfree d a) s = .next (asks s.begins shf 4 (.lkrq 4 line d (low shf))))) ∧
    (∀ h j l e m, (s.group h j).wait = .lock l e m false → exec (.lockTimeout h j) s = .next
      ((sendLock s 5 l h j m (s.group h j).save).updGroup h j (fun g => { g with wait := .lock l e m true })))

/-- R40, R190, R329, R332, R333, R335 to R339, R341, R342: a lock operation that its home serves next: a free line is granted, a
waiter of a held line joins its trail, TRYLOCK of a held line is answered BUSY; an UNLOCK or FREE recalls the holder's copy,
FREE with ABANDONED noted for the next grant; PROBE reports; UNLINK, ABSENT, RESUME and HOLDMOVE change the trail or the
holder's place. An operation on a line that is busy or reserved for another is refused. The grant ends its group's LOCK as an
acquire, the line pinned and exclusive in its core; the walk from a waiter whose chain of holders closes reports the cycle and
changes nothing else. It rests also on log entries 16 and 56, the model's reading. -/
def Obligations.LockOperationsServed : Prop :=
  (∀ (s t : State) (p : Packet) (e : LockEntry),
    let line := pktLine p
    let t1 := serviced t line
    let u := fun (i : Instr) (code : Nat) (v : State) => lockCode p = code → exec i s = .next v
    Asks s p t → p.op = 0x0A →
    (mayServe t p line = true →
      (lockFree t line = true → lockFull t line = false → dirRoom t line = .room →
        u (.lkrqLock p) 0 (serveExclusive t1 line p) ∧ u (.lkrqTrylock p) 1 (serveExclusive t1 line p)) ∧
      (lockFree t line = false → u (.lkrqTrylock p) 1 (send t1 (ackPkt line p lkBUSY))) ∧
      (lockFree t line = false → trailFull t line = false → find t.locks line = some e →
        u (.lkrqLock p) 0 { t1 with locks := put t1.locks line { e with trail := e.trail ++
          [{ absent := false, core := p.core.toNat, grp := p.grp.toNat, thr := p.thr.toNat, owner := lockOwner p }] } }) ∧
      (find t.locks line = some e → e.trail.any (ownNode (lockOwner p)) = true → e.hvalid = true →
        u (.lkrqResume p) 7 (putTrail t1 line e (replaceFirst (ownNode (lockOwner p)) (fun n =>
          { n with absent := false, core := p.core.toNat, grp := p.grp.toNat, thr := p.thr.toNat }) e.trail))) ∧
      (heldBy t line (lockOwner p) = some e → u (.lkrqUnlock p) 2 (recallHolder t line e.hcore p)) ∧
      (heldBy t line (lockOwner p) = none → u (.lkrqUnlock p) 2 (send t1 (ackPkt line p 0))) ∧
      (find t.locks line = some e → e.hvalid = true → u (.lkrqFree p) 4
        (recallHolder { t with locks := put t.locks line { e with nextst := 2 } } line e.hcore p)) ∧
      (find t.locks line = none → u (.lkrqFree p) 4 (send t1 (ackPkt line p 1))) ∧
      u (.lkrqProbe p) 3 (send (wakeWalker t1 line) { ackPkt line p 0 with
        inl := (0#288 ++ (probeWords t line).2 ++ (probeWords t line).1 ++ 0#32 : BitVec (288 + 32 + 32 + 32)) }) ∧
      (find t.locks line = some e → (e.hvalid = true → e.hown ≠ lockOwner p) →
        u (.lkrqUnlink p) 5 (send (putTrail t1 line e (removeFirst (ownNode (lockOwner p)) e.trail)) (ackPkt line p lkTIMEOUT))) ∧
      (find t.locks line = some e → e.hvalid = true → e.hown = lockOwner p → u (.lkrqUnlink p) 5 t1) ∧
      (find t.locks line = some e → u (.lkrqAbsent p) 6 (send (putTrail t1 line e
        (replaceFirst (ownNode (lockOwner p)) (fun n => { n with absent := true }) e.trail)) (ackPkt line p 0))) ∧
      (heldBy t line (lockOwner p) = some e → e.hcore = p.core.toNat →
        let t3 := { t1 with locks := put t1.locks line { e with hcore := p.core.toNat, hgrp := p.grp.toNat } }
        u (.lkrqHoldmove p) 8 (send (setDir t3 line { exclusiveTo (t3.dirAt line) p.core.toNat with lk := true, pin := true })
          (ackPkt line p 0))) ∧
      (heldBy t line (lockOwner p) = none → u (.lkrqHoldmove p) 8 (send t1 (ackPkt line p 2)))) ∧
    (mayServe t p line = false →
      u (.lkrqLock p) 0 (refuse t p line true) ∧ u (.lkrqTrylock p) 1 (refuse t p line true) ∧
      u (.lkrqUnlock p) 2 (refuse t p line true) ∧ u (.lkrqProbe p) 3 (refuse t p line true) ∧
      u (.lkrqFree p) 4 (refuse t p line true) ∧ u (.lkrqUnlink p) 5 (refuse t p line true) ∧
      u (.lkrqAbsent p) 6 (refuse t p line true) ∧ u (.lkrqResume p) 7 (refuse t p line true) ∧
      u (.lkrqHoldmove p) 8 (refuse t p line true))) ∧
  (∀ (s t : State) (p : Packet) (line node : Nat) (d : BitVec 8) (m : Nat) (o : Bool) (e : LockEntry) (n : TrailNode),
    (Arrives s p t → p.op = 0x11 → 3072 ≤ p.txn.toNat →
      let c := p.core.toNat
      let g := txnGrp p.txn.toNat
      (s.group c g).wait = .lock (pktLine p) d m o →
      exec (.datx p) s = .next (endWait ((selfInv (pinLine (endLockReqs t c g) c (pktLine p) p.arena p.gen) c).updGroup c g
        (fun k => writeStatus { k with locks := k.locks ++ [pktLine p] } d p.hint.toNat)) c g)) ∧
    (find s.locks line = some e → e.trail[node]? = some n → n.absent = false →
      let w := walkLocks s 16 line 0 [(n.core, n.grp)]
      let g := s.group n.core n.grp
      let t := wakeWalker s line
      (w.1 = true → exec (.deadlockWalk line node) s =
        .next (writeRecord t (instRegion s g.inst) (deadlockRecord n line g.locks w.2.2))) ∧
      (w.1 = false → exec (.deadlockWalk line node) s = .next t)))

/-! ### The fabric -/

/-- R37, R39, R40: requests that a slice serves next. A read of a sealed line at its home and of a CP line is answered at once, and
away from the home from the slice's replica or by a fetch of one; a read shared lists its reader, an exclusive read or upgrade
leaves one exclusive copy, OWNW hands over the words of its mask, and an eviction clears its core's pointer and is acknowledged;
a stale OWNW or eviction changes nothing. A request for a line that is busy or reserved for another requester is refused. It
rests also on log entries 15, 55, 59 and 91, the model's reading. -/
def Obligations.HomeRequestsServed : Prop :=
  ∀ (s t : State) (p : Packet),
    let line := pktLine p
    let c := p.core.toNat
    let ready := fillL2 (serviced t line) line p.arena (t.sgen (homeOfLine line) p.arena.toNat)
    Asks s p t →
    (p.op = 0x01 → p.dst = homeStop line →
      (sealedPkt t p = true → exec (.rds p) s = .next (serveSealed t line p)) ∧
      (sealedPkt t p = false → p.regn = 2 → exec (.rds p) s = .next (serveCp t line p))) ∧
    (∀ h, p.op = 0x01 → p.dst ≠ homeStop line → sliceOfStop p.dst = some h →
      (∀ r, find t.replicas (replicaKey h line) = some r → exec (.rds p) s = .next
        (send { t with replicas := put t.replicas (replicaKey h line) { r with used := t.tick } }
          (sealedReply line p r.arena r.gen (zgetRun r.bytes 0 256)))) ∧
      (find t.replicas (replicaKey h line) = none → t.fetches = [] →
        let q := { p with src := p.dst, dst := homeStop line, smask := 15 }
        exec (.rds p) s = .next (send { t with fetches := [⟨q, [p], none⟩] } q))) ∧
    (mayServe t p line = true → dirRoom t line = .room →
      (p.op = 0x01 → p.dst = homeStop line → sealedPkt t p = false → p.regn = 0 → otherOwner ready line c = none →
        exec (.rds p) s = .next (completeReq ready line p)) ∧
      (p.op = 0x02 → p.regn = 0 → exec (.rdx p) s = .next (serveExclusive ready line p)) ∧
      (p.op = 0x03 → (ready.dirAt line).state = 1 → (ready.dirAt line).cvec = false → c ∈ (ready.dirAt line).ptrs →
        exec (.upg p) s = .next (serveExclusive ready line p)) ∧
      (p.op = 0x07 → staleAt t line p.arena p.gen = false → ownFull t line = false →
        otherOwners ready line c (p.inl.extractLsb' 0 64) = [] → exec (.ownw p) s = .next (completeReq ready line p))) ∧
    (staleAt t line p.arena p.gen = true → (p.op = 0x05 → exec (.evc p) s = .next (send t (ackPkt line p 0))) ∧
      (p.op = 0x06 → exec (.evd p) s = .next (send t (ackPkt line p 0))) ∧ (p.op = 0x07 → exec (.ownw p) s = .next (send t (ackPkt line p 0)))) ∧
    (mayServe t p line = true → staleAt t line p.arena p.gen = false →
      (p.op = 0x05 → exec (.evc p) s = .next (send (clearPointer (serviced t line) line c) (ackPkt line p 0))) ∧
      (p.op = 0x06 → exec (.evd p) s = .next (send (clearPointer (serviced t line) line c) (ackPkt line p 0)))) ∧
    (mayServe t p line = false → p.regn = 0 →
      (p.op = 0x01 → p.dst = homeStop line → sealedPkt t p = false → exec (.rds p) s = .next (refuse t p line true)) ∧
      (p.op = 0x02 → exec (.rdx p) s = .next (refuse t p line true)) ∧
      (p.op = 0x03 → exec (.upg p) s = .next (refuse t p line true)))

/-- R37 to R40, R43: replies, control messages and answers. A fill that its core may keep is installed, and one that it may not keep
leaves the line that it had reserved; a NACK leaves its request refused until its back-off has passed; an answer is counted at
the entry; a core's copy is invalidated, made shared, recalled, or gives up its words, and the core answers with the sectors
that memory does not have; a discarded message leaves an error record. In a page flush the home sends PFL to every core once its
write queue holds nothing of the page; a core that has entries for its notices gives up the lines that this home keeps and answers PACK; with the last PACK the
home clears its entries and answers the initiator, or counts as done for a management core. A reservation lapses
4,096 loop cycles after it was made. It rests also on log entries 11, 15, 30, 60, 88 and 96, the model's reading. -/
def Obligations.FabricRepliesComplete : Prop :=
  (∀ (s t : State) (p : Packet) (q : Request) (k n : Nat),
    let line := pktLine p
    let c := p.core.toNat
    let t1 := endReq t c p.txn.toNat
    let ts := serveAsks t1 c line p.smask false
    let tx := serveAsks t1 c line p.smask true
    (Arrives s p t → replyTo? t p = some q →
      (p.op = 0x10 → sliceOfStop p.dst = none →
        (mayKeep ts c q = true → bit p.hint 0 = false → q.pkt.regn = 0 →
          exec (.dats p) s = .next (installLine ts c line 1 p.smask q.pkt.arena q.pkt.gen)) ∧
        (mayKeep ts c q = false → exec (.dats p) s = .next (dropFill ts c q))) ∧
      (p.op = 0x11 → p.txn.toNat < 3072 → t.engReqs.any (engOf p) = false →
        (mayKeep tx c q = true → q.pkt.regn = 2 → exec (.datx p) s = .next (fillCp tx c line q.pkt.arena q.pkt.gen p.smask)) ∧
        (mayKeep tx c q = true → q.pkt.regn ≠ 2 → (tx.core c).groups.any (fun k => k.2.locks.contains line) = false →
          exec (.datx p) s = .next (installLine tx c line 2 p.smask q.pkt.arena q.pkt.gen)) ∧
        (mayKeep tx c q = false → exec (.datx p) s = .next (dropFill tx c q))) ∧
      (p.op = 0x12 →
        (mayKeep t1 c q = true →
          exec (.gntx p) s = .next (serveAsks (installLine t1 c line 2 0 q.pkt.arena q.pkt.gen) c line q.secs true)) ∧
        (mayKeep t1 c q = false → exec (.gntx p) s = .next (dropFill t1 c q)))) ∧
    (Arrives s p t →
      (p.op = 0x13 → p.txn.toNat < 3072 → t.engReqs.any (engOf p) = false → exec (.ack p) s = .next (dropEmpty t1 c line)) ∧
      (p.op = 0x14 → sliceOfStop p.dst = none → t.engReqs.any (engOf p) = false → exec (.nack p) s = .next (t.updCore c (fun h => { h with reqs := h.reqs.map (fun r =>
        if decide (r.pkt.txn = p.txn) && decide (pktLine r.pkt = line) then
          { r with refused := true, due := t.loopClock + 16 * p.hint.toNat } else r) }))) ∧
      (p.op = 0x15 → exec (.iack p) s = .next (takeAnswer t line c)) ∧
      (p.op = 0x16 → exec (.rcd p) s = .next (takeAnswer t line c)) ∧
      (p.op = 0x20 → exec (.inv p) s =
        .next (send (dropLine (markFills t c (fun l => decide (l = line))) c line) (answerTo p 0x15))) ∧
      (p.op = 0x21 → p.regn ≠ 1 → ((t.core c).line line).st = 2 → exec (.dwn p) s = .next (send
        (t.updCore c (fun h => h.setLine line { (t.core c).line line with st := 1, dirty := 0 }))
        (rcdPkt t c line ((t.core c).line line).dirty p))) ∧
      (p.op = 0x21 → p.regn = 1 → let ws := ownedMask t line c (p.inl.extractLsb' 0 64)
        exec (.dwn p) s = .next (send t (rcdPkt t c line (wordSectors ws) p))) ∧
      (∀ l, p.op = 0x22 → find (t.core c).l1 line = some l →
        exec (.rcl p) s = .next (send (flushLine t c line) (rcdPkt t c line (dirtySectors l) p))) ∧
      (p.op = 0x23 → let ws := ownedMask t line c (p.inl.extractLsb' 0 64)
        exec (.ownx p) s = .next (send ((bitsOf ws).foldl (fun u i => evictWord u (line * 64 + i)) t)
          (rcdPkt t c line (wordSectors ws) p)))) ∧
    (∀ r, (s.core k).reqs = [r] → r.pkt.txn.toNat = n → n < 3072 → r.refused = true → r.due ≤ s.loopClock →
      exec (.requestRetry k n) s = .next (send (s.updCore k (fun h => { h with reqs := [{ r with refused := false }] })) r.pkt)) ∧
    (∀ v, find s.resv k = some v →
      (v.2.2 + 4096 ≤ s.loopClock → exec (.reservationLapse k) s = .next
        (setDir { s with resv := del s.resv k } k { s.dirAt k with rsv := false, lapsed := true })) ∧
      (s.loopClock < v.2.2 + 4096 → exec (.reservationLapse k) s = .next s)) ∧
    (anyArrival s p = some t → (opClass p.op.toNat ≠ some p.cls.toNat ∨ p.op = 0x0A ∧ 8 < lockCode p) →
      exec (.unassignedMessage p) s = .next
        (wakeIf { t with errors := t.errors ++ [p.dst.toNat / 32] } (.mgmt (p.dst.toNat / 32))))) ∧
  (∀ (s t : State) (p : Packet) (f : Flush),
    let line := pktLine p
    let h := homeOfLine line
    (Asks s p t → p.op = 0x0B → flushOf t p.core.toNat p.grp.toNat = some f →
      exec (.pflr p) s = .next (sendAll (setFlush t f.core f.slot (fun g =>
          { g with cores := g.cores ++ (List.range 256).map (fun c => (h, c)) }))
        ((List.range 256).map (fun c => pflPkt f line c)))) ∧
    (Arrives s p t → p.op = 0x24 → pflRoom s p = true → flushFor t p = some f →
      exec (.pfl p) s = .next (send
        (((t.core p.core.toNat).l1.filter (fun e => inPage f.page f.size h e.1)).foldl (fun u e => giveUpLine u p.core.toNat e.1)
          (markFills t p.core.toNat (inPage f.page f.size h)))
        (answerTo p 0x18))) ∧
    (Arrives s p t → p.op = 0x18 → flushFor t p = some f →
      let left := f.cores.filter (fun e => !(decide (e = (h, p.core.toNat))))
      let t1 := setFlush t f.core f.slot (fun g => { g with cores := left })
      (left.any (fun e => decide (e.1 = h)) = true → exec (.packMessage p) s = .next t1) ∧
      (left.any (fun e => decide (e.1 = h)) = false → f.core < 256 →
        exec (.packMessage p) s = .next (send (clearPage t1 f.page f.size h) (flushAck f line))) ∧
      (left.any (fun e => decide (e.1 = h)) = false → 256 ≤ f.core →
        exec (.packMessage p) s = .next (setFlush (clearPage t1 f.page f.size h) f.core f.slot (fun g =>
          { g with homes := g.homes.filter (fun k => decide (k ≠ h)) })))))

/-! ### Performing accesses -/

/-- R167, R173 to R177, R190: accesses and requests perform. A load that the ordering rules let perform reads its bytes, or faults
SOFTERR where they have an uncorrectable error (R191); a store drains to memory once its core may write its line, asks for the
words of an SC line that the core does not own, and is discarded where its pair is stale; an atomic leaves for its home's queue;
a queue's oldest entry of a line is applied and answered; owned words, written bytes and the L2's lines are written back, and
unowned words are dropped. It rests also on log entries 14, 15, 33, 59 and 62, the model's reading. -/
def Obligations.AccessesPerform : Prop :=
  ∀ (s t : State) (p : Packet) (core slot acc line word : Nat) (a : Access) (e : WqEntry),
    let g := s.group core slot
    let ready := accOf g acc = some a ∧ a.perf = false ∧ a.sent = false ∧ mayPerform g.accs a = true
    let home := pktLine p
    let served := serviced t home
    (ready → a.kind = .load → (a.scr = true ∨ heldByOther s core slot (lineOf a.addr) = false) →
      let s1 := prepareLoad s core a
      let s2 := placeLoad s1 core a
      exec (.load core slot acc false) s = .next (finishAccess
        (arriveDatum (if a.acq then selfInv s2 core else s2) core slot a (loadBytes s1 core slot a)) core slot a) ∧
      (g.halt = none → g.ended = false → a.scr = false → writtenAt s a.addr a.size = true →
        exec (.load core slot acc true) s = .next (accessFault s core slot a cSOFTERR))) ∧
    (ready → a.kind = .store → a.scr = true → exec (.drain core slot acc) s = .next (finishAccess
      (writeScratch s core g.inst a.addr (toBytes a.val a.size)) core slot a)) ∧
    (ready → a.kind = .store → a.scr = false → a.mail = false → heldByOther s core slot (lineOf a.addr) = false →
      (accStale s core a = true → exec (.drain core slot acc) s = .next (finishAccess s core slot a)) ∧
      (accStale s core a = false → writesThrough s core a = false →
        (∀ k, storeReady s core a = some k →
          exec (.drain core slot acc) s = .next (finishAccess (storeGlobal k core a) core slot a)) ∧
        (storeReady s core a = none → exec (.drain core slot acc) s = .next (askOwned s core slot a)))) ∧
    (∀ o, ready → a.kind = .atomic o → a.scr = false → heldByOther s core slot (lineOf a.addr) = false → reqRoom s core 1 = true →
      exec (.drain core slot acc) s = .next (markSent (sendFor s core
        { accessPkt s core slot 0x08 a with inl := atomInline a o } a.id) core slot a)) ∧
    (Asks s p t → mayServe t p home = true →
      (p.op = 0x08 → exec (.fabricAtom p) s = .next (wqPut (if engPkt p then wantPage served (p.pa.toNat / 65536) true else served)
        (pktEntry served (.atomic (inlOp p)) p))) ∧
      (p.op = 0x09 → exec (.redn p) s = .next (send (wqPut served (pktEntry served (.reduce (inlOp p)) p)) (ackPkt home p 0))) ∧
      (p.op = 0x04 → engPkt p = true → exec (.wrb p) s = .next (send served (ackPkt home p 0))) ∧
      (p.op = 0x04 → engPkt p = false → accOfPkt served p = some acc →
        let base := home * 256 + 64 * lowest p.smask
        let t1 := if staleAt served home p.arena p.gen then served
          else (bitsOf (p.inl.extractLsb' 0 256)).foldl (fun u i => writeLive (retake u (home * 256 + i) 1) (home * 256 + i)
            [p.data.getD (home * 256 + i - base) 0] p.arena p.gen) served
        accOf (t1.group p.core.toNat p.grp.toNat) acc = some a →
        exec (.wrb p) s = .next (send (storeMailed (finishAccess t1 p.core.toNat p.grp.toNat a) a) (ackPkt home p 0)))) ∧
    (Arrives s p t → p.op = 0x17 → (portOfStop? p.dst).isSome = true → exec (.ares p) s = .next (portAres t p)) ∧
    (Arrives s p t → p.op = 0x17 → portOfStop? p.dst = none → accOfPkt t p = some acc →
      accOf ((endReq t p.core.toNat p.txn.toNat).group p.core.toNat p.grp.toNat) acc = some a →
      exec (.ares p) s = .next ((arriveDatum (endReq t p.core.toNat p.txn.toNat) p.core.toNat p.grp.toNat a
        (toBytes (p.inl.extractLsb' 0 32) 4)).updGroup p.core.toNat p.grp.toNat (fun g => dropAccess g a))) ∧
    (s.wq.find? (fun f => decide (lineOf f.addr = line)) = some e → wqHeld s e = false → wqSoft s e = none →
      let u := { s with wq := removeFirst (fun f => decide (lineOf f.addr = line)) s.wq }
      exec (.wqperf line) s = .next (wqReply (wqApply u e).2 e (wqApply u e).1)) ∧
    (find s.own word = some core → exec (.evict core word) s = .next (evictWord s word)) ∧
    exec (.cpwb core line) s = .next (cpWriteBack s core line) ∧
    (dropPending s (homeOfLine line) (linePair s line).1.toNat = false → find (writeBack s line).l2 line = none →
      exec (.wback line) s = .next (writeBack s line)) ∧
    (∀ l, find (s.core core).l1 (word / 64) = some l → l.kind = 1 → bit l.owned (word % 64) = false →
      exec (.discard core word) s = .next (s.updCore core (fun h => h.setLine (word / 64)
        { l with held := l.held &&& ~~~(maskOf 256 ((List.range 4).map (fun i => 4 * (word % 64) + i)))
                 sectors := l.sectors &&& ~~~(maskOf 4 [word % 64 / 16]) })))

/-! ### Engines -/

/-- R153 to R155, R159, R160, R182, R316: the steps of engines. A copy reads one source line into its buffer and lands one
destination line with a WRB, a stale one being discarded; it finishes, once its writes are acknowledged, with its tag counted; a
matrix store lands a row, which is shown; a decoder reads its bitstream line by line, where a read that fails its checks is a read
fault; a frame before F0 is passed over; a decoded frame is taken, lands its lines and credits its barrier, and a frame that failed
is recorded with its place in the stream and credited with poison. It rests also on log entries 15, 34, 64, 69 and 95, the model's
reading. -/
def Obligations.EnginesStep : Prop :=
  ∀ (s t : State) (c k : Nat) (y : Copy) (x : Submission) (m : MStore) (pa : Nat) (ar : BitVec 12) (gn : BitVec 4) (rg : BitVec 2)
      (data : List Byte) (boff : BitVec 32) (ecode : BitVec 8),
    (find (s.core c).copies k = some y → copyRuns s y = true →
      (copyOrdered s c y = true → y.rd < copyLen y → srcScr (copyDir y) = false →
        let va := copyVa (copySrc y + y.rd)
        let n := Nat.min (256 - (copySrc y + y.rd) % 256) (copyLen y - y.rd)
        let a := { Access.zero with addr := pa, size := n, arena := ar, gen := gn, regn := rg }
        let s1 := wakeHomes (prepareLoad s c a) pa n
        check s c (instRoot s y.inst) va 4 .read = .ok pa ar gn rg → heldLine s (lineOf pa) = false →
        landsFirst s c y (lineOf pa) = false →
        let bs := (List.range n).map (fun i => coreByte s1 c (pa + i))
        exec (.read (.copy c k)) s = .next (setCopy (placeLoad s1 c a) c k { y with rd := y.rd + n, buf := y.buf ++ bs })) ∧
      (let at_ := copyDst y + (copyLen y - copyRem y);
        let n := Nat.min (256 - at_ % 256) (copyRem y);
        copyRem y ≠ 0 → n ≤ y.buf.length →
        (dstScr (copyDir y) = true → scrPages s c y.inst at_ n = .ok pa ar gn rg → exec (.land (.copy c k)) s = .next
          (setCopy (writeScratch (pinRange s c y.inst at_ n) c y.inst at_ (y.buf.take n)) c k (copyLanded y n))) ∧
        (dstScr (copyDir y) = false → check s c (instRoot s y.inst) (copyVa at_) 4 .write = .ok pa ar gn rg →
          heldLine s (lineOf pa) = false → exec (.land (.copy c k)) s = .next (setCopy (sendEng
            (if staleAt s (lineOf pa) ar gn then s else writeLive (retake s pa n) pa (y.buf.take n) ar gn)
            (copyWrb c k y pa (y.buf.take n) ar gn rg) (.copy c k)) c k (copyLanded y n)))) ∧
      (let left := zget (s.core c).tagCnt (copyTag y) - 1;
        copyRem y = 0 → engBusy s (.copy c k) = false → copyBar y = 0 → copyMail y = false → issuerLives s c y = true → 8 ≤ copyTag y →
        exec (.finish (.copy c k)) s = .next ((s.updCore c (fun h => { h with
          tagCnt := zset h.tagCnt (copyTag y) left, tags := if left = 0 then h.tags ||| maskOf 64 [copyTag y] else h.tags,
          copies := del h.copies k })).updGroup c (copyGrp y) (fun g => g.countCp y.op)))) ∧
    (((s.core c).part k).mstore = some m →
      (∀ i ws r o, ((s.core c).part k).munit.head? = some o → m.rows = (i, ws) :: r → exec (.land (.mstore c k)) s = .next (showRows
        (setMstore (writeScratch s c m.inst (m.off + 256 * i) (ws.flatMap (fun w => toBytes w 4))) c k (some { m with rows := r }))
        c o [(i, ws, 0)])) ∧
      (m.rows = [] → m.bar = none → exec (.finish (.mstore c k)) s = .next (pulseFor ((s.updCore c (fun h =>
        h.setPart k { h.part k with munit := (h.part k).munit.drop 1, mstore := none })).updGroup c m.slot
        (fun g => if g.inst = m.inst then g.countMx m.op else g)) c m.inst 24))) ∧
    ((decQueue s k).head? = some x → instRuns s x.inst = true →
      (let va := x.bs + BitVec.ofNat 64 x.stream.length;
        let n := Nat.min (256 - va.toNat % 256) (x.blen.toNat - x.stream.length);
        x.fault = false → n ≠ 0 →
        (∀ z a, checkNow s x.core (instRoot s x.inst) va 1 .read = .fault z a →
          exec (.read (.decoder k)) s = .next (setHead s k { x with fault := true })) ∧
        (checkNow s x.core (instRoot s x.inst) va 1 .read = .ok pa ar gn rg → heldLine s (lineOf pa) = false → softAt s pa n = false →
          exec (.read (.decoder k)) s = .next (setHead (fillL2 s (lineOf pa) ar gn) k { x with
            stream := x.stream ++ homeBytes s pa n }))) ∧
      (frameRead x = true → x.seen < x.f0 → data = [] → exec (.frameLanding k data) s = .next (setHead s k { x with seen := x.seen + 1 })) ∧
      (x.landed = [] → frameRead x = true → x.f0 ≤ x.seen → data ≠ [] → data.length = frameBytes x false → x.deep ≠ some true → windowFits s x false = true →
        exec (.frameLanding k data) s = .next (setHead s k { x with deep := some false, landed := data, pos := 0 })) ∧
      (let o := x.dst + x.done * x.landed.length + x.pos;
        let n := Nat.min (256 - o % 256) (x.landed.length - x.pos);
        x.pos < x.landed.length → scrPages s x.dcore x.inst o n = .ok pa ar gn rg →
        exec (.land (.decoder k)) s = .next (setHead (writeScratch (pinRange s x.dcore x.inst o n) x.dcore x.inst o
          ((x.landed.drop x.pos).take n)) k { x with pos := x.pos + n })) ∧
      (x.landed ≠ [] → x.landed.length ≤ x.pos → decodeCredit s x x.landed.length false = .ok t →
        exec (.finish (.decoder k)) s = .next (frameOver t k x false)) ∧
      (x.landed = [] → x.f0 ≤ x.seen → x.deep = some false → windowFits s x false = true → 1 ≤ ecode.toNat → ecode.toNat ≤ 4 →
        (if x.fault then ecode = 4 ∧ boff.toNat = x.stream.length else ecode ≠ 4 ∧ boff.toNat ≤ x.stream.length) →
        decodeCredit s x (frameBytes x false) true = .ok t →
        exec (.frameDecodeFailure k boff ecode) s = .next (frameOver (writeRecord t (instRegion t x.inst)
          (decodeRecord t x k boff (frameBytes x false) ecode)) k { x with deep := some false, failed := true } false)))

/-! ### Watch predicates and halts -/

/-- R343, R347 to R351: WPSET claims a predicate, for the instructions that start after it; WPCLR clears one that the herd may clear, and WPRD reads it, both also in
supervisor state, where no predicate is evaluated; HLTRD reads an item of a halted group of the herd, HLTWR writes one, HLTSTEP
lets it run one instruction for one thread, and HLTRES lets it run. It rests also on log entry 63, the model's reading. -/
def Obligations.WatchInstructionsComplete : Prop :=
  ∀ (s : State) (n : BitVec 4) (d a b : BitVec 8),
    let c := s.focus.core
    let quiet := fun (sh : Shape) => blocked s.cur sh (ctlStall s.focus.ctl (pcSlot s.cur.pc)) = false ∧ s.cur.hazards = [] ∧
      startCause s c s.cur sh false = none ∧ hSact s.cur = true ∧ s.cur.split = 0 ∧ s.cur.halt = none ∧ s.focus.step = false
    let mine := watchMine s.begins c s.cur.inst n.toNat
    let w := if mine then (s.begins.core c).watch n.toNat else Watch.reset
    (let sh := uniShape (isScalPair a && isScalPair b) [a, a + 1, b, b + 1] [a, a + 1, b, b + 1];
      Starts s sh → exec (.wpset n a b) s = .next (s.ends (setWatch s.begins c n.toNat
        { ctl := watchWord (s.cur.s64 a), opa := s.cur.s b, opb := s.cur.s (b + 1), owner := some s.cur.inst, since := s.tick }))) ∧
    (quiet plainUni → exec (.wpclr n) s = .next (s.ends (if mine then setWatch s.begins c n.toNat Watch.reset else s.begins))) ∧
    (quiet (uniShape (isScal d && alignedTo 4 d) (runOf d 4) []) → exec (.wprd d n) s = .next (s.ends (s.begins.updCur (fun g =>
      writeScal (writeScal (writeScal64 g d w.ctl) (d + 2) w.opa) (d + 3) w.opb)))) ∧
    (∀ (h j : Nat) (k : Group) (t : Halt),
      let at_ := fun (sh : Shape) => haltTarget s.begins s.cur.inst ((startCtx s sh).uni a) = some (h, j) ∧
        s.begins.group h j = k ∧ k.resident = true ∧ k.inst = s.cur.inst ∧ k.halt = some t
      (let sh := haltShape (isScal d && isUni a && isUni b) [d, a, b] [a, b];
        Starts s sh → at_ sh → exec (.hltrd d a b) s = .next (s.ends (s.begins.updCur (fun g =>
          writeScal g d (haltItem h j k t ((startCtx s sh).uni b)))))) ∧
      (let sh := haltShape (isUni d && isUni a && isUni b) [d, a, b] [d, a, b];
        Starts s sh → at_ sh → exec (.hltwr d a b) s = .next (s.ends (s.begins.setGroup h j
          (putHaltItem k ((startCtx s sh).uni b) ((startCtx s sh).uni d))))) ∧
      (let sh := haltShape (isUni a && isUni b) [a, b] [a, b];
        let u := fnat ((startCtx s sh).uni b) 5 0;
        let t1 := { t with stepWait := true, stepThr := some u, stepErr := false, cause := 0, undo := none };
        Starts s sh → at_ sh → t.stepWait = false → k.split = 0 → bit k.amask u = true →
        exec (.hltstep a b) s = .next (s.ends
          { s.begins.setGroup h j { k with halt := some t1 } with agenda := .group h j :: s.agenda })) ∧
      (let sh := haltShape (isUni a && isUni b) [a, b] [a, b];
        let u := fnat ((startCtx s sh).uni b) 5 0;
        let one : BitVec 64 := maskOf 64 [u];
        let t1 := { t with stepWait := true, stepThr := some u, stepErr := false, cause := 0, undo := none };
        Starts s sh → at_ sh → t.stepWait = false → k.split ≠ 0 → bit k.split u = true →
        exec (.hltstep a b) s = .next (s.ends
          { s.begins.setGroup h j { k with split := one, rest := k.split &&& ~~~one, halt := some t1 } with
            agenda := .group h j :: s.agenda })) ∧
      (let sh := haltShape (isUni a) [a] [a];
        Starts s sh → at_ sh → (startCtx s sh).uni a ≠ 0xFFFFFFFF →
        exec (.hltres a) s = .next (s.ends (s.begins.setGroup h j (
          if mayRetry k.wait then { k with halt := none, follow := none, split := k.split ||| k.rest, rest := 0 }
          else { k with halt := none, follow := none })))))

/-! ### Tasks and system registers -/

/-- R75, R85, R358 to R362: the task instructions. TSPAWN admits a task and returns its state; TDONE waits for the rendezvous that
ends the task or claims its next grain, and the grain form of a task without grains returns 0; TDEP adds a dependency; MBXREG
binds or unbinds a mailbox. It rests also on log entries 7 and 68, the model's reading. -/
def Obligations.TaskInstructionsComplete : Prop :=
  ∀ (s u : State) (d a b : BitVec 8) (pa qa ta : Nat) (qs : List Nat) (ar br : BitVec 12) (gn bn : BitVec 4) (rg bg : BitVec 2),
    let c := s.focus.core
    let root := instRoot s.begins s.cur.inst
    let checks := fun (r : BitVec 64) (n : Nat) (need : Need) => check s.begins c root r n need
    let puts := fun (t : State) (v : Word) => s.ends (t.updCur (fun g => writeScal g d v))
    let ready := fun (sh : Shape) (k : Nat) => blockHeld s.begins (startCtx s sh) k 128 = false ∧ softAt s.begins k 128 = false
    (let sh := onceShape (isScal d && isScalPair a) [d, a, a + 1] [a, a + 1];
      Starts s sh → taking s sh ≠ 0 → checks (s.cur.s64 a) 128 .both = .ok pa ar gn rg → ready sh pa →
      admitTask s.begins (pa / 128) (readTcb s.begins (pa / 128)) (some (instRegion s.begins s.cur.inst)) = some u →
      exec (.tspawn d a) s = .next (s.ends (u.updCur (fun g => writeScal g d (BitVec.ofNat 32 (tState (u.tcb (pa / 128)))))))) ∧
    (let sh := uniShape (isScal d) [d] [];
      Starts s sh → taking s sh ≠ 0 → exec (.tdoneFinal d) s = .next (s.waits (.tdone d)) ∧
        (tGrain (instTcb s.begins s.cur.inst) = 0 → exec (.tdoneGrain d) s = .next (s.goesOn [d] (writeScal s.cur d 0))) ∧
        (tGrain (instTcb s.begins s.cur.inst) ≠ 0 → exec (.tdoneGrain d) s = .next (s.waits (.grain d)))) ∧
    (let sh := onceShape (isScal d && isScalPair a && isScalPair b) [d, a, a + 1, b, b + 1] [a, a + 1, b, b + 1];
      Starts s sh → taking s sh ≠ 0 → checks (s.cur.s64 a) 128 .both = .ok pa ar gn rg → checks (s.cur.s64 b) 128 .both = .ok qa br bn bg →
      ready sh pa → ready sh qa →
      let r := addDependency s.begins (pa / 128) (qa / 128)
      exec (.tdep d a b) s = .next (puts r.2 (BitVec.ofNat 32 r.1))) ∧
    (let quad := runOf b 4;
      let sh := onceShape (isScal d && isScalPair a && isScal b && alignedTo 4 b) (d :: a :: (a + 1) :: quad) (a :: (a + 1) :: quad);
      let pool : BitVec 64 := ((s.cur.s (b + 3)).setWidth 16 ++ s.cur.s (b + 2) : BitVec (16 + 32)).signExtend 64;
      Starts s sh → taking s sh ≠ 0 → checks (s.cur.s64 a) 256 .read = .ok pa ar gn rg →
      (s.cur.s64 b = 0 → exec (.mbxreg d a b) s = .next (puts (unbindLine s.begins (lineOf pa)).2 (unbindLine s.begins (lineOf pa)).1)) ∧
      (s.cur.s64 b ≠ 0 → checks (s.cur.s64 b) 128 .read = .ok ta br bn bg → poolAt s.begins (startCtx s sh) pool (fnat (s.cur.s (b + 3)) 31 24 + 1) = .ok qs →
        ready sh ta →
        let r := bindLine s.begins (lineOf pa) (ta / 128) qs
        exec (.mbxreg d a b) s = .next (puts r.2 r.1)))

/-- R112, R120, R195, R230, R355 to R357, R364: CSRRD reads every register word; CSRWR writes MODE and FMT where the value is not
reserved, UPC, the X registers, and SPILL while no block is spilled, and leaves the read-only registers; EVROUTE sets a route where
the herd holds the side resources, and its signal form pulses source 29; PREACK acknowledges a notice. -/
def Obligations.SystemRegistersComplete : Prop :=
  ∀ (s : State) (d a b : BitVec 8) (csr : BitVec 16) (n : BitVec 4) (pa : Nat) (ar : BitVec 12) (gn : BitVec 4) (rg : BitVec 2),
    let c := s.focus.core
    (let sh := uniShape (isScal d && csrLegal csr) [d] [];
      Starts s sh → exec (.csrrd d csr) s = .next (s.goesOn [d] (writeScal s.cur d (csrValue s.begins c s.cur csr)))) ∧
    (let sh := uniShape (isUni a && csrLegal csr) [a] [a];
      let v := (startCtx s sh).uni a;
      let w := fnat csr 7 0;
      let writes := fun (g : Group) => exec (.csrwr a csr) s = .next (s.goesOn [] g);
      let hndl := if w = 5 then fput s.cur.hndl 191 160 v.toNat
        else if w = 4 then fput s.cur.hndl 159 149 (fnat v 31 21) else s.cur.hndl;
      let spill := if w = 1 then fput (fput s.cur.spill 63 52 (fnat v 31 20)) 38 32 (fnat v 6 0) else fput s.cur.spill 31 0 v.toNat;
      Starts s sh →
      (fnat csr 15 8 = 0 → modeOk v = true → writes { s.cur with mode := v }) ∧
      (fnat csr 15 8 = 1 → fmtOk v = true → writes { s.cur with fmt := v }) ∧
      (fnat csr 15 8 = 2 → writes s.cur) ∧
      (fnat csr 15 8 = 3 → writes { s.cur with hndl := hndl }) ∧
      (fnat csr 15 8 = 4 → writes { s.cur with xop := v }) ∧ (fnat csr 15 8 = 5 → writes { s.cur with xd := v }) ∧
      (fnat csr 15 8 = 6 → writes { s.cur with xa := v }) ∧ (fnat csr 15 8 = 7 → writes { s.cur with xb := v }) ∧
      (fnat csr 15 8 = 8 → writes { s.cur with xword := v }) ∧
      (fnat csr 15 8 = 9 → spillUsed s.cur = 0 → writes { s.cur with spill := spill }) ∧
      (fnat csr 15 8 = 10 → writes s.cur)) ∧
    (let sh := uniShape (isUni a && isScalPair b) [a, b, b + 1] [a, b, b + 1];
      let lo := s.cur.s b;
      let va := paramAddr lo (s.cur.s (b + 1));
      let sets := fun (p : BitVec 44) => exec (.evroute n a b) s =
        .next (s.ends (setRoute s.begins c n.toNat ((startCtx s sh).uni a) (bit lo 0) p));
      Starts s sh → sideHeld s.begins c s.focus.slot = true →
      (n.toNat < 12 → sets 0) ∧
      (12 ≤ n.toNat → fnat lo 3 1 = 0 → barCheck s.begins c s.cur.inst va .write = .ok pa ar gn rg → sets (va.extractLsb' 4 44))) ∧
    (Starts s plainUni → sideHeld s.begins c s.focus.slot = true → exec .evrouteSignal s = .next (s.ends (pulse s.begins c 29))) ∧
    (Starts s plainUni → exec .preack s = .next (s.goesOn [] { s.cur with prenote := 0 }))

/-! ### Side cores -/

/-- R365, R366: the register instructions of a side core write their destination, x0 keeping 0, and go on 4 bytes further; a shift
takes its amount modulo 32, a division by zero gives all ones or the dividend, and MULH, MULHSU and MULHU the upper half. It
rests also on log entry 72, the model's reading. -/
def Obligations.SideArithmeticCompletes : Prop :=
  ∀ (s : State) (d a b : BitVec 5) (i : BitVec 12) (k : BitVec 20) (f : BitVec 17),
    let x := s.side.x a
    let y := s.side.x b
    let v := i.signExtend 32
    let up : Word := k ++ 0#12
    let truth := fun (p : Bool) => if p then (1 : Word) else 0
    let gives := fun (j : Instr) (r : Word) => exec j s = .next (s.updCore s.focus.core (fun c => c.setSide s.focus.storer
      { s.side with regs := if d = 0 then s.side.regs else zset s.side.regs d.toNat r, pc := s.side.pc + 4, status := 1 }))
    gives (.rvLui d k) up ∧ gives (.rvAuipc d k) (s.side.pc + up) ∧
    gives (.rvAddi d a i) (x + v) ∧ gives (.rvSlti d a i) (truth (x.slt v)) ∧ gives (.rvSltiu d a i) (truth (x.ult v)) ∧
    gives (.rvXori d a i) (x ^^^ v) ∧ gives (.rvOri d a i) (x ||| v) ∧ gives (.rvAndi d a i) (x &&& v) ∧
    gives (.rvSlli d a b) (x <<< b.toNat) ∧ gives (.rvSrli d a b) (x >>> b.toNat) ∧ gives (.rvSrai d a b) (x.sshiftRight b.toNat) ∧
    gives (.rvAdd d a b) (x + y) ∧ gives (.rvSub d a b) (x - y) ∧ gives (.rvSll d a b) (x <<< (y.toNat % 32)) ∧
    gives (.rvSlt d a b) (truth (x.slt y)) ∧ gives (.rvSltu d a b) (truth (x.ult y)) ∧ gives (.rvXor d a b) (x ^^^ y) ∧
    gives (.rvSrl d a b) (x >>> (y.toNat % 32)) ∧ gives (.rvSra d a b) (x.sshiftRight (y.toNat % 32)) ∧
    gives (.rvOr d a b) (x ||| y) ∧ gives (.rvAnd d a b) (x &&& y) ∧ gives (.rvMul d a b) (x * y) ∧
    gives (.rvMulh d a b) (BitVec.ofInt 32 (x.toInt * y.toInt / 2 ^ 32)) ∧
    gives (.rvMulhsu d a b) (BitVec.ofInt 32 (x.toInt * (y.toNat : Int) / 2 ^ 32)) ∧
    gives (.rvMulhu d a b) (BitVec.ofNat 32 (x.toNat * y.toNat / 2 ^ 32)) ∧
    gives (.rvDiv d a b) (if y = 0 then BitVec.allOnes 32 else BitVec.ofInt 32 (x.toInt.tdiv y.toInt)) ∧
    gives (.rvDivu d a b) (if y = 0 then BitVec.allOnes 32 else x / y) ∧
    gives (.rvRem d a b) (if y = 0 then x else BitVec.ofInt 32 (x.toInt.tmod y.toInt)) ∧
    gives (.rvRemu d a b) (if y = 0 then x else x % y) ∧
    exec (.rvFence f d) s = .next (sideNext s)

/-- R116, R365, R366: the jumps, branches, loads and stores of a side core. A jump to a word-aligned target links and goes there, a
misaligned one stops the side core and links nothing; a load or store in the data store moves its bytes in little-endian order;
an address that leads nowhere, and an encoding that is not listed, stop the side core. It rests also on log entries 53 and 72,
the model's reading. -/
def Obligations.SideTransfersComplete : Prop :=
  ∀ (s : State) (d a b : BitVec 5) (i : BitVec 12) (k : BitVec 20) (w : Word) (o : Nat),
    let x := s.side.x a
    let y := s.side.x b
    let va := x + i.signExtend 32
    let links := fun (j : Instr) (target : Word) =>
      (target.toNat % 4 = 0 → exec j s = .next (setSide s { s.side.setX d (s.side.pc + 4) with pc := target, status := 1 })) ∧
      (target.toNat % 4 ≠ 0 → exec j s = .next (sideStopAt s (target.setWidth 64)))
    let branches := fun (j : Instr) (taken : Bool) =>
      let target := s.side.pc + (i ++ 0#1 : BitVec (12 + 1)).signExtend 32
      (taken = false → exec j s = .next (sideNext s)) ∧
      (taken = true → target.toNat % 4 = 0 → exec j s = .next (setSide s { s.side with pc := target, status := 1 })) ∧
      (taken = true → target.toNat % 4 ≠ 0 → exec j s = .next (sideStopAt s (target.setWidth 64)))
    let loads := fun (j : Instr) (n : Nat) (ext : Nat → Word) =>
      (sideAt s va.toNat n = .data o → exec j s = .next (sideWrite s d (ext (natOfBytes (zgetRun s.side.dstore o n))))) ∧
      (sideAt s va.toNat n = .store o → exec j s = .next (sideWrite s d (ext (natOfBytes (zgetRun s.side.istore o n))))) ∧
      (sideAt s va.toNat n = .none → exec j s = .next (sideStopAt s (va.setWidth 64)))
    let stores := fun (j : Instr) (n : Nat) =>
      (sideAt s va.toNat n = .data o → exec j s = .next
        (sideNext (setSide s { s.side with dstore := zsetRun s.side.dstore o (toBytes y n) }))) ∧
      (sideAt s va.toNat n = .none → exec j s = .next (sideStopAt s (va.setWidth 64)))
    links (.rvJal d k) (s.side.pc + (k ++ 0#1 : BitVec (20 + 1)).signExtend 32) ∧
    links (.rvJalr d a i) (va &&& 0xFFFFFFFE#32) ∧
    branches (.rvBeq a b i) (decide (x = y)) ∧ branches (.rvBne a b i) (decide (x ≠ y)) ∧ branches (.rvBlt a b i) (x.slt y) ∧
    branches (.rvBge a b i) (!(x.slt y)) ∧ branches (.rvBltu a b i) (x.ult y) ∧ branches (.rvBgeu a b i) (!(x.ult y)) ∧
    loads (.rvLb d a i) 1 (fun v => (BitVec.ofNat 8 v).signExtend 32) ∧ loads (.rvLh d a i) 2 (fun v => (BitVec.ofNat 16 v).signExtend 32) ∧
    loads (.rvLw d a i) 4 (fun v => BitVec.ofNat 32 v) ∧ loads (.rvLbu d a i) 1 (fun v => BitVec.ofNat 32 v) ∧
    loads (.rvLhu d a i) 2 (fun v => BitVec.ofNat 32 v) ∧
    stores (.rvSb a b i) 1 ∧ stores (.rvSh a b i) 2 ∧ stores (.rvSw a b i) 4 ∧
    exec (.sideUnsupportedEncoding w) s = .next (sideFault s s.focus.core s.focus.storer)

/-- R114, R117, R118, R365, R367 to R372: the Mbadun instructions of a side core. MHALT halts it; MEVWAIT consumes a firing or waits
for one; MSIGNAL pulses its source; MTIMER sets or cancels the timer; MQPUSH, MQPOP and MQCNT act on a queue; MTAGR reads tags;
MCPY starts a copy from its descriptor; MBARC credits a barrier; MAVDEC submits to a decoder. It rests also on log entry 53, the
model's reading. -/
def Obligations.SideInstructionsComplete : Prop :=
  ∀ (s t : State) (d a b e : BitVec 5) (q : BitVec 3) (w : BitVec 1) (o k : Nat) (f : Core),
    let c := s.focus.core
    let core := s.core c
    let st := s.focus.storer
    let inst := sideInst s
    let v := s.side.x a
    exec .mhalt s = .next (tryLeave (setSide s { s.side with status := 0 }) c inst) ∧
    (takeFiring core (b2n st) = some f → exec .mevwait s = .next (selfInv (s.setCore c (f.setSide st
      { f.side st with pc := (f.side st).pc + 4, status := 1 })) c)) ∧
    (takeFiring core (b2n st) = none → exec .mevwait s = .next (setSide s { s.side with status := 2 })) ∧
    exec .msignal s = .next (sideNext (pulse s c (27 + b2n st))) ∧
    exec (.mtimer a) s = .next (sideNext (s.updCore c (fun h => { h with timer := if v = 0 then none else some v }))) ∧
    (let r := queuePush s c q.toNat (b2n st) [v];
      exec (.mqpush q a d) s = .next (sideWrite r.1 d (if r.2 = 0 then 1 else 0))) ∧
    (sideRange s v.toNat 4 = .data o → (core.queue q.toNat).items = [] →
      exec (.mqpop q a d) s = .next (sideWrite (queueTake s c q.toNat (b2n st) 0) d 1)) ∧
    (∀ x r, sideRange s v.toNat 4 = .data o → (core.queue q.toNat).items = x :: r → exec (.mqpop q a d) s = .next (sideWrite
      (selfInv (queueTake (setSide s { s.side with dstore := zsetRun s.side.dstore o (toBytes x 4) }) c q.toNat (b2n st) 1) c) d 0)) ∧
    exec (.mqcnt q d) s = .next (sideWrite s d (BitVec.ofNat 32 (core.queue q.toNat).items.length)) ∧
    (let r := core.tags.extractLsb' (32 * w.toNat) 32;
      exec (.mtagr w d) s = .next (sideWrite (if r = 0 then s else selfInv s c) d r)) ∧
    (let cmd := sideCopy (ofBytes 256 (zgetRun s.side.dstore o 32));
      sideRange s v.toNat 32 = .data o → copyCheck cmd (core.scratchOf inst).size = none → freeCopy core = some k →
      exec (.mcpy a d) s = .next (sideWrite (startCopy s c k cmd
        { rec_ := copyRec cmd 0, inst := inst, op := 0, after := 0, rd := 0, buf := [], started := false, order := 0
          side := some st, stopped := none }) d (BitVec.ofNat 32 k))) ∧
    (let va : BitVec 64 := ((s.side.x b).setWidth 16 ++ v : BitVec (16 + 32)).signExtend 64;
      creditAt s c inst va (fnat (s.side.x b) 31 16) (s.side.x e).toNat false = .ok t →
      exec (.mbarc e b a) s = .next (sideNext t)) ∧
    (let y : BitVec 512 := ofBytes 512 (zgetRun s.side.dstore o 64);
      let dcore := fnat y 231 224;
      ∀ i, sideRange s v.toNat 64 = .data o → find s.insts inst = some i → dcore ∈ i.gang → decodeDescOk y = true →
      pickDecoder s (dcore / 64) = some k → exec (.mavdec a d) s = .next (sideWrite { wakeFor s (.decoder k) with
        decoders := put s.decoders k (decQueue s k ++ [submissionOf y c inst]) } d 0))

/-! ### Coltos -/

/-- R47, R50 to R53, R59, R62 to R66, R91, R161, R408 to R411: a command that arrives in its turn and breaks no rule of its own has
its effect and is answered OK; one that writes memory sends its WRBs, waits for their ACKs, and has its further effect and its
answer when it is tried again then; a PGRECALL or a PGINV first marks its page, has it recalled and waits, and ends once nothing of
the page is left; one with an unassigned code is answered BADCMD, and a code or a page message that only another agent takes, or
RECCTL mode 3, BADARG. It rests also on log entries 15, 16, 38, 39, 41, 42, 43, 44, 77, 83 and 94, the model's reading. -/
def Obligations.ColtosCommandsComplete : Prop :=
  ∀ (s t u : State) (n : Nat) (m : Msg) (b : Mailbox) (k j : Nat),
    let a := m.arg0.toNat
    let len := m.payload.length
    let r := a / 256
    let ok := fun (i : Instr) (v : State) => exec i s = .next (accepted v n m stOK 0 [])
    let answers := fun (i : Instr) (stat arg0 : Nat) (bs : List Byte) => exec i s = .next (accepted t n m stat arg0 bs)
    let free := fun (pa l : Nat) (w : Bool) => inMemory pa l = true ∧ portHeld t pa l w = false
    let sends := fun (i : Instr) => (t.session n).wrote = false →
      let v := portWrite (setSession t n { t.session n with wrote := true }) m.port a m.payload (.session n)
      exec i s = .next (pump 31 (setSession v n { v.session n with running := some m }) n)
    let acked := (u.session n).wrote = true ∧ engBusy u (.session n) = false ∧ u.boot.state = 4 ∧ u.recorder.mode ≠ 2
    let ends := fun (v : State) => runTurn u n m = acceptMsg v n m stOK 0 []
    let ring := ringOk a (natOfBytes (m.payload.take 8)) = true ∧ guarded a (natOfBytes (m.payload.take 8)) = false ∧
      inMemory a (natOfBytes (m.payload.take 8)) = true
    InTurn s n m t →
    (m.cmd = 0x05 → guarded a len = false → free a len true → sends (.memwr m) ∧ (acked → ends u)) ∧
    (m.cmd = 0x06 → 1 ≤ m.arg1.toNat → m.arg1.toNat ≤ 4064 → free a m.arg1.toNat false → softAt t a m.arg1.toNat = false →
      exec (.memrd m) s = .next (accepted (wakeHomes t a m.arg1.toNat) n m stOK 0 (homeBytes t a m.arg1.toNat))) ∧
    (m.cmd = 0x07 → blockRule a len 8 = true → guarded a len = false → free a len true → sends (.ptwr m) ∧
      (acked → (ptwrEntries a m.payload).any (fun e => isLeafPte e.2 && !(queueClear u (ptePage e.2) (pteSize e.2))) = false →
        ends ((ptwrEntries a m.payload).foldl (fun v e => syncPte v e.1 e.2) u))) ∧
    (m.cmd = 0x08 → len % 16 = 0 → len ≠ 0 → a + len / 16 ≤ 4096 →
      artwrAll t a ((List.range (len / 16)).map (fun i => ofBytes 128 ((m.payload.drop (16 * i)).take 16))) = some u → ok (.artwr m) u) ∧
    (m.cmd = 0x09 → blockRule a len 128 = true → guarded a len = false → free a len true → sends (.cbwr m) ∧
      (acked → ends ((cbwrAddrs a len).foldl syncBlock u))) ∧
    (let tcb := m.arg1.toNat
     m.cmd = 0x0A → a % 256 = 0 → tcb % 128 = 0 → inMemory a 256 = true → free tcb 128 false →
      tRcb (readTcb t (tcb / 128)) * 256 = a → admitTask t (tcb / 128) (readTcb t (tcb / 128)) none = some u → ok (.launch m) u) ∧
    (m.cmd = 0x0B → a % 256 = 0 → len ≤ 256 →
      (mailboxOf t r = some (k, b) → freeMailSlot t b = some j → portHeld t a 256 true = false → sends (.mail m)) ∧
      (acked → mailboxOf u r = some (k, b) → freeMailSlot u b = some j →
        let p := arriveAt u k b j
        ends (settleWork p.1 p.2))) ∧
    (m.cmd = 0x0D → a % 256 = 0 → (find t.regions r).isSome = true → t.preempts = [] →
      (rState (t.rcb r) = 3 → ok (.preempt m) t) ∧
      (rState (t.rcb r) = 0 → ok (.preempt m) (startPreempt t r 3)) ∧
      (rState (t.rcb r) = 1 →
        let v := startPreempt t r 2
        let w := { v with preempts := v.preempts ++ [{ rcb := r, die := m.port / 2, sess := some (n, m) }] }
        exec (.preempt m) s = .next (pump 31 (setSession w n { w.session n with running := some m }) n))) ∧
    (m.cmd = 0x0E → a % 256 = 0 → (find t.regions r).isSome = true → answers (.query m) stOK 0 (queryBytes t r)) ∧
    (m.cmd = 0x0F → len = 32 → answers (.attest m) stOK 0
      (attestReport t m.payload)) ∧
    (m.cmd = 0x10 → s.recorder.mode ≠ 3 →
      (m.arg1.toNat % 4 = 0 → ok (.recctlOff m) { t with recorder := Recorder.reset }) ∧
      (m.arg1.toNat % 4 = 1 → len = 8 → ring → ok (.recctlRecord m)
        { t with recorder := { Recorder.reset with mode := 1, base := a, size := natOfBytes (m.payload.take 8) } }) ∧
      (m.arg1.toNat % 4 = 2 → len = 16 → ring → natOfBytes (m.payload.drop 8) ≠ 0 → ok (.recctlReplay m)
        { t with recorder := { Recorder.reset with
            mode := 2, base := a, size := natOfBytes (m.payload.take 8), count := BitVec.ofNat 64 (natOfBytes (m.payload.drop 8)),
            ctl := some (n, m) } }) ∧
      (m.arg1.toNat % 4 = 3 → answers (.recctlBadarg m) stBADARG 0 [])) ∧
    (pageArg m = true →
      (let begins := fun (i : Instr) (kind : HandKind) => handOf t a = none →
         let s1 := setPage { t with hands := t.hands ++ [⟨a, kind, false⟩] } (a / 65536) { t.page (a / 65536) with trans := true }
         let v := if queueClear t a 65536 && (flushOf t (mgmtOf a) 0).isNone then sendRecalls s1 a else s1
         exec i s = .next (pump 31 (setSession v n { v.session n with running := some m }) n)
       let goes := fun (i : Instr) (v : State) => ∀ h, handOf t a = some h → handReady t h = true → pageLocked t a 65536 = false → ok i v
       (m.cmd = 0x21 → (t.page (a / 65536)).state = 0 →
         begins (.pgrecall m) (.give (m.arg1.toNat / 2) (bit m.arg1 0)) ∧
         goes (.pgrecall m) (handOver t a (m.arg1.toNat / 2) (bit m.arg1 0))) ∧
       (m.cmd = 0x22 → (t.page (a / 65536)).state ≠ 0 → begins (.pginv m) .drop ∧ goes (.pginv m) (dropShared t a))) ∧
      (∀ own, m.cmd = 0x24 → j ≤ 16 → m.arg1.toNat / 2 = segOff j → len = segLen j → (t.page (a / 65536)).asked = some own →
        ok (.pgxfer m) (installSegment t a j own m.payload)) ∧
      (m.cmd = 0x26 → (t.page (a / 65536)).asked.isSome = true → ok (.pgrefuse m) (pageFails t (a / 65536)))) ∧
    (m.cmd = 0x23 → answers (.pgiack m) stBADARG 0 []) ∧ (m.cmd = 0x25 → answers (.pgdone m) stBADARG 0 []) ∧
    (m.cmd = 0x27 → answers (.pgack m) stBADARG 0 []) ∧
    (m.cmd = 0x04 → exec (.reset m) s = .next (pump 31 (restartBoot t) n)) ∧
    (knownCode m.cmd.toNat = false → answers (.badcmd m) stBADCMD 0 []) ∧
    (deviceCode m.cmd.toNat = true → answers (.deviceOnlyCode m) stBADARG 0 [])

/-- R12, R46 to R48, R52, R53, R60 to R64, R66, R201, R408: messages and operations outside the sessions' order. STATUS and RESEND
are answered at once; an ATOM enters its home's queue, or is answered from the cache; a reply of the peer frees what it
acknowledges; the device asks its manager for a page; a remote read completes, and a remote write when its WRBs, which it first
sends, are acknowledged; an unreliable request gets an error; a port fails over; replay applies its next record. It rests also on
log entries 15, 24, 47, 48, 51, 82, 84, 85 and 86, the model's
reading. -/
def Obligations.PortOperationsComplete : Prop :=
  ∀ (s : State) (m : Msg) (port ep addr len : Nat) (data : List Byte) (e : IdemEntry) (op : AtomOp),
    let w := wakeHost s m.port
    let a := m.arg0.toNat
    let n := m.sess.toNat
    let plain := arrives s m = true ∧ isReply m = false ∧ badHeader m = false ∧ s.boot.state = 4 ∧ m.seq = 0
    (plain → m.cmd = 0x01 → exec (.status m) s = .next (answerPlain (ackPlain w m) m stOK 0 (statusBytes (ackPlain w m) n))) ∧
    (plain → m.cmd = 0x02 → ownSession w m = none → n < 64 →
      let x := w.session n
      let from_ : BitVec 32 := m.arg0.setWidth 32
      let after := decide (0 < seqDist x.lsent from_) && decide (seqDist x.lsent from_ < 2 ^ 31)
      (after = true → exec (.resend m) s = .next (answerPlain w m stOK x.lsent.toNat [])) ∧
      (∀ q r, after = false → x.ring = q :: r → notBefore q.seq from_ = true →
        exec (.resend m) s = .next (answerPlain (resendFrom w n from_ m.port) m stOK x.lsent.toNat [])) ∧
      (∀ q r, after = false → x.ring = q :: r → notBefore q.seq from_ = false →
        exec (.resend m) s = .next (answerPlain w m stGAP q.seq.toNat []))) ∧
    (plain → m.cmd = 0x0C → atomOf (m.arg1.toNat % 16) = some op → atomBad m = false → guarded a (atomSize m) = false →
      s.recorder.mode ≠ 2 →
      let aseq : BitVec 32 := m.arg1.extractLsb' 16 32
      let hit := fun (e : IdemEntry) => decide (e.ep = m.ep) && decide (e.aseq = aseq) && !e.out
      (((find w.idem m.port).getD []).find? hit = none → exec (.atom m) s = .next (startAtom w m aseq op)) ∧
      (∀ v, ((find w.idem m.port).getD []).find? hit = some e → e.res = some v →
        exec (.atom m) s = .next (answerPlain w m v.2.toNat 0 v.1))) ∧
    (arrives s m = true → isReply m = true → badHeader m = false → m.seq = 0 → m.cmd ≠ 0x01 → ownSession w m = some n →
      ownSession (ackPlain w m) m = some n → exec (.coltosReply m) s = .next (pumpSession (ackPlain w m) n)) ∧
    (∀ own, askedPage s m = some own → exec (.pgreq m) s = .next (sendManager
      (setPage (wakeIf s (.mgmt (dieOf (a / 65536 * 65536)))) (a / 65536) { s.page (a / 65536) with asked := some own }) 0x20 (a / 65536 * 65536) (BitVec.ofNat 48 (b2n own)) 0)) ∧
    (portUp s port = true →
      let v := { wakeFor s (.port port) with nextRem := s.nextRem + 1 }
      (s.boot.state = 4 → s.recorder.mode ≠ 2 → inMemory addr data.length = true → guarded addr data.length = false →
        portHeld v addr data.length true = false →
        exec (.remoteWrite port ep addr data) s = .next (keepRemote (portWrite v port addr data (.remote s.nextRem))
          { id := s.nextRem, sent := true, port := port, ep := ep, addr := addr, len := data.length, write := true, data := data })) ∧
      (∀ o : RemoteOp, o.sent = true → engBusy s (.remote o.id) = false →
        tryRemote s o = complete (appendRecord s 1 255 o.port 0 o.addr o.data) o true []) ∧
      (s.boot.state = 4 → s.recorder.mode ≠ 2 → inMemory addr len = true → portHeld v addr len false = false →
        exec (.remoteRead port ep addr len) s = .next (complete (wakeHomes v addr len)
          { id := s.nextRem, sent := false, port := port, ep := ep, addr := addr, len := len, write := false, data := [] } true (homeBytes v addr len))) ∧
      exec (.unreliableDeliveryRequest port ep) s =
        .next { s with comps := s.comps ++ [{ port := port, ep := ep, ok := false, data := [] }] } ∧
      (s.preempts = [] →
        let ps := zset s.ports port 0
        let other := ((List.range 8).find? (fun p => decide (zget ps p ≠ 0))).getD port
        exec (.portFailure port) s = .next { s with
          ports := ps
          sessions := s.sessions.map (fun (e : Nat × Session) =>
            (e.1, { e.2 with port := if e.2.port = port then other else e.2.port, running := e.2.running.map (movePort port other) })) })) ∧
    (let r := nextRecord s
     s.recorder.mode = 2 → replayQuiet s = true →
      (r.kind = 0 → exec .replayApply s = .next (runTurn (recordBegun s) replaySession (msgOf r.body r.port 0))) ∧
      (r.kind = 1 → portHeld s r.addr r.len true = false → exec .replayApply s = .next
        (replayEnds (portWrite (recordBegun s) r.port r.addr r.body .replay) .replay)) ∧
      (r.kind = 2 → exec .replayApply s = .next (applyAtom s r)) ∧
      (r.kind = 3 ∨ r.kind = 4 → exec .replayMonitorTimeout s = .next (replayDiverged s))) ∧
    (∀ pg, (s.page pg).want.isSome = true → exec (.pagewaitTimeout pg) s = .next (pageFails s pg)) ∧
    (∀ c k j acc, c < 256 → k < 64 → accOf (s.group c k) j = some acc → accessHeld s c k acc = true → (s.group c k).halt = none →
      exec (.lockholdTimeout c k j) s = .next (holdFault s c k acc))

/-! ### Boot, restarts and power -/

/-- R11 to R24, R53, R55, R56, R58: the steps of boot, restarts and power. It rests also on log entries 6, 40, 45, 49, 50, 52 and
87, the model's reading. -/
def Obligations.BootAndPowerComplete : Prop :=
  ∀ (s : State) (n : Nat) (m : Msg) (r : BistReport) (k : Block) (temp : Int),
    let up := alive s = true
    let enters := fun (i : Instr) (st : BitVec 2) (u : State) => exec i s = .next (setPower u k { s.blockPower k with state := st })
    (s.boot.powered = false → exec (.powerOn n) s = .next (restartBoot { s with
      boot := { s.boot with puf := Config.pufArray s.tick }, ports := zset [] 0 (portWidth n), power := [] })) ∧
    (up → s.boot.state = 0 →
      (zget s.ports 0 = 0 → exec (.portTrainingRetry n) s = .next { s with ports := zset s.ports 0 (portWidth n) }) ∧
      (zget s.ports 0 ≠ 0 → exec .bootwait s = .next (announce s 0x40 0 []))) ∧
    (let x := takeAck (s.session 0) m.ackseq
     let u := storeSegment (setSession (wakeHost s 0) 0 { x with port := 0, reorder := [] }) m.arg0.toNat m.payload
     arrives s m = true → isReply m = false → badHeader m = false → m.cmd = 0x03 → m.port = 0 → m.sess = 0 → m.seq ≠ 0 →
      s.boot.state.toNat ≤ 1 → (m.arg0 = 0 → s.boot.imgLen = 0) → (s.session 0).opened = true → (s.session 0).holder = some m.ep →
      (s.session 0).reorder = [] → (s.session 0).running = none → m.seq = seqSucc (s.session 0).lacc → ringFull x = false →
      s.recorder.mode = 0 →
      (bit m.arg1 0 = false → exec (.fwload m) s = .next (accepted u 0 m stOK 0 [])) ∧
      (bit m.arg1 0 = true → Config.imageWellFormed (imageBytes u) = false →
        exec (.fwload m) s = .next (accepted (dropImage u) 0 m stIMGFORMAT 0 [])) ∧
      (bit m.arg1 0 = true → Config.imageWellFormed (imageBytes u) = true →
        let v := { u with boot := { u.boot with state := 2 } }
        exec (.fwload m) s = .next (pump 31 (setSession v 0 { v.session 0 with running := some m }) 0))) ∧
    (s.boot.state = 2 → (s.session 0).running = some m →
      (verifyCode (imageBytes s) = stOK → exec .imageVerify s =
        .next (refuseWaiting 16 (acceptMsg (acceptImage s (imageBytes s)) 0 m stOK 0 []))) ∧
      (verifyCode (imageBytes s) ≠ stOK → exec .imageVerify s =
        .next (refuseWaiting 16 (acceptMsg (dropImage s) 0 m (verifyCode (imageBytes s)) 0 [])))) ∧
    (up → s.boot.state = 3 →
      let u := { s with boot := { s.boot with map := testedMap r } }
      (bistOk r = true → r.badChannels = [] → s.boot.helper ≠ [] → helperOk s s.boot.helper = true →
        exec (.bootBringup r) s = .next (announceReady (deriveKeys (initMemory (trainPorts u r)) s.boot.helper) [])) ∧
      (bistOk r = true → r.badChannels = [] → s.boot.helper ≠ [] → helperOk s s.boot.helper = false →
        exec (.bootBringup r) s = .next (stopBoot (initMemory (trainPorts u r)) stPUFFAIL)) ∧
      (bistOk r = true → r.badChannels = [] → s.boot.helper = [] → let h := freshHelper s
        exec (.bootBringup r) s = .next (announceReady (deriveKeys (initMemory (trainPorts u r)) h) h)) ∧
      (bistOk r = false → 0 ∉ r.badPorts → exec (.bootBringup r) s = .next (stopBoot u stBISTFAIL)) ∧
      (bistOk r = true → r.badChannels ≠ [] → exec (.bootBringup r) s = .next (stopBoot (initMemory (trainPorts u r)) stCHANFAIL))) ∧
    (up → s.boot.state = 5 → zget s.ports 0 ≠ 0 → exec .stopped s = .next (announce s 0x42 s.boot.cause.toNat (mapBytes s))) ∧
    (let u := { s with
       sessions := s.sessions.map (fun (e : Nat × Session) => (e.1, { e.2 with running := none, reorder := [] }))
       preempts := s.preempts.map (fun (p : Preempt) => { p with sess := none }) }
     up → 3 ≤ s.boot.state.toNat → exec .warmRestart s = .next (u.sessions.foldl (fun v e =>
      if e.2.opened then sendPlain v (mkMsg 0x01 e.1 0 e.2.port (e.2.holder.getD 0)) else v) u)) ∧
    (s.boot.powered = true → exec .powerRemoved s =
      .next { State.reset with tick := s.tick, agenda := s.agenda, outbox := s.outbox, comps := s.comps }) ∧
    (up → exec .thermtrip s = .next { State.reset with
      tick := s.tick, agenda := s.agenda, outbox := s.outbox, comps := s.comps,
      boot := { Boot.reset with powered := true, thermtrip := true } }) ∧
    (up → blockExists k = true →
      (blockIdle s k = true → (s.blockPower k).state = 0 → enters (.clockGatedEntry k) 1 s) ∧
      (blockIdle s k = true → (s.blockPower k).state = 1 → enters (.retentionEntry k) 2 s) ∧
      (blockIdle s k = true → mayBeOff k = true → (s.blockPower k).used = false → (s.blockPower k).state ≠ 3 →
        enters (.offEntry k) 3 (blockLoses k s)) ∧
      ((s.blockPower k).state ≠ 0 → exec (.wakeRequest k) s = .next (wakeFor s k)) ∧
      (120 ≤ temp → exec (.thermalThrottle k temp) s = .next (trip s)) ∧
      (temp < 120 → mayThrottle k = true → exec (.thermalThrottle k temp) s = .next (setPower s k { s.blockPower k with
        rate := if 105 ≤ temp then 2 else if 100 ≤ temp then (if (s.blockPower k).rate = 2 then 2 else 1)
          else if temp < 95 then 0 else (s.blockPower k).rate })))

/-! ### Dispatch, placement and the end of work -/

/-- R72, R79 to R84, R205: DISPATCH takes the selected candidate, a probe timeout is noted, PLACEMENT reserves everything at once
for the first chosen entry that fits, and an idle core halves the first instance that it can. It rests also on log entries 11,
16, 65 and 79, the model's reading. -/
def Obligations.SchedulerStepsComplete : Prop :=
  ∀ (s t : State) (die core c : Nat) (bad : List Nat) (q : Ready) (r : List Ready),
    let d := s.die die
    (candidates s die = q :: r → d.chosen = [] →
      let p := selectFrom s die (q :: r) q
      let u := s.setDie die { d with ready := removeFirst (fun x => decide (x = p)) d.ready
                                     chosen := [{ p with image := some (entryTcb s p) }], missed := [] }
      exec (.dispatch die) s = .next (if p = q then u else setTask u q.tcb 370 367 (fnat (u.tcb q.tcb) 370 367 + 1))) ∧
    (c < (candidates s die).length → c ∉ d.missed →
      exec (.tileProbeTimeout die c) s = .next (s.setDie die { d with missed := d.missed ++ [c] })) ∧
    (∀ l, d.chosen = q :: l → tryPlace s die bad q = some t → exec (.placement die bad) s =
      .next (t.setDie die { t.die die with chosen := removeFirst (fun x => decide (x = q)) (t.die die).chosen })) ∧
    (let ready := s.die (core / 64)
     ∀ i x, core < 256 → (s.core core).groups.any (fun g => g.2.resident) = false →
      (ready.ready ++ ready.chosen).any (selectable s (core / 64)) = false → s.recorder.mode ≠ 2 → s.insts = [(i, x)] → instRuns s i = true →
      tGrain x.image ≠ 0 → x.gang.headD 256 / 64 = core / 64 → tHgrp (s.tcb x.tcb) ≤ 64 → tryHalve s core i x = some t →
      exec (.halving core) s = .next t)

/-- R72, R77, R83, R88 to R91, R206, R360: grains are claimed by every group of the herd together; the final TDONE returns its
ordinal; an instance that is over finishes its task; a crossed quota is recorded once; a faulted instance is parked, and a pre-
empted one stopped, once every engine has stopped; a notice runs out; and the collector answers the PREEMPT. It rests also on
log entries 16, 31, 66, 67, 75, 78, 80 and 81, the model's reading. -/
def Obligations.InstanceStepsComplete : Prop :=
  ∀ (s : State) (i c k die : Nat) (x : Inst) (d : BitVec 8) (f : FaultInfo) (p : Preempt) (y : Region),
    let t := s.tcb x.tcb
    (find s.insts i = some x → instRuns s i = true →
      herdGroups s i = [(c, k, s.group c k)] → (s.group c k).ended = false → (s.core c).wps = [] → (s.group c k).wait = .grain d →
      (x.next.toNat < x.ihi.toNat →
        let hi := BitVec.ofNat 32 (Nat.min (x.next.toNat + tGrain x.image) x.ihi.toNat)
        exec (.grainClaim i) s = .next (endWait ((setInst s i { x with next := hi }).updGroup c k (fun g =>
          writeScal ((g.setScal 2 x.next).setScal 3 hi) d 1)) c k)) ∧
      (x.ihi.toNat ≤ x.next.toNat → exec (.grainClaim i) s = .next (endWait (s.updGroup c k (fun g => writeScal g d 0)) c k))) ∧
    ((s.group c k).wait = .tdone d → (s.group c k).quiet = true → (s.group c k).inst = i → find s.insts i = some x → (s.core c).wps = [] →
      let u := updInst s i (fun x => if x.marks.contains (s.group c k).herdIdx then x else { x with marks := x.marks ++ [(s.group c k).herdIdx] })
      exec (.finalTdoneMark c k) s = .next (endWait (u.updGroup c k (fun g =>
        writeScal g d (BitVec.ofNat 32 (marksOf u i).length))) c k)) ∧
    (find s.insts i = some x → instOver s i x = true →
      let u := setTask (setInst s i { x with state := .finished }) x.tcb 379 371 (tInst t - 1)
      tGrain x.image = 0 → tInst (u.tcb x.tcb) = 0 →
      u.sched.any (fun d => (d.2.ready ++ d.2.chosen).any (fun q => decide (q.tcb = x.tcb))) = false →
      exec (.instanceFinish i) s = .next (settleWork u [.done x.tcb])) ∧
    (find s.regions k = some y → y.crossed = false → fnat y.rcb 1215 1152 ≠ 0 → fnat y.rcb 1215 1152 ≤ fnat y.rcb 1279 1216 →
      exec (.quotaCrossing k) s = .next (writeRecord { s with regions := put s.regions k { y with crossed := true } } k
        (smallRecord 3 cQUOTA.toNat 0))) ∧
    (find s.insts i = some x → x.flt = some f → toInterrupt s i = [] → instStopped s i x false = true →
      (f.kill = true → x.state ≠ .killed → exec (.faultPark i) s = .next (killInst s i x)) ∧
      (f.kill = false → x.state ≠ .killed → (s.group f.core f.slot).inst = i → f.cause ≠ cSIDEFAULT → f.pc ≠ 0 →
        let u := stopInst s i x .parked
        exec (.faultPark i) s = .next (taskFaults (writeRecord u (tRcb x.image)
          (faultRecord x f (s.group f.core f.slot).locks)) x.tcb))) ∧
    (find s.insts i = some x → x.state = .stopping → x.flt = none → toInterrupt s i = [] → instStopped s i x true = true →
      exec (.engineStop i) s = .next (stoppedNow s i x)) ∧
    ((s.group c k).preempt = true → (s.group c k).prenote ≠ 0 →
      exec (.prenoteTimeout c k) s = .next (s.setGroup c k { s.group c k with prenote := 0 })) ∧
    (∀ n m, s.preempts = [p] → p.die = die → anyLive s (subtree s p.rcb) = false → p.sess = some (n, m) →
      exec (.collectorComplete die) s = .next (acceptMsg (endPreempt { s with preempts := [] } p.rcb) n m stOK 0 []))

/-- R118 to R120, R210, R211, R371: the events of a core. A firing is taken from its list and consumed by its sink: a waiting side
core wakes, a gated copy starts, or it is counted; the timer's expiry pulses source 30; a walk by one of the cluster's 16
walkers that finds its page fills the cluster's TLB, its non-leaf entries, and the TLB of every core that waits for the page,
and ends their misses; one that finds none ends the misses alone. It rests also on log entry 12, the model's reading. -/
def Obligations.CoreEventsComplete : Prop :=
  ∀ (s u : State) (c k i v : Nat) (e : TlbEntry),
    let core := s.core c
    (k ∈ core.firings → core.sideOwn = some i →
      let t := s.setCore c { core with firings := removeFirst (fun j => decide (j = k)) core.firings }
      consumeFiring t c i k = some u → exec (.eventFiring c k) s = .next u) ∧
    (core.timer ≠ none → exec (.sideTimerExpiry c) s = .next (pulse (s.updCore c (fun h => { h with timer := none })) c 30)) ∧
    (let u := s.cluster (c / 8)
     ∀ w : Walk, (u.walks.take 16).find? (fun w => decide (w.root = BitVec.ofNat 30 k) && decide (w.page = v % 2 ^ 48 / 4096)) = some w →
      (∀ x, walk s u.upper w.root (w.page * 4096) = .error x → exec (.walkComplete c k v) s = .next (w.cores.foldl (fun t c =>
        t.updCore c (fun h => { h with miss := h.miss.filter (fun m => decide (m ≠ (w.root, w.page))) }))
        { s with clus := put s.clus (c / 8) { u with walks := u.walks.filter (fun x => decide (x ≠ w)) } })) ∧
      (walk s u.upper w.root (w.page * 4096) = .ok e → exec (.walkComplete c k v) s = .next
        (((u.walks.filter (fun w => inEntry e w.root w.page)).flatMap (fun w => w.cores)).dedup.foldl (fun t c => t.updCore c (fun h =>
          { h with tlb := fillTlb h.tlb e, miss := h.miss.filter (fun m => !(inEntry e m.1 m.2)) }))
          (noteAttr { s with clus := put s.clus (c / 8) ⟨fillClus u.tlb e, fillUpper u.upper (walkUppers s u.upper w.root (w.page * 4096)),
            u.walks.filter (fun w => !(inEntry e w.root w.page))⟩ } e))))

/-! ### Steps, words and the state after reset -/

/-- R102, R209, R213 to R215, R366: a step runs the decoded instruction. Where the next turn is a group's, the group may start, its
packet can be fetched and passes its checks, the step is `exec` of the instruction of the word at its PC, or of the illegal
encoding where the word has none; where the turn is a side core's, of the instruction of the word in its instruction store;
where it is an event, of the event. What follows every turn follows. It rests also on log entries 1, 17 and 71, the model's
reading. -/
def Obligations.StepRunsDecodedInstruction : Prop :=
  ∀ (s : State) (l : List Turn) (c k : Nat) (b : Bool),
    let runs := fun (i : Instr) (t : State) => step s = (match exec i t with
      | .next u => .next (afterTurn u)
      | .fault f => .fault f
      | .refused r => .refused r)
    let at_ := fun w0 w => { s with
      agenda := l, focus := { groupFocus (s.group c k) c k with ctl := w0, word := w } }
    (s.agenda = .group c k :: l →
      let g := s.group c k
      groupReady s g = true → g.entry = none → g.prenote ≠ 1 → stoppedCopy s c k g.inst = none → g.owed = none → g.halt = none →
      g.follow = none → g.far = none →
      modeOk g.mode = true → fmtOk g.fmt = true →
      ∀ pa ar gn rg, check ((at_ 0 0).setCur g) c (instRoot s g.inst) ((BitVec.ofNat 48 (pcPacket g.pc)).signExtend 64) 32 .fetch =
        .ok pa ar gn rg →
      let ws := packetWords s pa
      let w := ws.getD (pcSlot g.pc) 0
      badPacket ws (pcSlot g.pc) = none →
      (∀ i, decodeGroup w = some i → runs i ((at_ (ws.getD 0 0) w).setCur g)) ∧
      (decodeGroup w = none → runs (.illegalEncoding w) ((at_ (ws.getD 0 0) w).setCur g))) ∧
    (s.agenda = .side c b :: l → sideReady s c b = true →
      let d := (s.core c).side b
      let w := sideWord d
      let f : Focus := { core := c, slot := 0, storer := b, ctl := 0, word := w, step := false, refused := d.refused }
      let t := State.updCore { s with agenda := l, focus := f } c (fun h => h.setSide b { d with held := [], refused := none })
      d.pc.toNat % 4 = 0 → d.pc.toNat ≤ 0x3FFC →
      (∀ i, decodeSide w = some i → runs i t) ∧ (decodeSide w = none → runs (.sideUnsupportedEncoding w) t)) ∧
    (∀ i, s.agenda = .event i :: l → isEvent i = true →
      runs i { s with agenda := l, focus := { s.focus with step := false } })

/-- R213 to R232, R366, R367: words written out bit by bit from the encoding tables decode to their instructions, at least one of
each format and family, and a word with an unassigned opcode or with an unused field that is not zero decodes to none. It rests
also on log entry 72, the model's reading. -/
def Obligations.SpecWordsDecode : Prop :=
  decodeGroup 0b0000_0001_111111111111111111111100#32 = some (.bra (-4)) ∧
  decodeGroup 0b0000_0010_01_1_00_011_0000000000000101#32 = some (.brp 1 1 3 5) ∧
  decodeGroup 0b0000_0111_00_0_00_111_1111111111111111#32 = some (.bdiv 0 7 (-1)) ∧
  decodeGroup 0b0000_1100_00000000_0000000000101010#32 = some (.trap 42) ∧
  decodeGroup 0b0010_0000_00000001_00000010_00000011#32 = some (.add 1 2 3) ∧
  decodeGroup 0b0100_0101_10100000_10100001_00011111#32 = some (.shlI 160 161 31) ∧
  decodeGroup 0b0011_1100_10100000_1000000000000000#32 = some (.ldi 160 0x8000) ∧
  decodeGroup 0b0101_0011_00000001_00000010_00000011#32 = some (.fma 1 2 3) ∧
  decodeGroup 0b0110_0010_00000001_00000010_0011_0010#32 = some (.cvt 1 2 3 2) ∧
  decodeGroup 0b0111_0000_00000001_00000010_00000011#32 = some (.shfl 1 2 3) ∧
  decodeGroup 0b1000_0010_00000001_10100000_11101111#32 = some (.ldw 1 160 239) ∧
  decodeGroup 0b1000_1011_00000001_00000010_00000_100#32 = some (.sts 1 2 4) ∧
  decodeGroup 0b1001_0011_00000001_00000010_00000011#32 = some (.aadd 1 2 3) ∧
  decodeGroup 0b1010_1011_00000_010_0000000000000111#32 = some (.cntwait 2 7) ∧
  decodeGroup 0b1011_0001_10100000_10100001_000000_1_0#32 = some (.adrop 160 161 1 0) ∧
  decodeGroup 0b1100_0010_10_01_0_00001000_00010000_010#32 = some (.mmas 2 1 8 16 2) ∧
  decodeGroup 0b1100_1000_1_000_1_0_11_00000000_00000000#32 = some (.qinit 1 1 0 3) ∧
  decodeGroup 0b1101_0001_10100000_10100010_10100100#32 = some (.lock 160 162 164) ∧
  decodeGroup 0b1110_0000_0000_0101_10100010_10100100#32 = some (.wpset 5 162 164) ∧
  decodeGroup 0b1111_0000_10100000_10100010_00000000#32 = some (.tspawn 160 162) ∧
  decodeGroup 0b1111_0101_10100000_0000001100000101#32 = some (.csrrd 160 0x305) ∧
  decodeSide 0b0000011_00000_00101_000_00000_0001011#32 = some (.mtimer 5) ∧
  decodeSide 0b00101_00_00111_00110_001_00000_0101011#32 = some (.mbarc 5 7 6) ∧
  decodeSide 0b111111111111_00010_000_00001_0010011#32 = some (.rvAddi 1 2 0xFFF) ∧
  decodeSide 0b1_111111_00010_00001_000_1110_1_1100011#32 = some (.rvBeq 1 2 0xFFE) ∧
  decodeSide 0b0_0000000100_0_00000000_00001_1101111#32 = some (.rvJal 1 4) ∧
  decodeSide 0b0000001_00011_00010_100_00001_0110011#32 = some (.rvDiv 1 2 3) ∧
  decodeGroup 0b0000_0000_00000000_00000000_00000000#32 = none ∧
  decodeGroup 0b0000_1011_00000000_00000000_00000001#32 = none ∧
  decodeSide 0b0000000_00001_00000_000_00000_0001011#32 = none

/-- R217 to R232, R366, R367: decoding and encoding agree, for every instruction that has an encoding and every value of its
operands: a word has at most one instruction in a group and one in a side core, and decoding the word of an instruction gives
the instruction back. It rests also on log entry 72, the model's reading. -/
def Obligations.DecodingInvertsEncoding : Prop :=
  ∀ (i : Instr) (w : BitVec 32), encode i = some w ↔ decodeGroup w = some i ∨ decodeSide w = some i

/-- R15, R34, R56, R112, R120, R195, R220, R329, R343: the machine after reset holds no image, waits for one, and has its directory,
lock table, watch predicates, route words, cycle counters, SPILL and HNDL at 0; no memory is listed, so its memories have their
canonical form. Which fields reset leaves at 0 where no rule gives a value is the model's choice (log entry 4), as are the
unlisted bytes (log entry 3). -/
def Obligations.ResetStateAsSpecified : Prop :=
  let s := State.reset
  s.boot.state = 0 ∧ s.boot.imgLen = 0 ∧ Memory.wf s.live = true ∧ Memory.wf s.back = true ∧
  (∀ line, s.dirAt line = DirEntry.reset ∧ find s.locks line = none ∧ find s.resv line = none) ∧
  (∀ n, (s.session n).opened = false ∧ (s.session n).lacc = 0 ∧ (s.session n).lsent = 0) ∧
  (∀ c, (s.core c).clk = 0 ∧ (∀ n, (s.core c).watch n = Watch.reset ∧ (s.core c).route n = 0)) ∧
  (∀ c g, (s.group c g).resident = false ∧ (s.group c g).hndl = 0 ∧ (s.group c g).spill = 0 ∧ (s.group c g).stack = [])

/-- R171 with log entry 3: every step from every state whose two memories have their canonical form leaves them canonical: the
listed addresses rise, and no listed byte is one that an unlisted address reads as. -/
def Obligations.StepsKeepMemoryCanonical : Prop :=
  ∀ s u : State, Memory.wf s.live = true → Memory.wf s.back = true → step s = .next u →
    Memory.wf u.live = true ∧ Memory.wf u.back = true

/-! ### Frames of stores, and barriers -/

/-- R174, R175, R177: a store to HC memory that drains changes no byte outside the bytes it stores to, as any reader finds it at its
home; where no core owns their words and the store is not stale, each of its own bytes then reads as the datum's. A store to CP
memory changes no byte of memory while its core owns no word and its line needs no victim in the level-one cache. It rests also
on log entry 33, the model's reading. -/
def Obligations.StoresChangeOnlyTheirBytes : Prop :=
  ∀ (s t : State) (core slot acc : Nat) (a : Access), accOf (s.group core slot) acc = some a → a.kind = .store → a.scr = false →
    a.mail = false → exec (.drain core slot acc) s = .next t →
    (a.regn ≠ 1 → a.regn ≠ 2 → (∀ x, x < a.addr ∨ a.addr + a.size ≤ x → homeByte t x = homeByte s x) ∧
      (a.sent = false → a.perf = false → mayPerform (s.group core slot).accs a = true →
        heldByOther s core slot (lineOf a.addr) = false → accStale s core a = false → writesThrough s core a = false → Memory.wf s.live = true →
        ∀ i, i < a.size → i < 16 → inArenaTable (a.addr + i) = false → find s.own ((a.addr + i) / 4) = none →
          homeByte t (a.addr + i) = a.val.extractLsb' (8 * i) 8)) ∧
    (a.regn = 2 → (∀ w, find s.own w ≠ some core) →
      (find (s.core core).l1 (lineOf a.addr)).isSome = true ∨ (freeWay (s.core core) (lineOf a.addr)).isSome = true →
      ∀ x, homeByte t x = homeByte s x)

/-- R158: a wait for phase p ends once d = (PHASE - p) mod 65,536 lies between 1 and 32,767: with POISON where d is 1 and LPOISON is
1, with OLD where d is at least 2, and otherwise with OK. The instruction that waits is WAITPH. Where the barrier's line has an
uncorrectable error, the wait that would end takes SOFTERR instead (R191). -/
def Obligations.PhaseWaitsEndByDistance : Prop :=
  ∀ (s : State) (h j at_ : Nat) (scr : Bool) (p : BitVec 16) (e : BitVec 8),
    let g := s.group h j
    let b := barRead s h g.inst scr at_
    let d := ((b.extractLsb' 14 16).toNat + 65536 - p.toNat) % 65536
    let status : Word := if d = 1 then (if b.extractLsb' 12 1 = 1 then 1 else 0) else 2
    g.wait = .waitph at_ scr p e → g.accs = [] → heldByOther s h j (lineOf at_) = false →
    (1 ≤ d ∧ d ≤ 32767 → barSoft s scr at_ = false →
      exec (.waitphEnd h j) s = .next (endWait ((selfInv s h).updGroup h j (fun g => writeScal g e status)) h j)) ∧
    (1 ≤ d ∧ d ≤ 32767 → barSoft s scr at_ = true →
      exec (.waitphEnd h j) s = .next (eventTrap s h j (barCause s h j cSOFTERR) g.pc g.pc)) ∧
    (¬(1 ≤ d ∧ d ≤ 32767) → exec (.waitphEnd h j) s = .next s)

/-- R156, R157: a credit of t arrivals and n bytes with the flag p. TGOT and BGOT grow no further than TEXP and BEXP, a credit that
exceeds one of them sets OVER, p sets POISON, and where both are then reached the phase completes: LPOISON takes POISON, POISON and
both counts become 0, and PHASE goes on modulo 65,536; TEXP and BEXP stay. -/
def Obligations.CreditsCompletePhases : Prop :=
  ∀ (b : BitVec 128) (t n : Nat) (p : Bool),
    let field := fun (x : BitVec 128) (hi lo : Nat) => (x.extractLsb' lo (hi - lo + 1)).toNat
    let c := barCredit b t n p
    let tg := min (field b 46 30 + t) (field b 63 47)
    let bg := min (field b 95 64 + n) (field b 127 96)
    let full := tg = field b 63 47 ∧ bg = field b 127 96
    let poison := if p then 1 else field b 13 13
    field c 63 47 = field b 63 47 ∧ field c 127 96 = field b 127 96 ∧
    field c 11 11 = (if field b 63 47 < field b 46 30 + t ∨ field b 127 96 < field b 95 64 + n then 1 else field b 11 11) ∧
    (full → field c 46 30 = 0 ∧ field c 95 64 = 0 ∧ field c 13 13 = 0 ∧ field c 12 12 = poison ∧
      field c 29 14 = (field b 29 14 + 1) % 65536) ∧
    (¬full → field c 46 30 = tg ∧ field c 95 64 = bg ∧ field c 13 13 = poison ∧ field c 12 12 = field b 12 12 ∧
      field c 29 14 = field b 29 14)
end

