-- ==== Sys2Proof/Laws/Bits.lean ====
section
/-! SUPPORT. Fields of registers: what a written field leaves in itself and in the others. -/
namespace Sys2Proof.Machine

theorem getLsbD_ofNat_shl (n v lo i : Nat) :
    (BitVec.ofNat n (v <<< lo)).getLsbD i = (decide (i < n) && decide (lo ≤ i) && v.testBit (i - lo)) := by
  rw [BitVec.getLsbD_ofNat, Nat.testBit_shiftLeft]
  by_cases h1 : i < n <;> by_cases h2 : lo ≤ i <;> simp [h1, h2]

/-- A bit of a register of which a field has been replaced. -/
theorem getLsbD_fput {n : Nat} (x : BitVec n) (hi lo v i : Nat) :
    (fput x hi lo v).getLsbD i =
      if lo ≤ i ∧ i - lo < hi - lo + 1 then decide (i < n) && v.testBit (i - lo) else x.getLsbD i := by
  unfold fput
  simp only [BitVec.getLsbD_or, BitVec.getLsbD_and, BitVec.getLsbD_not, getLsbD_ofNat_shl, Nat.testBit_two_pow_sub_one,
    Nat.testBit_mod_two_pow]
  by_cases h1 : i < n
  · by_cases h2 : lo ≤ i
    · by_cases h3 : i - lo < hi - lo + 1 <;> simp [h1, h2, h3]
    · simp [h1, h2]
  · have : x.getLsbD i = false := BitVec.getLsbD_of_ge x i (by omega)
    simp [h1, this]

/-- A field as a number is the bits of the field. -/
theorem fnat_eq {n : Nat} (x : BitVec n) (hi lo : Nat) : fnat x hi lo = (x.extractLsb' lo (hi - lo + 1)).toNat := by
  simp [fnat, BitVec.extractLsb'_toNat]

/-- A field that has been written holds what was written. -/
theorem extract_fput_same {n : Nat} (x : BitVec n) (hi lo v : Nat) (h : hi < n) (hl : lo ≤ hi) :
    (fput x hi lo v).extractLsb' lo (hi - lo + 1) = BitVec.ofNat (hi - lo + 1) v := by
  apply BitVec.eq_of_getLsbD_eq
  intro i hi'
  rw [BitVec.getLsbD_extractLsb', getLsbD_fput, BitVec.getLsbD_ofNat]
  rw [if_pos (by omega)]
  simp [hi', show lo + i < n by omega]

/-- A field apart from the one that has been written is as before. -/
theorem extract_fput_ne {n : Nat} (x : BitVec n) (hi lo v l k : Nat) (h : l + k ≤ lo ∨ hi < l) (hl : lo ≤ hi) :
    (fput x hi lo v).extractLsb' l k = x.extractLsb' l k := by
  apply BitVec.eq_of_getLsbD_eq
  intro i hi'
  rw [BitVec.getLsbD_extractLsb', BitVec.getLsbD_extractLsb', getLsbD_fput]
  rw [if_neg (by omega)]

theorem fnat_fput_same {n : Nat} (x : BitVec n) (hi lo v : Nat) (h : hi < n) (hl : lo ≤ hi) :
    fnat (fput x hi lo v) hi lo = v % 2 ^ (hi - lo + 1) := by
  rw [fnat_eq, extract_fput_same x hi lo v h hl, BitVec.toNat_ofNat]

theorem fnat_fput_ne {n : Nat} (x : BitVec n) (hi lo v h l : Nat) (hh : h < lo ∨ hi < l) (hl : lo ≤ hi) (hk : l ≤ h) :
    fnat (fput x hi lo v) h l = fnat x h l := by
  rw [fnat_eq, fnat_eq, extract_fput_ne x hi lo v l (h - l + 1) (by omega) hl]

/-- A bit of a register one of whose bits has been replaced. -/
theorem bit_setBit {n : Nat} (x : BitVec n) (i j : Nat) (b : Bool) (h : i < n) :
    bit (setBit x i b) j = if j = i then b else bit x j := by
  unfold setBit bit
  rw [getLsbD_fput]
  by_cases e : j = i
  · subst e; cases b <;> simp [h]
  · rw [if_neg (by omega), if_neg e]

end Sys2Proof.Machine
end

