-- ==== Sys2Proof/Laws/Boot.lean ====
section
/-! SUPPORT. Helper data fit the response that made them. -/
namespace Sys2Proof.Machine

@[simp] theorem length_natBytes (v n : Nat) : (natBytes v n).length = n := by simp [natBytes]

/-- Fresh helper data fit when they are sent back (R16, R20). -/
theorem helperOk_freshHelper (s : State) : helperOk s (freshHelper s) = true := by
  have h : (freshHelper s).take 8 = natBytes s.tick 8 := List.take_left' (length_natBytes _ _)
  rw [helperOk, h, freshHelper]
  simp

/-- What an enrolment made goes on fitting as long as the kept response stands, whatever the time (R16). -/
theorem helperOk_of_puf_eq (s t : State) (h : t.boot.puf = s.boot.puf) : helperOk t (freshHelper s) = true := by
  simpa [helperOk, h] using helperOk_freshHelper s

end Sys2Proof.Machine
end

