-- ==== Sys2Proof/Laws/Sparse.lean ====
section
/-! SUPPORT. Reads after writes of tables and maps, and the canonical form that every operation on them keeps. -/
namespace Sys2Proof.Machine

variable {α : Type} {w : Nat}

@[simp] theorem find_nil (k : Nat) : find ([] : Tbl α) k = none := rfl

@[simp] theorem find_put_same (m : Tbl α) (k : Nat) (v : α) : find (put m k v) k = some v := by
  induction m with
  | nil => simp [put, find]
  | cons e r ih =>
    obtain ⟨j, x⟩ := e
    by_cases h1 : k < j
    · simp [put, find, h1]
    · by_cases h2 : k = j
      · simp [put, find, h2]
      · simp [put, find, h1, h2, Ne.symm h2, ih]

theorem find_put_ne (m : Tbl α) {j k : Nat} (v : α) (h : j ≠ k) : find (put m k v) j = find m j := by
  induction m with
  | nil => simp [put, find, Ne.symm h]
  | cons e r ih =>
    obtain ⟨i, x⟩ := e
    by_cases h1 : k < i
    · simp [put, find, h1, Ne.symm h]
    · by_cases h2 : k = i
      · subst h2; simp [put, find, Ne.symm h]
      · simp [put, find, h1, h2, ih]

@[simp] theorem put_put (m : Tbl α) (k : Nat) (v u : α) : put (put m k v) k u = put m k u := by
  induction m with
  | nil => simp [put]
  | cons e r ih =>
    obtain ⟨j, x⟩ := e
    by_cases h1 : k < j
    · simp [put, h1]
    · by_cases h2 : k = j
      · simp [put, h2]
      · simp [put, h1, h2, ih]

/-- Writes at different keys commute. -/
theorem put_comm (m : Tbl α) {j k : Nat} (u v : α) (h : j ≠ k) : put (put m j u) k v = put (put m k v) j u := by
  induction m with
  | nil => simp only [put]; split_ifs <;> first | rfl | omega
  | cons e r ih =>
    obtain ⟨i, w⟩ := e
    simp only [put]
    split_ifs <;> simp only [put] <;> split_ifs <;> first | rfl | omega | (rw [ih])

theorem find_del_ne (m : Tbl α) {j k : Nat} (h : j ≠ k) : find (del m k) j = find m j := by
  induction m with
  | nil => rfl
  | cons e r ih =>
    obtain ⟨i, x⟩ := e
    by_cases h2 : k = i
    · subst h2; simp [del, find, Ne.symm h]
    · simp [del, find, h2, ih]

theorem sortedAbove_weaken {a b : Nat} {m : Tbl α} (h : a ≤ b) (hm : sortedAbove (some b) m = true) :
    sortedAbove (some a) m = true := by
  cases m with
  | nil => rfl
  | cons e r =>
    obtain ⟨j, x⟩ := e
    simp only [sortedAbove, Bool.and_eq_true, decide_eq_true_eq] at hm ⊢
    exact ⟨by omega, hm.2⟩

theorem sortedAbove_none {a : Nat} {m : Tbl α} (h : sortedAbove (some a) m = true) : sorted m = true := by
  cases m with
  | nil => rfl
  | cons e r =>
    obtain ⟨j, x⟩ := e
    simp only [sorted, sortedAbove, Bool.and_eq_true, Bool.true_and] at h ⊢
    exact h.2

theorem sortedAbove_put {lo : Option Nat} {m : Tbl α} {k : Nat} (v : α)
    (hlo : ∀ b, lo = some b → b < k) (hm : sortedAbove lo m = true) : sortedAbove lo (put m k v) = true := by
  induction m generalizing lo with
  | nil => cases lo with
    | none => simp [put, sortedAbove]
    | some b => simpa [put, sortedAbove] using hlo b rfl
  | cons e r ih =>
    obtain ⟨j, x⟩ := e
    simp only [sortedAbove, Bool.and_eq_true] at hm
    by_cases h1 : k < j
    · cases lo with
      | none => simp [put, h1, sortedAbove, hm.2]
      | some b => simp [put, h1, sortedAbove, hm.2, hlo b rfl]
    · by_cases h2 : k = j
      · subst h2
        cases lo with
        | none => simp [put, sortedAbove, hm.2]
        | some b => simp [put, sortedAbove, hm.2, hlo b rfl]
      · simp only [put, h1, h2, if_false, sortedAbove, Bool.and_eq_true]
        exact ⟨hm.1, ih (fun b hb => by cases hb; omega) hm.2⟩

theorem sorted_put {m : Tbl α} (k : Nat) (v : α) (hm : sorted m = true) : sorted (put m k v) = true :=
  sortedAbove_put v (by simp) hm

theorem sortedAbove_del {lo : Option Nat} {m : Tbl α} (k : Nat) (hm : sortedAbove lo m = true) :
    sortedAbove lo (del m k) = true := by
  induction m generalizing lo with
  | nil => exact hm
  | cons e r ih =>
    obtain ⟨j, x⟩ := e
    have h0 := hm
    simp only [sortedAbove, Bool.and_eq_true] at hm
    by_cases h2 : k = j
    · simp only [del, h2, if_true]
      cases lo with
      | none => exact sortedAbove_none hm.2
      | some b => exact sortedAbove_weaken (by simpa using (of_decide_eq_true hm.1).le) hm.2
    · simp only [del, h2, if_false, sortedAbove, Bool.and_eq_true]
      exact ⟨hm.1, ih hm.2⟩

theorem sorted_del {m : Tbl α} (k : Nat) (hm : sorted m = true) : sorted (del m k) = true := sortedAbove_del k hm

theorem find_of_above {m : Tbl α} {k : Nat} (hm : sortedAbove (some k) m = true) : find m k = none := by
  induction m with
  | nil => rfl
  | cons e r ih =>
    obtain ⟨j, x⟩ := e
    simp only [sortedAbove, Bool.and_eq_true, decide_eq_true_eq] at hm
    have : j ≠ k := by omega
    simp only [find, this, if_false]
    exact ih (sortedAbove_weaken (by omega) hm.2)

theorem find_del_same {m : Tbl α} (k : Nat) (hm : sorted m = true) : find (del m k) k = none := by
  induction m with
  | nil => rfl
  | cons e r ih =>
    obtain ⟨j, x⟩ := e
    have h1 : sortedAbove (some j) r = true := by
      simpa [sorted, sortedAbove] using hm
    by_cases h2 : k = j
    · subst h2; simpa [del] using find_of_above h1
    · simp only [del, h2, if_false, find, Ne.symm h2]
      exact ih (sortedAbove_none h1)

/-! ### Maps of bit vectors -/

theorem zget_zset_ne (m : ZMap w) {j k : Nat} (v : BitVec w) (h : j ≠ k) : zget (zset m k v) j = zget m j := by
  unfold zget zset
  split
  · rw [find_del_ne m h]
  · rw [find_put_ne m v h]

theorem zget_zset_same {m : ZMap w} (k : Nat) (v : BitVec w) (hm : sorted m = true) : zget (zset m k v) k = v := by
  unfold zget zset
  split
  · next h => simp [find_del_same k hm, h]
  · simp

theorem mem_put {m : Tbl α} {k : Nat} {v : α} {e : Nat × α} (h : e ∈ put m k v) : e = (k, v) ∨ e ∈ m := by
  induction m with
  | nil => left; simpa [put] using h
  | cons d r ih =>
    obtain ⟨j, x⟩ := d
    by_cases h1 : k < j
    · simpa [put, h1] using h
    · by_cases h2 : k = j
      · simp only [put, h1, h2, if_true, if_false, lt_irrefl] at h
        rcases List.mem_cons.mp h with h | h
        · left; rw [h, h2]
        · right; exact List.mem_cons_of_mem _ h
      · simp only [put, h1, h2, if_false] at h
        rcases List.mem_cons.mp h with h | h
        · right; rw [h]; exact List.mem_cons_self
        · rcases ih h with h | h
          · left; exact h
          · right; exact List.mem_cons_of_mem _ h

theorem mem_del {m : Tbl α} {k : Nat} {e : Nat × α} (h : e ∈ del m k) : e ∈ m := by
  induction m with
  | nil => exact h
  | cons d r ih =>
    obtain ⟨j, x⟩ := d
    by_cases h2 : k = j
    · simp only [del, h2, if_true] at h
      exact List.mem_cons_of_mem _ h
    · simp only [del, h2, if_false] at h
      rcases List.mem_cons.mp h with h | h
      · rw [h]; exact List.mem_cons_self
      · exact List.mem_cons_of_mem _ (ih h)

theorem zwf_nil : zwf ([] : ZMap w) = true := rfl

/-- Every write of a map keeps its canonical form. -/
theorem zwf_zset {m : ZMap w} (k : Nat) (v : BitVec w) (hm : zwf m = true) : zwf (zset m k v) = true := by
  simp only [zwf, Bool.and_eq_true, List.all_eq_true] at hm ⊢
  unfold zset
  split
  · exact ⟨sorted_del k hm.1, fun e he => hm.2 e (mem_del he)⟩
  · next h =>
    refine ⟨sorted_put k v hm.1, fun e he => ?_⟩
    rcases mem_put he with he | he
    · rw [he]; simpa using h
    · exact hm.2 e he

theorem zwf_zsetRun {m : ZMap w} (k : Nat) (vs : List (BitVec w)) (hm : zwf m = true) : zwf (zsetRun m k vs) = true := by
  induction vs generalizing m k with
  | nil => exact hm
  | cons v r ih => exact ih (k + 1) (zwf_zset k v hm)

/-- What a run of writes leaves at a key outside it. -/
theorem zget_zsetRun_out (m : ZMap w) (k j : Nat) (vs : List (BitVec w)) (h : j < k ∨ k + vs.length ≤ j) :
    zget (zsetRun m k vs) j = zget m j := by
  induction vs generalizing m k with
  | nil => rfl
  | cons v r ih =>
    simp only [List.length_cons] at h
    rw [zsetRun, ih _ _ (by omega), zget_zset_ne _ _ (by omega)]

/-- What a run of writes leaves at a key inside it. -/
theorem zget_zsetRun_in {m : ZMap w} (k j : Nat) (vs : List (BitVec w)) (hm : zwf m = true) (h : j < vs.length) :
    zget (zsetRun m k vs) (k + j) = vs.getD j 0#w := by
  induction vs generalizing m k j with
  | nil => simp at h
  | cons v r ih =>
    have hs : sorted m = true := by simp only [zwf, Bool.and_eq_true] at hm; exact hm.1
    cases j with
    | zero => rw [zsetRun, zget_zsetRun_out _ _ _ _ (by omega)]; simpa using zget_zset_same k v hs
    | succ i =>
      have := ih (k + 1) i (zwf_zset k v hm) (by simpa using h)
      rw [zsetRun, show k + (i + 1) = k + 1 + i by omega, this]; simp

end Sys2Proof.Machine
end

