-- ==== Sys2Proof/Laws/State.lean ====
section
/-! SUPPORT. What each update of the state leaves unchanged, and what it leaves where it writes. -/
namespace Sys2Proof.Machine

/-! ### The fields of the state -/

@[simp] theorem State.setCore_tick (s : State) (c : Nat) (v : Core) : (s.setCore c v).tick = s.tick := rfl
@[simp] theorem State.setCore_agenda (s : State) (c : Nat) (v : Core) : (s.setCore c v).agenda = s.agenda := rfl
@[simp] theorem State.setCore_focus (s : State) (c : Nat) (v : Core) : (s.setCore c v).focus = s.focus := rfl
@[simp] theorem State.setCore_boot (s : State) (c : Nat) (v : Core) : (s.setCore c v).boot = s.boot := rfl
@[simp] theorem State.setCore_ports (s : State) (c : Nat) (v : Core) : (s.setCore c v).ports = s.ports := rfl
@[simp] theorem State.setCore_power (s : State) (c : Nat) (v : Core) : (s.setCore c v).power = s.power := rfl
@[simp] theorem State.setCore_sessions (s : State) (c : Nat) (v : Core) : (s.setCore c v).sessions = s.sessions := rfl
@[simp] theorem State.setCore_outbox (s : State) (c : Nat) (v : Core) : (s.setCore c v).outbox = s.outbox := rfl
@[simp] theorem State.setCore_idem (s : State) (c : Nat) (v : Core) : (s.setCore c v).idem = s.idem := rfl
@[simp] theorem State.setCore_remotes (s : State) (c : Nat) (v : Core) : (s.setCore c v).remotes = s.remotes := rfl
@[simp] theorem State.setCore_nextRem (s : State) (c : Nat) (v : Core) : (s.setCore c v).nextRem = s.nextRem := rfl
@[simp] theorem State.setCore_comps (s : State) (c : Nat) (v : Core) : (s.setCore c v).comps = s.comps := rfl
@[simp] theorem State.setCore_errors (s : State) (c : Nat) (v : Core) : (s.setCore c v).errors = s.errors := rfl
@[simp] theorem State.setCore_recorder (s : State) (c : Nat) (v : Core) : (s.setCore c v).recorder = s.recorder := rfl
@[simp] theorem State.setCore_pages (s : State) (c : Nat) (v : Core) : (s.setCore c v).pages = s.pages := rfl
@[simp] theorem State.setCore_live (s : State) (c : Nat) (v : Core) : (s.setCore c v).live = s.live := rfl
@[simp] theorem State.setCore_written (s : State) (c : Nat) (v : Core) : (s.setCore c v).written = s.written := rfl
@[simp] theorem State.setCore_back (s : State) (c : Nat) (v : Core) : (s.setCore c v).back = s.back := rfl
@[simp] theorem State.setCore_l2 (s : State) (c : Nat) (v : Core) : (s.setCore c v).l2 = s.l2 := rfl
@[simp] theorem State.setCore_arenas (s : State) (c : Nat) (v : Core) : (s.setCore c v).arenas = s.arenas := rfl
@[simp] theorem State.setCore_sliceGen (s : State) (c : Nat) (v : Core) : (s.setCore c v).sliceGen = s.sliceGen := rfl
@[simp] theorem State.setCore_drops (s : State) (c : Nat) (v : Core) : (s.setCore c v).drops = s.drops := rfl
@[simp] theorem State.setCore_seals (s : State) (c : Nat) (v : Core) : (s.setCore c v).seals = s.seals := rfl
@[simp] theorem State.setCore_sweeps (s : State) (c : Nat) (v : Core) : (s.setCore c v).sweeps = s.sweeps := rfl
@[simp] theorem State.setCore_flushes (s : State) (c : Nat) (v : Core) : (s.setCore c v).flushes = s.flushes := rfl
@[simp] theorem State.setCore_dir (s : State) (c : Nat) (v : Core) : (s.setCore c v).dir = s.dir := rfl
@[simp] theorem State.setCore_own (s : State) (c : Nat) (v : Core) : (s.setCore c v).own = s.own := rfl
@[simp] theorem State.setCore_wq (s : State) (c : Nat) (v : Core) : (s.setCore c v).wq = s.wq := rfl
@[simp] theorem State.setCore_locks (s : State) (c : Nat) (v : Core) : (s.setCore c v).locks = s.locks := rfl
@[simp] theorem State.setCore_pastLocks (s : State) (c : Nat) (v : Core) : (s.setCore c v).pastLocks = s.pastLocks := rfl
@[simp] theorem State.setCore_resv (s : State) (c : Nat) (v : Core) : (s.setCore c v).resv = s.resv := rfl
@[simp] theorem State.setCore_replicas (s : State) (c : Nat) (v : Core) : (s.setCore c v).replicas = s.replicas := rfl
@[simp] theorem State.setCore_fetches (s : State) (c : Nat) (v : Core) : (s.setCore c v).fetches = s.fetches := rfl
@[simp] theorem State.setCore_engReqs (s : State) (c : Nat) (v : Core) : (s.setCore c v).engReqs = s.engReqs := rfl
@[simp] theorem State.setCore_net (s : State) (c : Nat) (v : Core) : (s.setCore c v).net = s.net := rfl
@[simp] theorem State.setCore_nextPkt (s : State) (c : Nat) (v : Core) : (s.setCore c v).nextPkt = s.nextPkt := rfl
@[simp] theorem State.setCore_loopClock (s : State) (c : Nat) (v : Core) : (s.setCore c v).loopClock = s.loopClock := rfl
@[simp] theorem State.setCore_barred (s : State) (c : Nat) (v : Core) : (s.setCore c v).barred = s.barred := rfl
@[simp] theorem State.setCore_hands (s : State) (c : Nat) (v : Core) : (s.setCore c v).hands = s.hands := rfl
@[simp] theorem State.setCore_clus (s : State) (c : Nat) (v : Core) : (s.setCore c v).clus = s.clus := rfl
@[simp] theorem State.setCore_attrs (s : State) (c : Nat) (v : Core) : (s.setCore c v).attrs = s.attrs := rfl
@[simp] theorem State.setCore_regions (s : State) (c : Nat) (v : Core) : (s.setCore c v).regions = s.regions := rfl
@[simp] theorem State.setCore_tasks (s : State) (c : Nat) (v : Core) : (s.setCore c v).tasks = s.tasks := rfl
@[simp] theorem State.setCore_insts (s : State) (c : Nat) (v : Core) : (s.setCore c v).insts = s.insts := rfl
@[simp] theorem State.setCore_nextInst (s : State) (c : Nat) (v : Core) : (s.setCore c v).nextInst = s.nextInst := rfl
@[simp] theorem State.setCore_sched (s : State) (c : Nat) (v : Core) : (s.setCore c v).sched = s.sched := rfl
@[simp] theorem State.setCore_mailbox (s : State) (c : Nat) (v : Core) : (s.setCore c v).mailbox = s.mailbox := rfl
@[simp] theorem State.setCore_preempts (s : State) (c : Nat) (v : Core) : (s.setCore c v).preempts = s.preempts := rfl
@[simp] theorem State.setCore_decoders (s : State) (c : Nat) (v : Core) : (s.setCore c v).decoders = s.decoders := rfl
@[simp] theorem State.updCore_tick (s : State) (c : Nat) (f : Core → Core) : (s.updCore c f).tick = s.tick := rfl
@[simp] theorem State.updCore_agenda (s : State) (c : Nat) (f : Core → Core) : (s.updCore c f).agenda = s.agenda := rfl
@[simp] theorem State.updCore_focus (s : State) (c : Nat) (f : Core → Core) : (s.updCore c f).focus = s.focus := rfl
@[simp] theorem State.updCore_boot (s : State) (c : Nat) (f : Core → Core) : (s.updCore c f).boot = s.boot := rfl
@[simp] theorem State.updCore_ports (s : State) (c : Nat) (f : Core → Core) : (s.updCore c f).ports = s.ports := rfl
@[simp] theorem State.updCore_power (s : State) (c : Nat) (f : Core → Core) : (s.updCore c f).power = s.power := rfl
@[simp] theorem State.updCore_sessions (s : State) (c : Nat) (f : Core → Core) : (s.updCore c f).sessions = s.sessions := rfl
@[simp] theorem State.updCore_outbox (s : State) (c : Nat) (f : Core → Core) : (s.updCore c f).outbox = s.outbox := rfl
@[simp] theorem State.updCore_idem (s : State) (c : Nat) (f : Core → Core) : (s.updCore c f).idem = s.idem := rfl
@[simp] theorem State.updCore_remotes (s : State) (c : Nat) (f : Core → Core) : (s.updCore c f).remotes = s.remotes := rfl
@[simp] theorem State.updCore_nextRem (s : State) (c : Nat) (f : Core → Core) : (s.updCore c f).nextRem = s.nextRem := rfl
@[simp] theorem State.updCore_comps (s : State) (c : Nat) (f : Core → Core) : (s.updCore c f).comps = s.comps := rfl
@[simp] theorem State.updCore_errors (s : State) (c : Nat) (f : Core → Core) : (s.updCore c f).errors = s.errors := rfl
@[simp] theorem State.updCore_recorder (s : State) (c : Nat) (f : Core → Core) : (s.updCore c f).recorder = s.recorder := rfl
@[simp] theorem State.updCore_pages (s : State) (c : Nat) (f : Core → Core) : (s.updCore c f).pages = s.pages := rfl
@[simp] theorem State.updCore_live (s : State) (c : Nat) (f : Core → Core) : (s.updCore c f).live = s.live := rfl
@[simp] theorem State.updCore_written (s : State) (c : Nat) (f : Core → Core) : (s.updCore c f).written = s.written := rfl
@[simp] theorem State.updCore_back (s : State) (c : Nat) (f : Core → Core) : (s.updCore c f).back = s.back := rfl
@[simp] theorem State.updCore_l2 (s : State) (c : Nat) (f : Core → Core) : (s.updCore c f).l2 = s.l2 := rfl
@[simp] theorem State.updCore_arenas (s : State) (c : Nat) (f : Core → Core) : (s.updCore c f).arenas = s.arenas := rfl
@[simp] theorem State.updCore_sliceGen (s : State) (c : Nat) (f : Core → Core) : (s.updCore c f).sliceGen = s.sliceGen := rfl
@[simp] theorem State.updCore_drops (s : State) (c : Nat) (f : Core → Core) : (s.updCore c f).drops = s.drops := rfl
@[simp] theorem State.updCore_seals (s : State) (c : Nat) (f : Core → Core) : (s.updCore c f).seals = s.seals := rfl
@[simp] theorem State.updCore_sweeps (s : State) (c : Nat) (f : Core → Core) : (s.updCore c f).sweeps = s.sweeps := rfl
@[simp] theorem State.updCore_flushes (s : State) (c : Nat) (f : Core → Core) : (s.updCore c f).flushes = s.flushes := rfl
@[simp] theorem State.updCore_dir (s : State) (c : Nat) (f : Core → Core) : (s.updCore c f).dir = s.dir := rfl
@[simp] theorem State.updCore_own (s : State) (c : Nat) (f : Core → Core) : (s.updCore c f).own = s.own := rfl
@[simp] theorem State.updCore_wq (s : State) (c : Nat) (f : Core → Core) : (s.updCore c f).wq = s.wq := rfl
@[simp] theorem State.updCore_locks (s : State) (c : Nat) (f : Core → Core) : (s.updCore c f).locks = s.locks := rfl
@[simp] theorem State.updCore_pastLocks (s : State) (c : Nat) (f : Core → Core) : (s.updCore c f).pastLocks = s.pastLocks := rfl
@[simp] theorem State.updCore_resv (s : State) (c : Nat) (f : Core → Core) : (s.updCore c f).resv = s.resv := rfl
@[simp] theorem State.updCore_replicas (s : State) (c : Nat) (f : Core → Core) : (s.updCore c f).replicas = s.replicas := rfl
@[simp] theorem State.updCore_fetches (s : State) (c : Nat) (f : Core → Core) : (s.updCore c f).fetches = s.fetches := rfl
@[simp] theorem State.updCore_engReqs (s : State) (c : Nat) (f : Core → Core) : (s.updCore c f).engReqs = s.engReqs := rfl
@[simp] theorem State.updCore_net (s : State) (c : Nat) (f : Core → Core) : (s.updCore c f).net = s.net := rfl
@[simp] theorem State.updCore_nextPkt (s : State) (c : Nat) (f : Core → Core) : (s.updCore c f).nextPkt = s.nextPkt := rfl
@[simp] theorem State.updCore_loopClock (s : State) (c : Nat) (f : Core → Core) : (s.updCore c f).loopClock = s.loopClock := rfl
@[simp] theorem State.updCore_barred (s : State) (c : Nat) (f : Core → Core) : (s.updCore c f).barred = s.barred := rfl
@[simp] theorem State.updCore_hands (s : State) (c : Nat) (f : Core → Core) : (s.updCore c f).hands = s.hands := rfl
@[simp] theorem State.updCore_clus (s : State) (c : Nat) (f : Core → Core) : (s.updCore c f).clus = s.clus := rfl
@[simp] theorem State.updCore_attrs (s : State) (c : Nat) (f : Core → Core) : (s.updCore c f).attrs = s.attrs := rfl
@[simp] theorem State.updCore_regions (s : State) (c : Nat) (f : Core → Core) : (s.updCore c f).regions = s.regions := rfl
@[simp] theorem State.updCore_tasks (s : State) (c : Nat) (f : Core → Core) : (s.updCore c f).tasks = s.tasks := rfl
@[simp] theorem State.updCore_insts (s : State) (c : Nat) (f : Core → Core) : (s.updCore c f).insts = s.insts := rfl
@[simp] theorem State.updCore_nextInst (s : State) (c : Nat) (f : Core → Core) : (s.updCore c f).nextInst = s.nextInst := rfl
@[simp] theorem State.updCore_sched (s : State) (c : Nat) (f : Core → Core) : (s.updCore c f).sched = s.sched := rfl
@[simp] theorem State.updCore_mailbox (s : State) (c : Nat) (f : Core → Core) : (s.updCore c f).mailbox = s.mailbox := rfl
@[simp] theorem State.updCore_preempts (s : State) (c : Nat) (f : Core → Core) : (s.updCore c f).preempts = s.preempts := rfl
@[simp] theorem State.updCore_decoders (s : State) (c : Nat) (f : Core → Core) : (s.updCore c f).decoders = s.decoders := rfl
@[simp] theorem State.setGroup_tick (s : State) (c g : Nat) (v : Group) : (s.setGroup c g v).tick = s.tick := rfl
@[simp] theorem State.setGroup_agenda (s : State) (c g : Nat) (v : Group) : (s.setGroup c g v).agenda = s.agenda := rfl
@[simp] theorem State.setGroup_focus (s : State) (c g : Nat) (v : Group) : (s.setGroup c g v).focus = s.focus := rfl
@[simp] theorem State.setGroup_boot (s : State) (c g : Nat) (v : Group) : (s.setGroup c g v).boot = s.boot := rfl
@[simp] theorem State.setGroup_ports (s : State) (c g : Nat) (v : Group) : (s.setGroup c g v).ports = s.ports := rfl
@[simp] theorem State.setGroup_power (s : State) (c g : Nat) (v : Group) : (s.setGroup c g v).power = s.power := rfl
@[simp] theorem State.setGroup_sessions (s : State) (c g : Nat) (v : Group) : (s.setGroup c g v).sessions = s.sessions := rfl
@[simp] theorem State.setGroup_outbox (s : State) (c g : Nat) (v : Group) : (s.setGroup c g v).outbox = s.outbox := rfl
@[simp] theorem State.setGroup_idem (s : State) (c g : Nat) (v : Group) : (s.setGroup c g v).idem = s.idem := rfl
@[simp] theorem State.setGroup_remotes (s : State) (c g : Nat) (v : Group) : (s.setGroup c g v).remotes = s.remotes := rfl
@[simp] theorem State.setGroup_nextRem (s : State) (c g : Nat) (v : Group) : (s.setGroup c g v).nextRem = s.nextRem := rfl
@[simp] theorem State.setGroup_comps (s : State) (c g : Nat) (v : Group) : (s.setGroup c g v).comps = s.comps := rfl
@[simp] theorem State.setGroup_errors (s : State) (c g : Nat) (v : Group) : (s.setGroup c g v).errors = s.errors := rfl
@[simp] theorem State.setGroup_recorder (s : State) (c g : Nat) (v : Group) : (s.setGroup c g v).recorder = s.recorder := rfl
@[simp] theorem State.setGroup_pages (s : State) (c g : Nat) (v : Group) : (s.setGroup c g v).pages = s.pages := rfl
@[simp] theorem State.setGroup_live (s : State) (c g : Nat) (v : Group) : (s.setGroup c g v).live = s.live := rfl
@[simp] theorem State.setGroup_written (s : State) (c g : Nat) (v : Group) : (s.setGroup c g v).written = s.written := rfl
@[simp] theorem State.setGroup_back (s : State) (c g : Nat) (v : Group) : (s.setGroup c g v).back = s.back := rfl
@[simp] theorem State.setGroup_l2 (s : State) (c g : Nat) (v : Group) : (s.setGroup c g v).l2 = s.l2 := rfl
@[simp] theorem State.setGroup_arenas (s : State) (c g : Nat) (v : Group) : (s.setGroup c g v).arenas = s.arenas := rfl
@[simp] theorem State.setGroup_sliceGen (s : State) (c g : Nat) (v : Group) : (s.setGroup c g v).sliceGen = s.sliceGen := rfl
@[simp] theorem State.setGroup_drops (s : State) (c g : Nat) (v : Group) : (s.setGroup c g v).drops = s.drops := rfl
@[simp] theorem State.setGroup_seals (s : State) (c g : Nat) (v : Group) : (s.setGroup c g v).seals = s.seals := rfl
@[simp] theorem State.setGroup_sweeps (s : State) (c g : Nat) (v : Group) : (s.setGroup c g v).sweeps = s.sweeps := rfl
@[simp] theorem State.setGroup_flushes (s : State) (c g : Nat) (v : Group) : (s.setGroup c g v).flushes = s.flushes := rfl
@[simp] theorem State.setGroup_dir (s : State) (c g : Nat) (v : Group) : (s.setGroup c g v).dir = s.dir := rfl
@[simp] theorem State.setGroup_own (s : State) (c g : Nat) (v : Group) : (s.setGroup c g v).own = s.own := rfl
@[simp] theorem State.setGroup_wq (s : State) (c g : Nat) (v : Group) : (s.setGroup c g v).wq = s.wq := rfl
@[simp] theorem State.setGroup_locks (s : State) (c g : Nat) (v : Group) : (s.setGroup c g v).locks = s.locks := rfl
@[simp] theorem State.setGroup_pastLocks (s : State) (c g : Nat) (v : Group) : (s.setGroup c g v).pastLocks = s.pastLocks := rfl
@[simp] theorem State.setGroup_resv (s : State) (c g : Nat) (v : Group) : (s.setGroup c g v).resv = s.resv := rfl
@[simp] theorem State.setGroup_replicas (s : State) (c g : Nat) (v : Group) : (s.setGroup c g v).replicas = s.replicas := rfl
@[simp] theorem State.setGroup_fetches (s : State) (c g : Nat) (v : Group) : (s.setGroup c g v).fetches = s.fetches := rfl
@[simp] theorem State.setGroup_engReqs (s : State) (c g : Nat) (v : Group) : (s.setGroup c g v).engReqs = s.engReqs := rfl
@[simp] theorem State.setGroup_net (s : State) (c g : Nat) (v : Group) : (s.setGroup c g v).net = s.net := rfl
@[simp] theorem State.setGroup_nextPkt (s : State) (c g : Nat) (v : Group) : (s.setGroup c g v).nextPkt = s.nextPkt := rfl
@[simp] theorem State.setGroup_loopClock (s : State) (c g : Nat) (v : Group) : (s.setGroup c g v).loopClock = s.loopClock := rfl
@[simp] theorem State.setGroup_barred (s : State) (c g : Nat) (v : Group) : (s.setGroup c g v).barred = s.barred := rfl
@[simp] theorem State.setGroup_hands (s : State) (c g : Nat) (v : Group) : (s.setGroup c g v).hands = s.hands := rfl
@[simp] theorem State.setGroup_clus (s : State) (c g : Nat) (v : Group) : (s.setGroup c g v).clus = s.clus := rfl
@[simp] theorem State.setGroup_attrs (s : State) (c g : Nat) (v : Group) : (s.setGroup c g v).attrs = s.attrs := rfl
@[simp] theorem State.setGroup_regions (s : State) (c g : Nat) (v : Group) : (s.setGroup c g v).regions = s.regions := rfl
@[simp] theorem State.setGroup_tasks (s : State) (c g : Nat) (v : Group) : (s.setGroup c g v).tasks = s.tasks := rfl
@[simp] theorem State.setGroup_insts (s : State) (c g : Nat) (v : Group) : (s.setGroup c g v).insts = s.insts := rfl
@[simp] theorem State.setGroup_nextInst (s : State) (c g : Nat) (v : Group) : (s.setGroup c g v).nextInst = s.nextInst := rfl
@[simp] theorem State.setGroup_sched (s : State) (c g : Nat) (v : Group) : (s.setGroup c g v).sched = s.sched := rfl
@[simp] theorem State.setGroup_mailbox (s : State) (c g : Nat) (v : Group) : (s.setGroup c g v).mailbox = s.mailbox := rfl
@[simp] theorem State.setGroup_preempts (s : State) (c g : Nat) (v : Group) : (s.setGroup c g v).preempts = s.preempts := rfl
@[simp] theorem State.setGroup_decoders (s : State) (c g : Nat) (v : Group) : (s.setGroup c g v).decoders = s.decoders := rfl
@[simp] theorem State.updGroup_tick (s : State) (c g : Nat) (f : Group → Group) : (s.updGroup c g f).tick = s.tick := rfl
@[simp] theorem State.updGroup_agenda (s : State) (c g : Nat) (f : Group → Group) : (s.updGroup c g f).agenda = s.agenda := rfl
@[simp] theorem State.updGroup_focus (s : State) (c g : Nat) (f : Group → Group) : (s.updGroup c g f).focus = s.focus := rfl
@[simp] theorem State.updGroup_boot (s : State) (c g : Nat) (f : Group → Group) : (s.updGroup c g f).boot = s.boot := rfl
@[simp] theorem State.updGroup_ports (s : State) (c g : Nat) (f : Group → Group) : (s.updGroup c g f).ports = s.ports := rfl
@[simp] theorem State.updGroup_power (s : State) (c g : Nat) (f : Group → Group) : (s.updGroup c g f).power = s.power := rfl
@[simp] theorem State.updGroup_sessions (s : State) (c g : Nat) (f : Group → Group) : (s.updGroup c g f).sessions = s.sessions := rfl
@[simp] theorem State.updGroup_outbox (s : State) (c g : Nat) (f : Group → Group) : (s.updGroup c g f).outbox = s.outbox := rfl
@[simp] theorem State.updGroup_idem (s : State) (c g : Nat) (f : Group → Group) : (s.updGroup c g f).idem = s.idem := rfl
@[simp] theorem State.updGroup_remotes (s : State) (c g : Nat) (f : Group → Group) : (s.updGroup c g f).remotes = s.remotes := rfl
@[simp] theorem State.updGroup_nextRem (s : State) (c g : Nat) (f : Group → Group) : (s.updGroup c g f).nextRem = s.nextRem := rfl
@[simp] theorem State.updGroup_comps (s : State) (c g : Nat) (f : Group → Group) : (s.updGroup c g f).comps = s.comps := rfl
@[simp] theorem State.updGroup_errors (s : State) (c g : Nat) (f : Group → Group) : (s.updGroup c g f).errors = s.errors := rfl
@[simp] theorem State.updGroup_recorder (s : State) (c g : Nat) (f : Group → Group) : (s.updGroup c g f).recorder = s.recorder := rfl
@[simp] theorem State.updGroup_pages (s : State) (c g : Nat) (f : Group → Group) : (s.updGroup c g f).pages = s.pages := rfl
@[simp] theorem State.updGroup_live (s : State) (c g : Nat) (f : Group → Group) : (s.updGroup c g f).live = s.live := rfl
@[simp] theorem State.updGroup_written (s : State) (c g : Nat) (f : Group → Group) : (s.updGroup c g f).written = s.written := rfl
@[simp] theorem State.updGroup_back (s : State) (c g : Nat) (f : Group → Group) : (s.updGroup c g f).back = s.back := rfl
@[simp] theorem State.updGroup_l2 (s : State) (c g : Nat) (f : Group → Group) : (s.updGroup c g f).l2 = s.l2 := rfl
@[simp] theorem State.updGroup_arenas (s : State) (c g : Nat) (f : Group → Group) : (s.updGroup c g f).arenas = s.arenas := rfl
@[simp] theorem State.updGroup_sliceGen (s : State) (c g : Nat) (f : Group → Group) : (s.updGroup c g f).sliceGen = s.sliceGen := rfl
@[simp] theorem State.updGroup_drops (s : State) (c g : Nat) (f : Group → Group) : (s.updGroup c g f).drops = s.drops := rfl
@[simp] theorem State.updGroup_seals (s : State) (c g : Nat) (f : Group → Group) : (s.updGroup c g f).seals = s.seals := rfl
@[simp] theorem State.updGroup_sweeps (s : State) (c g : Nat) (f : Group → Group) : (s.updGroup c g f).sweeps = s.sweeps := rfl
@[simp] theorem State.updGroup_flushes (s : State) (c g : Nat) (f : Group → Group) : (s.updGroup c g f).flushes = s.flushes := rfl
@[simp] theorem State.updGroup_dir (s : State) (c g : Nat) (f : Group → Group) : (s.updGroup c g f).dir = s.dir := rfl
@[simp] theorem State.updGroup_own (s : State) (c g : Nat) (f : Group → Group) : (s.updGroup c g f).own = s.own := rfl
@[simp] theorem State.updGroup_wq (s : State) (c g : Nat) (f : Group → Group) : (s.updGroup c g f).wq = s.wq := rfl
@[simp] theorem State.updGroup_locks (s : State) (c g : Nat) (f : Group → Group) : (s.updGroup c g f).locks = s.locks := rfl
@[simp] theorem State.updGroup_pastLocks (s : State) (c g : Nat) (f : Group → Group) : (s.updGroup c g f).pastLocks = s.pastLocks := rfl
@[simp] theorem State.updGroup_resv (s : State) (c g : Nat) (f : Group → Group) : (s.updGroup c g f).resv = s.resv := rfl
@[simp] theorem State.updGroup_replicas (s : State) (c g : Nat) (f : Group → Group) : (s.updGroup c g f).replicas = s.replicas := rfl
@[simp] theorem State.updGroup_fetches (s : State) (c g : Nat) (f : Group → Group) : (s.updGroup c g f).fetches = s.fetches := rfl
@[simp] theorem State.updGroup_engReqs (s : State) (c g : Nat) (f : Group → Group) : (s.updGroup c g f).engReqs = s.engReqs := rfl
@[simp] theorem State.updGroup_net (s : State) (c g : Nat) (f : Group → Group) : (s.updGroup c g f).net = s.net := rfl
@[simp] theorem State.updGroup_nextPkt (s : State) (c g : Nat) (f : Group → Group) : (s.updGroup c g f).nextPkt = s.nextPkt := rfl
@[simp] theorem State.updGroup_loopClock (s : State) (c g : Nat) (f : Group → Group) : (s.updGroup c g f).loopClock = s.loopClock := rfl
@[simp] theorem State.updGroup_barred (s : State) (c g : Nat) (f : Group → Group) : (s.updGroup c g f).barred = s.barred := rfl
@[simp] theorem State.updGroup_hands (s : State) (c g : Nat) (f : Group → Group) : (s.updGroup c g f).hands = s.hands := rfl
@[simp] theorem State.updGroup_clus (s : State) (c g : Nat) (f : Group → Group) : (s.updGroup c g f).clus = s.clus := rfl
@[simp] theorem State.updGroup_attrs (s : State) (c g : Nat) (f : Group → Group) : (s.updGroup c g f).attrs = s.attrs := rfl
@[simp] theorem State.updGroup_regions (s : State) (c g : Nat) (f : Group → Group) : (s.updGroup c g f).regions = s.regions := rfl
@[simp] theorem State.updGroup_tasks (s : State) (c g : Nat) (f : Group → Group) : (s.updGroup c g f).tasks = s.tasks := rfl
@[simp] theorem State.updGroup_insts (s : State) (c g : Nat) (f : Group → Group) : (s.updGroup c g f).insts = s.insts := rfl
@[simp] theorem State.updGroup_nextInst (s : State) (c g : Nat) (f : Group → Group) : (s.updGroup c g f).nextInst = s.nextInst := rfl
@[simp] theorem State.updGroup_sched (s : State) (c g : Nat) (f : Group → Group) : (s.updGroup c g f).sched = s.sched := rfl
@[simp] theorem State.updGroup_mailbox (s : State) (c g : Nat) (f : Group → Group) : (s.updGroup c g f).mailbox = s.mailbox := rfl
@[simp] theorem State.updGroup_preempts (s : State) (c g : Nat) (f : Group → Group) : (s.updGroup c g f).preempts = s.preempts := rfl
@[simp] theorem State.updGroup_decoders (s : State) (c g : Nat) (f : Group → Group) : (s.updGroup c g f).decoders = s.decoders := rfl
@[simp] theorem State.setCur_tick (s : State) (v : Group) : (s.setCur v).tick = s.tick := rfl
@[simp] theorem State.setCur_agenda (s : State) (v : Group) : (s.setCur v).agenda = s.agenda := rfl
@[simp] theorem State.setCur_focus (s : State) (v : Group) : (s.setCur v).focus = s.focus := rfl
@[simp] theorem State.setCur_boot (s : State) (v : Group) : (s.setCur v).boot = s.boot := rfl
@[simp] theorem State.setCur_ports (s : State) (v : Group) : (s.setCur v).ports = s.ports := rfl
@[simp] theorem State.setCur_power (s : State) (v : Group) : (s.setCur v).power = s.power := rfl
@[simp] theorem State.setCur_sessions (s : State) (v : Group) : (s.setCur v).sessions = s.sessions := rfl
@[simp] theorem State.setCur_outbox (s : State) (v : Group) : (s.setCur v).outbox = s.outbox := rfl
@[simp] theorem State.setCur_idem (s : State) (v : Group) : (s.setCur v).idem = s.idem := rfl
@[simp] theorem State.setCur_remotes (s : State) (v : Group) : (s.setCur v).remotes = s.remotes := rfl
@[simp] theorem State.setCur_nextRem (s : State) (v : Group) : (s.setCur v).nextRem = s.nextRem := rfl
@[simp] theorem State.setCur_comps (s : State) (v : Group) : (s.setCur v).comps = s.comps := rfl
@[simp] theorem State.setCur_errors (s : State) (v : Group) : (s.setCur v).errors = s.errors := rfl
@[simp] theorem State.setCur_recorder (s : State) (v : Group) : (s.setCur v).recorder = s.recorder := rfl
@[simp] theorem State.setCur_pages (s : State) (v : Group) : (s.setCur v).pages = s.pages := rfl
@[simp] theorem State.setCur_live (s : State) (v : Group) : (s.setCur v).live = s.live := rfl
@[simp] theorem State.setCur_written (s : State) (v : Group) : (s.setCur v).written = s.written := rfl
@[simp] theorem State.setCur_back (s : State) (v : Group) : (s.setCur v).back = s.back := rfl
@[simp] theorem State.setCur_l2 (s : State) (v : Group) : (s.setCur v).l2 = s.l2 := rfl
@[simp] theorem State.setCur_arenas (s : State) (v : Group) : (s.setCur v).arenas = s.arenas := rfl
@[simp] theorem State.setCur_sliceGen (s : State) (v : Group) : (s.setCur v).sliceGen = s.sliceGen := rfl
@[simp] theorem State.setCur_drops (s : State) (v : Group) : (s.setCur v).drops = s.drops := rfl
@[simp] theorem State.setCur_seals (s : State) (v : Group) : (s.setCur v).seals = s.seals := rfl
@[simp] theorem State.setCur_sweeps (s : State) (v : Group) : (s.setCur v).sweeps = s.sweeps := rfl
@[simp] theorem State.setCur_flushes (s : State) (v : Group) : (s.setCur v).flushes = s.flushes := rfl
@[simp] theorem State.setCur_dir (s : State) (v : Group) : (s.setCur v).dir = s.dir := rfl
@[simp] theorem State.setCur_own (s : State) (v : Group) : (s.setCur v).own = s.own := rfl
@[simp] theorem State.setCur_wq (s : State) (v : Group) : (s.setCur v).wq = s.wq := rfl
@[simp] theorem State.setCur_locks (s : State) (v : Group) : (s.setCur v).locks = s.locks := rfl
@[simp] theorem State.setCur_pastLocks (s : State) (v : Group) : (s.setCur v).pastLocks = s.pastLocks := rfl
@[simp] theorem State.setCur_resv (s : State) (v : Group) : (s.setCur v).resv = s.resv := rfl
@[simp] theorem State.setCur_replicas (s : State) (v : Group) : (s.setCur v).replicas = s.replicas := rfl
@[simp] theorem State.setCur_fetches (s : State) (v : Group) : (s.setCur v).fetches = s.fetches := rfl
@[simp] theorem State.setCur_engReqs (s : State) (v : Group) : (s.setCur v).engReqs = s.engReqs := rfl
@[simp] theorem State.setCur_net (s : State) (v : Group) : (s.setCur v).net = s.net := rfl
@[simp] theorem State.setCur_nextPkt (s : State) (v : Group) : (s.setCur v).nextPkt = s.nextPkt := rfl
@[simp] theorem State.setCur_loopClock (s : State) (v : Group) : (s.setCur v).loopClock = s.loopClock := rfl
@[simp] theorem State.setCur_barred (s : State) (v : Group) : (s.setCur v).barred = s.barred := rfl
@[simp] theorem State.setCur_hands (s : State) (v : Group) : (s.setCur v).hands = s.hands := rfl
@[simp] theorem State.setCur_clus (s : State) (v : Group) : (s.setCur v).clus = s.clus := rfl
@[simp] theorem State.setCur_attrs (s : State) (v : Group) : (s.setCur v).attrs = s.attrs := rfl
@[simp] theorem State.setCur_regions (s : State) (v : Group) : (s.setCur v).regions = s.regions := rfl
@[simp] theorem State.setCur_tasks (s : State) (v : Group) : (s.setCur v).tasks = s.tasks := rfl
@[simp] theorem State.setCur_insts (s : State) (v : Group) : (s.setCur v).insts = s.insts := rfl
@[simp] theorem State.setCur_nextInst (s : State) (v : Group) : (s.setCur v).nextInst = s.nextInst := rfl
@[simp] theorem State.setCur_sched (s : State) (v : Group) : (s.setCur v).sched = s.sched := rfl
@[simp] theorem State.setCur_mailbox (s : State) (v : Group) : (s.setCur v).mailbox = s.mailbox := rfl
@[simp] theorem State.setCur_preempts (s : State) (v : Group) : (s.setCur v).preempts = s.preempts := rfl
@[simp] theorem State.setCur_decoders (s : State) (v : Group) : (s.setCur v).decoders = s.decoders := rfl
@[simp] theorem State.updCur_tick (s : State) (f : Group → Group) : (s.updCur f).tick = s.tick := rfl
@[simp] theorem State.updCur_agenda (s : State) (f : Group → Group) : (s.updCur f).agenda = s.agenda := rfl
@[simp] theorem State.updCur_focus (s : State) (f : Group → Group) : (s.updCur f).focus = s.focus := rfl
@[simp] theorem State.updCur_boot (s : State) (f : Group → Group) : (s.updCur f).boot = s.boot := rfl
@[simp] theorem State.updCur_ports (s : State) (f : Group → Group) : (s.updCur f).ports = s.ports := rfl
@[simp] theorem State.updCur_power (s : State) (f : Group → Group) : (s.updCur f).power = s.power := rfl
@[simp] theorem State.updCur_sessions (s : State) (f : Group → Group) : (s.updCur f).sessions = s.sessions := rfl
@[simp] theorem State.updCur_outbox (s : State) (f : Group → Group) : (s.updCur f).outbox = s.outbox := rfl
@[simp] theorem State.updCur_idem (s : State) (f : Group → Group) : (s.updCur f).idem = s.idem := rfl
@[simp] theorem State.updCur_remotes (s : State) (f : Group → Group) : (s.updCur f).remotes = s.remotes := rfl
@[simp] theorem State.updCur_nextRem (s : State) (f : Group → Group) : (s.updCur f).nextRem = s.nextRem := rfl
@[simp] theorem State.updCur_comps (s : State) (f : Group → Group) : (s.updCur f).comps = s.comps := rfl
@[simp] theorem State.updCur_errors (s : State) (f : Group → Group) : (s.updCur f).errors = s.errors := rfl
@[simp] theorem State.updCur_recorder (s : State) (f : Group → Group) : (s.updCur f).recorder = s.recorder := rfl
@[simp] theorem State.updCur_pages (s : State) (f : Group → Group) : (s.updCur f).pages = s.pages := rfl
@[simp] theorem State.updCur_live (s : State) (f : Group → Group) : (s.updCur f).live = s.live := rfl
@[simp] theorem State.updCur_written (s : State) (f : Group → Group) : (s.updCur f).written = s.written := rfl
@[simp] theorem State.updCur_back (s : State) (f : Group → Group) : (s.updCur f).back = s.back := rfl
@[simp] theorem State.updCur_l2 (s : State) (f : Group → Group) : (s.updCur f).l2 = s.l2 := rfl
@[simp] theorem State.updCur_arenas (s : State) (f : Group → Group) : (s.updCur f).arenas = s.arenas := rfl
@[simp] theorem State.updCur_sliceGen (s : State) (f : Group → Group) : (s.updCur f).sliceGen = s.sliceGen := rfl
@[simp] theorem State.updCur_drops (s : State) (f : Group → Group) : (s.updCur f).drops = s.drops := rfl
@[simp] theorem State.updCur_seals (s : State) (f : Group → Group) : (s.updCur f).seals = s.seals := rfl
@[simp] theorem State.updCur_sweeps (s : State) (f : Group → Group) : (s.updCur f).sweeps = s.sweeps := rfl
@[simp] theorem State.updCur_flushes (s : State) (f : Group → Group) : (s.updCur f).flushes = s.flushes := rfl
@[simp] theorem State.updCur_dir (s : State) (f : Group → Group) : (s.updCur f).dir = s.dir := rfl
@[simp] theorem State.updCur_own (s : State) (f : Group → Group) : (s.updCur f).own = s.own := rfl
@[simp] theorem State.updCur_wq (s : State) (f : Group → Group) : (s.updCur f).wq = s.wq := rfl
@[simp] theorem State.updCur_locks (s : State) (f : Group → Group) : (s.updCur f).locks = s.locks := rfl
@[simp] theorem State.updCur_pastLocks (s : State) (f : Group → Group) : (s.updCur f).pastLocks = s.pastLocks := rfl
@[simp] theorem State.updCur_resv (s : State) (f : Group → Group) : (s.updCur f).resv = s.resv := rfl
@[simp] theorem State.updCur_replicas (s : State) (f : Group → Group) : (s.updCur f).replicas = s.replicas := rfl
@[simp] theorem State.updCur_fetches (s : State) (f : Group → Group) : (s.updCur f).fetches = s.fetches := rfl
@[simp] theorem State.updCur_engReqs (s : State) (f : Group → Group) : (s.updCur f).engReqs = s.engReqs := rfl
@[simp] theorem State.updCur_net (s : State) (f : Group → Group) : (s.updCur f).net = s.net := rfl
@[simp] theorem State.updCur_nextPkt (s : State) (f : Group → Group) : (s.updCur f).nextPkt = s.nextPkt := rfl
@[simp] theorem State.updCur_loopClock (s : State) (f : Group → Group) : (s.updCur f).loopClock = s.loopClock := rfl
@[simp] theorem State.updCur_barred (s : State) (f : Group → Group) : (s.updCur f).barred = s.barred := rfl
@[simp] theorem State.updCur_hands (s : State) (f : Group → Group) : (s.updCur f).hands = s.hands := rfl
@[simp] theorem State.updCur_clus (s : State) (f : Group → Group) : (s.updCur f).clus = s.clus := rfl
@[simp] theorem State.updCur_attrs (s : State) (f : Group → Group) : (s.updCur f).attrs = s.attrs := rfl
@[simp] theorem State.updCur_regions (s : State) (f : Group → Group) : (s.updCur f).regions = s.regions := rfl
@[simp] theorem State.updCur_tasks (s : State) (f : Group → Group) : (s.updCur f).tasks = s.tasks := rfl
@[simp] theorem State.updCur_insts (s : State) (f : Group → Group) : (s.updCur f).insts = s.insts := rfl
@[simp] theorem State.updCur_nextInst (s : State) (f : Group → Group) : (s.updCur f).nextInst = s.nextInst := rfl
@[simp] theorem State.updCur_sched (s : State) (f : Group → Group) : (s.updCur f).sched = s.sched := rfl
@[simp] theorem State.updCur_mailbox (s : State) (f : Group → Group) : (s.updCur f).mailbox = s.mailbox := rfl
@[simp] theorem State.updCur_preempts (s : State) (f : Group → Group) : (s.updCur f).preempts = s.preempts := rfl
@[simp] theorem State.updCur_decoders (s : State) (f : Group → Group) : (s.updCur f).decoders = s.decoders := rfl
@[simp] theorem State.setDie_tick (s : State) (d : Nat) (v : DieSched) : (s.setDie d v).tick = s.tick := rfl
@[simp] theorem State.setDie_agenda (s : State) (d : Nat) (v : DieSched) : (s.setDie d v).agenda = s.agenda := rfl
@[simp] theorem State.setDie_focus (s : State) (d : Nat) (v : DieSched) : (s.setDie d v).focus = s.focus := rfl
@[simp] theorem State.setDie_boot (s : State) (d : Nat) (v : DieSched) : (s.setDie d v).boot = s.boot := rfl
@[simp] theorem State.setDie_ports (s : State) (d : Nat) (v : DieSched) : (s.setDie d v).ports = s.ports := rfl
@[simp] theorem State.setDie_power (s : State) (d : Nat) (v : DieSched) : (s.setDie d v).power = s.power := rfl
@[simp] theorem State.setDie_sessions (s : State) (d : Nat) (v : DieSched) : (s.setDie d v).sessions = s.sessions := rfl
@[simp] theorem State.setDie_outbox (s : State) (d : Nat) (v : DieSched) : (s.setDie d v).outbox = s.outbox := rfl
@[simp] theorem State.setDie_idem (s : State) (d : Nat) (v : DieSched) : (s.setDie d v).idem = s.idem := rfl
@[simp] theorem State.setDie_remotes (s : State) (d : Nat) (v : DieSched) : (s.setDie d v).remotes = s.remotes := rfl
@[simp] theorem State.setDie_nextRem (s : State) (d : Nat) (v : DieSched) : (s.setDie d v).nextRem = s.nextRem := rfl
@[simp] theorem State.setDie_comps (s : State) (d : Nat) (v : DieSched) : (s.setDie d v).comps = s.comps := rfl
@[simp] theorem State.setDie_errors (s : State) (d : Nat) (v : DieSched) : (s.setDie d v).errors = s.errors := rfl
@[simp] theorem State.setDie_recorder (s : State) (d : Nat) (v : DieSched) : (s.setDie d v).recorder = s.recorder := rfl
@[simp] theorem State.setDie_pages (s : State) (d : Nat) (v : DieSched) : (s.setDie d v).pages = s.pages := rfl
@[simp] theorem State.setDie_live (s : State) (d : Nat) (v : DieSched) : (s.setDie d v).live = s.live := rfl
@[simp] theorem State.setDie_written (s : State) (d : Nat) (v : DieSched) : (s.setDie d v).written = s.written := rfl
@[simp] theorem State.setDie_back (s : State) (d : Nat) (v : DieSched) : (s.setDie d v).back = s.back := rfl
@[simp] theorem State.setDie_l2 (s : State) (d : Nat) (v : DieSched) : (s.setDie d v).l2 = s.l2 := rfl
@[simp] theorem State.setDie_arenas (s : State) (d : Nat) (v : DieSched) : (s.setDie d v).arenas = s.arenas := rfl
@[simp] theorem State.setDie_sliceGen (s : State) (d : Nat) (v : DieSched) : (s.setDie d v).sliceGen = s.sliceGen := rfl
@[simp] theorem State.setDie_drops (s : State) (d : Nat) (v : DieSched) : (s.setDie d v).drops = s.drops := rfl
@[simp] theorem State.setDie_seals (s : State) (d : Nat) (v : DieSched) : (s.setDie d v).seals = s.seals := rfl
@[simp] theorem State.setDie_sweeps (s : State) (d : Nat) (v : DieSched) : (s.setDie d v).sweeps = s.sweeps := rfl
@[simp] theorem State.setDie_flushes (s : State) (d : Nat) (v : DieSched) : (s.setDie d v).flushes = s.flushes := rfl
@[simp] theorem State.setDie_dir (s : State) (d : Nat) (v : DieSched) : (s.setDie d v).dir = s.dir := rfl
@[simp] theorem State.setDie_own (s : State) (d : Nat) (v : DieSched) : (s.setDie d v).own = s.own := rfl
@[simp] theorem State.setDie_wq (s : State) (d : Nat) (v : DieSched) : (s.setDie d v).wq = s.wq := rfl
@[simp] theorem State.setDie_locks (s : State) (d : Nat) (v : DieSched) : (s.setDie d v).locks = s.locks := rfl
@[simp] theorem State.setDie_pastLocks (s : State) (d : Nat) (v : DieSched) : (s.setDie d v).pastLocks = s.pastLocks := rfl
@[simp] theorem State.setDie_resv (s : State) (d : Nat) (v : DieSched) : (s.setDie d v).resv = s.resv := rfl
@[simp] theorem State.setDie_replicas (s : State) (d : Nat) (v : DieSched) : (s.setDie d v).replicas = s.replicas := rfl
@[simp] theorem State.setDie_fetches (s : State) (d : Nat) (v : DieSched) : (s.setDie d v).fetches = s.fetches := rfl
@[simp] theorem State.setDie_engReqs (s : State) (d : Nat) (v : DieSched) : (s.setDie d v).engReqs = s.engReqs := rfl
@[simp] theorem State.setDie_net (s : State) (d : Nat) (v : DieSched) : (s.setDie d v).net = s.net := rfl
@[simp] theorem State.setDie_nextPkt (s : State) (d : Nat) (v : DieSched) : (s.setDie d v).nextPkt = s.nextPkt := rfl
@[simp] theorem State.setDie_loopClock (s : State) (d : Nat) (v : DieSched) : (s.setDie d v).loopClock = s.loopClock := rfl
@[simp] theorem State.setDie_barred (s : State) (d : Nat) (v : DieSched) : (s.setDie d v).barred = s.barred := rfl
@[simp] theorem State.setDie_hands (s : State) (d : Nat) (v : DieSched) : (s.setDie d v).hands = s.hands := rfl
@[simp] theorem State.setDie_cores (s : State) (d : Nat) (v : DieSched) : (s.setDie d v).cores = s.cores := rfl
@[simp] theorem State.setDie_clus (s : State) (d : Nat) (v : DieSched) : (s.setDie d v).clus = s.clus := rfl
@[simp] theorem State.setDie_attrs (s : State) (d : Nat) (v : DieSched) : (s.setDie d v).attrs = s.attrs := rfl
@[simp] theorem State.setDie_regions (s : State) (d : Nat) (v : DieSched) : (s.setDie d v).regions = s.regions := rfl
@[simp] theorem State.setDie_tasks (s : State) (d : Nat) (v : DieSched) : (s.setDie d v).tasks = s.tasks := rfl
@[simp] theorem State.setDie_insts (s : State) (d : Nat) (v : DieSched) : (s.setDie d v).insts = s.insts := rfl
@[simp] theorem State.setDie_nextInst (s : State) (d : Nat) (v : DieSched) : (s.setDie d v).nextInst = s.nextInst := rfl
@[simp] theorem State.setDie_mailbox (s : State) (d : Nat) (v : DieSched) : (s.setDie d v).mailbox = s.mailbox := rfl
@[simp] theorem State.setDie_preempts (s : State) (d : Nat) (v : DieSched) : (s.setDie d v).preempts = s.preempts := rfl
@[simp] theorem State.setDie_decoders (s : State) (d : Nat) (v : DieSched) : (s.setDie d v).decoders = s.decoders := rfl
@[simp] theorem State.setArena_tick (s : State) (a : Nat) (e : ArenaEntry) : (s.setArena a e).tick = s.tick := rfl
@[simp] theorem State.setArena_agenda (s : State) (a : Nat) (e : ArenaEntry) : (s.setArena a e).agenda = s.agenda := rfl
@[simp] theorem State.setArena_focus (s : State) (a : Nat) (e : ArenaEntry) : (s.setArena a e).focus = s.focus := rfl
@[simp] theorem State.setArena_boot (s : State) (a : Nat) (e : ArenaEntry) : (s.setArena a e).boot = s.boot := rfl
@[simp] theorem State.setArena_ports (s : State) (a : Nat) (e : ArenaEntry) : (s.setArena a e).ports = s.ports := rfl
@[simp] theorem State.setArena_power (s : State) (a : Nat) (e : ArenaEntry) : (s.setArena a e).power = s.power := rfl
@[simp] theorem State.setArena_sessions (s : State) (a : Nat) (e : ArenaEntry) : (s.setArena a e).sessions = s.sessions := rfl
@[simp] theorem State.setArena_outbox (s : State) (a : Nat) (e : ArenaEntry) : (s.setArena a e).outbox = s.outbox := rfl
@[simp] theorem State.setArena_idem (s : State) (a : Nat) (e : ArenaEntry) : (s.setArena a e).idem = s.idem := rfl
@[simp] theorem State.setArena_remotes (s : State) (a : Nat) (e : ArenaEntry) : (s.setArena a e).remotes = s.remotes := rfl
@[simp] theorem State.setArena_nextRem (s : State) (a : Nat) (e : ArenaEntry) : (s.setArena a e).nextRem = s.nextRem := rfl
@[simp] theorem State.setArena_comps (s : State) (a : Nat) (e : ArenaEntry) : (s.setArena a e).comps = s.comps := rfl
@[simp] theorem State.setArena_errors (s : State) (a : Nat) (e : ArenaEntry) : (s.setArena a e).errors = s.errors := rfl
@[simp] theorem State.setArena_recorder (s : State) (a : Nat) (e : ArenaEntry) : (s.setArena a e).recorder = s.recorder := rfl
@[simp] theorem State.setArena_pages (s : State) (a : Nat) (e : ArenaEntry) : (s.setArena a e).pages = s.pages := rfl
@[simp] theorem State.setArena_live (s : State) (a : Nat) (e : ArenaEntry) : (s.setArena a e).live = s.live := rfl
@[simp] theorem State.setArena_written (s : State) (a : Nat) (e : ArenaEntry) : (s.setArena a e).written = s.written := rfl
@[simp] theorem State.setArena_back (s : State) (a : Nat) (e : ArenaEntry) : (s.setArena a e).back = s.back := rfl
@[simp] theorem State.setArena_l2 (s : State) (a : Nat) (e : ArenaEntry) : (s.setArena a e).l2 = s.l2 := rfl
@[simp] theorem State.setArena_sliceGen (s : State) (a : Nat) (e : ArenaEntry) : (s.setArena a e).sliceGen = s.sliceGen := rfl
@[simp] theorem State.setArena_drops (s : State) (a : Nat) (e : ArenaEntry) : (s.setArena a e).drops = s.drops := rfl
@[simp] theorem State.setArena_seals (s : State) (a : Nat) (e : ArenaEntry) : (s.setArena a e).seals = s.seals := rfl
@[simp] theorem State.setArena_sweeps (s : State) (a : Nat) (e : ArenaEntry) : (s.setArena a e).sweeps = s.sweeps := rfl
@[simp] theorem State.setArena_flushes (s : State) (a : Nat) (e : ArenaEntry) : (s.setArena a e).flushes = s.flushes := rfl
@[simp] theorem State.setArena_dir (s : State) (a : Nat) (e : ArenaEntry) : (s.setArena a e).dir = s.dir := rfl
@[simp] theorem State.setArena_own (s : State) (a : Nat) (e : ArenaEntry) : (s.setArena a e).own = s.own := rfl
@[simp] theorem State.setArena_wq (s : State) (a : Nat) (e : ArenaEntry) : (s.setArena a e).wq = s.wq := rfl
@[simp] theorem State.setArena_locks (s : State) (a : Nat) (e : ArenaEntry) : (s.setArena a e).locks = s.locks := rfl
@[simp] theorem State.setArena_pastLocks (s : State) (a : Nat) (e : ArenaEntry) : (s.setArena a e).pastLocks = s.pastLocks := rfl
@[simp] theorem State.setArena_resv (s : State) (a : Nat) (e : ArenaEntry) : (s.setArena a e).resv = s.resv := rfl
@[simp] theorem State.setArena_replicas (s : State) (a : Nat) (e : ArenaEntry) : (s.setArena a e).replicas = s.replicas := rfl
@[simp] theorem State.setArena_fetches (s : State) (a : Nat) (e : ArenaEntry) : (s.setArena a e).fetches = s.fetches := rfl
@[simp] theorem State.setArena_engReqs (s : State) (a : Nat) (e : ArenaEntry) : (s.setArena a e).engReqs = s.engReqs := rfl
@[simp] theorem State.setArena_net (s : State) (a : Nat) (e : ArenaEntry) : (s.setArena a e).net = s.net := rfl
@[simp] theorem State.setArena_nextPkt (s : State) (a : Nat) (e : ArenaEntry) : (s.setArena a e).nextPkt = s.nextPkt := rfl
@[simp] theorem State.setArena_loopClock (s : State) (a : Nat) (e : ArenaEntry) : (s.setArena a e).loopClock = s.loopClock := rfl
@[simp] theorem State.setArena_barred (s : State) (a : Nat) (e : ArenaEntry) : (s.setArena a e).barred = s.barred := rfl
@[simp] theorem State.setArena_hands (s : State) (a : Nat) (e : ArenaEntry) : (s.setArena a e).hands = s.hands := rfl
@[simp] theorem State.setArena_cores (s : State) (a : Nat) (e : ArenaEntry) : (s.setArena a e).cores = s.cores := rfl
@[simp] theorem State.setArena_clus (s : State) (a : Nat) (e : ArenaEntry) : (s.setArena a e).clus = s.clus := rfl
@[simp] theorem State.setArena_attrs (s : State) (a : Nat) (e : ArenaEntry) : (s.setArena a e).attrs = s.attrs := rfl
@[simp] theorem State.setArena_regions (s : State) (a : Nat) (e : ArenaEntry) : (s.setArena a e).regions = s.regions := rfl
@[simp] theorem State.setArena_tasks (s : State) (a : Nat) (e : ArenaEntry) : (s.setArena a e).tasks = s.tasks := rfl
@[simp] theorem State.setArena_insts (s : State) (a : Nat) (e : ArenaEntry) : (s.setArena a e).insts = s.insts := rfl
@[simp] theorem State.setArena_nextInst (s : State) (a : Nat) (e : ArenaEntry) : (s.setArena a e).nextInst = s.nextInst := rfl
@[simp] theorem State.setArena_sched (s : State) (a : Nat) (e : ArenaEntry) : (s.setArena a e).sched = s.sched := rfl
@[simp] theorem State.setArena_mailbox (s : State) (a : Nat) (e : ArenaEntry) : (s.setArena a e).mailbox = s.mailbox := rfl
@[simp] theorem State.setArena_preempts (s : State) (a : Nat) (e : ArenaEntry) : (s.setArena a e).preempts = s.preempts := rfl
@[simp] theorem State.setArena_decoders (s : State) (a : Nat) (e : ArenaEntry) : (s.setArena a e).decoders = s.decoders := rfl

/-! ### The fields of a core -/

@[simp] theorem Core.setGroup_clk (c : Core) (n : Nat) (v : Group) : (c.setGroup n v).clk = c.clk := rfl
@[simp] theorem Core.setGroup_scr (c : Core) (n : Nat) (v : Group) : (c.setGroup n v).scr = c.scr := rfl
@[simp] theorem Core.setGroup_scratch (c : Core) (n : Nat) (v : Group) : (c.setGroup n v).scratch = c.scratch := rfl
@[simp] theorem Core.setGroup_tags (c : Core) (n : Nat) (v : Group) : (c.setGroup n v).tags = c.tags := rfl
@[simp] theorem Core.setGroup_tagCnt (c : Core) (n : Nat) (v : Group) : (c.setGroup n v).tagCnt = c.tagCnt := rfl
@[simp] theorem Core.setGroup_tabs (c : Core) (n : Nat) (v : Group) : (c.setGroup n v).tabs = c.tabs := rfl
@[simp] theorem Core.setGroup_tabOwn (c : Core) (n : Nat) (v : Group) : (c.setGroup n v).tabOwn = c.tabOwn := rfl
@[simp] theorem Core.setGroup_wps (c : Core) (n : Nat) (v : Group) : (c.setGroup n v).wps = c.wps := rfl
@[simp] theorem Core.setGroup_parts (c : Core) (n : Nat) (v : Group) : (c.setGroup n v).parts = c.parts := rfl
@[simp] theorem Core.setGroup_sideOwn (c : Core) (n : Nat) (v : Group) : (c.setGroup n v).sideOwn = c.sideOwn := rfl
@[simp] theorem Core.setGroup_queues (c : Core) (n : Nat) (v : Group) : (c.setGroup n v).queues = c.queues := rfl
@[simp] theorem Core.setGroup_routes (c : Core) (n : Nat) (v : Group) : (c.setGroup n v).routes = c.routes := rfl
@[simp] theorem Core.setGroup_firings (c : Core) (n : Nat) (v : Group) : (c.setGroup n v).firings = c.firings := rfl
@[simp] theorem Core.setGroup_gateM (c : Core) (n : Nat) (v : Group) : (c.setGroup n v).gateM = c.gateM := rfl
@[simp] theorem Core.setGroup_gateQ (c : Core) (n : Nat) (v : Group) : (c.setGroup n v).gateQ = c.gateQ := rfl
@[simp] theorem Core.setGroup_loader (c : Core) (n : Nat) (v : Group) : (c.setGroup n v).loader = c.loader := rfl
@[simp] theorem Core.setGroup_storer (c : Core) (n : Nat) (v : Group) : (c.setGroup n v).storer = c.storer := rfl
@[simp] theorem Core.setGroup_timer (c : Core) (n : Nat) (v : Group) : (c.setGroup n v).timer = c.timer := rfl
@[simp] theorem Core.setGroup_copies (c : Core) (n : Nat) (v : Group) : (c.setGroup n v).copies = c.copies := rfl
@[simp] theorem Core.setGroup_nextCpy (c : Core) (n : Nat) (v : Group) : (c.setGroup n v).nextCpy = c.nextCpy := rfl
@[simp] theorem Core.setGroup_gens (c : Core) (n : Nat) (v : Group) : (c.setGroup n v).gens = c.gens := rfl
@[simp] theorem Core.setGroup_sealed (c : Core) (n : Nat) (v : Group) : (c.setGroup n v).sealed = c.sealed := rfl
@[simp] theorem Core.setGroup_l1 (c : Core) (n : Nat) (v : Group) : (c.setGroup n v).l1 = c.l1 := rfl
@[simp] theorem Core.setGroup_tlb (c : Core) (n : Nat) (v : Group) : (c.setGroup n v).tlb = c.tlb := rfl
@[simp] theorem Core.setGroup_miss (c : Core) (n : Nat) (v : Group) : (c.setGroup n v).miss = c.miss := rfl
@[simp] theorem Core.setGroup_asks (c : Core) (n : Nat) (v : Group) : (c.setGroup n v).asks = c.asks := rfl
@[simp] theorem Core.setGroup_reqs (c : Core) (n : Nat) (v : Group) : (c.setGroup n v).reqs = c.reqs := rfl

/-! ### The fields of a group -/

@[simp] theorem Group.setVec_resident (g : Group) (n t : Nat) (v : Word) : (g.setVec n t v).resident = g.resident := rfl
@[simp] theorem Group.setVec_ended (g : Group) (n t : Nat) (v : Word) : (g.setVec n t v).ended = g.ended := rfl
@[simp] theorem Group.setVec_inst (g : Group) (n t : Nat) (v : Word) : (g.setVec n t v).inst = g.inst := rfl
@[simp] theorem Group.setVec_herdIdx (g : Group) (n t : Nat) (v : Word) : (g.setVec n t v).herdIdx = g.herdIdx := rfl
@[simp] theorem Group.setVec_pc (g : Group) (n t : Nat) (v : Word) : (g.setVec n t v).pc = g.pc := rfl
@[simp] theorem Group.setVec_mode (g : Group) (n t : Nat) (v : Word) : (g.setVec n t v).mode = g.mode := rfl
@[simp] theorem Group.setVec_fmt (g : Group) (n t : Nat) (v : Word) : (g.setVec n t v).fmt = g.fmt := rfl
@[simp] theorem Group.setVec_amask (g : Group) (n t : Nat) (v : Word) : (g.setVec n t v).amask = g.amask := rfl
@[simp] theorem Group.setVec_split (g : Group) (n t : Nat) (v : Word) : (g.setVec n t v).split = g.split := rfl
@[simp] theorem Group.setVec_rest (g : Group) (n t : Nat) (v : Word) : (g.setVec n t v).rest = g.rest := rfl
@[simp] theorem Group.setVec_far (g : Group) (n t : Nat) (v : Word) : (g.setVec n t v).far = g.far := rfl
@[simp] theorem Group.setVec_scalars (g : Group) (n t : Nat) (v : Word) : (g.setVec n t v).scalars = g.scalars := rfl
@[simp] theorem Group.setVec_preds (g : Group) (n t : Nat) (v : Word) : (g.setVec n t v).preds = g.preds := rfl
@[simp] theorem Group.setVec_xheld (g : Group) (n t : Nat) (v : Word) : (g.setVec n t v).xheld = g.xheld := rfl
@[simp] theorem Group.setVec_stack (g : Group) (n t : Nat) (v : Word) : (g.setVec n t v).stack = g.stack := rfl
@[simp] theorem Group.setVec_spill (g : Group) (n t : Nat) (v : Word) : (g.setVec n t v).spill = g.spill := rfl
@[simp] theorem Group.setVec_hndl (g : Group) (n t : Nat) (v : Word) : (g.setVec n t v).hndl = g.hndl := rfl
@[simp] theorem Group.setVec_xop (g : Group) (n t : Nat) (v : Word) : (g.setVec n t v).xop = g.xop := rfl
@[simp] theorem Group.setVec_xd (g : Group) (n t : Nat) (v : Word) : (g.setVec n t v).xd = g.xd := rfl
@[simp] theorem Group.setVec_xa (g : Group) (n t : Nat) (v : Word) : (g.setVec n t v).xa = g.xa := rfl
@[simp] theorem Group.setVec_xb (g : Group) (n t : Nat) (v : Word) : (g.setVec n t v).xb = g.xb := rfl
@[simp] theorem Group.setVec_xword (g : Group) (n t : Nat) (v : Word) : (g.setVec n t v).xword = g.xword := rfl
@[simp] theorem Group.setVec_save (g : Group) (n t : Nat) (v : Word) : (g.setVec n t v).save = g.save := rfl
@[simp] theorem Group.setVec_wait (g : Group) (n t : Nat) (v : Word) : (g.setVec n t v).wait = g.wait := rfl
@[simp] theorem Group.setVec_redo (g : Group) (n t : Nat) (v : Word) : (g.setVec n t v).redo = g.redo := rfl
@[simp] theorem Group.setVec_waited (g : Group) (n t : Nat) (v : Word) : (g.setVec n t v).waited = g.waited := rfl
@[simp] theorem Group.setVec_pair (g : Group) (n t : Nat) (v : Word) : (g.setVec n t v).pair = g.pair := rfl
@[simp] theorem Group.setVec_locks (g : Group) (n t : Nat) (v : Word) : (g.setVec n t v).locks = g.locks := rfl
@[simp] theorem Group.setVec_mon (g : Group) (n t : Nat) (v : Word) : (g.setVec n t v).mon = g.mon := rfl
@[simp] theorem Group.setVec_monArena (g : Group) (n t : Nat) (v : Word) : (g.setVec n t v).monArena = g.monArena := rfl
@[simp] theorem Group.setVec_monHit (g : Group) (n t : Nat) (v : Word) : (g.setVec n t v).monHit = g.monHit := rfl
@[simp] theorem Group.setVec_mrem (g : Group) (n t : Nat) (v : Word) : (g.setVec n t v).mrem = g.mrem := rfl
@[simp] theorem Group.setVec_lkgr (g : Group) (n t : Nat) (v : Word) : (g.setVec n t v).lkgr = g.lkgr := rfl
@[simp] theorem Group.setVec_lkst (g : Group) (n t : Nat) (v : Word) : (g.setVec n t v).lkst = g.lkst := rfl
@[simp] theorem Group.setVec_accs (g : Group) (n t : Nat) (v : Word) : (g.setVec n t v).accs = g.accs := rfl
@[simp] theorem Group.setVec_nextAcc (g : Group) (n t : Nat) (v : Word) : (g.setVec n t v).nextAcc = g.nextAcc := rfl
@[simp] theorem Group.setVec_ld (g : Group) (n t : Nat) (v : Word) : (g.setVec n t v).ld = g.ld := rfl
@[simp] theorem Group.setVec_st (g : Group) (n t : Nat) (v : Word) : (g.setVec n t v).st = g.st := rfl
@[simp] theorem Group.setVec_cp (g : Group) (n t : Nat) (v : Word) : (g.setVec n t v).cp = g.cp := rfl
@[simp] theorem Group.setVec_mx (g : Group) (n t : Nat) (v : Word) : (g.setVec n t v).mx = g.mx := rfl
@[simp] theorem Group.setVec_qx (g : Group) (n t : Nat) (v : Word) : (g.setVec n t v).qx = g.qx := rfl
@[simp] theorem Group.setVec_nextOp (g : Group) (n t : Nat) (v : Word) : (g.setVec n t v).nextOp = g.nextOp := rfl
@[simp] theorem Group.setVec_score (g : Group) (n t : Nat) (v : Word) : (g.setVec n t v).score = g.score := rfl
@[simp] theorem Group.setVec_hazards (g : Group) (n t : Nat) (v : Word) : (g.setVec n t v).hazards = g.hazards := rfl
@[simp] theorem Group.setVec_stall (g : Group) (n t : Nat) (v : Word) : (g.setVec n t v).stall = g.stall := rfl
@[simp] theorem Group.setVec_nextPc (g : Group) (n t : Nat) (v : Word) : (g.setVec n t v).nextPc = g.nextPc := rfl
@[simp] theorem Group.setVec_started (g : Group) (n t : Nat) (v : Word) : (g.setVec n t v).started = g.started := rfl
@[simp] theorem Group.setVec_halt (g : Group) (n t : Nat) (v : Word) : (g.setVec n t v).halt = g.halt := rfl
@[simp] theorem Group.setVec_follow (g : Group) (n t : Nat) (v : Word) : (g.setVec n t v).follow = g.follow := rfl
@[simp] theorem Group.setVec_stop (g : Group) (n t : Nat) (v : Word) : (g.setVec n t v).stop = g.stop := rfl
@[simp] theorem Group.setVec_entry (g : Group) (n t : Nat) (v : Word) : (g.setVec n t v).entry = g.entry := rfl
@[simp] theorem Group.setVec_owed (g : Group) (n t : Nat) (v : Word) : (g.setVec n t v).owed = g.owed := rfl
@[simp] theorem Group.setVec_fired (g : Group) (n t : Nat) (v : Word) : (g.setVec n t v).fired = g.fired := rfl
@[simp] theorem Group.setVec_preempt (g : Group) (n t : Nat) (v : Word) : (g.setVec n t v).preempt = g.preempt := rfl
@[simp] theorem Group.setVec_prenote (g : Group) (n t : Nat) (v : Word) : (g.setVec n t v).prenote = g.prenote := rfl
@[simp] theorem Group.setScal_resident (g : Group) (n : Nat) (v : Word) : (g.setScal n v).resident = g.resident := rfl
@[simp] theorem Group.setScal_ended (g : Group) (n : Nat) (v : Word) : (g.setScal n v).ended = g.ended := rfl
@[simp] theorem Group.setScal_inst (g : Group) (n : Nat) (v : Word) : (g.setScal n v).inst = g.inst := rfl
@[simp] theorem Group.setScal_herdIdx (g : Group) (n : Nat) (v : Word) : (g.setScal n v).herdIdx = g.herdIdx := rfl
@[simp] theorem Group.setScal_pc (g : Group) (n : Nat) (v : Word) : (g.setScal n v).pc = g.pc := rfl
@[simp] theorem Group.setScal_mode (g : Group) (n : Nat) (v : Word) : (g.setScal n v).mode = g.mode := rfl
@[simp] theorem Group.setScal_fmt (g : Group) (n : Nat) (v : Word) : (g.setScal n v).fmt = g.fmt := rfl
@[simp] theorem Group.setScal_amask (g : Group) (n : Nat) (v : Word) : (g.setScal n v).amask = g.amask := rfl
@[simp] theorem Group.setScal_split (g : Group) (n : Nat) (v : Word) : (g.setScal n v).split = g.split := rfl
@[simp] theorem Group.setScal_rest (g : Group) (n : Nat) (v : Word) : (g.setScal n v).rest = g.rest := rfl
@[simp] theorem Group.setScal_far (g : Group) (n : Nat) (v : Word) : (g.setScal n v).far = g.far := rfl
@[simp] theorem Group.setScal_vectors (g : Group) (n : Nat) (v : Word) : (g.setScal n v).vectors = g.vectors := rfl
@[simp] theorem Group.setScal_preds (g : Group) (n : Nat) (v : Word) : (g.setScal n v).preds = g.preds := rfl
@[simp] theorem Group.setScal_xheld (g : Group) (n : Nat) (v : Word) : (g.setScal n v).xheld = g.xheld := rfl
@[simp] theorem Group.setScal_stack (g : Group) (n : Nat) (v : Word) : (g.setScal n v).stack = g.stack := rfl
@[simp] theorem Group.setScal_spill (g : Group) (n : Nat) (v : Word) : (g.setScal n v).spill = g.spill := rfl
@[simp] theorem Group.setScal_hndl (g : Group) (n : Nat) (v : Word) : (g.setScal n v).hndl = g.hndl := rfl
@[simp] theorem Group.setScal_xop (g : Group) (n : Nat) (v : Word) : (g.setScal n v).xop = g.xop := rfl
@[simp] theorem Group.setScal_xd (g : Group) (n : Nat) (v : Word) : (g.setScal n v).xd = g.xd := rfl
@[simp] theorem Group.setScal_xa (g : Group) (n : Nat) (v : Word) : (g.setScal n v).xa = g.xa := rfl
@[simp] theorem Group.setScal_xb (g : Group) (n : Nat) (v : Word) : (g.setScal n v).xb = g.xb := rfl
@[simp] theorem Group.setScal_xword (g : Group) (n : Nat) (v : Word) : (g.setScal n v).xword = g.xword := rfl
@[simp] theorem Group.setScal_save (g : Group) (n : Nat) (v : Word) : (g.setScal n v).save = g.save := rfl
@[simp] theorem Group.setScal_wait (g : Group) (n : Nat) (v : Word) : (g.setScal n v).wait = g.wait := rfl
@[simp] theorem Group.setScal_redo (g : Group) (n : Nat) (v : Word) : (g.setScal n v).redo = g.redo := rfl
@[simp] theorem Group.setScal_waited (g : Group) (n : Nat) (v : Word) : (g.setScal n v).waited = g.waited := rfl
@[simp] theorem Group.setScal_pair (g : Group) (n : Nat) (v : Word) : (g.setScal n v).pair = g.pair := rfl
@[simp] theorem Group.setScal_locks (g : Group) (n : Nat) (v : Word) : (g.setScal n v).locks = g.locks := rfl
@[simp] theorem Group.setScal_mon (g : Group) (n : Nat) (v : Word) : (g.setScal n v).mon = g.mon := rfl
@[simp] theorem Group.setScal_monArena (g : Group) (n : Nat) (v : Word) : (g.setScal n v).monArena = g.monArena := rfl
@[simp] theorem Group.setScal_monHit (g : Group) (n : Nat) (v : Word) : (g.setScal n v).monHit = g.monHit := rfl
@[simp] theorem Group.setScal_mrem (g : Group) (n : Nat) (v : Word) : (g.setScal n v).mrem = g.mrem := rfl
@[simp] theorem Group.setScal_lkgr (g : Group) (n : Nat) (v : Word) : (g.setScal n v).lkgr = g.lkgr := rfl
@[simp] theorem Group.setScal_lkst (g : Group) (n : Nat) (v : Word) : (g.setScal n v).lkst = g.lkst := rfl
@[simp] theorem Group.setScal_accs (g : Group) (n : Nat) (v : Word) : (g.setScal n v).accs = g.accs := rfl
@[simp] theorem Group.setScal_nextAcc (g : Group) (n : Nat) (v : Word) : (g.setScal n v).nextAcc = g.nextAcc := rfl
@[simp] theorem Group.setScal_ld (g : Group) (n : Nat) (v : Word) : (g.setScal n v).ld = g.ld := rfl
@[simp] theorem Group.setScal_st (g : Group) (n : Nat) (v : Word) : (g.setScal n v).st = g.st := rfl
@[simp] theorem Group.setScal_cp (g : Group) (n : Nat) (v : Word) : (g.setScal n v).cp = g.cp := rfl
@[simp] theorem Group.setScal_mx (g : Group) (n : Nat) (v : Word) : (g.setScal n v).mx = g.mx := rfl
@[simp] theorem Group.setScal_qx (g : Group) (n : Nat) (v : Word) : (g.setScal n v).qx = g.qx := rfl
@[simp] theorem Group.setScal_nextOp (g : Group) (n : Nat) (v : Word) : (g.setScal n v).nextOp = g.nextOp := rfl
@[simp] theorem Group.setScal_score (g : Group) (n : Nat) (v : Word) : (g.setScal n v).score = g.score := rfl
@[simp] theorem Group.setScal_hazards (g : Group) (n : Nat) (v : Word) : (g.setScal n v).hazards = g.hazards := rfl
@[simp] theorem Group.setScal_stall (g : Group) (n : Nat) (v : Word) : (g.setScal n v).stall = g.stall := rfl
@[simp] theorem Group.setScal_nextPc (g : Group) (n : Nat) (v : Word) : (g.setScal n v).nextPc = g.nextPc := rfl
@[simp] theorem Group.setScal_started (g : Group) (n : Nat) (v : Word) : (g.setScal n v).started = g.started := rfl
@[simp] theorem Group.setScal_halt (g : Group) (n : Nat) (v : Word) : (g.setScal n v).halt = g.halt := rfl
@[simp] theorem Group.setScal_follow (g : Group) (n : Nat) (v : Word) : (g.setScal n v).follow = g.follow := rfl
@[simp] theorem Group.setScal_stop (g : Group) (n : Nat) (v : Word) : (g.setScal n v).stop = g.stop := rfl
@[simp] theorem Group.setScal_entry (g : Group) (n : Nat) (v : Word) : (g.setScal n v).entry = g.entry := rfl
@[simp] theorem Group.setScal_owed (g : Group) (n : Nat) (v : Word) : (g.setScal n v).owed = g.owed := rfl
@[simp] theorem Group.setScal_fired (g : Group) (n : Nat) (v : Word) : (g.setScal n v).fired = g.fired := rfl
@[simp] theorem Group.setScal_preempt (g : Group) (n : Nat) (v : Word) : (g.setScal n v).preempt = g.preempt := rfl
@[simp] theorem Group.setScal_prenote (g : Group) (n : Nat) (v : Word) : (g.setScal n v).prenote = g.prenote := rfl
@[simp] theorem Group.setPred_resident (g : Group) (n : Nat) (v : BitVec 64) : (g.setPred n v).resident = g.resident := rfl
@[simp] theorem Group.setPred_ended (g : Group) (n : Nat) (v : BitVec 64) : (g.setPred n v).ended = g.ended := rfl
@[simp] theorem Group.setPred_inst (g : Group) (n : Nat) (v : BitVec 64) : (g.setPred n v).inst = g.inst := rfl
@[simp] theorem Group.setPred_herdIdx (g : Group) (n : Nat) (v : BitVec 64) : (g.setPred n v).herdIdx = g.herdIdx := rfl
@[simp] theorem Group.setPred_pc (g : Group) (n : Nat) (v : BitVec 64) : (g.setPred n v).pc = g.pc := rfl
@[simp] theorem Group.setPred_mode (g : Group) (n : Nat) (v : BitVec 64) : (g.setPred n v).mode = g.mode := rfl
@[simp] theorem Group.setPred_fmt (g : Group) (n : Nat) (v : BitVec 64) : (g.setPred n v).fmt = g.fmt := rfl
@[simp] theorem Group.setPred_amask (g : Group) (n : Nat) (v : BitVec 64) : (g.setPred n v).amask = g.amask := rfl
@[simp] theorem Group.setPred_split (g : Group) (n : Nat) (v : BitVec 64) : (g.setPred n v).split = g.split := rfl
@[simp] theorem Group.setPred_rest (g : Group) (n : Nat) (v : BitVec 64) : (g.setPred n v).rest = g.rest := rfl
@[simp] theorem Group.setPred_far (g : Group) (n : Nat) (v : BitVec 64) : (g.setPred n v).far = g.far := rfl
@[simp] theorem Group.setPred_scalars (g : Group) (n : Nat) (v : BitVec 64) : (g.setPred n v).scalars = g.scalars := rfl
@[simp] theorem Group.setPred_vectors (g : Group) (n : Nat) (v : BitVec 64) : (g.setPred n v).vectors = g.vectors := rfl
@[simp] theorem Group.setPred_xheld (g : Group) (n : Nat) (v : BitVec 64) : (g.setPred n v).xheld = g.xheld := rfl
@[simp] theorem Group.setPred_stack (g : Group) (n : Nat) (v : BitVec 64) : (g.setPred n v).stack = g.stack := rfl
@[simp] theorem Group.setPred_spill (g : Group) (n : Nat) (v : BitVec 64) : (g.setPred n v).spill = g.spill := rfl
@[simp] theorem Group.setPred_hndl (g : Group) (n : Nat) (v : BitVec 64) : (g.setPred n v).hndl = g.hndl := rfl
@[simp] theorem Group.setPred_xop (g : Group) (n : Nat) (v : BitVec 64) : (g.setPred n v).xop = g.xop := rfl
@[simp] theorem Group.setPred_xd (g : Group) (n : Nat) (v : BitVec 64) : (g.setPred n v).xd = g.xd := rfl
@[simp] theorem Group.setPred_xa (g : Group) (n : Nat) (v : BitVec 64) : (g.setPred n v).xa = g.xa := rfl
@[simp] theorem Group.setPred_xb (g : Group) (n : Nat) (v : BitVec 64) : (g.setPred n v).xb = g.xb := rfl
@[simp] theorem Group.setPred_xword (g : Group) (n : Nat) (v : BitVec 64) : (g.setPred n v).xword = g.xword := rfl
@[simp] theorem Group.setPred_save (g : Group) (n : Nat) (v : BitVec 64) : (g.setPred n v).save = g.save := rfl
@[simp] theorem Group.setPred_wait (g : Group) (n : Nat) (v : BitVec 64) : (g.setPred n v).wait = g.wait := rfl
@[simp] theorem Group.setPred_redo (g : Group) (n : Nat) (v : BitVec 64) : (g.setPred n v).redo = g.redo := rfl
@[simp] theorem Group.setPred_waited (g : Group) (n : Nat) (v : BitVec 64) : (g.setPred n v).waited = g.waited := rfl
@[simp] theorem Group.setPred_pair (g : Group) (n : Nat) (v : BitVec 64) : (g.setPred n v).pair = g.pair := rfl
@[simp] theorem Group.setPred_locks (g : Group) (n : Nat) (v : BitVec 64) : (g.setPred n v).locks = g.locks := rfl
@[simp] theorem Group.setPred_mon (g : Group) (n : Nat) (v : BitVec 64) : (g.setPred n v).mon = g.mon := rfl
@[simp] theorem Group.setPred_monArena (g : Group) (n : Nat) (v : BitVec 64) : (g.setPred n v).monArena = g.monArena := rfl
@[simp] theorem Group.setPred_monHit (g : Group) (n : Nat) (v : BitVec 64) : (g.setPred n v).monHit = g.monHit := rfl
@[simp] theorem Group.setPred_mrem (g : Group) (n : Nat) (v : BitVec 64) : (g.setPred n v).mrem = g.mrem := rfl
@[simp] theorem Group.setPred_lkgr (g : Group) (n : Nat) (v : BitVec 64) : (g.setPred n v).lkgr = g.lkgr := rfl
@[simp] theorem Group.setPred_lkst (g : Group) (n : Nat) (v : BitVec 64) : (g.setPred n v).lkst = g.lkst := rfl
@[simp] theorem Group.setPred_accs (g : Group) (n : Nat) (v : BitVec 64) : (g.setPred n v).accs = g.accs := rfl
@[simp] theorem Group.setPred_nextAcc (g : Group) (n : Nat) (v : BitVec 64) : (g.setPred n v).nextAcc = g.nextAcc := rfl
@[simp] theorem Group.setPred_ld (g : Group) (n : Nat) (v : BitVec 64) : (g.setPred n v).ld = g.ld := rfl
@[simp] theorem Group.setPred_st (g : Group) (n : Nat) (v : BitVec 64) : (g.setPred n v).st = g.st := rfl
@[simp] theorem Group.setPred_cp (g : Group) (n : Nat) (v : BitVec 64) : (g.setPred n v).cp = g.cp := rfl
@[simp] theorem Group.setPred_mx (g : Group) (n : Nat) (v : BitVec 64) : (g.setPred n v).mx = g.mx := rfl
@[simp] theorem Group.setPred_qx (g : Group) (n : Nat) (v : BitVec 64) : (g.setPred n v).qx = g.qx := rfl
@[simp] theorem Group.setPred_nextOp (g : Group) (n : Nat) (v : BitVec 64) : (g.setPred n v).nextOp = g.nextOp := rfl
@[simp] theorem Group.setPred_score (g : Group) (n : Nat) (v : BitVec 64) : (g.setPred n v).score = g.score := rfl
@[simp] theorem Group.setPred_hazards (g : Group) (n : Nat) (v : BitVec 64) : (g.setPred n v).hazards = g.hazards := rfl
@[simp] theorem Group.setPred_stall (g : Group) (n : Nat) (v : BitVec 64) : (g.setPred n v).stall = g.stall := rfl
@[simp] theorem Group.setPred_nextPc (g : Group) (n : Nat) (v : BitVec 64) : (g.setPred n v).nextPc = g.nextPc := rfl
@[simp] theorem Group.setPred_started (g : Group) (n : Nat) (v : BitVec 64) : (g.setPred n v).started = g.started := rfl
@[simp] theorem Group.setPred_halt (g : Group) (n : Nat) (v : BitVec 64) : (g.setPred n v).halt = g.halt := rfl
@[simp] theorem Group.setPred_follow (g : Group) (n : Nat) (v : BitVec 64) : (g.setPred n v).follow = g.follow := rfl
@[simp] theorem Group.setPred_stop (g : Group) (n : Nat) (v : BitVec 64) : (g.setPred n v).stop = g.stop := rfl
@[simp] theorem Group.setPred_entry (g : Group) (n : Nat) (v : BitVec 64) : (g.setPred n v).entry = g.entry := rfl
@[simp] theorem Group.setPred_owed (g : Group) (n : Nat) (v : BitVec 64) : (g.setPred n v).owed = g.owed := rfl
@[simp] theorem Group.setPred_fired (g : Group) (n : Nat) (v : BitVec 64) : (g.setPred n v).fired = g.fired := rfl
@[simp] theorem Group.setPred_preempt (g : Group) (n : Nat) (v : BitVec 64) : (g.setPred n v).preempt = g.preempt := rfl
@[simp] theorem Group.setPred_prenote (g : Group) (n : Nat) (v : BitVec 64) : (g.setPred n v).prenote = g.prenote := rfl

/-! ### Reads after writes -/

@[simp] theorem core_setCore (s : State) (c : Nat) (v : Core) : (s.setCore c v).core c = v := by
  simp [State.core, State.setCore]

theorem core_setCore_ne (s : State) {b c : Nat} (v : Core) (h : b ≠ c) : (s.setCore c v).core b = s.core b := by
  simp [State.core, State.setCore, find_put_ne _ v h]

@[simp] theorem core_updCore (s : State) (c : Nat) (f : Core → Core) : (s.updCore c f).core c = f (s.core c) := core_setCore s c _

@[simp] theorem setCore_setCore (s : State) (c : Nat) (v u : Core) : (s.setCore c v).setCore c u = s.setCore c u := by
  simp [State.setCore]

@[simp] theorem group_setGroup_core (c : Core) (n : Nat) (v : Group) : (c.setGroup n v).group n = v := by
  simp [Core.group, Core.setGroup]

theorem group_setGroup_core_ne (c : Core) {m n : Nat} (v : Group) (h : m ≠ n) : (c.setGroup n v).group m = c.group m := by
  simp [Core.group, Core.setGroup, find_put_ne _ v h]

@[simp] theorem setGroup_setGroup_core (c : Core) (n : Nat) (v u : Group) : (c.setGroup n v).setGroup n u = c.setGroup n u := by
  simp [Core.setGroup]

@[simp] theorem group_setGroup (s : State) (c g : Nat) (v : Group) : (s.setGroup c g v).group c g = v := by
  simp [State.group, State.setGroup]

theorem group_setGroup_ne (s : State) {b c g h : Nat} (v : Group) (n : b ≠ c ∨ g ≠ h) :
    (s.setGroup c h v).group b g = s.group b g := by
  by_cases e : b = c
  · subst e
    have : g ≠ h := by tauto
    simp [State.group, State.setGroup, group_setGroup_core_ne _ _ this]
  · simp [State.group, State.setGroup, core_setCore_ne _ _ e]

@[simp] theorem setGroup_setGroup (s : State) (c g : Nat) (v u : Group) : (s.setGroup c g v).setGroup c g u = s.setGroup c g u := by
  simp [State.setGroup]

theorem setGroup_comm_core (c : Core) {m n : Nat} (v u : Group) (h : m ≠ n) :
    (c.setGroup m v).setGroup n u = (c.setGroup n u).setGroup m v := by
  simp [Core.setGroup, put_comm c.groups v u h]

/-- Writes of different groups commute. -/
theorem setGroup_comm (s : State) {b c g h : Nat} (v u : Group) (n : b ≠ c ∨ g ≠ h) :
    (s.setGroup b g v).setGroup c h u = (s.setGroup c h u).setGroup b g v := by
  by_cases e : b = c
  · subst e
    have : g ≠ h := by tauto
    simp [State.setGroup, setGroup_comm_core _ v u this]
  · have e2 : c ≠ b := fun x => e x.symm
    simp only [State.setGroup, core_setCore_ne _ _ e, core_setCore_ne _ _ e2]
    simp only [State.setCore, put_comm s.cores _ _ e]

@[simp] theorem group_updGroup (s : State) (c g : Nat) (f : Group → Group) : (s.updGroup c g f).group c g = f (s.group c g) :=
  group_setGroup s c g _

@[simp] theorem cur_setCur (s : State) (v : Group) : (s.setCur v).cur = v := group_setGroup s _ _ v

@[simp] theorem cur_updCur (s : State) (f : Group → Group) : (s.updCur f).cur = f s.cur := cur_setCur s _

@[simp] theorem setCur_setCur (s : State) (v u : Group) : (s.setCur v).setCur u = s.setCur u := setGroup_setGroup s _ _ v u

@[simp] theorem updCur_setCur (s : State) (v : Group) (f : Group → Group) : (s.setCur v).updCur f = s.setCur (f v) := by
  simp [State.updCur]

@[simp] theorem updCur_updCur (s : State) (f k : Group → Group) : (s.updCur f).updCur k = s.updCur (fun g => k (f g)) := by
  simp [State.updCur]

@[simp] theorem wps_setCur (s : State) (v : Group) (c : Nat) : ((s.setCur v).core c).wps = (s.core c).wps := by
  by_cases e : c = s.focus.core
  · subst e; simp [State.setCur, State.setGroup]
  · simp [State.setCur, State.setGroup, core_setCore_ne _ _ e]

@[simp] theorem clk_setCur (s : State) (v : Group) (c : Nat) : ((s.setCur v).core c).clk = (s.core c).clk := by
  by_cases e : c = s.focus.core
  · subst e; simp [State.setCur, State.setGroup]
  · simp [State.setCur, State.setGroup, core_setCore_ne _ _ e]

end Sys2Proof.Machine
end

