-- ==== Sys2Proof/Laws/Start.lean ====
section
/-! SUPPORT. What the shared operations that start and complete a group's instruction do when nothing disturbs them. -/
namespace Sys2Proof.Machine

theorem Starts.far {s : State} {sh : Shape} (h : Starts s sh) : s.cur.far = none := h.2.2.2.2.2.2.2.2

theorem Starts.wps {s : State} {sh : Shape} (h : Starts s sh) : (s.core s.focus.core).wps = [] := h.2.2.2.1

@[simp] theorem setCur_cur (s : State) (v : Group) : (s.setCur v).cur = v := cur_setCur s v

/-- An undisturbed instruction starts: its effect is computed from the state of its start. -/
theorem startGroup_starts {s : State} {sh : Shape} (h : Starts s sh) (k : Ctx → State → State) :
    startGroup s sh k = .next (k (startCtx s sh) (s.setCur (begun s))) := by
  obtain ⟨h1, h2, h3, h4, h5, h6, h7, h10, h11⟩ := h
  have h8 : startsEarly s s.cur sh (ctlStall s.focus.ctl (pcSlot s.cur.pc)) = false := by simp [startsEarly, h2]
  have h9 : ∀ x : BitVec 64, x &&& 18446744073709551615#64 = x := fun x => BitVec.and_allOnes
  have e : ({ s.cur with
    nextPc := pcNext s.cur.pc (ctlN s.focus.ctl), hazards := [], split := s.cur.split, rest := s.cur.rest, far := none } : Group) =
      begun s := by rw [← h11]; rfl
  simp only [startGroup, h1, h8, h3, h7, Bool.false_and, Bool.false_eq_true, if_false, e]
  simp [h5, watch, watchFrom, startCtx, taking, h4]
  cases sh.seen <;> cases narrows sh <;> simp [h9]

/-- An instruction that a start-time cause forbids traps and has no effect (R193). -/
theorem startGroup_trap {s : State} {sh : Shape} {c : BitVec 8}
    (h1 : blocked s.cur sh (ctlStall s.focus.ctl (pcSlot s.cur.pc)) = false) (h2 : s.cur.hazards = [])
    (h3 : startCause s s.focus.core s.cur sh false = some c) (k : Ctx → State → State) :
    startGroup s sh k = .next (trapCode s c) := by
  have h8 : startsEarly s s.cur sh (ctlStall s.focus.ctl (pcSlot s.cur.pc)) = false := by simp [startsEarly, h2]
  simp [startGroup, h1, h8, h3]

/-- No watch predicate sees anything on a core that has none. -/
theorem watch_none {s : State} {core slot q : Nat} {pc : BitVec 48} {l : List Shown} (h : (s.core core).wps = []) :
    watch s core slot q pc l = (s, none) := by simp [watch, watchFrom, h]

theorem retire_none (s : State) (f : BitVec 6) : retire s none f = s.updCur (fun g => g.goOn s.cur.nextPc) := rfl

/-- The halted state and the threads that a step has left: of a group that no halt disturbs, none and 0. -/
def Group.calm (g : Group) : Option Halt × BitVec 64 := (g.halt, g.rest)

theorem Starts.calm {s : State} {sh : Shape} (h : Starts s sh) : s.cur.calm = (none, 0) := by
  simp [Group.calm, h.2.2.2.2.2.1, h.2.2.2.2.2.2.2.1]

/-- The group at the start of an undisturbed instruction. -/
theorem Starts.begun_eq {s : State} {sh : Shape} (h : Starts s sh) : begun s = { s.cur with nextPc := s.after, hazards := [], far := none } := by
  obtain ⟨_, _, _, _, _, _, _, _, h11⟩ := h
  rw [← h11]; rfl

theorem goOn_none {g : Group} (h : g.calm = (none, 0)) (pc : BitVec 48) : g.goOn pc = g.resumed pc := by
  simp only [Group.calm, Prod.mk.injEq] at h
  simp [Group.goOn, h.1, h.2, Group.resumed]

/-- The completion of a lane instruction on a core without watch predicates. -/
theorem commitLane_quiet {x : Ctx} {t : State} (hx : x.hit = none) (hw : (t.core x.core).wps = []) (hh : t.cur.calm = (none, 0))
    (hr : ∀ g : Group, ∀ rs : List ThrRes, (rs.foldl applyThr g).calm = g.calm) (rs : List ThrRes) :
    commitLane x t rs = t.setCur ((rs.foldl applyThr t.cur).resumed (rs.foldl applyThr t.cur).nextPc) := by
  have e : rs.filter (fun r => !(bit 0#64 r.thr)) = rs := by
    apply List.filter_eq_self.mpr; intro a _; simp [bit]
  simp [commitLane, watch_none hw, hx, Hit.join, retire_none, e, State.updCur, goOn_none ((hr _ rs).trans hh)]

/-- The completion of a uniform instruction on a core without watch predicates. -/
theorem commitUni_quiet {x : Ctx} {t : State} (hx : x.hit = none) (hw : (t.core x.core).wps = [])
    (ds : List (BitVec 8)) (vals : List Word) (fl : Option Flags) (f : State → State) (hh : (f t).cur.calm = (none, 0)) :
    commitUni x t ds vals fl f =
      (f t).updCur (fun g => ({ g with hazards := hazardsOf t.cur ds } : Group).resumed (f t).cur.nextPc) := by
  simp [commitUni, watch_none hw, hx, Hit.join, retire_none]
  simp only [State.updCur]
  rw [goOn_none (g := { (f t).cur with hazards := hazardsOf t.cur ds }) hh]

/-- A group with another next slot and other open latencies. -/
def Group.at_ (g : Group) (pc : BitVec 48) (hz : List Hazard) : Group := { g with nextPc := pc, hazards := hz }

theorem writeLane_at (g : Group) (pc : BitVec 48) (hz : List Hazard) (d : BitVec 8) (t : Nat) (v : Word) :
    writeLane (g.at_ pc hz) d t v = (writeLane g d t v).at_ pc hz := by
  unfold writeLane Group.at_
  cases slotOf d with
  | none => rfl
  | some k => simp only; split <;> rfl

theorem writeLane_calm (g : Group) (d : BitVec 8) (t : Nat) (v : Word) : (writeLane g d t v).calm = g.calm := by
  unfold writeLane
  cases slotOf d with
  | none => rfl
  | some k => simp only; split <;> rfl

theorem applyThr_at (g : Group) (pc : BitVec 48) (hz : List Hazard) (r : ThrRes) :
    applyThr (g.at_ pc hz) r = (applyThr g r).at_ pc hz := by
  have e : ∀ (l : List (BitVec 8 × Word)) (g : Group),
      l.foldl (fun k e => writeLane k e.1 r.thr e.2) (g.at_ pc hz) = (l.foldl (fun k e => writeLane k e.1 r.thr e.2) g).at_ pc hz := by
    intro l
    induction l with
    | nil => intro g; rfl
    | cons a l ih => intro g; simp [writeLane_at, ih]
  unfold applyThr
  rw [e]
  cases r.pred <;> rfl

theorem applyThr_calm (g : Group) (r : ThrRes) : (applyThr g r).calm = g.calm := by
  have e : ∀ (l : List (BitVec 8 × Word)) (g : Group), (l.foldl (fun k e => writeLane k e.1 r.thr e.2) g).calm = g.calm := by
    intro l
    induction l with
    | nil => intro g; rfl
    | cons a l ih => intro g; simp [writeLane_calm, ih]
  unfold applyThr
  cases r.pred <;> exact e _ _

theorem applyAll_at (rs : List ThrRes) (g : Group) (pc : BitVec 48) (hz : List Hazard) :
    rs.foldl applyThr (g.at_ pc hz) = (rs.foldl applyThr g).at_ pc hz := by
  induction rs generalizing g with
  | nil => rfl
  | cons a l ih => simp [applyThr_at, ih]

theorem applyAll_calm (rs : List ThrRes) (g : Group) : (rs.foldl applyThr g).calm = g.calm := by
  induction rs generalizing g with
  | nil => rfl
  | cons a l ih => simp [ih, applyThr_calm]

/-- A lane instruction's results are written and the group goes on. -/
theorem commitLane_starts {s : State} {sh : Shape} (h : Starts s sh) (rs : List ThrRes) :
    commitLane (startCtx s sh) (s.setCur (begun s)) rs = s.goesOn [] (rs.foldl applyThr s.cur) := by
  have e : begun s = s.cur.at_ s.after [] := rfl
  rw [commitLane_quiet rfl (by simpa [startCtx] using h.wps) (by simpa [begun, Group.calm] using h.calm)
    (fun g rs => applyAll_calm rs g)]
  rw [cur_setCur, e, applyAll_at, setCur_setCur]
  rfl

/-- A uniform instruction's result is written and the group goes on. -/
theorem commitUni_starts {s : State} {sh : Shape} (h : Starts s sh) (ds : List (BitVec 8)) (vals : List Word)
    (fl : Option Flags) (F : Group → Group)
    (hF : ∀ g pc hz, F (Group.at_ g pc hz) = (F g).at_ pc hz) (hH : ∀ g, (F g).calm = g.calm) :
    commitUni (startCtx s sh) (s.setCur (begun s)) ds vals fl (fun t => t.updCur F) = s.goesOn ds (F s.cur) := by
  have e : begun s = s.cur.at_ s.after [] := rfl
  have hz : hazardsOf (s.cur.at_ s.after []) ds = hazardsOf s.cur ds := rfl
  rw [commitUni_quiet rfl (by simpa [startCtx] using h.wps) ds vals fl _ (by rw [updCur_setCur, cur_setCur, hH]; exact h.calm)]
  simp only [updCur_setCur, cur_setCur, e, hF, hz]
  rfl

/-- The common course of an arithmetic instruction with a scalar destination. -/
theorem arith_uniform {s : State} {sh : Shape} (h : Starts s sh) {d : BitVec 8} (hd : uniForm d = true)
    (f : (BitVec 8 → Word) → Word × Flags) :
    arith s sh d f = .next (s.goesOn [d] (writeScal s.cur d (f (startCtx s sh).uni).1)) := by
  simp only [arith, startGroup_starts h, hd, if_true, commitScal]
  rw [commitUni_starts h [d] _ _ (fun g => writeScal g d (f (startCtx s sh).uni).1) (fun _ _ _ => rfl) (fun _ => rfl)]

theorem applyLane (d : BitVec 8) (l : List Nat) (v : Nat → Word) (fl : Nat → Option Flags) (g : Group) :
    (l.map (fun t => (⟨t, [(d, v t)], none, fl t⟩ : ThrRes))).foldl applyThr g = writeLanes g d (l.map (fun t => (t, v t))) := by
  induction l generalizing g with
  | nil => rfl
  | cons a l ih => simp [applyThr, writeLanes, ih]

/-- The common course of an arithmetic instruction with a vector destination. -/
theorem arith_lane {s : State} {sh : Shape} (h : Starts s sh) {d : BitVec 8} (hd : uniForm d = false)
    (f : (BitVec 8 → Word) → Word × Flags) :
    arith s sh d f = .next (s.goesOn [] (writeLanes s.cur d ((bitsOf (taking s sh)).map
      (fun t => (t, (f (fun r => (startCtx s sh).lane r t)).1))))) := by
  simp only [arith, startGroup_starts h, hd, commitLane_starts h, laneResults]
  simp only [Bool.false_eq_true, if_false]
  rw [applyLane d _ (fun t => (f (fun r => (startCtx s sh).lane r t)).1) (fun t => some (f (fun r => (startCtx s sh).lane r t)).2)]
  rfl

/-- The common course of an arithmetic instruction. -/
theorem arith_starts {s : State} {sh : Shape} (h : Starts s sh) (d : BitVec 8) (f : (BitVec 8 → Word) → Word × Flags) :
    arith s sh d f = .next (s.wrote sh d (fun r => (f r).1)) := by
  unfold State.wrote
  cases e : uniForm d
  · simpa using arith_lane h e f
  · simpa using arith_uniform h e f

/-- The common course of a compare. -/
theorem compare_starts {s : State} {sh : Shape} (h : Starts s sh) (d : BitVec 8) (srcs : List (BitVec 8))
    (f : (BitVec 8 → Word) → Word × Bool × Flags) :
    compare s sh d srcs f = .next (s.compared sh d srcs (fun r => ((f r).1, (f r).2.1))) := by
  unfold compare State.compared
  rw [startGroup_starts h]
  cases hp : isPred d
  · simp only [Bool.false_eq_true, if_false]
    cases e : uniForm d
    · simp only [Bool.false_eq_true, if_false, commitLane_starts h, laneResults, State.wrote, e]
      rw [applyLane d _ (fun t => (f (fun r => (startCtx s sh).lane r t)).1)
        (fun t => some (f (fun r => (startCtx s sh).lane r t)).2.2)]
      rfl
    · simp only [if_true, commitScal, State.wrote, e]
      rw [commitUni_starts h [d] _ _ (fun g => writeScal g d (f (startCtx s sh).uni).1) (fun _ _ _ => rfl) (fun _ => rfl)]
  · simp only [if_true]
    cases perThread srcs
    · simp only [Bool.false_eq_true, if_false]
      rw [commitUni_starts h [d] _ _ (fun g => writePred g d (startCtx s sh).act
        (if (f (startCtx s sh).uni).2.1 then (startCtx s sh).act else 0)) (fun _ _ _ => rfl) (fun _ => rfl)]
    · simp only [if_true, commitLane_starts h]
      congr 2
      generalize s.cur = g
      induction bitsOf (startCtx s sh).act generalizing g with
      | nil => rfl
      | cons a l ih => simp only [List.map_cons, List.foldl_cons, applyThr, List.foldl_nil]; exact ih _

/-! ### The commits of one instruction, where nothing disturbs it -/

theorem writeScal_at (d : BitVec 8) (v : Word) (g : Group) (pc : BitVec 48) (hz : List Hazard) :
    writeScal (g.at_ pc hz) d v = (writeScal g d v).at_ pc hz := rfl

theorem writeScal64_at (d : BitVec 8) (v : BitVec 64) (g : Group) (pc : BitVec 48) (hz : List Hazard) :
    writeScal64 (g.at_ pc hz) d v = (writeScal64 g d v).at_ pc hz := by
  unfold writeScal64
  generalize v.setWidth 32 = a
  generalize v.extractLsb' 32 32 = b
  rfl

theorem writePred_at (d : BitVec 8) (m v : BitVec 64) (g : Group) (pc : BitVec 48) (hz : List Hazard) :
    writePred (g.at_ pc hz) d m v = (writePred g d m v).at_ pc hz := by
  unfold writePred
  rfl

theorem writeScal64_calm (g : Group) (d : BitVec 8) (v : BitVec 64) : (writeScal64 g d v).calm = g.calm := by
  unfold writeScal64
  generalize v.setWidth 32 = a
  generalize v.extractLsb' 32 32 = b
  rfl

theorem commitScal_starts {s : State} {sh : Shape} (h : Starts s sh) (d : BitVec 8) (v : Word) (fl : Option Flags) :
    commitScal (startCtx s sh) (s.setCur (begun s)) d v fl = s.goesOn [d] (writeScal s.cur d v) :=
  commitUni_starts h [d] [v] fl (fun g => writeScal g d v) (writeScal_at d v) (fun _ => rfl)

theorem commitScal64_starts {s : State} {sh : Shape} (h : Starts s sh) (d : BitVec 8) (v : BitVec 64) (fl : Option Flags) :
    commitScal64 (startCtx s sh) (s.setCur (begun s)) d v fl = s.goesOn [d, d + 1] (writeScal64 s.cur d v) := by
  unfold commitScal64
  exact commitUni_starts h _ _ fl (fun g => writeScal64 g d v) (writeScal64_at d v) (fun g => writeScal64_calm g d v)

theorem commitGroup_starts {s : State} {sh : Shape} (h : Starts s sh) (F : Group → Group)
    (hF : ∀ g pc hz, F (Group.at_ g pc hz) = (F g).at_ pc hz) (hH : ∀ g, (F g).calm = g.calm) :
    commitGroup (startCtx s sh) (s.setCur (begun s)) F = s.goesOn [] (F s.cur) :=
  commitUni_starts h [] [] none F hF hH

theorem commitTo_starts {s : State} {sh : Shape} (h : Starts s sh) (pc : BitVec 48) (F : Group → Group)
    (hF : ∀ g pc hz, F (Group.at_ g pc hz) = (F g).at_ pc hz) (hH : ∀ g, (F g).calm = g.calm) :
    commitTo (startCtx s sh) (s.setCur (begun s)) pc F = s.goesTo [] pc (F s.cur) := by
  have e : ({ begun s with nextPc := pc } : Group) = s.cur.at_ pc [] := rfl
  have hz : hazardsOf (s.cur.at_ pc []) [] = [] := rfl
  unfold commitTo commitGroup
  simp only [updCur_setCur, e]
  rw [commitUni_quiet rfl (by simpa [startCtx] using h.wps) [] [] none _ (by rw [updCur_setCur, cur_setCur, hH]; exact h.calm)]
  simp only [updCur_setCur, cur_setCur, hF, hz]
  rfl

/-- A group that waits inside its instruction. -/
theorem enterWait_starts {s : State} {sh : Shape} (w : Wait) :
    enterWait (startCtx s sh) (s.setCur (begun s)) w = s.waits w := by
  simp [enterWait, startCtx, State.waits]

theorem applyLane64 (d : BitVec 8) (l : List Nat) (v : Nat → BitVec 64) (g : Group) :
    (l.map (fun t => (⟨t, [(d, (v t).setWidth 32), (d + 1, (v t).extractLsb' 32 32)], none, none⟩ : ThrRes))).foldl applyThr g =
      l.foldl (fun g t => writeLane (writeLane g d t ((v t).setWidth 32)) (d + 1) t ((v t).extractLsb' 32 32)) g := by
  induction l generalizing g with
  | nil => rfl
  | cons a l ih => simp only [List.map_cons, List.foldl_cons, applyThr, List.foldl_nil]; exact ih _

theorem applyPred (d : BitVec 8) (l : List Nat) (v : Nat → Bool) (fl : Nat → Option Flags) (g : Group) :
    (l.map (fun t => (⟨t, [], some (d, v t), fl t⟩ : ThrRes))).foldl applyThr g =
      l.foldl (fun g t => writePred g d (maskOf 64 [t]) (if v t then maskOf 64 [t] else 0)) g := by
  induction l generalizing g with
  | nil => rfl
  | cons a l ih => simp only [List.map_cons, List.foldl_cons, applyThr, List.foldl_nil]; exact ih _

/-- The register classes exclude one another (R219). -/
theorem class_excl (d : BitVec 8) :
    (isVec d = true → isScal d = false ∧ isPred d = false) ∧ (isScal d = true → isVec d = false ∧ isPred d = false) ∧
      (isPred d = true → isVec d = false ∧ isScal d = false) := by
  simp only [isVec, isScal, isPred, decide_eq_true_eq, Bool.and_eq_true, decide_eq_false_iff_not, Bool.and_eq_false_iff]
  omega

end Sys2Proof.Machine
end

