-- ==== Sys2Proof/Laws/Translate.lean ====
section
/-! SUPPORT. A change of a group changes no translation. -/
namespace Sys2Proof.Machine

@[simp] theorem tlb_setGroup (s : State) (b c g : Nat) (v : Group) : ((s.setGroup c g v).core b).tlb = (s.core b).tlb := by
  by_cases e : b = c
  · subst e; simp [State.setGroup]
  · simp [State.setGroup, core_setCore_ne _ _ e]

@[simp] theorem gens_setGroup (s : State) (b c g : Nat) (v : Group) : ((s.setGroup c g v).core b).gens = (s.core b).gens := by
  by_cases e : b = c
  · subst e; simp [State.setGroup]
  · simp [State.setGroup, core_setCore_ne _ _ e]

@[simp] theorem sealed_setGroup (s : State) (b c g : Nat) (v : Group) : ((s.setGroup c g v).core b).sealed = (s.core b).sealed := by
  by_cases e : b = c
  · subst e; simp [State.setGroup]
  · simp [State.setGroup, core_setCore_ne _ _ e]

@[simp] theorem l1_setGroup (s : State) (b c g : Nat) (v : Group) : ((s.setGroup c g v).core b).l1 = (s.core b).l1 := by
  by_cases e : b = c
  · subst e; simp [State.setGroup]
  · simp [State.setGroup, core_setCore_ne _ _ e]

theorem byte_setGroup (s : State) (c g : Nat) (v : Group) (pa : Nat) : (s.setGroup c g v).byte pa = s.byte pa := by
  unfold State.byte State.arena; simp

theorem homeByte_setGroup (s : State) (c g : Nat) (v : Group) (pa : Nat) : homeByte (s.setGroup c g v) pa = homeByte s pa := by
  unfold homeByte copyByte
  simp only [l1_setGroup, byte_setGroup, State.setGroup_own]

theorem readPte_setGroup (s : State) (c g : Nat) (v : Group) (a : Nat) : readPte (s.setGroup c g v) a = readPte s a := by
  unfold readPte homeBytes
  simp only [homeByte_setGroup]

theorem walkFrom_setGroup (s : State) (c g : Nat) (v : Group) (root : BitVec 30) (va : Nat) (k : Nat) :
    ∀ level base, walkFrom (s.setGroup c g v) root va k level base = walkFrom s root va k level base := by
  induction k with
  | zero => intro level base; rfl
  | succ k ih => intro level base; simp only [walkFrom, readPte_setGroup, ih]

@[simp] theorem cluster_setGroup (s : State) (c g : Nat) (v : Group) (k : Nat) : (s.setGroup c g v).cluster k = s.cluster k := rfl

theorem tlbFor_setGroup (s : State) (b c g : Nat) (v : Group) (root : BitVec 30) (va : Nat) :
    tlbFor (s.setGroup c g v) b root va = tlbFor s b root va := by
  unfold tlbFor
  simp only [tlb_setGroup, cluster_setGroup]

theorem leafFor_setGroup (s : State) (b c g : Nat) (v : Group) (root : BitVec 30) (va : Nat) :
    leafFor (s.setGroup c g v) b root va = leafFor s b root va := by
  unfold leafFor walk
  simp only [tlbFor_setGroup, walkFrom_setGroup, cluster_setGroup]

theorem arena_setGroup (s : State) (c g : Nat) (v : Group) (a : Nat) : (s.setGroup c g v).arena a = s.arena a := rfl

theorem pageAllows_setGroup (s : State) (c g : Nat) (v : Group) (pa : Nat) (w : Bool) :
    pageAllows (s.setGroup c g v) pa w = pageAllows s pa w := rfl

theorem page_setGroup (s : State) (c g : Nat) (v : Group) (p : Nat) : (s.setGroup c g v).page p = s.page p := rfl

theorem inFlush_setGroup (s : State) (c g : Nat) (v : Group) (pa : Nat) : inFlush (s.setGroup c g v) pa = inFlush s pa := rfl

theorem attrHeld_setGroup (s : State) (c g : Nat) (v : Group) (e : TlbEntry) : attrHeld (s.setGroup c g v) e = attrHeld s e := by
  unfold attrHeld
  simp only [readPte_setGroup]
  rfl

theorem leafCheck_setGroup (s : State) (b c g : Nat) (v : Group) (x : Nat) (d : Need) (e : TlbEntry) :
    leafCheck (s.setGroup c g v) b x d e = leafCheck s b x d e := by
  unfold leafCheck
  simp only [attrHeld_setGroup, gens_setGroup, sealed_setGroup, arena_setGroup, pageAllows_setGroup, inFlush_setGroup]
  rfl

/-- The checks of R209 do not depend on any group. -/
theorem check_setGroup (s : State) (b c g : Nat) (v : Group) (root : BitVec 30) (va : BitVec 64) (n : Nat) (d : Need) :
    check (s.setGroup c g v) b root va n d = check s b root va n d := by
  unfold check
  simp only [leafFor_setGroup, tlbFor_setGroup, leafCheck_setGroup]

theorem checkNow_setGroup (s : State) (b c g : Nat) (v : Group) (root : BitVec 30) (va : BitVec 64) (n : Nat) (d : Need) :
    checkNow (s.setGroup c g v) b root va n d = checkNow s b root va n d := by
  unfold checkNow
  simp only [leafFor_setGroup, leafCheck_setGroup]

theorem instRoot_setGroup (s : State) (c g : Nat) (v : Group) (i : Nat) : instRoot (s.setGroup c g v) i = instRoot s i := rfl

theorem check_setCur (s : State) (b : Nat) (v : Group) (root : BitVec 30) (va : BitVec 64) (n : Nat) (d : Need) :
    check (s.setCur v) b root va n d = check s b root va n d := check_setGroup s b _ _ v root va n d

end Sys2Proof.Machine
end

