-- ==== Sys2Proof/Laws/Control.lean ====
section
/-! SUPPORT. What transfers, pushes and pops do when nothing disturbs them. -/
namespace Sys2Proof.Machine

theorem mem_bitsOf {n : Nat} (m : BitVec n) (t : Nat) : t ∈ bitsOf m ↔ m.getLsbD t = true := by
  simp only [bitsOf, List.mem_filter, List.mem_range, and_iff_right_iff_imp]
  intro h; exact BitVec.lt_of_getLsbD h

/-- A mask and another one meet exactly where some set bit of the second is set in the first. -/
theorem and_ne_zero (c m : BitVec 64) : (c &&& m != 0) = (bitsOf m).any (fun t => bit c t) := by
  rw [Bool.eq_iff_iff]
  simp only [bne_iff_ne, ne_eq, List.any_eq_true, mem_bitsOf, bit]
  constructor
  · intro h
    by_contra hc
    push Not at hc
    apply h
    apply BitVec.eq_of_getLsbD_eq
    intro i hi
    have := hc i
    cases h1 : m.getLsbD i
    · simp [h1]
    · simp [this h1]
  · rintro ⟨t, h1, h2⟩ h
    have : (c &&& m).getLsbD t = false := by rw [h]; simp
    simp [h1, h2] at this

/-- A mask lies in another one exactly where every set bit of it is set there. -/
theorem and_eq_self (c m : BitVec 64) : decide (c &&& m = m) = (bitsOf m).all (fun t => bit c t) := by
  rw [Bool.eq_iff_iff]
  simp only [decide_eq_true_eq, List.all_eq_true, mem_bitsOf, bit]
  constructor
  · intro h t ht
    have : (c &&& m).getLsbD t = m.getLsbD t := by rw [h]
    simpa [ht] using this
  · intro h
    apply BitVec.eq_of_getLsbD_eq
    intro i hi
    simp only [BitVec.getLsbD_and, Bool.and_eq_right_iff_imp]
    intro h1; exact h i h1

theorem getLsbD_maskOr (l : List Nat) (m : BitVec 64) (t : Nat) (ht : t < 64) (hl : ∀ i ∈ l, i < 64) :
    (l.foldl (fun m i => m ||| BitVec.ofNat 64 (2 ^ i)) m).getLsbD t = (m.getLsbD t || decide (t ∈ l)) := by
  induction l generalizing m with
  | nil => simp
  | cons a l ih =>
    rw [List.foldl_cons, ih _ (fun i hi => hl i (List.mem_cons_of_mem _ hi))]
    have ha := hl a List.mem_cons_self
    have e : (BitVec.ofNat 64 (2 ^ a)).getLsbD t = decide (t = a) := by
      rw [BitVec.getLsbD_ofNat, Nat.testBit_two_pow]
      simp [ht, eq_comm]
    rw [BitVec.getLsbD_or, e, Bool.or_assoc]
    congr 1
    simp [List.mem_cons, Bool.decide_or]

/-- The mask of the set bits of a mask is that mask. -/
theorem maskOf_bitsOf (m : BitVec 64) : maskOf 64 (bitsOf m) = m := by
  apply BitVec.eq_of_getLsbD_eq
  intro i hi
  unfold maskOf
  rw [getLsbD_maskOr _ _ _ hi (fun j hj => BitVec.lt_of_getLsbD ((mem_bitsOf m j).mp hj))]
  simp [mem_bitsOf]

theorem commitId_starts {s : State} {sh : Shape} (h : Starts s sh) :
    commitGroup (startCtx s sh) (s.setCur (begun s)) id = s.goesOn [] s.cur :=
  commitGroup_starts h id (fun _ _ _ => rfl) (fun _ => rfl)

/-- A transfer by a branch reaches its target, in or outside the canonical range (R243). -/
theorem jumpTo_starts {s : State} {sh : Shape} (h : Starts s sh) (l : Int) :
    jumpTo (startCtx s sh) (s.setCur (begun s)) l id = s.goesTo [] (pcOfLinear l) (s.cur.sentTo l) := by
  unfold jumpTo
  exact commitTo_starts h _ (fun g => (id g).sentTo l) (fun _ _ _ => rfl) (fun _ => rfl)

theorem jumpPair_starts {s : State} {sh : Shape} (h : Starts s sh) (v : BitVec 64)
    (hv : canonical v = true ∧ v.toNat % 4 = 0 ∧ v.toNat / 4 % 8 ≠ 0) :
    jumpPair (startCtx s sh) (s.setCur (begun s)) v = s.goesTo [] (v.setWidth 48) s.cur := by
  unfold jumpPair
  simp [hv]
  exact commitTo_starts h _ id (fun _ _ _ => rfl) (fun _ => rfl)

/-- The completion of an instruction that has put another group in place of its own. -/
theorem commitPut_starts {s : State} {sh : Shape} (h : Starts s sh) (k : State) (g : Group) (pc : BitVec 48)
    (hk : (k.core s.focus.core).wps = []) (hc : k.cur = g.at_ pc []) (hg : g.calm = (none, 0))
    (F : Group → Group) (hF : ∀ g pc hz, F (Group.at_ g pc hz) = (F g).at_ pc hz) (hH : ∀ g, (F g).calm = g.calm) :
    commitGroup (startCtx s sh) k F = k.setCur (((F g).at_ pc []).resumed pc) := by
  have _ := h
  unfold commitGroup
  rw [commitUni_quiet rfl hk [] [] none _ (by rw [show ((k.updCur F).cur) = F k.cur from cur_setCur _ _, hH, hc]; exact hg)]
  simp only [State.updCur, setCur_setCur, cur_setCur, hc, hF]
  rfl

/-- A push with room. -/
theorem pushEntry_room (s : State) (c : Nat) (g : Group) (e : Entry) (h : g.stack.length < 32) :
    pushEntry s c g e = .ok { g with stack := e :: g.stack } := by
  unfold pushEntry
  simp [h]

/-- A pop with nothing spilled. -/
theorem popEntry_room (s : State) (c sl : Nat) (g : Group) (h : spillUsed g = 0) :
    popEntry s c sl g = .ok (match g.stack with
      | [] => (none, g)
      | e :: r => (some e, { g with stack := r })) := by
  unfold popEntry
  cases g.stack with
  | nil => simp [h]
  | cons e r => simp [h]

/-- The pops of a JOIN with nothing spilled: the first entry that holds threads. -/
theorem popLive_room (s : State) (c sl n : Nat) (g : Group) (h : spillUsed g = 0) (hn : g.stack.length < n) :
    popLive s c sl n g = .ok (match g.stack.dropWhile (fun e => decide (e.mask = 0)) with
      | [] => (none, { g with stack := [] })
      | e :: r => (some e, { g with stack := r })) := by
  induction n generalizing g with
  | zero => omega
  | succ n ih =>
    unfold popLive
    rw [popEntry_room s c sl g h]
    cases hs : g.stack with
    | nil =>
      have : g = { g with stack := [] } := by rw [← hs]
      simp only [List.dropWhile_nil]
      rw [← this]
    | cons e r =>
      simp only []
      by_cases hm : e.mask = 0
      · simp only [hm, if_true]
        rw [ih { g with stack := r } h (by simp [hs] at hn; simpa using hn)]
        simp [List.dropWhile_cons_of_pos, hm]
      · rw [if_neg hm, List.dropWhile_cons_of_neg (by simpa using hm)]

theorem packetWords_setGroup (s : State) (c g : Nat) (v : Group) (pa : Nat) :
    packetWords (s.setGroup c g v) pa = packetWords s pa := by
  unfold packetWords
  simp only [homeByte_setGroup]

theorem slotAfter_setGroup (s : State) (b c g : Nat) (v : Group) (root : BitVec 30) (pc : BitVec 48) :
    slotAfter (s.setGroup c g v) b root pc = slotAfter s b root pc := by
  unfold slotAfter
  simp only [checkNow_setGroup, packetWords_setGroup]

theorem entryPc_setGroup (s : State) (b c g : Nat) (v : Group) (root : BitVec 30) (e : Entry) :
    entryPc (s.setGroup c g v) b root e = entryPc s b root e := by
  unfold entryPc
  simp only [slotAfter_setGroup]

end Sys2Proof.Machine
end

