-- ==== Sys2Proof/Laws/Issue.lean ====
section
/-! SUPPORT. What instructions that issue accesses, and those that act once for the group, do when nothing disturbs them. -/
namespace Sys2Proof.Machine

theorem addOp_at (g : Group) (pc : BitVec 48) (hz : List Hazard) (cls n : Nat) :
    addOp (g.at_ pc hz) cls n = ((addOp g cls n).1.at_ pc hz, (addOp g cls n).2) := by
  unfold addOp
  rcases cls with _ | _ | _ | _ | _ <;> rfl

theorem addOp_id (g : Group) (cls n : Nat) : (addOp g cls n).2 = g.nextOp := rfl

theorem addOp_pc (g : Group) (cls n : Nat) : (addOp g cls n).1.pc = g.pc := by
  unfold addOp
  rcases cls with _ | _ | _ | _ | _ <;> rfl

theorem addOp_calm (g : Group) (cls n : Nat) : (addOp g cls n).1.calm = g.calm := by
  unfold addOp
  rcases cls with _ | _ | _ | _ | _ <;> rfl

theorem addAccess_at (g : Group) (pc : BitVec 48) (hz : List Hazard) (a : Access) :
    addAccess (g.at_ pc hz) a = (addAccess g a).at_ pc hz := rfl

theorem addAll_at (l : List Access) (g : Group) (pc : BitVec 48) (hz : List Hazard) (f : Access → Access) :
    l.foldl (fun h a => addAccess h (f a)) (g.at_ pc hz) = (l.foldl (fun h a => addAccess h (f a)) g).at_ pc hz := by
  induction l generalizing g with
  | nil => rfl
  | cons a l ih => simp only [List.foldl_cons, addAccess_at, ih]

theorem addAll_calm (l : List Access) (g : Group) (f : Access → Access) :
    (l.foldl (fun h a => addAccess h (f a)) g).calm = g.calm := by
  induction l generalizing g with
  | nil => rfl
  | cons a l ih => simp only [List.foldl_cons, ih]; rfl

theorem entered_at (g : Group) (pc : BitVec 48) (hz : List Hazard) (born cls : Nat) (dst : List (BitVec 8)) (l : List Access) :
    (g.at_ pc hz).entered born cls dst l = (g.entered born cls dst l).at_ pc hz := by
  unfold Group.entered
  cases l.isEmpty
  · simp only [Bool.false_eq_true, if_false, addOp_at]
    rw [show (g.at_ pc hz).nextOp = g.nextOp from rfl, show (g.at_ pc hz).pc = g.pc from rfl,
      addAll_at l _ pc hz (fun a => { a with op := g.nextOp, pc := g.pc, step := false, born := born })]
    rfl
  · rfl

theorem entered_calm (g : Group) (born cls : Nat) (dst : List (BitVec 8)) (l : List Access) :
    (g.entered born cls dst l).calm = g.calm := by
  unfold Group.entered
  cases l.isEmpty
  · simp only [Bool.false_eq_true, if_false]
    show (l.foldl (fun h a => addAccess h { a with op := g.nextOp, pc := g.pc, step := false, born := born }) (addOp g cls l.length).1).calm = _
    rw [addAll_calm l _ (fun a => { a with op := g.nextOp, pc := g.pc, step := false, born := born }), addOp_calm]
  · rfl

/-- Requests that wait are no part of a group. -/
theorem addAsks_setCur (s : State) (v : Group) (l : List LineAsk) :
    addAsks (s.setCur v) s.focus.core l = (addAsks s s.focus.core l).setCur v := by
  unfold addAsks
  split
  · rfl
  · simp only [State.updCore, State.setCur, State.setGroup, core_setCore, setCore_setCore, State.setCore_focus]
    rfl

theorem cur_addAsks (s : State) (l : List LineAsk) : (addAsks s s.focus.core l).cur = s.cur := by
  unfold addAsks
  split
  · rfl
  · simp only [State.cur, State.group, State.updCore, State.setCore_focus, core_setCore]
    rfl

theorem retire_addAsks (t : State) {g : Group} (l : List LineAsk) (h : g.calm = (none, 0)) :
    retire (addAsks (t.setCur g) t.focus.core l) none 0 = addAsks (t.setCur (g.resumed g.nextPc)) t.focus.core l := by
  rw [addAsks_setCur, retire_none, addAsks_setCur]
  simp only [updCur_setCur, cur_setCur]
  rw [goOn_none h]

/-- Accesses that are no loads or stores of memory make no request. -/
theorem asksOf_none (slot op : Nat) (pref : Bool) (l : List Access) (h : ∀ a ∈ l, coalesced a = false) :
    asksOf slot op pref l = [] := by
  unfold asksOf
  rw [List.filter_eq_nil_iff.mpr (fun a ha => by simp [h a ha])]
  rfl

/-- Such accesses change only the group. -/
theorem issued_none (s : State) (cls : Nat) (dst : List (BitVec 8)) (l : List Access) (h : ∀ a ∈ l, coalesced a = false) :
    s.issued cls dst l = s.goesOn [] (s.cur.entered s.tick cls dst l) := by
  unfold State.issued
  rw [asksOf_none _ _ _ _ h]
  rfl

/-- Entering accesses changes the group and what waits for its lookup. -/
theorem enterAll_entered (s : State) (cls : Nat) (dst : List (BitVec 8)) (mk : Placed → Access) (ps : List Placed)
    (h : ps ≠ []) (hs : s.focus.step = false) : enterAll s cls dst mk ps =
      addAsks (s.updCur (fun g => g.entered s.tick cls dst (ps.map mk))) s.focus.core (asksOf s.focus.slot s.cur.nextOp false (ps.map mk)) := by
  have e : ps.isEmpty = false := by cases ps <;> simp_all
  unfold enterAll Group.entered
  simp only [e, hs, Bool.false_eq_true, if_false, List.isEmpty_map, List.length_map, List.foldl_map, addOp_id]

/-- An instruction whose checks all pass, on a core without watch predicates. -/
theorem issue_quiet {s0 t : State} {x : Ctx} (hx : x.hit = none) (hw : (t.core x.core).wps = []) (scr once : Bool)
    (ps : List Placed) (ws : Nat → List Word) (k : List Placed → State → State) :
    issue s0 x t scr once (.ok ps) ws k = retire (k ps t) none 0 := by
  have e : ps.filter (fun p => !(bit 0#64 p.thr)) = ps := by
    apply List.filter_eq_self.mpr; intro a _; simp [bit]
  simp [issue, Res.orElse, watch_none hw, hx, Hit.join, e]

theorem begins_wps {s : State} {sh : Shape} (h : Starts s sh) (c : Nat) (hc : c = s.focus.core) : (s.begins.core c).wps = [] := by
  subst hc
  unfold State.begins
  rw [wps_setCur]
  exact h.wps

/-- An instruction that issues accesses and whose checks all pass. -/
theorem issue_starts {s s0 : State} {sh : Shape} (h : Starts s sh) (scr once : Bool) (ps : List Placed) (ws : Nat → List Word)
    (cls : Nat) (dst : List (BitVec 8)) (mk : Placed → Access) :
    issue s0 (startCtx s sh) (s.setCur (begun s)) scr once (.ok ps) ws (fun ps u => enterAll u cls dst mk ps) =
      s.issued cls dst (ps.map mk) := by
  rw [issue_quiet rfl (show ((s.setCur (begun s)).core (startCtx s sh).core).wps = [] from begins_wps h _ rfl)]
  have e : begun s = s.cur.at_ s.after [] := rfl
  by_cases hp : ps = []
  · subst hp
    simp only [enterAll, List.isEmpty_nil, if_true, retire_none, updCur_setCur]
    rw [goOn_none (by exact h.calm), cur_setCur]
    rfl
  · rw [enterAll_entered _ _ _ _ _ hp (show (s.setCur (begun s)).focus.step = false from h.2.2.2.2.2.2.1)]
    simp only [updCur_setCur, cur_setCur, e, entered_at]
    exact retire_addAsks s (g := (s.cur.entered s.tick cls dst (ps.map mk)).at_ s.after []) _
      ((entered_calm s.cur s.tick cls dst (ps.map mk)).trans h.calm)

/-- The group goes on after an effect that left it at the next slot without a halt. -/
theorem retire_ends {s t : State} (h1 : t.cur.nextPc = s.after) (h2 : t.cur.calm = (none, 0)) (h3 : t.cur.hazards = []) :
    retire t none 0 = s.ends t := by
  unfold State.ends
  rw [retire_none, h1]
  unfold State.updCur
  show t.setCur (t.cur.goOn s.after) = _
  rw [goOn_none h2]
  congr 1
  have e : ({ t.cur with hazards := [] } : Group) = t.cur := by rw [← h3]
  show t.cur.resumed s.after = ({ t.cur with hazards := [] } : Group).resumed s.after
  rw [e]

/-- SELFINV changes no group (R178). -/
theorem selfInv_cur (s : State) (c : Nat) : (selfInv s c).cur = s.cur := by
  unfold selfInv State.cur State.group
  simp only [State.updCore_focus]
  by_cases e : s.focus.core = c
  · subst e; simp; rfl
  · rw [State.updCore, core_setCore_ne _ _ e]

/-- The completion of an instruction that acts once for the group. -/
theorem commitOnce_ends {s : State} {sh : Shape} {t : State} {f : State → State} (hw : (t.core s.focus.core).wps = [])
    (h1 : (f t).cur.nextPc = s.after) (h2 : (f t).cur.calm = (none, 0)) :
    commitOnce (startCtx s sh) t f = s.ends (f t) := by
  unfold commitOnce
  rw [commitUni_quiet rfl hw [] [] none f h2, h1]
  rfl

end Sys2Proof.Machine
end

