-- ==== Sys2Proof/Laws/Memory.lean ====
section
/-! SUPPORT. What the operations on memory do: they keep its canonical form, they write only their bytes, and of the rest of the
machine they change only what the level-two cache and the monitors hold. -/
namespace Sys2Proof.Machine

/-- Both memories of the machine have their canonical form. -/
def memWf (s : State) : Prop := Memory.wf s.live = true ∧ Memory.wf s.back = true

theorem reset_memWf : memWf State.reset := ⟨rfl, rfl⟩

theorem setBytes_wf {m : Memory} (pa : Nat) (bs : List Byte) (h : Memory.wf m = true) : Memory.wf (setBytes m pa bs) = true :=
  zwf_zsetRun pa bs h

/-- Bytes outside a write read as before. -/
theorem setBytes_out (m : Memory) (pa : Nat) (bs : List Byte) {x : Nat} (h : x < pa ∨ pa + bs.length ≤ x) :
    zget (setBytes m pa bs) x = zget m x := zget_zsetRun_out m pa x bs h

/-- A byte that has been written reads as it was written. -/
theorem setBytes_in {m : Memory} (pa : Nat) (bs : List Byte) (hm : Memory.wf m = true) {i : Nat} (h : i < bs.length) :
    zget (setBytes m pa bs) (pa + i) = bs.getD i 0 := zget_zsetRun_in pa i bs hm h

/-! ### The lines of the level-two cache -/

theorem writeBack_wf {s : State} (line : Nat) (h : memWf s) : memWf (writeBack s line) := by
  unfold memWf writeBack
  refine ⟨h.1, ?_⟩
  dsimp only
  generalize (List.range 256).map _ = l
  exact setBytes_wf _ l h.2

theorem restoreLine_wf {s : State} (line : Nat) (h : memWf s) : memWf (restoreLine s line) := by
  unfold memWf restoreLine
  refine ⟨?_, h.2⟩
  dsimp only
  generalize (List.range 256).map _ = l
  exact setBytes_wf _ l h.1

/-- Making room in a slice writes lines back and changes nothing but the back values, the lines listed and the replicas. -/
theorem evictL2_eq (s : State) (line : Nat) (v : L2Line) : ∃ b c, evictL2 s line v = { s with back := b, l2 := c } ∧
    (Memory.wf s.back = true → Memory.wf b = true) := by
  unfold evictL2
  cases v.dirty
  · exact ⟨s.back, del s.l2 line, rfl, id⟩
  · refine ⟨(writeBack s line).back, del s.l2 line, rfl, fun h => ?_⟩
    unfold writeBack
    dsimp only
    generalize (List.range 256).map _ = l
    exact setBytes_wf _ l h

theorem evictOne_eq (s : State) (slice a : Nat) : ∃ b c r, evictOne s slice a = { s with back := b, l2 := c, replicas := r } ∧
    (Memory.wf s.back = true → Memory.wf b = true) := by
  have k : ∀ line v, ∃ b c r, evictL2 s line v = { s with back := b, l2 := c, replicas := r } ∧
      (Memory.wf s.back = true → Memory.wf b = true) := fun line v =>
    let ⟨b, c, e, h⟩ := evictL2_eq s line v
    ⟨b, c, s.replicas, e, h⟩
  unfold evictOne
  split
  · exact ⟨s.back, s.l2, s.replicas, rfl, id⟩
  · exact ⟨s.back, s.l2, _, rfl, id⟩
  · exact k _ _
  · split
    · exact ⟨s.back, s.l2, _, rfl, id⟩
    · exact k _ _

theorem makeRoom_eq (s : State) (slice a : Nat) : ∃ b c r, makeRoom s slice a = { s with back := b, l2 := c, replicas := r } ∧
    (Memory.wf s.back = true → Memory.wf b = true) := by
  unfold makeRoom
  split
  · exact ⟨s.back, s.l2, s.replicas, rfl, id⟩
  · exact evictOne_eq _ _ _

/-- Noting a line in the level-two cache changes only back values, the lines listed and the replicas. -/
theorem touchL2_eq (s : State) (line : Nat) (a : BitVec 12) (g : BitVec 4) (d : Bool) :
    ∃ b c r, touchL2 s line a g d = { s with back := b, l2 := c, replicas := r } ∧ (Memory.wf s.back = true → Memory.wf b = true) := by
  unfold touchL2
  split
  · exact ⟨s.back, _, s.replicas, rfl, id⟩
  · obtain ⟨b, c, r, e, h⟩ := makeRoom_eq s (homeOfLine line) a.toNat
    dsimp only
    rw [e]
    exact ⟨b, _, r, rfl, h⟩

/-- A replica that a slice takes changes only back values, the lines listed and the replicas. -/
theorem putReplica_eq (s : State) (slice line : Nat) (a : BitVec 12) (g : BitVec 4) (bs : List Byte) :
    ∃ b c r, putReplica s slice line a g bs = { s with back := b, l2 := c, replicas := r } ∧ (Memory.wf s.back = true → Memory.wf b = true) := by
  unfold putReplica
  obtain ⟨b, c, r, e, h⟩ := makeRoom_eq s slice a.toNat
  dsimp only
  rw [e]
  exact ⟨b, c, _, rfl, h⟩

/-- Monitors change groups only. -/
theorem hitMonitors_eq (s : State) (line : Nat) : ∃ i, hitMonitors s line =
    { s with cores := s.cores.map (fun c => (c.1, { c.2 with groups := hitIn c.2.groups line })), insts := i } := ⟨_, rfl⟩

/-- A write of live bytes changes the live bytes it writes; of the rest, only back values, lines listed in the level-two cache, replicas,
and the monitors. -/
theorem writeLive_eq (s : State) (pa : Nat) (bs : List Byte) (a : BitVec 12) (g : BitVec 4) :
    ∃ b c r i w, writeLive s pa bs a g = { s with
      live := setBytes s.live pa bs, written := w, back := b, l2 := c, replicas := r, insts := i
      cores := s.cores.map (fun c => (c.1, { c.2 with groups := hitIn c.2.groups (lineOf pa) })) } ∧
      (Memory.wf s.back = true → Memory.wf b = true) := by
  obtain ⟨b, c, r, e, h⟩ := touchL2_eq s (lineOf pa) a g true
  unfold writeLive
  rw [e]
  exact ⟨b, c, r, _, _, rfl, h⟩

theorem writeLive_wf {s : State} (pa : Nat) (bs : List Byte) (a : BitVec 12) (g : BitVec 4) (h : memWf s) :
    memWf (writeLive s pa bs a g) := by
  obtain ⟨b, c, r, i, w, e, hb⟩ := writeLive_eq s pa bs a g
  rw [e]
  exact ⟨setBytes_wf _ _ h.1, hb h.2⟩

theorem find_map {α β : Type} (f : α → β) (m : Tbl α) (k : Nat) : find (m.map (fun e => (e.1, f e.2))) k = (find m k).map f := by
  induction m with
  | nil => rfl
  | cons e r ih =>
    obtain ⟨j, v⟩ := e
    simp only [List.map_cons, find]
    split
    · rfl
    · exact ih

/-- Bytes at home depend on the live bytes, the arena table, the words that cores own and those cores' lines. -/
theorem homeByte_congr {s t : State} {x : Nat} (h1 : t.own = s.own) (h2 : ∀ c, (t.core c).l1 = (s.core c).l1)
    (h3 : t.arenas = s.arenas) (h4 : zget t.live x = zget s.live x) : homeByte t x = homeByte s x := by
  unfold homeByte copyByte State.byte State.arena
  rw [h1, h3, h4]
  simp only [h2]

/-- Marking monitors changes no line of a core. -/
theorem l1_hit (s : State) (line c : Nat) :
    ((find (s.cores.map (fun c => (c.1, { c.2 with groups := hitIn c.2.groups line }))) c).getD Core.reset).l1 = (s.core c).l1 := by
  have e := find_map (fun k : Core => { k with groups := hitIn k.groups line }) s.cores c
  unfold State.core
  refine (congrArg (fun o => (o.getD Core.reset).l1) e).trans ?_
  cases find s.cores c <;> rfl

/-- A write of live bytes changes no other byte at its home. -/
theorem homeByte_writeLive_out (s : State) (pa : Nat) (bs : List Byte) (a : BitVec 12) (g : BitVec 4) {x : Nat}
    (h : x < pa ∨ pa + bs.length ≤ x) : homeByte (writeLive s pa bs a g) x = homeByte s x := by
  obtain ⟨b, c, r, i, w, e, _⟩ := writeLive_eq s pa bs a g
  rw [e]
  exact homeByte_congr rfl (fun k => l1_hit s (lineOf pa) k) rfl (setBytes_out _ _ _ h)

/-- A write of live bytes gives its bytes to every reader, where no core owns their words. -/
theorem homeByte_writeLive_in {s : State} (pa : Nat) (bs : List Byte) (a : BitVec 12) (g : BitVec 4) {i : Nat}
    (hm : Memory.wf s.live = true) (h : i < bs.length) (ha : inArenaTable (pa + i) = false) (ho : find s.own ((pa + i) / 4) = none) :
    homeByte (writeLive s pa bs a g) (pa + i) = bs.getD i 0 := by
  obtain ⟨b, c, r, k, w, e, _⟩ := writeLive_eq s pa bs a g
  rw [e]
  unfold homeByte State.byte
  simp only [ho, ha]
  exact setBytes_in pa bs hm h

/-! ### Operations that keep the canonical form -/

theorem foldl_wf {α : Type} (f : State → α → State) (hf : ∀ s a, memWf s → memWf (f s a)) (l : List α) {s : State} (h : memWf s) :
    memWf (l.foldl f s) := by
  induction l generalizing s with
  | nil => exact h
  | cons a l ih => exact ih (hf s a h)

theorem evictWord_wf {s : State} (word : Nat) (h : memWf s) : memWf (evictWord s word) := by
  unfold evictWord
  split
  · exact h
  · exact writeLive_wf _ _ _ _ h

theorem retake_wf {s : State} (pa len : Nat) (h : memWf s) : memWf (retake s pa len) :=
  foldl_wf _ (fun _ w hs => evictWord_wf w hs) _ h

theorem writeRange_wf {s : State} (pa : Nat) (bs : List Byte) (h : memWf s) : memWf (writeRange s pa bs) :=
  foldl_wf _ (fun _ _ hs => writeLive_wf _ _ _ _ hs) _ h

theorem wakeIf_wf {s : State} (k : Block) (h : memWf s) : memWf (wakeIf s k) := h

/-- Waking the homes of a range changes the power states alone. -/
theorem wakeHomes_wf {s : State} (pa len : Nat) (h : memWf s) : memWf (wakeHomes s pa len) := by
  unfold wakeHomes
  exact foldl_wf _ (fun _ _ hs => wakeIf_wf _ hs) _ h

theorem hwWrite_wf {s : State} (pa : Nat) (bs : List Byte) (h : memWf s) : memWf (hwWrite s pa bs) :=
  wakeHomes_wf _ _ (writeRange_wf _ _ (retake_wf _ _ h))

theorem ownWord_wf {s : State} (core : Nat) (a : BitVec 12) (gn : BitVec 4) (word : Nat) (h : memWf s) :
    memWf (ownWord s core a gn word) := by
  unfold ownWord
  split
  · exact h
  · exact evictWord_wf word h

theorem cpWriteBack_wf {s : State} (core line : Nat) (h : memWf s) : memWf (cpWriteBack s core line) := by
  unfold cpWriteBack
  dsimp only
  split
  · exact h
  · show memWf (if _ then _ else _)
    split
    · exact h
    · exact foldl_wf _ (fun _ _ hs => writeLive_wf _ _ _ _ hs) _ h

theorem flushLine_wf {s : State} (core line : Nat) (h : memWf s) : memWf (flushLine s core line) := by
  unfold flushLine
  split
  · exact h
  · refine cpWriteBack_wf core line (foldl_wf _ (fun t i ht => ?_) _ h)
    split
    · exact evictWord_wf _ ht
    · exact ht

theorem evictLine_wf {s : State} (core line : Nat) (l : L1Line) (h : memWf s) : memWf (evictLine s core line l) := by
  unfold evictLine
  split
  · exact flushLine_wf _ _ h
  · exact flushLine_wf _ _ h

/-- A way that a line takes may evict a victim, whose data go to memory. -/
theorem takeWay_wf {s t : State} (core line : Nat) (e : takeWay s core line = some t) (h : memWf s) : memWf t := by
  unfold takeWay at e
  dsimp only at e
  split at e
  · cases e; exact h
  · split at e
    · cases e
    · split at e
      · cases e
      · cases e; exact evictLine_wf _ _ _ h

theorem markDirty_wf {s : State} (core pa : Nat) (h : memWf s) : memWf (markDirty s core pa) := by
  unfold markDirty
  dsimp only
  split
  · exact h
  · exact h

theorem storeGlobal_wf {s : State} (core : Nat) (a : Access) (h : memWf s) : memWf (storeGlobal s core a) := by
  unfold storeGlobal
  dsimp only
  split
  · exact foldl_wf _ (fun _ w hs => ownWord_wf core a.arena a.gen w hs) _ h
  · split
    · exact h
    · exact markDirty_wf _ _ (writeLive_wf _ _ _ _ h)

end Sys2Proof.Machine
end

