-- ==== Sys2Proof/Laws/Sessions.lean ====
section
/-! SUPPORT. What a message does that arrives in its turn. -/
namespace Sys2Proof.Machine

@[simp] theorem session_setSession (s : State) (n : Nat) (x : Session) : (setSession s n x).session n = x := by
  simp [setSession, State.session]

@[simp] theorem setSession_setSession (s : State) (n : Nat) (x y : Session) : setSession (setSession s n x) n y = setSession s n y := by
  simp [setSession]

@[simp] theorem session_wakeHost (s : State) (port n : Nat) : (wakeHost s port).session n = s.session n := rfl

theorem seqDist_seqSucc (x : BitVec 32) : seqDist x (seqSucc x) = 1 := by
  unfold seqDist seqSucc
  by_cases h1 : x = 0
  · subst h1; decide
  · by_cases h2 : x = 0xFFFFFFFF
    · subst h2; decide
    · simp only [h1, h2, if_false]
      have hx : x.toNat ≠ 0 := fun h => h1 (BitVec.eq_of_toNat_eq h)
      have hy : x.toNat ≠ 4294967295 := fun h => h2 (BitVec.eq_of_toNat_eq h)
      have hb := x.isLt
      have e : (x + 1).toNat = x.toNat + 1 := by
        rw [BitVec.toNat_add]; simp; omega
      rw [e]
      omega

/-- A message in its turn is executed, and its session goes on. -/
theorem receive_inTurn {s t : State} {n : Nat} {m : Msg} (h : InTurn s n m t) : receive s m = pump 31 (runTurn t n m) n := by
  obtain ⟨h1, h2, h3, h4, h5, h6, h7, h8, h9, h10, h11, h12, h13, h14, rfl⟩ := h
  have hb : bindBoot (wakeHost s m.port) m = wakeHost s m.port := by
    unfold bindBoot
    by_cases e : m.sess = 0
    · have h0 : n = 0 := by rw [← h7, e]; rfl
      have h10' : ((wakeHost s m.port).session 0).holder = some m.ep := by rw [← h0]; exact h10
      simp only [h10', Option.isNone_some, Bool.and_false, Bool.false_eq_true, if_false]
    · simp
      intro h; exact absurd h e
  have ho : ownSession (wakeHost s m.port) m = some n := by
    simp [ownSession, h7, h8, h9, h10]
  have hm : ({ m with sess := BitVec.ofNat 8 n } : Msg) = m := by
    have : BitVec.ofNat 8 n = m.sess := by rw [← h7]; simp
    rw [this]
  unfold receive receiveSeq
  simp only [h6, if_false, hb, ho]
  unfold inSession
  simp only [hm, session_wakeHost]
  have t1 : (takeAck (s.session n) m.ackseq).lacc = (s.session n).lacc := rfl
  have t2 : (takeAck (s.session n) m.ackseq).running = none := h12
  have t3 : (takeAck (s.session n) m.ackseq).reorder = [] := h11
  have d : seqDist (s.session n).lacc m.seq = 1 := by rw [h13, seqDist_seqSucc]
  simp only [t1, t2, t3, d, setSession_setSession]
  have e0 : decide ((1 : Nat) = 0) = false := rfl
  have e1 : decide (2 ^ 31 ≤ (1 : Nat)) = false := rfl
  have e2 : ¬ 17 < 1 := by decide
  simp only [List.any_nil, Bool.or_false, e0, e1, Bool.false_eq_true, if_false, e2, List.nil_append]
  unfold pumpSession
  have hr : ∀ x, resetWaits (setSession (wakeHost s m.port) n x) = false := by
    intro x
    unfold resetWaits
    have : (setSession (wakeHost s m.port) n x).boot.state = 4 := h4
    simp [this]
  simp only [hr, Bool.and_false, Bool.false_eq_true, if_false]
  rw [pump]
  simp only [session_setSession, setSession_setSession]
  have hf : ringFull (takeAck (s.session n) m.ackseq) = false := h14
  have ho' : (takeAck (s.session n) m.ackseq).opened = true := h9
  simp only [ho', Bool.not_true, Option.isSome_none, nextInOrder, List.find?, ← h13, decide_true, List.filter, ne_eq, not_true, decide_false]
  exact if_neg (by
    show ¬ (ringFull (takeAck (s.session n) m.ackseq) = true)
    rw [hf]; simp)

/-- The arrival of a message in its turn. -/
theorem arrival_inTurn {s t : State} {n : Nat} {m : Msg} (h : InTurn s n m t) (ok : Bool) (hk : ok = true) :
    arrival s m ok = .next (pump 31 (runTurn t n m) n) := by
  subst hk
  rw [← receive_inTurn h]
  simp [arrival, h.1]

/-- A message in its turn is executed and answered, or waits, or ends the sessions. -/
theorem runTurn_inTurn {s t : State} {n : Nat} {m : Msg} (h : InTurn s n m t) : runTurn t n m = match runCommand t n m with
    | .reply t stat arg0 bs => acceptMsg t n m stat arg0 bs
    | .wait t => setSession t n { t.session n with running := some m }
    | .gone t => t := by
  unfold runTurn
  rw [h.2.1]; rfl

/-- An assigned code that only a session takes runs its own command. -/
theorem runCommand_inTurn {s t : State} {n : Nat} {m : Msg} (h : InTurn s n m t) (h1 : unseqCode m.cmd.toNat = false) (h2 : deviceCode m.cmd.toNat = false)
   (h3 : knownCode m.cmd.toNat = true) : runCommand t n m = (match m.cmd.toNat with
    | 0x03 => runFwload t n m
    | 0x04 => .gone (restartBoot t)
    | 0x05 => runMemwr t n m
    | 0x06 => runMemrd t m.arg0.toNat m.arg1.toNat
    | 0x07 => runPtwr t n m
    | 0x08 => runArtwr t m.arg0.toNat m.payload
    | 0x09 => runCbwr t n m
    | 0x0A => runLaunch t m.arg0.toNat m.arg1.toNat
    | 0x0B => runMail t n m
    | 0x0D => runPreempt t n m
    | 0x0E => runQuery t m.arg0.toNat
    | 0x0F => runAttest t m.payload
    | 0x10 => runRecctl t n m
    | 0x21 => runRecall t m
    | 0x22 => runPginv t m
    | 0x24 => runPgxfer t m
    | 0x26 => runPgrefuse t m
    | _ => .bad t stBADARG) := by
  obtain ⟨a1, a2, a3, a4, a5, a6, a7, a8, a9, a10, a11, a12, a13, a14, rfl⟩ := h
  unfold runCommand
  have e : ¬ (setSession (wakeHost s m.port) n { takeAck (s.session n) m.ackseq with port := m.port, reorder := [] }).recorder.mode = 2 := a5
  have hl : bootLets (setSession (wakeHost s m.port) n { takeAck (s.session n) m.ackseq with port := m.port, reorder := [] }) m =
      true := by
    unfold bootLets
    rw [show (setSession (wakeHost s m.port) n _).boot.state = 4 from a4]; rfl
  simp only [a3, h1, h2, h3, e, hl, decide_false, Bool.false_and, Bool.or_self, Bool.false_eq_true, if_false, Bool.not_true]
    <;> rfl

end Sys2Proof.Machine
end

