-- ==== Sys2Proof/Laws/Side.lean ====
section
/-! SUPPORT. What the instructions of a side core do to it. -/
namespace Sys2Proof.Machine

@[simp] theorem side_setSide (s : State) (d : Side) : (setSide s d).side = d := by
  unfold setSide State.side
  simp only [State.updCore_focus, core_updCore]
  unfold Core.side Core.setSide
  cases s.focus.storer <;> rfl

@[simp] theorem setSide_setSide (s : State) (d e : Side) : setSide (setSide s d) e = setSide s e := by
  unfold setSide
  simp only [State.updCore_focus]
  unfold State.updCore
  rw [core_setCore, setCore_setCore]
  congr 1
  unfold Core.setSide
  cases s.focus.storer <;> rfl

/-- The common end of a register instruction of a side core. -/
theorem sideWrite_eq (s : State) (d : BitVec 5) (v : Word) : sideWrite s d v = s.updCore s.focus.core (fun c => c.setSide s.focus.storer
      { s.side with regs := if d = 0 then s.side.regs else zset s.side.regs d.toNat v, pc := s.side.pc + 4, status := 1 }) := by
  unfold sideWrite sideNext
  simp only [side_setSide, setSide_setSide]
  unfold setSide Side.setX
  split <;> rfl

end Sys2Proof.Machine
end

