-- ==== Sys2Proof/Laws/Units.lean ====
section
/-! SUPPORT. What an instruction of the matrix or orthogonal unit does where its unit takes it. -/
namespace Sys2Proof.Machine

/-- A start that the unit takes goes on with the claim made and the firing consumed (R306, R308, R413). -/
theorem unitStart_takes {s s0 : State} {sh : Shape} (isQ : Bool) (v : State) (K : State → State → State → State)
    (hs : s0.cur.fired = s.cur.fired) (hg : (gatePass s0 (if isQ then 11 else 10)).isSome = (gatePass s.begins (if isQ then 11 else 10)).isSome)
    (hu : unitTakes s isQ v) :
    ∃ w, unitStart s0 (startCtx s sh) (s.setCur (begun s)) isQ K = K w v (s.claimed v) := by
  obtain ⟨h1, h2, h3, h4⟩ := hu
  unfold unitStart
  have e1 : (mGate (startCtx s sh).src.mode && !(sideHeld (s.setCur (begun s)) (startCtx s sh).core (startCtx s sh).slot)) = false := by
    cases hm : mGate s.cur.mode
    · show (mGate s.cur.mode && _) = false; rw [hm]; rfl
    · show (mGate s.cur.mode && !(sideHeld s.begins s.focus.core s.focus.slot)) = false
      rw [h1 hm]; simp
  have e2 : ((((s.setCur (begun s)).core (startCtx s sh).core).part ((startCtx s sh).slot / 16)).owner.isSome && (((s.setCur (begun s)).core (startCtx s sh).core).part ((startCtx s sh).slot / 16)).owner != some (startCtx s sh).src.inst) = false := by
    show ((curPart s.begins).owner.isSome && (curPart s.begins).owner != some s.cur.inst) = false
    rcases h2 with h | h <;> rw [h] <;> simp
  have e3 : ¬ (2 ≤ (if isQ = true then (((s.setCur (begun s)).core (startCtx s sh).core).part ((startCtx s sh).slot / 16)).qunit else (((s.setCur (begun s)).core (startCtx s sh).core).part ((startCtx s sh).slot / 16)).munit).length) := by
    exact Nat.not_le.mpr h3
  simp only [e1, Bool.false_eq_true, if_false]
  obtain ⟨w, hw⟩ : ∃ w, passGate s0 (s.setCur (begun s)) (mGate s.cur.mode) (if isQ then 11 else 10) = some (w, v) := by
    unfold passGate
    rw [hs]
    by_cases c : (mGate s.cur.mode && !s.cur.fired) = true
    · rw [if_pos c] at h4 ⊢
      rw [show s.setCur (begun s) = s.begins from rfl]
      rw [h4] at hg ⊢
      cases hw : gatePass s0 (if isQ then 11 else 10) with
      | none => rw [hw] at hg; cases hg
      | some w => exact ⟨w, rfl⟩
    · rw [if_neg c] at h4 ⊢
      cases h4
      exact ⟨s0, rfl⟩
  refine ⟨w, ?_⟩
  rw [show (startCtx s sh).src.mode = s.cur.mode from rfl, hw]
  simp only [e2, e3, Bool.false_eq_true, if_false]
  rfl

/-- A firing that is consumed at the gate changes the core's routes, its gate lists and the group's mark, and nothing else. -/
theorem gatePass_eq {s v : State} {k : Nat} (h : gatePass s k = some v) :
    ∃ c : Core, c.groups = (s.core s.focus.core).groups ∧ c.wps = (s.core s.focus.core).wps ∧
      v = (s.setCore s.focus.core c).updCur (fun g => { g with fired := true }) := by
  unfold gatePass takeFiring at h
  dsimp only at h
  split at h
  · split at h
    · cases h
    · simp only [Option.map_some, Option.some.injEq] at h
      subst h
      refine ⟨_, ?_, ?_, rfl⟩ <;> · unfold setGate; split <;> rfl
  · cases h

/-- The waiters at a gate are the same at the start of an instruction. -/
theorem gateWaiters_begins (s : State) (k : Nat) :
    gateWaiters (s.begins.core s.focus.core) k = gateWaiters (s.core s.focus.core) k := by
  have e : ∀ j, (s.begins.core s.focus.core).group j =
      if j = s.focus.slot then begun s else (s.core s.focus.core).group j := by
    intro j
    by_cases hj : j = s.focus.slot
    · subst hj; rw [if_pos rfl]; exact cur_setCur s (begun s)
    · rw [if_neg hj]
      show (s.begins.group s.focus.core j) = _
      exact group_setGroup_ne s (begun s) (Or.inr hj)
  have w : ∀ j, ((s.begins.core s.focus.core).group j).wait = ((s.core s.focus.core).group j).wait := by
    intro j; rw [e j]; by_cases hj : j = s.focus.slot
    · subst hj; rw [if_pos rfl]; rfl
    · rw [if_neg hj]
  have f : ∀ (c d : Core), c.gateM = d.gateM → c.gateQ = d.gateQ → (∀ j, (c.group j).wait = (d.group j).wait) →
      gateWaiters c k = gateWaiters d k := by
    intro c d h1 h2 h3
    unfold gateWaiters
    rw [h1, h2]
    exact List.filter_congr (fun j _ => by rw [h3 j])
  have g : (s.begins.core s.focus.core).gateM = (s.core s.focus.core).gateM ∧ (s.begins.core s.focus.core).gateQ = (s.core s.focus.core).gateQ ∧
      (s.begins.core s.focus.core).routes = (s.core s.focus.core).routes := by
    unfold State.begins State.setCur State.setGroup
    rw [core_setCore]; exact ⟨rfl, rfl, rfl⟩
  exact f _ _ g.1 g.2.1 w

/-- A firing that can be consumed before an instruction can be consumed at its start. -/
theorem gatePass_begins (s : State) (k : Nat) : (gatePass s k).isSome = (gatePass s.begins k).isSome := by
  have r : (s.begins.core s.focus.core).route k = (s.core s.focus.core).route k := by
    unfold State.begins State.setCur State.setGroup Core.route
    rw [core_setCore]; rfl
  have f : s.begins.focus = s.focus := rfl
  unfold gatePass takeFiring
  dsimp only
  rw [f, gateWaiters_begins, r]
  split
  · split <;> rfl
  · rfl

/-- The course of an instruction that names no address, where its unit takes it. -/
theorem unitInstr_takes {s : State} {sh : Shape} (h : Starts s sh) (ht : taking s sh ≠ 0) (isQ : Bool) (v : State) (hu : unitTakes s isQ v)
    (i : Instr) (vecs dst : List (BitVec 8)) (a b : Ctx → Word) :
    unitInstr s sh isQ i vecs dst a b =
      .next (retire (enterUnit (startCtx s sh) (s.claimed v) isQ i vecs dst (a (startCtx s sh)) (b (startCtx s sh))) none 0) := by
  unfold unitInstr
  rw [startGroup_starts h]
  have : ¬ (startCtx s sh).act = 0 := ht
  simp only [this, if_false]
  obtain ⟨w, hw⟩ := unitStart_takes (s0 := s) (sh := sh) isQ v (fun _ _ u => retire (enterUnit (startCtx s sh) u isQ i vecs dst
    (a (startCtx s sh)) (b (startCtx s sh))) none 0) rfl (gatePass_begins s _) hu
  exact congrArg _ hw

/-- The group that stands behind the gate at the start of an instruction: `f` is its mark. -/
def atGate (s : State) (f : Bool) : Group := { begun s with fired := f }

/-- The gate and the claim change the group's mark alone, and no watch predicate. -/
theorem claimed_cur {s : State} {sh : Shape} (h : Starts s sh) {isQ : Bool} {v : State} (hu : unitTakes s isQ v) :
    (s.claimed v).cur = atGate s v.cur.fired ∧ ((s.claimed v).core s.focus.core).wps = [] ∧ (s.claimed v).focus = s.focus := by
  obtain ⟨-, -, -, h4⟩ := hu
  have hv : v.cur = atGate s v.cur.fired ∧ (v.core s.focus.core).wps = [] ∧ v.focus = s.focus := by
    split at h4
    · obtain ⟨c, h1, h2, rfl⟩ := gatePass_eq h4
      have e : (s.begins.setCore s.begins.focus.core c).cur = begun s := by
        show ((s.begins.setCore s.focus.core c).core s.focus.core).group s.focus.slot = _
        rw [core_setCore]
        unfold Core.group
        rw [h1]
        exact cur_setCur s (begun s)
      refine ⟨?_, ?_, rfl⟩
      · rw [State.updCur, cur_setCur, e]; rfl
      · unfold State.updCur
        rw [wps_setCur]
        show ((s.begins.setCore s.focus.core c).core s.focus.core).wps = []
        rw [core_setCore, h2]
        exact begins_wps h _ rfl
    · cases h4
      refine ⟨?_, begins_wps h _ rfl, rfl⟩
      rw [show s.begins.cur = begun s from cur_setCur s (begun s)]; rfl
  obtain ⟨h1, h2, h3⟩ := hv
  unfold State.claimed claimPart
  dsimp only
  split
  · exact ⟨h1, h2, h3⟩
  · refine ⟨?_, ?_, h3⟩
    · rw [← h1]
      unfold State.cur State.group
      simp only [State.updCore_focus, h3, core_updCore]
      rfl
    · rw [core_updCore]; exact h2

theorem enterUnit_cur {x : Ctx} {u : State} (hx : x.core = u.focus.core) (isQ : Bool) (i : Instr) (vecs dst : List (BitVec 8))
    (a b : Word) : (enterUnit x u isQ i vecs dst a b).cur =
      addScore (addOp u.cur (if isQ then 4 else 3) 1).1 (addOp u.cur (if isQ then 4 else 3) 1).2 dst := by
  have e : ∀ (t : State) (f : Core → Core), (∀ c, (f c).groups = c.groups) → (t.updCore t.focus.core f).cur = t.cur := by
    intro t f hf
    unfold State.cur State.group
    simp only [State.updCore_focus, core_updCore, Core.group, hf]
  unfold enterUnit
  simp only [hx]
  refine (e (u.setCur _) _ ?_).trans (cur_setCur _ _)
  intro c
  rfl

/-- An instruction that its unit takes completes by entering the unit. -/
theorem unitInstr_ends {s : State} {sh : Shape} (h : Starts s sh) (ht : taking s sh ≠ 0) (isQ : Bool) (v : State)
    (hu : unitTakes s isQ v) (i : Instr) (vecs dst : List (BitVec 8)) (a b : Ctx → Word) :
    unitInstr s sh isQ i vecs dst a b =
      .next (s.ends (enterUnit (startCtx s sh) (s.claimed v) isQ i vecs dst (a (startCtx s sh)) (b (startCtx s sh)))) := by
  obtain ⟨h1, h2, h3⟩ := claimed_cur h hu
  rw [unitInstr_takes h ht isQ v hu]
  have e := enterUnit_cur (x := startCtx s sh) (u := s.claimed v) (by rw [h3]; rfl) isQ i vecs dst (a (startCtx s sh)) (b (startCtx s sh))
  have n : ∀ (g : Group) (c l : Nat), (addOp g c l).1.nextPc = g.nextPc ∧ (addOp g c l).1.hazards = g.hazards := by
    intro g c l
    unfold addOp
    rcases c with _ | _ | _ | _ | _ <;> exact ⟨rfl, rfl⟩
  refine congrArg _ (retire_ends ?_ ?_ ?_)
  · rw [e, h1]; exact (n _ _ _).1
  · rw [e, h1]; exact (addOp_calm _ _ _).trans h.calm
  · rw [e, h1]; exact (n _ _ _).2

end Sys2Proof.Machine
end

