-- ==== Sys2Proof/Tests/Slice0.lean ====
section
/-! SUPPORT. Tests of the model on small states, and for each statement states and operands that meet its hypotheses. -/
namespace Sys2Proof.Tests

set_option Elab.async false

open Sys2Proof Sys2Proof.Machine

/-! ### Small states -/

/-- Group 0 of core 0 runs at slot 1 of a packet of one slot; virtual page 1 is mapped to physical page 0x12_0000. -/
def base : State := { State.reset.withFetchWord 32 0x0B000000 with
  agenda := [], focus := { core := 0, slot := 0, storer := false, ctl := 0x10000000, word := 0x0B000000, step := false, refused := none } }

/-- The same with the group changed. -/
def grp (f : Group → Group) : State := base.updCur f

/-- The same with the core changed. -/
def cor (f : Core → Core) : State := base.updCore 0 f

/-- The group with scalar registers. -/
def regs (l : List (Nat × Word)) : State := grp (fun g => l.foldl (fun h e => h.setScal e.1 e.2) g)

/-- The group under a MODE: TYPE f32, and TYPE f32 with a guard on p1. -/
def moded (m : Word) : State := grp (fun g => { g with mode := m })
def f32 : State := moded 0x02000000
def guarded32 : State := grp (fun g => { g with mode := 0x92000000, preds := [(1, 5)] })

/-! ### Ill-formed instructions are refused -/

theorem test_ill_formed_refused :
    Instr.wf (.brp 3 0 0 0) = false ∧ Instr.wf (.cntwait 5 0) = false ∧ Instr.wf (.cvt 0 1 3 3) = false ∧
    Instr.wf (.cvt 0 1 8 3) = false ∧ Instr.wf (.cvt 0 1 3 8) = false ∧ Instr.wf (.lds 0 1 5) = false ∧ Instr.wf (.sts 0 1 5) = false ∧
    Instr.wf (.mmas 0 0 0 0 3) = false ∧ Instr.wf (.qinit 0 0 1 0) = false ∧ Instr.wf (.qinit 0 0 0 1) = false := by decide

theorem test_well_formed_accepted :
    Instr.wf (.brp 2 0 0 0) = true ∧ Instr.wf (.cntwait 4 0) = true ∧ Instr.wf (.cvt 0 1 3 2) = true ∧ Instr.wf (.lds 0 1 4) = true ∧
    Instr.wf (.mmas 0 0 0 0 2) = true ∧ Instr.wf (.qinit 0 1 1 3) = true ∧ Instr.wf (.qinit 0 0 0 0) = true := by decide

/-! ### Words written out from the encoding tables -/

theorem test_control_words :
    decodeGroup 0b00000001_010110010110100101101011 = some (.bra 5859691) ∧
    decodeGroup 0b00000010_10_1_00_101_0110101100101011 = some (.brp 2 1 5 27435) ∧
    decodeGroup 0b00000011_00000000_01101011_00000000 = some (.jmpr 107) ∧
    decodeGroup 0b00000100_010110010110100101101011 = some (.call 5859691) ∧
    decodeGroup 0b00000101_000000000000000000000000 = some (.ret) ∧
    decodeGroup 0b00000110_010110010110100101101011 = some (.jpush 5859691) ∧
    decodeGroup 0b00000111_00_1_00_111_0001011101001101 = some (.bdiv 1 7 5965) ∧
    decodeGroup 0b00001000_000000000000000000000000 = some (.join) ∧
    decodeGroup 0b00001001_000000000000000000000000 = some (.exit) ∧
    decodeGroup 0b00001010_000000000000000000000000 = some (.yield) ∧
    decodeGroup 0b00001011_000000000000000000000000 = some (.nop) ∧
    decodeGroup 0b00001100_00000000_0110100101101011 = some (.trap 26987) ∧
    decodeGroup 0b00001101_000000000000000000000000 = some (.rte) ∧
    decodeGroup 0b00001101_000000000000000000000001 = some (.rteSkip) ∧
    decodeGroup 0b00010000_00000000_110100101101011_0 = some (.setmodeI 26987) ∧
    decodeGroup 0b00010001_00000000_01101011_00000000 = some (.setmode 107) ∧
    decodeGroup 0b00010010_00000000_01101011_00000000 = some (.setfmt 107) ∧
    decodeGroup 0b00010011_01101011_000000000000000_1 = some (.getmode 107 1) ∧
    decodeGroup 0b00010100_0000_1011_10010111_00000000 = some (.ldtab 11 151) ∧
    decodeGroup 0b00010101_00000000_0110100101101011 = some (.regacq 26987) ∧
    decodeGroup 0b00010110_00000000_0110100101101011 = some (.regrel 26987) ∧
    decodeGroup 0b00010111_01101011_10010111_01001101 = some (.rvdonate 107 151 77) := by decide +kernel

theorem test_integer_words_1 :
    decodeGroup 0b00100000_01101011_10010111_01001101 = some (.add 107 151 77) ∧
    decodeGroup 0b00100001_01101011_10010111_01001101 = some (.sub 107 151 77) ∧
    decodeGroup 0b00100010_01101011_10010111_01001101 = some (.mul 107 151 77) ∧
    decodeGroup 0b00100011_01101011_10010111_01001101 = some (.mulhi 107 151 77) ∧
    decodeGroup 0b00100100_01101011_10010111_01001101 = some (.mad 107 151 77) ∧
    decodeGroup 0b00100101_01101011_10010111_01001101 = some (.min 107 151 77) ∧
    decodeGroup 0b00100110_01101011_10010111_01001101 = some (.max 107 151 77) ∧
    decodeGroup 0b00100111_01101011_10010111_00000000 = some (.abs 107 151) ∧
    decodeGroup 0b00101000_01101011_10010111_00000000 = some (.neg 107 151) ∧
    decodeGroup 0b00101001_01101011_10010111_01001101 = some (.and 107 151 77) ∧
    decodeGroup 0b00101010_01101011_10010111_01001101 = some (.or 107 151 77) ∧
    decodeGroup 0b00101011_01101011_10010111_01001101 = some (.xor 107 151 77) ∧
    decodeGroup 0b00101100_01101011_10010111_00000000 = some (.not 107 151) ∧
    decodeGroup 0b00101101_01101011_10010111_01001101 = some (.shl 107 151 77) ∧
    decodeGroup 0b00101110_01101011_10010111_01001101 = some (.shr 107 151 77) ∧
    decodeGroup 0b00101111_01101011_10010111_01001101 = some (.sra 107 151 77) ∧
    decodeGroup 0b00110000_01101011_10010111_00000000 = some (.popc 107 151) ∧
    decodeGroup 0b00110001_01101011_10010111_00000000 = some (.clz 107 151) ∧
    decodeGroup 0b00110010_01101011_10010111_00000000 = some (.brev 107 151) ∧
    decodeGroup 0b00110011_01101011_10010111_01001101 = some (.bfx 107 151 77) ∧
    decodeGroup 0b00110100_01101011_10010111_01001101 = some (.bfi 107 151 77) ∧
    decodeGroup 0b00110101_01101011_10010111_01001101 = some (.sel 107 151 77) ∧
    decodeGroup 0b00110110_01101011_10010111_01001101 = some (.cmpeq 107 151 77) := by decide +kernel

theorem test_integer_words_2 :
    decodeGroup 0b00110111_01101011_10010111_01001101 = some (.cmpne 107 151 77) ∧
    decodeGroup 0b00111000_01101011_10010111_01001101 = some (.cmplt 107 151 77) ∧
    decodeGroup 0b00111001_01101011_10010111_01001101 = some (.cmple 107 151 77) ∧
    decodeGroup 0b00111010_01101011_10010111_01001101 = some (.cmpltn 107 151 77) ∧
    decodeGroup 0b00111011_01101011_10010111_01001101 = some (.cmplen 107 151 77) ∧
    decodeGroup 0b00111100_01101011_1110010110010111 = some (.ldi 107 58775) ∧
    decodeGroup 0b00111101_01101011_1110010110010111 = some (.ldih 107 58775) ∧
    decodeGroup 0b00111110_01101011_10010111_00000000 = some (.mov 107 151) ∧
    decodeGroup 0b00111111_01101011_10010111_01001101 = some (.leas 107 151 77) ∧
    decodeGroup 0b01000000_01101011_10010111_01001101 = some (.addI 107 151 77) ∧
    decodeGroup 0b01000001_01101011_10010111_01001101 = some (.mulI 107 151 77) ∧
    decodeGroup 0b01000010_01101011_10010111_01001101 = some (.andI 107 151 77) ∧
    decodeGroup 0b01000011_01101011_10010111_01001101 = some (.orI 107 151 77) ∧
    decodeGroup 0b01000100_01101011_10010111_01001101 = some (.xorI 107 151 77) ∧
    decodeGroup 0b01000101_01101011_10010111_000_01101 = some (.shlI 107 151 13) ∧
    decodeGroup 0b01000110_01101011_10010111_000_01101 = some (.shrI 107 151 13) ∧
    decodeGroup 0b01000111_01101011_10010111_000_01101 = some (.sraI 107 151 13) ∧
    decodeGroup 0b01001000_01101011_10010111_01001101 = some (.cmpeqI 107 151 77) ∧
    decodeGroup 0b01001001_01101011_10010111_01001101 = some (.cmpneI 107 151 77) ∧
    decodeGroup 0b01001010_01101011_10010111_01001101 = some (.cmpltI 107 151 77) ∧
    decodeGroup 0b01001011_01101011_10010111_01001101 = some (.cmpleI 107 151 77) ∧
    decodeGroup 0b01001100_01101011_10010111_01001101 = some (.cmpltnI 107 151 77) ∧
    decodeGroup 0b01001101_01101011_10010111_01001101 = some (.cmplenI 107 151 77) := by decide +kernel

theorem test_float_words :
    decodeGroup 0b01010000_01101011_10010111_01001101 = some (.fadd 107 151 77) ∧
    decodeGroup 0b01010001_01101011_10010111_01001101 = some (.fsub 107 151 77) ∧
    decodeGroup 0b01010010_01101011_10010111_01001101 = some (.fmul 107 151 77) ∧
    decodeGroup 0b01010011_01101011_10010111_01001101 = some (.fma 107 151 77) ∧
    decodeGroup 0b01010100_01101011_10010111_01001101 = some (.fmin 107 151 77) ∧
    decodeGroup 0b01010101_01101011_10010111_01001101 = some (.fmax 107 151 77) ∧
    decodeGroup 0b01010110_01101011_10010111_00000000 = some (.fneg 107 151) ∧
    decodeGroup 0b01010111_01101011_10010111_00000000 = some (.fabs 107 151) ∧
    decodeGroup 0b01011000_01101011_10010111_01001101 = some (.fcmpeq 107 151 77) ∧
    decodeGroup 0b01011001_01101011_10010111_01001101 = some (.fcmplt 107 151 77) ∧
    decodeGroup 0b01011010_01101011_10010111_01001101 = some (.fcmple 107 151 77) ∧
    decodeGroup 0b01011011_01101011_10010111_01001101 = some (.fcmpun 107 151 77) ∧
    decodeGroup 0b01011100_01101011_10010111_00000000 = some (.frcp 107 151) ∧
    decodeGroup 0b01011101_01101011_10010111_00000000 = some (.frsq 107 151) ∧
    decodeGroup 0b01011110_01101011_10010111_00000000 = some (.fsin 107 151) ∧
    decodeGroup 0b01011111_01101011_10010111_00000000 = some (.fcos 107 151) ∧
    decodeGroup 0b01100000_01101011_10010111_00000000 = some (.fexp2 107 151) ∧
    decodeGroup 0b01100001_01101011_10010111_00000000 = some (.flog2 107 151) ∧
    decodeGroup 0b01100010_01101011_10010111_0110_0011 = some (.cvt 107 151 6 3) ∧
    decodeGroup 0b01100011_01101011_10010111_00000000 = some (.qnt 107 151) ∧
    decodeGroup 0b01100100_01101011_10010111_00000000 = some (.dqnt 107 151) ∧
    decodeGroup 0b01100101_01101011_10010111_01001101 = some (.pack 107 151 77) ∧
    decodeGroup 0b01100110_01101011_10010111_00000_101 = some (.unpack 107 151 5) := by decide +kernel

theorem test_lanes_words :
    decodeGroup 0b01110000_01101011_10010111_01001101 = some (.shfl 107 151 77) ∧
    decodeGroup 0b01110001_01101011_10010111_01001101 = some (.shflx 107 151 77) ∧
    decodeGroup 0b01110010_01101011_10010111_00000000 = some (.ballot 107 151) ∧
    decodeGroup 0b01110011_01101011_10010111_00000000 = some (.vany 107 151) ∧
    decodeGroup 0b01110100_01101011_10010111_00000000 = some (.vall 107 151) ∧
    decodeGroup 0b01110101_01101011_10010111_00000000 = some (.matchv 107 151) ∧
    decodeGroup 0b01110110_01101011_10010111_01001101 = some (.rduni 107 151 77) ∧
    decodeGroup 0b01110111_01101011_10010111_01001101 = some (.bcast 107 151 77) ∧
    decodeGroup 0b01111000_00000000_01101011_10010111 = some (.xpair 107 151) ∧
    decodeGroup 0b01111001_01101011_10010111_00000000 = some (.xshfl 107 151) := by decide +kernel

theorem test_memory_words_1 :
    decodeGroup 0b10000000_01101011_10010111_01001101 = some (.ldb 107 151 77) ∧
    decodeGroup 0b10000001_01101011_10010111_01001101 = some (.ldh 107 151 77) ∧
    decodeGroup 0b10000010_01101011_10010111_01001101 = some (.ldw 107 151 77) ∧
    decodeGroup 0b10000011_01101011_10010111_01001101 = some (.ldd 107 151 77) ∧
    decodeGroup 0b10000100_01101011_10010111_01001101 = some (.ldq 107 151 77) ∧
    decodeGroup 0b10000101_01101011_10010111_01001101 = some (.stb 107 151 77) ∧
    decodeGroup 0b10000110_01101011_10010111_01001101 = some (.sth 107 151 77) ∧
    decodeGroup 0b10000111_01101011_10010111_01001101 = some (.stw 107 151 77) ∧
    decodeGroup 0b10001000_01101011_10010111_01001101 = some (.std 107 151 77) ∧
    decodeGroup 0b10001001_01101011_10010111_01001101 = some (.stq 107 151 77) ∧
    decodeGroup 0b10001010_01101011_10010111_00000_010 = some (.lds 107 151 2) ∧
    decodeGroup 0b10001011_01101011_10010111_00000_010 = some (.sts 107 151 2) ∧
    decodeGroup 0b10001100_01101011_10010111_01001101 = some (.ldacq 107 151 77) ∧
    decodeGroup 0b10001101_01101011_10010111_01001101 = some (.strel 107 151 77) ∧
    decodeGroup 0b10001110_00000000_01101011_10010111 = some (.pref 107 151) := by decide +kernel

theorem test_memory_words_2 :
    decodeGroup 0b10010000_000000000000000000000000 = some (.fenceA) ∧
    decodeGroup 0b10010001_000000000000000000000000 = some (.fenceR) ∧
    decodeGroup 0b10010010_000000000000000000000000 = some (.fenceAr) ∧
    decodeGroup 0b10010011_01101011_10010111_01001101 = some (.aadd 107 151 77) ∧
    decodeGroup 0b10010100_01101011_10010111_01001101 = some (.afadd 107 151 77) ∧
    decodeGroup 0b10010101_01101011_10010111_01001101 = some (.amin 107 151 77) ∧
    decodeGroup 0b10010110_01101011_10010111_01001101 = some (.amax 107 151 77) ∧
    decodeGroup 0b10010111_01101011_10010111_01001101 = some (.aand 107 151 77) ∧
    decodeGroup 0b10011000_01101011_10010111_01001101 = some (.aor 107 151 77) ∧
    decodeGroup 0b10011001_01101011_10010111_01001101 = some (.axor 107 151 77) ∧
    decodeGroup 0b10011010_01101011_10010111_01001101 = some (.axchg 107 151 77) ∧
    decodeGroup 0b10011011_01101011_10010111_01001101 = some (.acas 107 151 77) ∧
    decodeGroup 0b10011100_00000000_01101011_10010111 = some (.redadd 107 151) ∧
    decodeGroup 0b10011101_00000000_01101011_10010111 = some (.redfadd 107 151) ∧
    decodeGroup 0b10011110_00000000_01101011_10010111 = some (.redmin 107 151) ∧
    decodeGroup 0b10011111_00000000_01101011_10010111 = some (.redmax 107 151) := by decide +kernel

theorem test_sync_words :
    decodeGroup 0b10100000_00000000_01101011_10010111 = some (.redor 107 151) ∧
    decodeGroup 0b10100001_00000000_01101011_10010111 = some (.cpy 107 151) ∧
    decodeGroup 0b10100010_00000000_01101011_10010111 = some (.cpys 107 151) ∧
    decodeGroup 0b10100011_00000000_01101011_00000000 = some (.tagwany 107) ∧
    decodeGroup 0b10100100_00000000_01101011_00000000 = some (.tagwall 107) ∧
    decodeGroup 0b10100101_01101011_10010111_00000000 = some (.tagff 107 151) ∧
    decodeGroup 0b10100110_00000000_01101011_00000000 = some (.tagclr 107) ∧
    decodeGroup 0b10100111_00000000_01101011_10010111 = some (.barinit 107 151) ∧
    decodeGroup 0b10101000_00000000_01101011_10010111 = some (.bararr 107 151) ∧
    decodeGroup 0b10101001_00000000_01101011_10010111 = some (.barexp 107 151) ∧
    decodeGroup 0b10101010_01101011_10010111_01001101 = some (.waitph 107 151 77) ∧
    decodeGroup 0b10101011_00000_100_1110010110010111 = some (.cntwait 4 58775) ∧
    decodeGroup 0b10101100_01101011_10010111_00000_101 = some (.enq 107 151 5) ∧
    decodeGroup 0b10101101_01101011_10010111_00000_101 = some (.deq 107 151 5) ∧
    decodeGroup 0b10101110_00000000_01101011_00000000 = some (.monitor 107) ∧
    decodeGroup 0b10101111_00000000_01101011_00000000 = some (.mwait 107) := by decide +kernel

theorem test_arena_words :
    decodeGroup 0b10110000_01101011_10010111_01001101 = some (.anew 107 151 77) ∧
    decodeGroup 0b10110001_01101011_10010111_000000_1_1 = some (.adrop 107 151 1 1) ∧
    decodeGroup 0b10110010_01101011_10010111_00000000 = some (.aseal 107 151) ∧
    decodeGroup 0b10110011_01101011_10010111_01001101 = some (.aquota 107 151 77) ∧
    decodeGroup 0b10110100_01101011_10010111_00000000 = some (.aquery 107 151) ∧
    decodeGroup 0b10110101_00000000_01101011_00000000 = some (.cbsync 107) := by decide +kernel

theorem test_matrix_words :
    decodeGroup 0b11000000_00_11_0_10010111_00000000000 = some (.mloadb 3 151) ∧
    decodeGroup 0b11000001_11_11_0_01001101_00000000000 = some (.mma 3 3 77) ∧
    decodeGroup 0b11000010_11_11_0_01001101_00101011_010 = some (.mmas 3 3 77 43 2) ∧
    decodeGroup 0b11000011_11_11_00000000000000000000 = some (.mmab 3 3) ∧
    decodeGroup 0b11000100_11_000000000000000000000_1 = some (.mbyp 3 1) ∧
    decodeGroup 0b11000101_11_000_10010111_00000000000 = some (.mdrain 3 151) ∧
    decodeGroup 0b11000110_11_000_10010111_01001101_000 = some (.mstore 3 151 77) ∧
    decodeGroup 0b11000111_11_0000000000000000000000 = some (.mzero 3) := by decide +kernel

theorem test_orthogonal_words :
    decodeGroup 0b11001000_1_000_1_1_11_0000000000000000 = some (.qinit 1 1 1 3) ∧
    decodeGroup 0b11001001_1_0000000_10010111_01001101 = some (.qappend 1 151 77) ∧
    decodeGroup 0b11001010_1_00000_11_0000000000000000 = some (.qappl 1 3) ∧
    decodeGroup 0b11001011_1_00000_11_0000000000000000 = some (.qapplt 1 3) ∧
    decodeGroup 0b11001100_1_00000_11_0000000000000000 = some (.qappr 1 3) ∧
    decodeGroup 0b11001101_1_00000_11_0000000000000000 = some (.qapprt 1 3) ∧
    decodeGroup 0b11001110_1_000000000000000_10010111 = some (.qcount 1 151) ∧
    decodeGroup 0b11001111_1_00000000000000000000000 = some (.qcompact 1) ∧
    decodeGroup 0b11010000_1_00000_11_0000000000000000 = some (.qdense 1 3) := by decide +kernel

theorem test_locks_words :
    decodeGroup 0b11010001_01101011_10010111_01001101 = some (.lock 107 151 77) ∧
    decodeGroup 0b11010010_01101011_10010111_00000000 = some (.trylock 107 151) ∧
    decodeGroup 0b11010011_00000000_01101011_00000000 = some (.unlock 107) ∧
    decodeGroup 0b11010100_01101011_10010111_00000000 = some (.lkprobe 107 151) ∧
    decodeGroup 0b11010101_01101011_10010111_00000000 = some (.lkfree 107 151) := by decide +kernel

theorem test_watch_words :
    decodeGroup 0b11100000_0000_1011_10010111_01001101 = some (.wpset 11 151 77) ∧
    decodeGroup 0b11100001_0000_1011_0000000000000000 = some (.wpclr 11) ∧
    decodeGroup 0b11100010_01101011_0000_0111_00000000 = some (.wprd 107 7) ∧
    decodeGroup 0b11100011_01101011_10010111_01001101 = some (.hltrd 107 151 77) ∧
    decodeGroup 0b11100100_01101011_10010111_01001101 = some (.hltwr 107 151 77) ∧
    decodeGroup 0b11100101_00000000_01101011_10010111 = some (.hltstep 107 151) ∧
    decodeGroup 0b11100110_00000000_01101011_00000000 = some (.hltres 107) := by decide +kernel

theorem test_tasks_words :
    decodeGroup 0b11110000_01101011_10010111_00000000 = some (.tspawn 107 151) ∧
    decodeGroup 0b11110001_01101011_0000000000000000 = some (.tdoneFinal 107) ∧
    decodeGroup 0b11110001_01101011_0000000000000001 = some (.tdoneGrain 107) ∧
    decodeGroup 0b11110010_01101011_10010111_01001101 = some (.tdep 107 151 77) ∧
    decodeGroup 0b11110011_01101011_10010111_01001101 = some (.mbxreg 107 151 77) ∧
    decodeGroup 0b11110100_0000_1011_10010111_01001101 = some (.evroute 11 151 77) ∧
    decodeGroup 0b11110100_100000000000000000000000 = some (.evrouteSignal) ∧
    decodeGroup 0b11110101_01101011_1110010110010111 = some (.csrrd 107 58775) ∧
    decodeGroup 0b11110110_01101011_1110010110010111 = some (.csrwr 107 58775) ∧
    decodeGroup 0b11110111_000000000000000000000000 = some (.preack) := by decide +kernel

theorem test_mbadun_words :
    decodeSide 0b0000000_00000_00000_000_00000_0001011 = some (.mhalt) ∧
    decodeSide 0b0000001_00000_00000_000_00000_0001011 = some (.mevwait) ∧
    decodeSide 0b0000010_00000_00000_000_00000_0001011 = some (.msignal) ∧
    decodeSide 0b0000011_00000_01011_000_00000_0001011 = some (.mtimer 11) ∧
    decodeSide 0b0000_011_00000_10111_001_01101_0001011 = some (.mqpush 3 23 13) ∧
    decodeSide 0b0000_011_00000_10111_010_01101_0001011 = some (.mqpop 3 23 13) ∧
    decodeSide 0b0000_011_00000_00000_011_10111_0001011 = some (.mqcnt 3 23) ∧
    decodeSide 0b000000_1_00000_00000_100_10111_0001011 = some (.mtagr 1 23) ∧
    decodeSide 0b0000000_00000_01011_000_10111_0101011 = some (.mcpy 11 23) ∧
    decodeSide 0b01011_00_10111_01101_001_00000_0101011 = some (.mbarc 11 23 13) ∧
    decodeSide 0b0000000_00000_01011_010_10111_0101011 = some (.mavdec 11 23) := by decide +kernel

theorem test_side_arithmetic_words :
    decodeSide 0b10110100111010010111_01101_0110111 = some (.rvLui 13 741015) ∧
    decodeSide 0b10110100111010010111_01101_0010111 = some (.rvAuipc 13 741015) ∧
    decodeSide 0b1_1010010111_1_01101001_01101_1101111 = some (.rvJal 13 741015) ∧
    decodeSide 0b101101001110_10110_000_01101_1100111 = some (.rvJalr 13 22 2894) ∧
    decodeSide 0b1_110100_00111_10110_000_1110_0_1100011 = some (.rvBeq 22 7 2894) ∧
    decodeSide 0b1_110100_00111_10110_001_1110_0_1100011 = some (.rvBne 22 7 2894) ∧
    decodeSide 0b1_110100_00111_10110_100_1110_0_1100011 = some (.rvBlt 22 7 2894) ∧
    decodeSide 0b1_110100_00111_10110_101_1110_0_1100011 = some (.rvBge 22 7 2894) ∧
    decodeSide 0b1_110100_00111_10110_110_1110_0_1100011 = some (.rvBltu 22 7 2894) ∧
    decodeSide 0b1_110100_00111_10110_111_1110_0_1100011 = some (.rvBgeu 22 7 2894) ∧
    decodeSide 0b101101001110_10110_000_01101_0000011 = some (.rvLb 13 22 2894) ∧
    decodeSide 0b101101001110_10110_001_01101_0000011 = some (.rvLh 13 22 2894) ∧
    decodeSide 0b101101001110_10110_010_01101_0000011 = some (.rvLw 13 22 2894) ∧
    decodeSide 0b101101001110_10110_100_01101_0000011 = some (.rvLbu 13 22 2894) ∧
    decodeSide 0b101101001110_10110_101_01101_0000011 = some (.rvLhu 13 22 2894) ∧
    decodeSide 0b1011010_00111_10110_000_01110_0100011 = some (.rvSb 22 7 2894) ∧
    decodeSide 0b1011010_00111_10110_001_01110_0100011 = some (.rvSh 22 7 2894) ∧
    decodeSide 0b1011010_00111_10110_010_01110_0100011 = some (.rvSw 22 7 2894) ∧
    decodeSide 0b101101001110_10110_000_01101_0010011 = some (.rvAddi 13 22 2894) ∧
    decodeSide 0b101101001110_10110_010_01101_0010011 = some (.rvSlti 13 22 2894) ∧
    decodeSide 0b101101001110_10110_011_01101_0010011 = some (.rvSltiu 13 22 2894) ∧
    decodeSide 0b101101001110_10110_100_01101_0010011 = some (.rvXori 13 22 2894) ∧
    decodeSide 0b101101001110_10110_110_01101_0010011 = some (.rvOri 13 22 2894) := by decide +kernel

theorem test_side_other_words :
    decodeSide 0b101101001110_10110_111_01101_0010011 = some (.rvAndi 13 22 2894) ∧
    decodeSide 0b0000000_00111_10110_001_01101_0010011 = some (.rvSlli 13 22 7) ∧
    decodeSide 0b0000000_00111_10110_101_01101_0010011 = some (.rvSrli 13 22 7) ∧
    decodeSide 0b0100000_00111_10110_101_01101_0010011 = some (.rvSrai 13 22 7) ∧
    decodeSide 0b0000000_00111_10110_000_01101_0110011 = some (.rvAdd 13 22 7) ∧
    decodeSide 0b0100000_00111_10110_000_01101_0110011 = some (.rvSub 13 22 7) ∧
    decodeSide 0b0000000_00111_10110_001_01101_0110011 = some (.rvSll 13 22 7) ∧
    decodeSide 0b0000000_00111_10110_010_01101_0110011 = some (.rvSlt 13 22 7) ∧
    decodeSide 0b0000000_00111_10110_011_01101_0110011 = some (.rvSltu 13 22 7) ∧
    decodeSide 0b0000000_00111_10110_100_01101_0110011 = some (.rvXor 13 22 7) ∧
    decodeSide 0b0000000_00111_10110_101_01101_0110011 = some (.rvSrl 13 22 7) ∧
    decodeSide 0b0100000_00111_10110_101_01101_0110011 = some (.rvSra 13 22 7) ∧
    decodeSide 0b0000000_00111_10110_110_01101_0110011 = some (.rvOr 13 22 7) ∧
    decodeSide 0b0000000_00111_10110_111_01101_0110011 = some (.rvAnd 13 22 7) ∧
    decodeSide 0b0000_1011_1101_00000_000_00000_0001111 = some (.rvFence 0b00001011110100000 0) ∧
    decodeSide 0b0000001_00111_10110_000_01101_0110011 = some (.rvMul 13 22 7) ∧
    decodeSide 0b0000001_00111_10110_001_01101_0110011 = some (.rvMulh 13 22 7) ∧
    decodeSide 0b0000001_00111_10110_010_01101_0110011 = some (.rvMulhsu 13 22 7) ∧
    decodeSide 0b0000001_00111_10110_011_01101_0110011 = some (.rvMulhu 13 22 7) ∧
    decodeSide 0b0000001_00111_10110_100_01101_0110011 = some (.rvDiv 13 22 7) ∧
    decodeSide 0b0000001_00111_10110_101_01101_0110011 = some (.rvDivu 13 22 7) ∧
    decodeSide 0b0000001_00111_10110_110_01101_0110011 = some (.rvRem 13 22 7) ∧
    decodeSide 0b0000001_00111_10110_111_01101_0110011 = some (.rvRemu 13 22 7) := by decide +kernel

/-! ### States that meet the hypotheses -/

theorem meets_arithmetic : Starts base (formShape 31 [0, 223]) ∧ Starts base (formShape 223 [160, 222]) ∧
    Starts base (formShape 31 [0]) ∧ Starts base (formShape 31 [0, 223, 31]) ∧ Starts base (formShape 31 []) ∧
    Starts base (formShape 31 [31]) := by decide +kernel

theorem meets_compares : Starts base (cmpShape 231 [0, 31]) ∧ Starts base (cmpShape 224 [160, 223]) ∧
    Starts base (cmpShape 31 [0, 31]) ∧ Starts base (cmpShape 224 [223]) := by decide +kernel

theorem meets_MovesComplete : Starts base (movShape 31 0) ∧ isVec 31 = true ∧ Starts base (movShape 223 160) ∧ isScal 223 = true ∧
    Starts base (movShape 231 0) ∧ Starts base (movShape 231 224) ∧ isPred 231 = true ∧ Starts base (leasShape 222 160 223) ∧
    Starts base (leasShape 30 0 223) := by decide +kernel

theorem meets_SelWritesByTheGuardTest : Starts base (selShape base.cur 31 0 30) ∧ Starts base (selShape base.cur 223 160 161) ∧
    Starts guarded32 (selShape guarded32.cur 31 0 30) := by decide +kernel

theorem meets_I32ArithmeticWrapsOrSaturates : mType 0 = 0 ∧ mSat 0 = false ∧ mType 0x00100000 = 0 ∧ mSat 0x00100000 = true := by
  decide +kernel

theorem meets_float : Starts f32 (floatShape f32.cur.mode (formShape 31 [0, 223])) ∧
    Starts f32 (floatShape f32.cur.mode (formShape 31 [0, 223, 31])) ∧ Starts f32 (floatShape f32.cur.mode (formShape 223 [160])) ∧
    Starts f32 (floatShape f32.cur.mode (cmpShape 231 [0, 31])) ∧ Starts f32 (floatShape f32.cur.mode (cmpShape 31 [0, 31])) := by
  decide +kernel

/-- A herd that holds table slot 15, with FMT.B a table format of that slot. -/
def tabled : State := f32.updCur (fun g => { g with fmt := 0x040F0000 }) |>.updCore 0 (fun c => { c with tabOwn := [(15, 0)] })

theorem meets_ConversionsAndSpecialFunctionsComplete : Starts base (cvtShape 31 0 0 7) ∧ Starts tabled (quantShape tabled.cur 31 0) ∧
    Starts (moded 0x03000000) (packShape 0x03000000 31 0 223) ∧ Starts (moded 0x07000000) (unpackShape 0x07000000 31 0 3) ∧
    Starts f32 (specialShape f32.cur.mode 31 0) := by decide +kernel

theorem meets_LaneInstructionsComplete : Starts base (shflShape 31 0 223) ∧ Starts base (bcastShape 31 0 223) ∧
    Starts base (matchShape 30 0) ∧ isVec 30 = true ∧ Starts base (matchShape 222 0) ∧ isScal 222 = true ∧
    Starts base (ballotShape 222 231) ∧ Starts base (voteShape 223 231) ∧ Starts base (rduniShape 223 31 222) :=
  ⟨by decide +kernel, by decide +kernel, by decide +kernel, by decide +kernel, by decide +kernel, by decide +kernel,
    by decide +kernel, by decide +kernel, by decide +kernel⟩

/-! Two cores of one instance with a group each. -/

/-- Core 0 and its partner core 8 each hold a group of the herd, with the waits given. -/
def pair2 (f g : Group → Group) : State :=
  let t := (base.updCur f).setGroup 8 0 (g { base.cur with herdIdx := 1 })
  { t with insts := t.insts.map (fun e => (e.1, { e.2 with gang := [0, 8], locs := [(0, 0), (8, 0)] })) }

def paired : State := pair2 (fun g => { g with wait := .xshfl 1 2 7, pair := some (8, 0) })
  (fun g => { g with wait := .xshfl 3 4 5, pair := some (0, 0) })

theorem meets_ClusterPairsComplete :
    (let s := (pair2 id id).updCur (fun g => (g.setScal 0 8).setScal 1 0)
     Starts s (xpairShape 160 161) ∧ pairOk (s.setCur (begun s)) 0 0 8 0 = true) ∧
    Starts (paired.updCur (fun g => { g with wait := .none })) (xshflShape 31 0) ∧
    (let s := pair2 (fun g => { g with wait := .xpair 8 0 }) (fun g => { g with wait := .xpair 0 0 })
     (s.group 0 0).wait = .xpair 8 0 ∧ (s.group 8 0).wait = .xpair 0 0 ∧ (s.group 8 0).resident = true ∧
       (s.group 8 0).ended = false ∧ (s.group 8 0).inst = (s.group 0 0).inst) ∧
    (paired.group 0 0).wait = .xshfl 1 2 7 ∧ (paired.group 8 0).wait = .xshfl 3 4 5 ∧ (paired.group 0 0).pair = some (8, 0) ∧
    (paired.group 8 0).pair = some (0, 0) ∧ (paired.core 0).wps = [] ∧ (paired.core 8).wps = [] := by decide +kernel

/-! ### Control flow and traps -/

theorem meets_TransfersComplete :
    Starts base plainUni ∧ inRange48 (signedLinear base.cur.pc + (8388607#24).toInt) = true ∧
    Starts base (uniShape ((2#2) != 3) [231] [231]) ∧ inRange48 (signedLinear base.cur.pc + (-1#16).toInt) = true ∧
    (let s := regs [(0, 0x1004), (62, 0x101C)]
     Starts s (uniShape (isScalPair 160) [160, 161] [160, 161]) ∧ Starts s (uniShape true [222, 223] [222, 223]) ∧
     canonical (s.cur.s64 160) = true ∧ (s.cur.s64 160).toNat % 4 = 0 ∧ (s.cur.s64 160).toNat / 4 % 8 ≠ 0 ∧
     canonical (s.cur.s64 222) = true ∧ (s.cur.s64 222).toNat % 4 = 0 ∧ (s.cur.s64 222).toNat / 4 % 8 ≠ 0) := by decide +kernel

theorem meets_checked_transfers :
    ∀ v ∈ [0x800000001004, 0x1006, 0x1020], let s := regs [(0, BitVec.ofNat 32 v), (1, BitVec.ofNat 32 (v / 2 ^ 32)),
        (62, BitVec.ofNat 32 v), (63, BitVec.ofNat 32 (v / 2 ^ 32))]
     Starts s (uniShape (isScalPair 160) [160, 161] [160, 161]) ∧ Starts s (uniShape true [222, 223] [222, 223]) ∧
     s.cur.s64 160 = BitVec.ofNat 64 v ∧ s.cur.s64 222 = BitVec.ofNat 64 v ∧ canonical (s.cur.s64 160) = decide (v < 2 ^ 47) := by
  decide +kernel

/-- Stack entries: one with threads and one that EXIT has emptied. -/
def entryA : Entry := ⟨0x1004, 1, 6, 0, 0⟩
def entryB : Entry := ⟨0x1004, 0, 0, 0, 0⟩
/-- A RECONV entry at the placed packet, the slot after it, and the page of the packet held by a flush. -/
def entryR : Entry := ⟨0x1004, 0, 6, 0, 0⟩
def pageHeld (s : State) : State := { s with flushes := [
  { page := 0x120000, size := 4096, arena := 1, gen := 0, regn := 1, homes := [], cores := [], core := 1, slot := 0 }] }

theorem meets_slotAfter : ∀ g ∈ [fun k : Group => { k with stack := [entryR] }, fun k => { k with amask := 1, stack := [entryB, entryR] }],
    let s := grp g
    Starts s plainUni ∧ Starts (pageHeld s) plainUni ∧ spillUsed s.cur = 0 ∧ hSact s.cur = false ∧
      slotAfter s 0 (instRoot s s.cur.inst) 0x1004 = .ok 0x1024 ∧
      slotAfter (pageHeld s) 0 (instRoot s s.cur.inst) 0x1004 = .wait [.sync] := by decide +kernel

theorem meets_DivergenceAndJoinComplete :
    (let s := grp (fun g => { g with stack := List.replicate 31 entryA, preds := [(7, 1)] })
     Starts s plainUni ∧ s.cur.stack.length < 32 ∧ Starts s (uniShape true [231] [231]) ∧ Starts s (uniShape true [224] [224]) ∧
     s.cur.amask &&& s.cur.pred 0 = 0 ∧ s.cur.amask &&& s.cur.pred 7 ≠ 0 ∧ s.cur.amask &&& ~~~(s.cur.amask &&& s.cur.pred 7) ≠ 0 ∧
     s.cur.amask &&& ~~~(s.cur.pred 0) ≠ 0 ∧ s.cur.amask &&& ~~~(s.cur.amask &&& ~~~(s.cur.pred 0)) = 0 ∧
     inRange48 (signedLinear s.cur.pc + (5#16).toInt) = true) ∧
    (let s := grp (fun g => { g with stack := [entryB, entryA] })
     Starts s plainUni ∧ spillUsed s.cur = 0 ∧
     s.cur.stack.dropWhile (fun e => decide (e.mask = 0)) = [entryA]) ∧ Starts base plainUni ∧ spillUsed base.cur = 0 := by
  decide +kernel

theorem meets_ExitCompletes : Starts base plainUni ∧ spillUsed base.cur = 0 ∧ hSact base.cur = false ∧
    (let s := grp (fun g => { g with amask := 1, stack := [entryA] })
     Starts s plainUni ∧ spillUsed s.cur = 0 ∧ hSact s.cur = false) := by decide +kernel

/-- The handlers at virtual address 0x1000; bit 0 of the region's first override field makes it a TRAPOK region. -/
def handled (h : BitVec 192) : State := grp (fun g => { g with hndl := h })
def upc : BitVec 192 := fput 0 191 144 0x1000
def spc : BitVec 192 := fput 0 143 96 0x1000
/-- The region lets its handlers take faults. -/
def trapOk (s : State) : State := { s with regions := s.regions.map (fun e => (e.1, { e.2 with rcb := setBit e.2.rcb 619 true })) }

theorem meets_TrapsEnterOrPark :
    (let s := handled upc
     hSact (s.group 0 0) = false ∧ isPClass cSWTRAP = false ∧ (s.group 0 0).stack.length < 32 ∧ isUClass cSWTRAP = true ∧
     hUact (s.group 0 0) = false ∧ handlerReady s 0 0 (hUpc (s.group 0 0)) = true) ∧
    (let s := trapOk (handled spc)
     hSact (s.group 0 0) = false ∧ isPClass cALIGN = false ∧ isUClass cALIGN = false ∧ effTrapOk s (instRegion s 0) = true ∧
     handlerReady s 0 0 (hSpc (s.group 0 0)) = true) ∧
    hSact ((handled (setBit 0 32 true)).group 0 0) = true ∧ isPClass 0x30 = true ∧
    (isUClass cALIGN = false ∧ effTrapOk base (instRegion base (base.group 0 0).inst) = false) ∧
    (let s := trapOk (handled 0)
     hSact (s.group 0 0) = false ∧ effTrapOk s (instRegion s (s.group 0 0).inst) = true ∧ hSpc (s.group 0 0) = 0) ∧
    (let fetch := fun (s : State) (pc : BitVec 48) => check s 0 (instRoot s (s.group 0 0).inst) (pc.signExtend 64) 32 .fetch
     let s := trapOk (handled (fput (fput 0 191 144 0x1010) 143 96 0x1010))
     let w := pageHeld (trapOk (handled (fput (fput 0 191 144 0x1000) 143 96 0x1000)))
     fetch s (hUpc (s.group 0 0)) = .fault cALIGN 0 ∧ fetch s (hSpc (s.group 0 0)) = .fault cALIGN 0 ∧
     fetch w (hUpc (w.group 0 0)) = .wait [.sync] ∧ fetch w (hSpc (w.group 0 0)) = .wait [.sync] ∧ hSpc (w.group 0 0) ≠ 0) ∧
    (∀ c ∈ [cSWTRAP, cALIGN], c ≠ cPRENOTE ∧ c ≠ cTRAPFETCH) ∧ isUClass cPRENOTE = true ∧ hUact ((handled (setBit upc 33 true)).group 0 0) = true
    := by decide +kernel

theorem meets_TrapsAndReturnsComplete :
    Starts base plainUni ∧
    (let s := grp (fun g => { g with stack := [entryA, entryB], hndl := setBit 0 32 true })
     Starts s plainUni ∧ s.cur.stack = [entryA, entryB] ∧ spillUsed s.cur = 0) ∧
    blocked base.cur plainUni (ctlStall base.focus.ctl (pcSlot base.cur.pc)) = false ∧ base.cur.hazards = [] ∧
    base.focus.step = false := by decide +kernel

theorem meets_StartTimeCausesTrap :
    (let free := { onceShape (isScal 160 && isScalPair 162) [160, 162, 163] [162, 163] with superv := true }
     blocked base.cur free (ctlStall base.focus.ctl (pcSlot base.cur.pc)) = false ∧ base.cur.hazards = [] ∧
     startCause base base.focus.core base.cur free false = some cSUPERV ∧ isScal 160 = true ∧ isScalPair 162 = true ∧
     [160, 162, 163].all (heldReg base.cur) = true ∧ hSact base.cur = false) ∧
    startCause base base.focus.core base.cur (floatShape base.cur.mode (formShape 1 [2, 3])) false = some cILLEGAL ∧
    startCause base base.focus.core base.cur (selShape base.cur 1 2 32) false = some cREGNOTHELD ∧
    startCause base base.focus.core base.cur (shflShape 1 2 159) false = some cREGNOTHELD ∧
    (let s := f32.updCur (fun g => { g with fmt := 0x040F0000 })
     startCause s s.focus.core s.cur (quantShape s.cur 1 2) false = some cTABNOTHELD ∧ (quantShape s.cur 1 2).legal = true ∧
     (quantShape s.cur 1 2).regs.all (heldReg s.cur) = true ∧
     (quantShape s.cur 1 2).tabs.all (tabHeld s s.focus.core s.cur) = false) ∧
    (let s := base.updCore 0 (fun c => c.setPart 0 { Partition.reset with owner := some 0, mxstate := 0xFFFFFFFFFFFFFFFF })
     startCause s s.focus.core s.cur (unitShape true [] [] (bTabs s 3) false) false = some cTABNOTHELD) ∧ isScal 1 = false := by decide +kernel

theorem meets_ModeInstructionsComplete :
    Starts base plainUni ∧ modeOk (0x0480#15 ++ 0#17 : BitVec (15 + 17)) = true ∧
    (let s := regs [(63, 0xF9980000)]
     Starts s (uniShape (isUni 223) [223] [223]) ∧ modeOk ((startCtx s (uniShape (isUni 223) [223] [223])).uni 223) = true) ∧
    (let s := regs [(63, 0x55FFFFFF - 0xF00)]
     Starts s (uniShape (isUni 223) [223] [223]) ∧ fmtOk ((startCtx s (uniShape (isUni 223) [223] [223])).uni 223) = true) ∧
    Starts base (uniShape (isScal 223) [223] []) ∧
    (let s := regs [(63, 0x0A000000)]
     modeOk ((startCtx s (uniShape (isUni 223) [223] [223])).uni 223) = false) ∧
    (let s := regs [(63, 0x60000000)]
     fmtOk ((startCtx s (uniShape (isUni 223) [223] [223])).uni 223) = false) := by decide +kernel

/-- A pair of scalars holds an address of the mapped page. -/
def addressed : State := regs [(2, 0x1100), (4, 0x1F00)]

theorem meets_LdtabCompletes :
    (let sh := mkShape .memory (isScalPair 162) [162, 163] [162, 163] true
     let s := addressed
     Starts s sh ∧ taking s sh ≠ 0 ∧ check s 0 (instRoot s s.cur.inst) (s.cur.s64 162) 128 .read = .ok 0x120100 1 0 0 ∧
     find (s.core 0).tabOwn 15 = none ∧ readHeld s.begins 0 0 (begun s) 0x120100 128 = false ∧ softAt s.begins 0x120100 128 = false) ∧
    (let s := addressed.updCur (fun g => { g with mode := 0x80000000 })
     Starts s (mkShape .memory (isScalPair 162) [162, 163] [162, 163] true) ∧
     taking s (mkShape .memory (isScalPair 162) [162, 163] [162, 163] true) = 0) := by decide +kernel

theorem meets_RegisterBlocksComplete :
    (let sh := uniShape (decide ((8#16).toNat ≤ 8)) [] []
     Starts base sh ∧ min 8 (freeSlots base.cur).length ≠ 0 ∧
     canGrant base.begins 0 0 (min 8 (freeSlots base.cur).length) = true) ∧
    Starts base (uniShape (decide ((0#16).toNat ≤ 8)) [] []) ∧ min 0 (freeSlots base.cur).length = 0 ∧
    (let s := base.updCore 0 (fun c => c.setPart 0 { Partition.reset with regwait := [1] })
     Starts s (uniShape (decide ((8#16).toNat ≤ 8)) [] []) ∧ canGrant s.begins 0 0 8 = false) ∧
    (let s := (grp (fun g => { g with wait := .regacq 8 })).updCore 0 (fun c => c.setPart 0 { Partition.reset with regwait := [0] })
     (s.group 0 0).wait = .regacq 8 ∧ canGrant s 0 0 8 = true) ∧
    (let s := regs [(0, 1), (1, 0x10)]
     let sh := uniShape (isScal 223 && isUni 160 && isUni 161) [223, 160, 161] [160, 161]
     Starts s sh ∧ (donateSlots 0 1).contains 0 = true ∧ (donateSlots 0 2).contains 0 = false) ∧
    (let s := grp (fun g => { g with wait := .rvdonate 1 0 0 223 })
     (s.group 0 0).wait = .rvdonate 1 0 0 223 ∧ ∀ k ∈ donateSlots 0 1, (s.group 0 k).resident = true ∧
       (s.group 0 k).ended = false ∧ (s.group 0 k).inst = (s.group 0 0).inst ∧ (s.group 0 k).wait = .rvdonate 1 0 0 223) := by
  decide +kernel
/-! ### Memory instructions -/

/-- One thread is active, and vectors v2, v3 and v5 hold an address and a datum. -/
def oneThread : State := (regs [(2, 0x1000), (4, 0x1F00)]).updCur (fun g => { g with
  amask := 1, vectors := (((g.setVec 2 0 0x1000).setVec 3 0 0).setVec 5 0 7).vectors })

theorem meets_LoadsAndStoresComplete :
    (∀ w ∈ [1, 2, 4, 8, 16],
      Starts oneThread (memShape (dataReg (regsFor w) 28) 28 162 232 (regsFor w) false) ∧
      globalChecks (startCtx oneThread (memShape (dataReg (regsFor w) 28) 28 162 232 (regsFor w) false)) oneThread.begins w .read
        (isScal 28) 162 232 = .ok [⟨0, 0x1000, 0x120000, 1, 0, 0⟩] ∧
      Starts oneThread (memShape (storeReg (regsFor w) 220) 220 162 232 (regsFor w) true) ∧
      globalChecks (startCtx oneThread (memShape (storeReg (regsFor w) 220) 220 162 232 (regsFor w) true)) oneThread.begins w .write
        (isScal 220) 162 232 = .ok [⟨0, 0x1000, 0x120000, 1, 0, 0⟩]) ∧
    (let s := regs [(2, 0x1001)]
     Starts s (memShape (dataReg (regsFor 4) 28) 28 162 232 (regsFor 4) false) ∧
     globalChecks (startCtx s (memShape (dataReg (regsFor 4) 28) 28 162 232 (regsFor 4) false)) s.begins 4 .read (isScal 28) 162 232 =
       .fault ⟨cALIGN, 0x1001, 0, 0⟩ ∧
     Starts s (memShape (storeReg (regsFor 4) 28) 28 162 232 (regsFor 4) true) ∧
     globalChecks (startCtx s (memShape (storeReg (regsFor 4) 28) 28 162 232 (regsFor 4) true)) s.begins 4 .write (isScal 28) 162 232 =
       .fault ⟨cALIGN, 0x1001, 0, 0⟩) := by decide +kernel

/-- The herd has a scratchpad of 64 KiB on the core, with every page filled. -/
def scratched (s : State) : State := s.updCore 0 (fun c => { c with scratch := [(0, { size := 65536, member := 0, image := [], pages := (List.range 16).map (fun k => (k, 1)), soft := [] })] })

theorem meets_ScratchpadPrefetchAndFencesComplete :
    (let s := scratched oneThread
     ∀ w ∈ [0, 1, 2, 3, 4],
      Starts s (scrShape (BitVec.ofNat 3 w) (dataReg (regsFor (2 ^ w)) 28) 28 232 (regsFor (2 ^ w)) false) ∧
      scrChecks (startCtx s (scrShape (BitVec.ofNat 3 w) (dataReg (regsFor (2 ^ w)) 28) 28 232 (regsFor (2 ^ w)) false)) s.begins (2 ^ w)
        (isScal 28) 232 = .ok [⟨0, 0, 0, 0, 0, 0⟩] ∧
      Starts s (scrShape (BitVec.ofNat 3 w) (storeReg (regsFor (2 ^ w)) 220) 220 160 (regsFor (2 ^ w)) true) ∧
      scrChecks (startCtx s (scrShape (BitVec.ofNat 3 w) (storeReg (regsFor (2 ^ w)) 220) 220 160 (regsFor (2 ^ w)) true)) s.begins (2 ^ w)
        (isScal 220) 160 = .ok [⟨0, 0, 0, 0, 0, 0⟩]) ∧
    Starts oneThread (mkShape .memory (addrPair 2 && isSrc 232) [2, 3, 232] [2, 3, 232] false) ∧ Starts oneThread plainUni := by
  decide +kernel

theorem meets_AtomicsComplete :
    (let sh := memShape (dataReg 1 31 && true) 31 2 5 1 true
     let x := startCtx oneThread sh
     Starts oneThread sh ∧ checkThreads (fun va => check oneThread.begins 0 (instRoot oneThread.begins 0) va 4 .both) (pairValue x false 2)
       (accThreads x false) = .ok [⟨0, 0x1000, 0x120000, 1, 0, 0⟩]) ∧
    (let sh := memShape (dataReg 1 223 && true) 223 162 160 1 false
     let x := startCtx oneThread sh
     Starts oneThread sh ∧ checkThreads (fun va => check oneThread.begins 0 (instRoot oneThread.begins 0) va 4 .both) (pairValue x true 162)
       (accThreads x true) = .ok [⟨0, 0x1000, 0x120000, 1, 0, 0⟩]) ∧
    (let sh := mkShape .memory (true && addrPair 2 && isSrc 5) [2, 3, 5] [2, 3, 5] false
     let x := startCtx oneThread sh
     Starts oneThread sh ∧ checkThreads (fun va => check oneThread.begins 0 (instRoot oneThread.begins 0) va 4 .write) (pairValue x false 2)
       (bitsOf x.act) = .ok [⟨0, 0x1000, 0x120000, 1, 0, 0⟩]) ∧
    (decide (mType 0x01000000 = 0) || decide (mType 0x01000000 = 1)) = true := by decide +kernel

/-- Registers of a copy of 64 bytes to physical scratchpad offset 0 under tag 63, from and to the mapped page. -/
def copying : State := scratched (regs [(0, 0x1000), (2, 0x1100), (4, 64), (5, 63)])

/-- The core's tag 5 is set. -/
def tagged (m : BitVec 64) : State := (regs [(0, 0x20)]).updCore 0 (fun c => { c with tags := m })

theorem meets_CopiesAndTagsComplete :
    (let sh := onceShape (isScal 160 && alignedTo 4 160 && (isScal 164 && alignedTo 4 164)) (runOf 160 4 ++ runOf 164 4)
       (runOf 160 4 ++ runOf 164 4)
     Starts copying sh ∧ taking copying sh ≠ 0 ∧ copyCheck (copyCmd (startCtx copying sh) 160 164 false) 65536 = none ∧
     copyCheck (copyCmd (startCtx copying sh) 160 164 true) 65536 = none ∧
     ((copying.begins.core 0).scratchOf 0).size = 65536 ∧ freeCopy (copying.begins.core 0) = some 0) ∧
    (let sh := onceShape (isScalPair 160) [160, 161] [160, 161]
     let shf := onceShape (isScal 223 && isScalPair 160) [223, 160, 161] [160, 161]
     Starts base sh ∧ taking base sh ≠ 0 ∧ base.cur.s64 160 = 0 ∧ Starts (tagged 0) sh ∧ Starts (tagged 0) shf ∧
     taking (tagged 0) shf ≠ 0 ∧ Starts (tagged 0x30) sh ∧ taking (tagged 0x30) sh ≠ 0 ∧
     (tagged 0).cur.s64 160 ≠ 0 ∧ ((tagged 0).core 0).tags &&& (tagged 0).cur.s64 160 = 0 ∧
     ((tagged 0x30).core 0).tags &&& (tagged 0x30).cur.s64 160 = (tagged 0x30).cur.s64 160) ∧
    (let s := (grp (fun g => { g with wait := .tags 0x30 false })).updCore 0 (fun c => { c with tags := 0x10 })
     (s.group 0 0).wait = .tags 0x30 false ∧ tagsMeet (s.core 0).tags 0x30 false = true) := by decide +kernel
/-! ### Barriers, waits, queues and units -/

theorem meets_BarriersComplete :
    (∀ r ∈ [[164, 165], [164]], Starts addressed (onceShape (addrPair 162 && true) (162 :: (162 + 1) :: r) (162 :: (162 + 1) :: r)) ∧
      taking addressed (onceShape (addrPair 162 && true) (162 :: (162 + 1) :: r) (162 :: (162 + 1) :: r)) ≠ 0) ∧
    barCheck addressed.begins 0 0 0x1100 .write = .ok 0x120100 1 0 0 ∧ barCheck addressed.begins 0 0 0x1100 .read = .ok 0x120100 1 0 0 ∧
    barCheck (scratched addressed).begins 0 0 0xFFFFFF0000000000 .write = .ok 0 0 0 0 ∧
    (let sh := onceShape (isScal 223 && addrPair 162 && isUni 222) [223, 162, 163, 222] [162, 163, 222]
     Starts addressed sh ∧ taking addressed sh ≠ 0 ∧ barSoft addressed.begins false 0x120100 = false ∧
     phaseEnd addressed.begins 0 0 0x120100 false 0 = none ∧
     phaseEnd addressed.begins 0 0 0x120100 false 0xFFFF = some 0) ∧
    (let s := grp (fun g => { g with wait := .waitph 0x120100 false 0xFFFF 223 })
     (s.group 0 0).wait = .waitph 0x120100 false 0xFFFF 223 ∧ phaseEnd s 0 0 0x120100 false 0xFFFF = some 0 ∧
     barSoft s false 0x120100 = false) := by decide +kernel

/-- A barrier whose line has been written has a soft error exactly where the free value says so. -/
theorem meets_barrier_soft : barSoft { base with written := [(0x1201, BitVec.allOnes 256)] } false 0x120100 =
    Config.softError base.tick 0x1201 := by
  have h : linePieces 17 0x120100 16 = [(0x120100, 16)] := by decide +kernel
  have w : (zget { base with written := [(0x1201, BitVec.allOnes 256)] }.written (lineOf 0x120100) &&& byteMask 0x120100 16 != 0) = true := by
    decide +kernel
  simp only [barSoft, softAt, h, w, List.any_cons, List.any_nil, Bool.not_false, Bool.true_and, Bool.or_false]
  rfl

theorem meets_PhaseWaitsEndByDistance :
    (let s := grp (fun g => { g with wait := .waitph 0x120100 false 0xFFFF 223 })
     (s.group 0 0).wait = .waitph 0x120100 false 0xFFFF 223 ∧ (s.group 0 0).accs = [] ∧ heldByOther s 0 0 (lineOf 0x120100) = false ∧
     barSoft s false 0x120100 = false ∧
     (((barRead s 0 0 false 0x120100).extractLsb' 14 16).toNat + 65536 - (0xFFFF#16).toNat) % 65536 = 1) ∧
    (let d := fun p : BitVec 16 => (((barRead base 0 0 false 0x120100).extractLsb' 14 16).toNat + 65536 - p.toNat) % 65536
     d 0x8001 = 32767 ∧ d 0 = 0 ∧ d 0x8000 = 32768) := by decide +kernel

theorem meets_CounterAndMonitorWaitsComplete :
    (let shc := { onceShape (decide ((4#3).toNat ≤ 4)) [] [] with full := true }
     let s := grp (fun g => { g with qx := [⟨0, 1⟩, ⟨1, 1⟩] })
     Starts s shc ∧ s.cur.count 4 ≤ (2#16).toNat ∧ (1#16).toNat < s.cur.count 4) ∧
    (let s := grp (fun g => { g with wait := .cnt 4 0 })
     (s.group 0 0).wait = .cnt 4 0 ∧ (s.group 0 0).count 4 ≤ 0) ∧
    (let shm := onceShape (isScalPair 162) [162, 163] [162, 163]
     Starts addressed shm ∧ taking addressed shm ≠ 0 ∧
     check addressed.begins 0 (instRoot addressed.begins 0) (addressed.cur.s64 162) 1 .read = .ok 0x120100 1 0 0) ∧
    (let shw := onceShape (isUni 223) [223] [223]
     let s := grp (fun g => { g with mon := some 0x1200, monHit := true })
     Starts base shw ∧ taking base shw ≠ 0 ∧ base.cur.mon = none ∧ Starts s shw ∧ taking s shw ≠ 0 ∧ s.cur.mon ≠ none ∧
     s.cur.monHit = true ∧ (let u := grp (fun g => { g with mon := some 0x1200 })
       Starts u shw ∧ taking u shw ≠ 0 ∧ u.cur.mon ≠ none ∧ u.cur.monHit = false)) ∧
    (let s := grp (fun g => { g with wait := .mwait, mon := some 0x1200 })
     (s.group 0 0).wait = .mwait ∧ (s.group 0 0).monHit = false ∧ (s.group 0 0).mrem = 0) := by
  refine ⟨?_, ?_, ?_, ?_, ?_⟩ <;> decide +kernel

theorem meets_QueueInstructionsComplete :
    (∀ d ∈ [31, 223], Starts base (queueShape (storeReg 1 d) d 231 true (isScal d)) ∧
      taking base (queueShape (storeReg 1 d) d 231 true (isScal d)) ≠ 0 ∧ Starts base (queueShape (dataReg 1 d) d 231 false (isScal d)) ∧
      taking base (queueShape (dataReg 1 d) d 231 false (isScal d)) ≠ 0) ∧
    sideHeld base.begins 0 0 = true ∧ popReady (begun base) = true := by decide +kernel

/-- The machine behind the gate of an instruction that is not gated. -/
def taken (s : State) : State := s.begins

theorem meets_MatrixInstructionsComplete :
    (∀ sh ∈ [unitShape (isVec 0 && alignedTo (aRegs (fmtA base.cur.fmt)) 0) (runOf 0 (aRegs (fmtA base.cur.fmt)))
        (runOf 0 (aRegs (fmtA base.cur.fmt))) (aTabs base ++ bTabs base 3) false,
      unitShape (isVec 0 && alignedTo (aRegs (fmtA base.cur.fmt)) 0 && isVecPair 30 && decide ((2#3).toNat < 3))
        (runOf 0 (aRegs (fmtA base.cur.fmt)) ++ [30, 30 + 1]) (runOf 0 (aRegs (fmtA base.cur.fmt)) ++ [30, 30 + 1])
        (aTabs base ++ bTabs base 3) false,
      unitShape true [] [] (bTabs base 3) false, unitShape (decide (fmtA base.cur.fmt < 4)) [] [] [] false,
      unitShape true [] [] [] false,
      unitShape (isScal 223 && decide (fmtB base.cur.fmt ≠ 2) && decide (fmtB base.cur.fmt ≠ 3)) [223] [223] [] true,
      unitShape (isScal 223 && (isScal 222 || isZero 222)) [223, 222] [223, 222] [] true],
      Starts base sh ∧ taking base sh ≠ 0) ∧
    (let s := grp (fun g => { g with xheld := 0xFF })
     let sh := unitShape (decide ((96#8).toNat % 32 = 0) && decide ((96#8).toNat ≤ 96)) (runOf 96 64) [] [] false
     Starts s sh ∧ taking s sh ≠ 0) ∧
    (let s := scratched base
     (scrRange s.begins 0 0 0 (32 * 1 * rowBytes (fmtB s.cur.fmt)) 64).passes = true ∧ (scrRange s.begins 0 0 0 16384 256).passes = true ∧
     (scrRange s.begins 0 0 65520 16 16).passes = true) := by decide +kernel

theorem meets_unitTakes : unitTakes base false (taken base) ∧ unitTakes base true (taken base) ∧
    unitTakes (scratched base) false (taken (scratched base)) :=
  ⟨⟨by decide +kernel, by decide +kernel, by decide +kernel, rfl⟩, ⟨by decide +kernel, by decide +kernel, by decide +kernel, rfl⟩,
    ⟨by decide +kernel, by decide +kernel, by decide +kernel, rfl⟩⟩

theorem meets_OrthogonalInstructionsComplete :
    (∀ sh ∈ [unitShape (decide ((1#1) = 1) || (decide ((1#1) = 0) && decide ((3#2) = 0))) [] [] [] true,
      unitShape (decide ((0#1) = 1) || (decide ((0#1) = 0) && decide ((0#2) = 0))) [] [] [] true,
      unitShape true [] [] [] true, unitShape (isVec 31 && (isScal 223 || isZero 223)) [31, 223] [31, 223] [] true,
      unitShape (isScal 223) [223] [] [] true], Starts base sh ∧ taking base sh ≠ 0) ∧
    qBusy base.begins 0 = false ∧ qBusy base.begins 1 = false ∧
    (decide (qhK (zget (curPart (base.claimed (taken base))).qhdr 0) = 32) &&
      !(qhAuto (zget (curPart (base.claimed (taken base))).qhdr 0))) = false ∧
    (let s := base.updCore 0 (fun c => c.setPart 0 { Partition.reset with owner := some 0, qhdr := [(1, 32)] })
     qBusy s.begins 1 = false ∧ qhK (zget (curPart (s.claimed (taken s))).qhdr 1) = 32 ∧
       qhAuto (zget (curPart (s.claimed (taken s))).qhdr 1) = false) := by decide +kernel

/-- An instruction in a unit, and a partition that the herd holds with it. -/
def unitOp (i : Instr) : UnitOp :=
  { instr := i, slot := 0, inst := 0, op := 0, after := 0, order := 0, mode := 0, fmt := 0, act := 5, vecs := [], scal := 0, scal2 := 0
    tabA := [], tabB := [], pc := 0x1004, step := false, lost := 0 }
def busyUnits (o : Option Nat) : State := base.updCore 0 (fun c => c.setPart 3 { Partition.reset with
  owner := o, munit := [unitOp (.mzero 3)], qunit := [unitOp (.qcompact 1)], tiles := [(12288, 7), (12352, 9)] })

theorem meets_UnitsExecuteInOrder :
    (((busyUnits (some 0)).core 0).part 3).munit = [unitOp (.mzero 3)] ∧ (((busyUnits (some 0)).core 0).part 3).qunit = [unitOp (.qcompact 1)] ∧
    (((busyUnits (some 0)).core 0).part 3).owner = some 0 ∧ (((busyUnits none).core 0).part 3).mstore = none ∧
    matrixReady (busyUnits (some 0)) 0 (((busyUnits (some 0)).core 0).part 3) (unitOp (.mzero 3)) = true ∧
    orthReady (((busyUnits (some 0)).core 0).part 3) (unitOp (.qcompact 1)) = true ∧
    (((busyUnits none).core 0).part 3).owner ≠ some 0 := by decide +kernel

theorem meets_MzeroClearsActiveRows : (unitOp (.mzero 3)).instr = .mzero 3 ∧ zwf (((busyUnits none).core 0).part 3).tiles = true := by
  decide +kernel

/-- A store to the mapped page in the group's store buffer. -/
def stored (r : BitVec 2) : State := grp (fun g => { g with nextAcc := 1, accs := [{ Access.zero with
  kind := .store, addr := 0x1200FC, size := 4, val := 0x11223344, arena := 1, regn := r, va := 0x10FC }] })

theorem meets_StoresChangeOnlyTheirBytes : ∀ r ∈ [0, 2], ∃ a, accOf ((stored r).group 0 0) 0 = some a ∧ a.kind = .store ∧ a.scr = false ∧
    a.mail = false ∧ (∃ t, exec (.drain 0 0 0) (stored r) = .next t) ∧ a.regn = r ∧ a.sent = false ∧ a.perf = false ∧
    mayPerform ((stored r).group 0 0).accs a = true ∧ heldByOther (stored r) 0 0 (lineOf a.addr) = false ∧
    accStale (stored r) 0 a = false ∧ (freeWay ((stored r).core 0) (lineOf a.addr)).isSome = true ∧ writesThrough (stored r) 0 a = false ∧ Memory.wf (stored r).live = true ∧ a.size = 4 ∧
    inArenaTable (a.addr + 3) = false ∧ (stored r).own = [] := by
  intro r hr
  refine ⟨{ Access.zero with kind := .store, addr := 0x1200FC, size := 4, val := 0x11223344, arena := 1, regn := r, va := 0x10FC }, ?_⟩
  simp only [List.mem_cons, List.not_mem_nil, or_false] at hr
  rcases hr with rfl | rfl <;>
    exact ⟨by decide +kernel, rfl, rfl, rfl, ⟨_, rfl⟩, rfl, rfl, rfl, by decide +kernel, by decide +kernel, by decide +kernel,
      by decide +kernel, by decide +kernel, by decide +kernel, rfl, by decide +kernel, by decide +kernel⟩
/-! ### Arenas, drops and seals -/

/-- Arena 1 is VALID, and arena 2 is free and has not been swept for `n` drops; scalars s0 and s1 hold the operands. -/
def arenas (n : Nat) (x y : Word) : State :=
  { regs [(0, x), (1, y)] with arenas := zset base.arenas 2 (fput 0 111 108 n) }

theorem meets_ArenaInstructionsComplete :
    (let sh := onceShape (isScal 223 && [160, 161].all isUni) [223, 160, 161] [160, 161]
     ∀ n ∈ [7, 8], let s := arenas n 2 1
       Starts s sh ∧ taking s sh ≠ 0 ∧ aBusy (s.arena 2) = false ∧ aBusy (s.arena 1) = false ∧ aValid (s.arena 1) = true ∧
       aDepth (s.arena 1) < 8 ∧ freeArena s 2 = some 2 ∧ aDss (s.arena 2) = n) ∧
    (let sh := onceShape (isScal 223 && [160].all isUni) [223, 160] [160]
     let s := arenas 0 1 0
     Starts s sh ∧ taking s sh ≠ 0 ∧ aValid (s.arena 1) = true ∧ aBusy (s.arena 1) = false ∧ (arenaTree s 1).length ≤ 1 ∧
     (arenaTree s 1).any (fun j => aBusy (s.arena j)) = false ∧ aSealed (s.arena 1) = false ∧ arenaLocked s 1 = false ∧
     releaseReady s.begins.cur = true) ∧
    (let sh := onceShape (isScalPair 222 && isUni 160) [222, 223, 160] [160]
     Starts base sh ∧ taking base sh ≠ 0) ∧
    (let sh := onceShape (isScalPair 160) [160, 161] [160, 161]
     let s := (regs [(1, 0x80000000)]).updCur (fun g => { g with hndl := setBit 0 32 true })
     Starts base sh ∧ taking base sh ≠ 0 ∧ fnat (base.cur.s64 160) 63 62 = 0 ∧ Starts s sh ∧ taking s sh ≠ 0 ∧
     fnat (s.cur.s64 160) 63 62 = 2 ∧ hSact s.cur = true) ∧
    (let sh := onceShape (isScalPair 160) [160, 161] [160, 161]
     ∀ a ∈ [0x103008, 0x103010], let s := (regs [(0, BitVec.ofNat 32 a), (1, 0x40000000)]).updCur (fun g => { g with hndl := setBit 0 32 true })
     Starts s sh ∧ taking s sh ≠ 0 ∧ fnat (s.cur.s64 160) 63 62 = 1 ∧ hSact s.cur = true ∧ releaseReady s.begins.cur = true ∧
       (pteV (readPte s.begins a) && pteLeaf (readPte s.begins a)) = decide (a = 0x103008)) := by
  refine ⟨?_, ?_, ?_, ?_, ?_⟩ <;> decide +kernel

/-- A packet that has reached its stop, and the machine in which it is the only one under way. -/
def landed (p : Packet) : Transit := ⟨0, 0, .landed 0, p⟩
def alone (t : State) (p : Packet) : State := { t with net := [landed p] }

/-- A reply or a control message arrives there, and a request is served there if its slice may serve it. -/
theorem arrives_alone (t : State) (p : Packet) (h : p.cls ≠ 0) : Arrives (alone t p) p { t with net := [] } := by
  have h' : ¬p.cls = 0#2 := h
  simp [Arrives, headArrival, alone, landed, Transit.isLanded, dropTransit, h']

theorem asks_alone (t : State) (p : Packet) (h : p.cls = 0) (r : reqReady (alone t p) p = true) :
    Asks (alone t p) p { t with net := [] } := by
  have e : (alone t p).net = [landed p] := rfl
  unfold Asks asked nextRequest
  rw [e]
  have h' : p.cls = 0#2 := h
  simp only [List.filter_cons, List.filter_nil, landed, Transit.isLanded]
  rw [show (alone t p) = alone t p from rfl, r]
  simp [h', slackChoice, Transit.waited, argmin, dropTransit, alone, landed]

/-- A drop of arena 1 that slice 5 and core 255 have still to apply, and one whose answers end it. -/
def dropped (n : Nat) : Drop := { arena := 1, gen := 3, slices := [0, 5], cores := [0, 255], acks := n, core := 0, slot := 0 }
def dropping (n : Nat) (w : Wait) : State :=
  { grp (fun g => { g with wait := w }) with drops := [dropped n], net := [] }
def dropPkt (cls op : Nat) (dst : BitVec 7) (c : Nat) : Packet := { mkPkt cls op 0 dst 0 c 0 0 with arena := 1, gen := 3 }

theorem meets_DropsAndSealsComplete :
    (∀ p ∈ [dropPkt 2 0x25 13 0, dropPkt 2 0x25 (stopOfCore 255) 255], p.op = 0x25 ∧ p.cls ≠ 0 ∧
      (dropping 2 .none).drops.find? (fun d => decide (d.arena = p.arena.toNat) && decide (d.gen = p.gen)) = some (dropped 2)) ∧
    sliceOfStop 13 = some 5 ∧ sliceOfStop (stopOfCore 255) = none ∧
    (let p := dropPkt 1 0x19 (stopOfCore 0) 0
     p.cls ≠ 0 ∧ p.op = 0x19 ∧ (dropping 2 .none).drops = [dropped 2] ∧ (dropped 2).arena = p.arena.toNat ∧ (dropped 2).gen = p.gen ∧
     ((dropping 1 (.adrop [1] [] false 223)).group 0 0).wait = .adrop [1] [] false 223) ∧
    (let x : Token := ⟨70, 3, 5, [9], 4⟩
     let w : Sweep := { arena := 2, tokens := [⟨1, 3, 5, [], 4⟩, x], units := [], engs := [], core := 0, slot := 0 }
     let s : State := { base with sweeps := [w], loopClock := 7, net := [] }
     s.sweeps = [w] ∧ w.tokens.find? (fun t => decide (t.loop = 7843 / 112) && decide (t.at_ = 7843 % 112) && tokenMoves s t) = some x) ∧
    (let w : Sweep := { arena := 2, tokens := [], units := [], engs := [], core := 0, slot := 0 }
     let s : State := { grp (fun g => { g with wait := .anew 2 223 }) with sweeps := [w] }
     s.sweeps = [w] ∧ w.units = [] ∧ w.engs = [] ∧ (s.group 0 0).wait = .anew 2 223) ∧
    (let z : Seal := { arena := 1, cores := [0, 255], sent := false, core := 0, slot := 0 }
     let s : State := { base with seals := [z] }
     let u := s.updCore 0 (fun c => { c with sealed := [1], l1 := [(0x1201, { L1Line.reset with kind := 2, arena := 1, written := 1 })] })
     s.seals.find? (fun z => decide (z.arena = 1)) = some z ∧ 255 ∈ z.cores ∧ 1 ∉ (s.core 255).sealed ∧
     u.seals.find? (fun z => decide (z.arena = 1)) = some z ∧ 0 ∈ z.cores ∧ 1 ∈ (u.core 0).sealed ∧ storesDrained (u.core 0) 1 = true ∧
     cpRoom u 0 1 = true) ∧
    (∀ b ∈ [false, true], let z : Seal := { arena := 1, cores := [], sent := b, core := 0, slot := 0 }
     let s : State := { base with seals := [z] }
     s.seals.find? (fun z => decide (z.arena = 1)) = some z ∧ homesDrained s 1 = true ∧ noneBusy s 1 = true) := by decide +kernel

/-! ### Locks and the fabric -/

/-- The group holds the line of the mapped page at address 0x1100, or none. -/
def locker (l : List Nat) : State := addressed.updCur (fun g => { g with locks := l })

theorem meets_LockInstructionsComplete :
    (∀ l ∈ [[], [0x1201]], check (locker l).begins 0 (instRoot (locker l).begins 0) ((locker l).cur.s64 162) 4 .both = .ok 0x120100 1 0 0 ∧
      (locker l).cur.lkgr = false ∧
      (∀ sh ∈ [onceShape ((isScal 164 || isZero 164) && (isScal 223 || isPred 223) && isScalPair 162) [223, 162, 163, 164] [162, 163, 164],
        onceShape (true && (isScal 231 || isPred 231) && isScalPair 162) [231, 162, 163] [162, 163],
        onceShape (isScalPair 162) [162, 163] [162, 163],
        onceShape (isScalPair 222 && isScalPair 162) [222, 223, 162, 163] [162, 163]], Starts (locker l) sh ∧ taking (locker l) sh ≠ 0) ∧
      unlockPending (locker l).begins.cur 0x1201 = false ∧ (locker l).cur.locks.length < 4 ∧
      setPinned ((locker l).begins.core 0) 0x1201 = false ∧ (takeWay (locker l).begins 0 0x1201).isSome = true ∧ stoppedHere (locker l) 0x1201 = false ∧
      check (locker l).begins 0 (instRoot (locker l).begins 0) ((locker l).cur.s64 162) 4 .unlock = .ok 0x120100 1 0 0) ∧
    (let s := (locker []).updCur (fun g => { g with hndl := setBit 0 32 true })
     let sh := { onceShape (isScal 223 && isScalPair 162) [223, 162, 163] [162, 163] with superv := true }
     Starts s sh ∧ taking s sh ≠ 0 ∧ releaseReady s.begins.cur = true ∧
     check s.begins 0 (instRoot s.begins 0) (s.cur.s64 162) 4 .unlock = .ok 0x120100 1 0 0) ∧
    (let s := grp (fun g => { g with wait := .lock 0x1201 223 0 false })
     (s.group 0 0).wait = .lock 0x1201 223 0 false) := by decide +kernel

/-- A lock operation on line 0x1201 of core 0's group 0, and the line's entries: held by it, held by another with it in the trail,
and none. -/
def lockOp (code : Nat) : Packet := lockMsg code 0x1201 0 0 0 0
def heldHere : LockEntry := { hvalid := true, hcore := 0, hgrp := 0, hthr := 0, hown := 0, trail := [], nextst := 0, arena := 1, regn := 0 }
def heldThere : LockEntry := { heldHere with
  hcore := 8, hown := 1, trail := [{ absent := false, core := 0, grp := 0, thr := 0, owner := 0 }] }
def locked (l : Tbl LockEntry) (d : DirEntry) : State := { base with net := [], locks := l, dir := put base.dir 0x1201 d }

/-- What these operations ask for, the entries of their line, and the home that may serve them. -/
theorem meets_LockOperationsServed :
    (∀ k ∈ [0, 1, 2, 3, 4, 5, 6, 7, 8], (lockOp k).op = 0x0A ∧ (lockOp k).cls = 0 ∧ lockCode (lockOp k) = k ∧ pktLine (lockOp k) = 0x1201 ∧
      (∀ l ∈ [[], [(0x1201, heldHere)], [(0x1201, heldThere)]], let t := locked l DirEntry.reset
        reqReady (alone t (lockOp k)) (lockOp k) = true ∧ mayServe t (lockOp k) 0x1201 = true ∧ dirRoom t 0x1201 = .room ∧
        lockFull t 0x1201 = false ∧ trailFull t 0x1201 = false) ∧
      (let t := locked [] { DirEntry.reset with state := 3 }
       mayServe t (lockOp k) 0x1201 = false ∧ reqReady (alone t (lockOp k)) (lockOp k) = true)) ∧
    lockFree (locked [] DirEntry.reset) 0x1201 = true ∧ lockFree (locked [(0x1201, heldThere)] DirEntry.reset) 0x1201 = false ∧
    find (locked [(0x1201, heldThere)] DirEntry.reset).locks 0x1201 = some heldThere ∧
    heldThere.trail.any (ownNode (lockOwner (lockOp 7))) = true ∧ heldThere.hvalid = true ∧ heldThere.hown ≠ lockOwner (lockOp 5) ∧
    heldBy (locked [(0x1201, heldHere)] DirEntry.reset) 0x1201 (lockOwner (lockOp 2)) = some heldHere ∧
    heldBy (locked [] DirEntry.reset) 0x1201 (lockOwner (lockOp 2)) = none ∧ heldHere.hown = lockOwner (lockOp 5) ∧
    find (locked [] DirEntry.reset).locks 0x1201 = none ∧ heldHere.hcore = (lockOp 8).core.toNat ∧
    (let p := { mkPkt 1 0x11 0 0 0x120100 0 0 0 with txn := 3072 }
     p.op = 0x11 ∧ p.cls ≠ 0 ∧ 3072 ≤ p.txn.toNat ∧ ((grp (fun g => { g with wait := .lock 0x1201 223 0 false })).group 0 0).wait =
       .lock (pktLine p) 223 0 false) ∧
    (let s := { locked [(0x1201, heldHere)] DirEntry.reset with locks := [(0x1201, { heldHere with trail := heldThere.trail })] }
     (walkLocks { s with cores := (grp (fun g => { g with wait := .lock 0x1201 223 0 false })).cores } 16 0x1201 0 [(0, 0)]).1 = true ∧
     (walkLocks (locked [(0x1201, heldThere)] DirEntry.reset) 16 0x1201 0 [(0, 0)]).1 = false) := by decide +kernel

/-- A request of core 3 for line 0x1201, its directory entry, and the line's home with nothing else under way. -/
def ask (op : Nat) (r : BitVec 2) : Packet := { toHome op 0x1201 3 0 0 with arena := 1, regn := r, txn := 5 }
def atHome (d : DirEntry) : State := { locked [] d with cores := [] }
/-- The same read sent to slice 3 of die 2. -/
def askThere : Packet := { ask 1 0 with dst := stopOfSlice 35 }

theorem meets_HomeRequestsServed :
    (∀ q ∈ [ask 1 0, ask 1 2, ask 2 0, ask 3 0, ask 5 0, ask 6 0, ask 7 1, askThere],
      q.cls = 0 ∧ reqReady (alone (atHome DirEntry.reset) q) q = true) ∧
    (let t := atHome DirEntry.reset
     (ask 1 0).dst = homeStop 0x1201 ∧ mayServe t (ask 1 0) 0x1201 = true ∧ dirRoom t 0x1201 = .room ∧ sealedPkt t (ask 1 0) = false ∧
     otherOwner (fillL2 (serviced t 0x1201) 0x1201 1 (t.sgen (homeOfLine 0x1201) 1)) 0x1201 3 = none ∧
     staleAt t 0x1201 1 0 = false ∧ ownFull t 0x1201 = false ∧
     otherOwners (fillL2 (serviced t 0x1201) 0x1201 1 (t.sgen (homeOfLine 0x1201) 1)) 0x1201 3 5 = []) ∧
    sealedPkt { atHome DirEntry.reset with arenas := [(1, setBit 0 106 true)] } (ask 1 0) = true ∧
    (let r : Replica := { bytes := [], arena := 1, gen := 0, used := 0 }
     askThere.dst ≠ homeStop 0x1201 ∧ sliceOfStop askThere.dst = some 35 ∧
     find { atHome DirEntry.reset with replicas := [(replicaKey 35 0x1201, r)] }.replicas (replicaKey 35 0x1201) = some r ∧
     find (atHome DirEntry.reset).replicas (replicaKey 35 0x1201) = none ∧ (atHome DirEntry.reset).fetches = []) ∧
    (let d := (fillL2 (serviced (atHome { DirEntry.reset with state := 1, ptrs := [3] }) 0x1201) 0x1201 1 0).dirAt 0x1201
     d.state = 1 ∧ d.cvec = false ∧ 3 ∈ d.ptrs) ∧
    staleAt { atHome DirEntry.reset with sliceGen := [(homeOfLine 0x1201 * 4096 + 1, 1)] } 0x1201 1 0 = true ∧
    (let b := atHome { DirEntry.reset with state := 3 }
     ∀ k ∈ [1, 2, 3], mayServe b (ask k 0) 0x1201 = false ∧ reqReady (alone b (ask k 0)) (ask k 0) = true) := by
  refine ⟨?_, ?_, ?_, ?_, ?_, ?_, ?_⟩ <;> decide +kernel

/-- Core 3 awaits the reply of transaction 5, whose entry a message may have marked, and has reserved a line for it. -/
def request (op : Nat) (r : BitVec 2) (invd : Bool) : Request :=
  { pkt := ask op r, acc := 0, secs := 15, pref := false, refused := false, due := 0, invd := invd }
def asking (op : Nat) (r : BitVec 2) (invd : Bool) : State :=
  (atHome DirEntry.reset).updCore 3 (fun c => { c with reqs := [request op r invd], l1 := [(0x1201, L1Line.reset)] })
def answer (cls op : Nat) : Packet :=
  { mkPkt cls op (homeStop 0x1201) (stopOfCore 3) 0x120100 3 0 0 with arena := 1, txn := 5, smask := 15 }
def pageFlush : Flush :=
  { page := 0x120000, size := 4096, arena := 1, gen := 0, regn := 1, homes := [], cores := [(homeOfLine 0x1201, 3)], core := 0, slot := 0 }
def flushing : State := { base with flushes := [pageFlush] }

theorem meets_FabricRepliesComplete :
    (∀ op ∈ [1, 2, 3], ∀ r ∈ [(0 : BitVec 2), 2], ∀ b ∈ [false, true], let t := asking op r b
      t.engReqs.any (engOf (answer 1 0x10)) = false ∧ replyTo? t (answer 1 0x10) = some (request op r b) ∧ sliceOfStop (answer 1 0x10).dst = none ∧
        mayKeep (serveAsks (endReq t 3 5) 3 0x1201 15 false) 3 (request op r b) = !b ∧
        mayKeep (serveAsks (endReq t 3 5) 3 0x1201 15 true) 3 (request op r b) = !b ∧
        mayKeep (endReq t 3 5) 3 (request op r b) = !b ∧ bit (answer 1 0x10).hint 0 = false ∧
        (((serveAsks (endReq t 3 5) 3 0x1201 15 true).core 3).groups.any (fun k => k.2.locks.contains 0x1201)) = false) ∧
    (let l : L1Line := { L1Line.reset with st := 2 }
     let t := (atHome DirEntry.reset).updCore 3 (fun c => { c with l1 := [(0x1201, l)] })
     ((t.core 3).line 0x1201).st = 2 ∧ find (t.core 3).l1 0x1201 = some l) ∧
    (let r : Request := { request 1 0 false with refused := true }
     ((asking 1 0 false).updCore 3 (fun c => { c with reqs := [r] }) |>.core 3).reqs = [r] ∧ r.due ≤ (asking 1 0 false).loopClock) ∧
    (∀ n ∈ [4095, 4096], let s := { base with resv := [(0x1201, (3, 5, 0))], loopClock := n }
     find s.resv 0x1201 = some (3, 5, 0) ∧ decide (0 + 4096 ≤ s.loopClock) = decide (n = 4096)) ∧
    (anyArrival (alone base (answer 1 0x30)) (answer 1 0x30)).isSome = true ∧ opClass 0x30 ≠ some 1 ∧ 8 < lockCode (lockOp 9) ∧
    (flushOf flushing 0 0 = some pageFlush ∧ flushing.wq.any (fun e => inPage 0x120000 4096 1 (lineOf e.addr)) = false ∧
     (pageFlush.cores.filter (fun e => !(decide (e = (homeOfLine 0x1201, 3))))).any (fun e => decide (e.1 = homeOfLine 0x1201)) = false) := by
  refine ⟨?_, ?_, ?_, ?_, ?_, ?_, ?_, ?_⟩ <;> decide +kernel

/-- A page flush is asked of a home whose write queue is empty, and its messages to a core and back arrive. -/
theorem meets_PageFlushCompletes :
    (let q : Packet := { mkPkt 0 0x0B (stopOfCore 0) (homeStop 0x1201) 0x120100 0 0 0 with arena := 1, regn := 1 }
     q.op = 0x0B ∧ q.cls = 0 ∧ reqReady (alone flushing q) q = true ∧ flushOf flushing q.core.toNat q.grp.toNat = some pageFlush) ∧
    (let q := pflPkt pageFlush 0x1201 3
     q.op = 0x24 ∧ q.cls ≠ 0 ∧ pflRoom flushing q = true ∧ flushFor flushing q = some pageFlush) ∧
    (let q := answerTo (pflPkt pageFlush 0x1201 3) 0x18
     q.op = 0x18 ∧ q.cls ≠ 0 ∧ flushFor flushing q = some pageFlush) := by
  refine ⟨?_, ?_, ?_⟩ <;> decide +kernel

/-- The group has one access: of kind `k` at the mapped page's line, or in the scratchpad. -/
def accessing (k : AccKind) (scr : Bool) : State := scratched (grp (fun g => { g with nextAcc := 1, accs := [{ Access.zero with
  kind := k, scr := scr, addr := if scr then 0x100 else 0x120100, size := 4, val := 7, arena := if scr then 0 else 1 }] }))

theorem meets_AccessesPerform :
    (∀ k ∈ [AccKind.load, AccKind.store, AccKind.atomic .add], ∀ b ∈ [false, true], ∃ a, accOf ((accessing k b).group 0 0) 0 = some a ∧
      a.perf = false ∧ a.sent = false ∧ mayPerform ((accessing k b).group 0 0).accs a = true ∧ ((accessing k b).group 0 0).halt = none ∧ a.kind = k ∧ a.scr = b ∧ a.mail = false ∧
      (b = true ∨ heldByOther (accessing k b) 0 0 (lineOf a.addr) = false) ∧ accStale (accessing k b) 0 a = false ∧
      writesThrough (accessing k b) 0 a = false ∧ (storeReady (accessing k b) 0 a).isSome = true ∧ reqRoom (accessing k b) 0 1 = true) ∧
    (let s := { accessing .load false with written := [(0x1201, BitVec.allOnes 256)] }
     ∃ a, accOf (s.group 0 0) 0 = some a ∧ a.perf = false ∧ a.sent = false ∧ mayPerform (s.group 0 0).accs a = true ∧ a.kind = .load ∧
      heldByOther s 0 0 (lineOf a.addr) = false ∧ (s.group 0 0).halt = none ∧ (s.group 0 0).ended = false ∧ a.scr = false ∧
      writtenAt s a.addr a.size = true) ∧
    heldByOther (atHome DirEntry.reset) 3 0 0x1201 = false ∧ mayServe (atHome DirEntry.reset) (ask 8 0) 0x1201 = true ∧
    (∀ k ∈ [4, 8, 9], (ask k 0).cls = 0 ∧ reqReady (alone (atHome DirEntry.reset) (ask k 0)) (ask k 0) = true) ∧
    (let s := (accessing .store false).updCore 0 (fun c => { c with reqs := [{ request 4 0 false with acc := 0 }] })
     let q := { ask 4 0 with core := 0 }
     engPkt q = false ∧ accOfPkt s q = some 0 ∧ (accOf (s.group 0 0) 0).isSome = true) ∧
    engPkt { ask 4 0 with txn := 3712 } = true ∧ portOfStop? (stopOfPort 3) = some 3 ∧ portOfStop? (stopOfCore 0) = none ∧
    (∃ a, accOf ((accessing .store false).group 0 0) 0 = some a ∧ storeReady (accessing .store false) 0 { a with regn := 1 } = none) ∧
    (accOf ((serviced (accessing .store false) 0x1201).group 0 0) 0).isSome = true ∧
    (let e := pktEntry base (.atomic .add) { ask 8 0 with pa := 0x120100 }
     [e].find? (fun f => decide (lineOf f.addr = 0x1201)) = some e ∧ wqHeld { base with wq := [e] } e = false ∧ wqSoft { base with wq := [e] } e = none) ∧
    find { base with own := [(0x48040, 3)] }.own 0x48040 = some 3 ∧
    (dropPending base 1 1 = false ∧ find (writeBack { base with l2 := [] } 0x1201).l2 0x1201 = none) ∧
    (let l : L1Line := { L1Line.reset with kind := 1, held := 15 }
     let s := base.updCore 3 (fun c => { c with l1 := [(0x1201, l)] })
     find (s.core 3).l1 (0x48040 / 64) = some l ∧ l.kind = 1 ∧ bit l.owned (0x48040 % 64) = false) := by
  refine ⟨?_, ?_, ?_, ?_, ?_, ?_, ?_, ?_, ?_, ?_, ?_⟩ <;> decide +kernel

/-- A copy of 64 bytes from the mapped page to the scratchpad under tag 63, of which `rd` bytes are read and `left` are not landed. -/
def moving (dir : Nat) (rd left : Nat) : Copy :=
  { rec_ := fput (copyRec { src := 0x1000, dst := if dir = 2 then 0x1100 else 0, len := 64, tag := 63, mail := false, gated := false
                            gate := 0, dir := dir, bar := 0 } 0) 127 96 left
    inst := 0, op := 0, after := 0, rd := rd, buf := List.replicate (rd - (64 - left)) 9, started := true, order := 0, side := none
    stopped := none }
def moves (y : Copy) : State := (scratched base).updCore 0 (fun c => { c with copies := [(2, y)], tagCnt := [(63, 1)] })

/-- A submission of one frame of 4 by 2 samples to offset 0 of core 0's scratchpad, and its decoder. -/
def frame (l : List Byte) (p : Nat) : Submission :=
  { bar := 0x1000, dst := 0, dcore := 0, x := 0, y := 0, w := 4, h := 2, n := 1, f0 := 0, seen := 0, done := 0, blen := 16, bs := 0, inst := 0
    core := 0, deep := some false, failed := false, stream := [1], fault := false, landed := l, pos := p }
def decoding (x : Submission) : State := { scratched base with decoders := [(1, [x])] }

theorem meets_EnginesStep :
    (let y := moving 1 0 64
     let s := moves y
     find (s.core 0).copies 2 = some y ∧ copyRuns s y = true ∧ copyOrdered s 0 y = true ∧ y.rd < copyLen y ∧
     srcScr (copyDir y) = false ∧ check s 0 (instRoot s y.inst) (copyVa (copySrc y + y.rd)) 4 .read = .ok 0x120000 1 0 0 ∧
     heldLine s 0x1200 = false ∧ landsFirst s 0 y 0x1200 = false) ∧
    (let y := moving 1 64 64
     let s := moves y
     copyRuns s y = true ∧ copyRem y ≠ 0 ∧ 64 ≤ y.buf.length ∧ dstScr (copyDir y) = true ∧ scrPages s 0 y.inst 0 64 = .ok 0 0 0 0) ∧
    (let y := moving 2 64 64
     let s := moves y
     copyRuns s y = true ∧ copyRem y ≠ 0 ∧ 64 ≤ y.buf.length ∧ dstScr (copyDir y) = false ∧
     check s 0 (instRoot s y.inst) (copyVa 0x1100) 4 .write = .ok 0x120100 1 0 0 ∧ heldLine s 0x1201 = false) ∧
    (let y := moving 1 64 0
     let s := moves y
     copyRuns s y = true ∧ copyRem y = 0 ∧ engBusy s (.copy 0 2) = false ∧ copyBar y = 0 ∧ copyMail y = false ∧ issuerLives s 0 y = true ∧ 8 ≤ copyTag y) ∧
    (let m : MStore := { off := 0, rows := [(0, [])], total := 0, bar := none, inst := 0, slot := 0, op := 0 }
     let s := base.updCore 0 (fun c => c.setPart 1 { Partition.reset with mstore := some m, munit := [unitOp (.mstore 0 0 0)] })
     ((s.core 0).part 1).mstore = some m ∧ ((s.core 0).part 1).munit.head? = some (unitOp (.mstore 0 0 0))) ∧
    (∀ b ∈ [0x1000, 0x9000], let x : Submission := { frame [] 0 with bs := BitVec.ofNat 64 b, stream := [] }
     let s := decoding x
     (decQueue s 1).head? = some x ∧ instRuns s x.inst = true ∧ x.fault = false ∧ Nat.min (256 - x.bs.toNat % 256) 16 ≠ 0 ∧
     checkNow s 0 (instRoot s x.inst) x.bs 1 .read = (if b = 0x1000 then .ok 0x120000 1 0 0 else .fault cNOMAP 0) ∧
     heldLine s 0x1200 = false ∧ softAt s 0x120000 16 = false) ∧
    (let x := frame [] 0
     let s := decoding x
     (decQueue s 1).head? = some x ∧ frameRead x = true ∧ x.f0 ≤ x.seen ∧ frameRead { x with f0 := 1 } = true ∧ x.fault = false ∧ instRuns s x.inst = true ∧ frameBytes x false = 12 ∧ x.deep ≠ some true ∧
     windowFits s x false = true ∧
     (match decodeCredit s x 12 true with | .ok _ => true | _ => false) = true) ∧
    (let x := frame (List.replicate 12 1) 0
     (decQueue (decoding x) 1).head? = some x ∧ x.pos < x.landed.length ∧ scrPages (decoding x) 0 0 0 12 = .ok 0 0 0 0) ∧
    (let x := frame (List.replicate 12 1) 12
     (decQueue (decoding x) 1).head? = some x ∧ x.landed ≠ [] ∧ x.landed.length ≤ x.pos ∧
     (match decodeCredit (decoding x) x 12 false with | .ok _ => true | _ => false) = true) := by decide +kernel

/-- A group at slot 1 of core 0 is halted; the executing group names it in s0, an item in s1 and a datum in s2. -/
def haltNote : Halt :=
  { scope := 1, wp := 2, thr := 3, stepErr := false, cause := 0, stepWait := false, stepThr := none, undo := none, loadPc := 0, flags := 0 }
def halted (item : Word) : State :=
  (regs [(0, 256), (1, item), (2, 0x80000000), (63, 0xFFFFFFFF)]).setGroup 0 1 { base.cur with herdIdx := 1, halt := some haltNote }

theorem meets_WatchInstructionsComplete :
    Starts base (uniShape (isScalPair 160 && isScalPair 162) [160, 161, 162, 163] [160, 161, 162, 163]) := by decide +kernel

theorem meets_watch_in_supervisor_state (sh : Shape) (h : sh = plainUni ∨ sh = uniShape (isScal 160 && alignedTo 4 160) (runOf 160 4) []) :
    let s := grp (fun g => { g with hndl := setBit 0 32 true })
    blocked s.cur sh (ctlStall s.focus.ctl (pcSlot s.cur.pc)) = false ∧ s.cur.hazards = [] ∧
      startCause s 0 s.cur sh false = none ∧ hSact s.cur = true ∧ s.cur.split = 0 ∧ s.cur.halt = none ∧ s.focus.step = false := by
  rcases h with rfl | rfl <;> decide +kernel

/-- The operand b names the halted group, whose thread 0 is active. -/
def atHalted (s : State) (sh : Shape) (b : BitVec 8) : Bool :=
  let k := s.begins.group 0 1
  decide (haltTarget s.begins s.cur.inst ((startCtx s sh).uni b) = some (0, 1)) && k.resident && decide (k.inst = s.cur.inst) &&
    decide (k.halt = some haltNote) && decide (k.split = 0) && bit k.amask 0

theorem meets_halted_groups (item : Word) (h : item = 0 ∨ item = 0x01FF7C00) :
    (let sh := haltShape (isScal 222 && isUni 160 && isUni 161) [222, 160, 161] [160, 161]
     Starts (halted item) sh ∧ atHalted (halted item) sh 160 = true) ∧
    (let sh := haltShape (isUni 162 && isUni 223 && isUni 161) [162, 223, 161] [162, 223, 161]
     Starts (halted item) sh ∧ atHalted (halted item) sh 223 = true) ∧
    (let sh := haltShape (isUni 160 && isUni 161) [160, 161] [160, 161]
     Starts (halted item) sh ∧ atHalted (halted item) sh 160 = true) ∧
    (let sh := haltShape (isUni 160) [160] [160]
     Starts (halted item) sh ∧ atHalted (halted item) sh 160 = true ∧ (startCtx (halted item) sh).uni 160 ≠ 0xFFFFFFFF) := by
  rcases h with rfl | rfl <;> decide +kernel

/-- A task control block of the region at virtual address 0x1100, and one of a range task as the executing task. -/
def tasked : State :=
  let s := regs [(2, 0x1100), (4, 0x1100), (6, 0x1180)]
  { s with live := setBytes s.live 0x120100 (toBytes (fput (fput 0 575 546 (placeRcb / 256)) 447 437 1 : BitVec 1024) 128) }
def ranged (n : Nat) : State :=
  { base with insts := base.insts.map (fun e => (e.1, { e.2 with image := fput e.2.image 831 800 n })) }

theorem meets_TaskInstructionsComplete :
    (let sh := onceShape (isScal 223 && isScalPair 162) [223, 162, 163] [162, 163]
     Starts tasked sh ∧ taking tasked sh ≠ 0 ∧ check tasked.begins 0 (instRoot tasked.begins 0) 0x1100 128 .both = .ok 0x120100 1 0 0 ∧
     blockHeld tasked.begins (startCtx tasked sh) 0x120100 128 = false ∧ softAt tasked.begins 0x120100 128 = false ∧ instRegion tasked.begins 0 = placeRcb / 256 ∧
     (admitTask tasked.begins (0x120100 / 128) (readTcb tasked.begins (0x120100 / 128)) (some (placeRcb / 256))).isSome = true) ∧
    (∀ n ∈ [0, 4], let sh := uniShape (isScal 223) [223] []
     Starts (ranged n) sh ∧ taking (ranged n) sh ≠ 0 ∧ tGrain (instTcb (ranged n).begins 0) = n) ∧
    (let sh := onceShape (isScal 223 && isScalPair 162 && isScalPair 166) [223, 162, 163, 166, 167] [162, 163, 166, 167]
     Starts tasked sh ∧ taking tasked sh ≠ 0 ∧ check tasked.begins 0 (instRoot tasked.begins 0) 0x1180 128 .both = .ok 0x120180 1 0 0 ∧
     blockHeld tasked.begins (startCtx tasked sh) 0x120180 128 = false ∧ softAt tasked.begins 0x120180 128 = false) ∧
    (∀ v ∈ [0, 0x1180], let s := regs [(0, 0x1100), (4, BitVec.ofNat 32 v), (6, 0x1100)]
     let sh := onceShape (isScal 223 && isScalPair 160 && isScal 164 && alignedTo 4 164) (223 :: 160 :: (160 + 1) :: runOf 164 4)
       (160 :: (160 + 1) :: runOf 164 4)
     Starts s sh ∧ taking s sh ≠ 0 ∧ check s.begins 0 (instRoot s.begins 0) (s.cur.s64 160) 256 .read = .ok 0x120100 1 0 0 ∧
     check s.begins 0 (instRoot s.begins 0) 0x1180 128 .read = .ok 0x120180 1 0 0 ∧
     check s.begins 0 (instRoot s.begins 0) 0x1100 128 .read = .ok 0x120100 1 0 0 ∧
     blockHeld s.begins (startCtx s sh) 0x120180 128 = false ∧ softAt s.begins 0x120180 128 = false ∧ s.cur.s64 164 = BitVec.ofNat 64 v) := by decide +kernel

theorem meets_SystemRegistersComplete :
    (∀ n ∈ [0x000, 0x100, 0x201, 0x304, 0x305, 0x400, 0x500, 0x600, 0x700, 0x800, 0x900, 0x901, 0xA00],
      Starts base (uniShape (isScal 223 && csrLegal (BitVec.ofNat 16 n)) [223] []) ∧
      Starts base (uniShape (isUni 223 && csrLegal (BitVec.ofNat 16 n)) [223] [223])) ∧
    modeOk 0 = true ∧ fmtOk 0 = true ∧ spillUsed base.cur = 0 ∧
    (let s := regs [(0, 0x1000)]
     let sh := uniShape (isUni 232 && isScalPair 160) [232, 160, 161] [232, 160, 161]
     Starts s sh ∧ sideHeld s.begins 0 0 = true ∧ fnat (s.cur.s 160) 3 1 = 0 ∧
     barCheck s.begins 0 0 (paramAddr 0x1000 0) .write = .ok 0x120000 1 0 0) ∧
    Starts base plainUni ∧ sideHeld base.begins base.focus.core base.focus.slot = true := by decide +kernel

/-! ### Side cores -/

/-- Core 0's loader executes; its x1 to x4 hold values and its data store the given bytes at offset 0. -/
def siding (x1 x2 : Word) (bs : List Byte) : State :=
  let s := scratched { State.reset.withFetchWord 32 0x0B with
    agenda := [], focus := { core := 0, slot := 0, storer := false, ctl := 0, word := 0x0B, step := false, refused := none } }
  { s.updCore 0 (fun c => { c with loader := { c.loader with regs := [(1, x1), (2, x2)], dstore := zsetRun [] 0 bs } }) with
    boot := { s.boot with map := zset [] 64 0xFF } }

/-- A copy's descriptor, and a decoder's: one frame of 4 by 2 samples into core 0 with a barrier at 0x1000. -/
def copyDesc : BitVec 256 := fput (fput (fput 0 63 0 0x1000) 159 128 64) 191 160 0x103F
def frameDesc : BitVec 512 := fput (fput (fput (fput (fput 0 143 128 1) 207 192 4) 223 208 2) 383 320 0x1000) 95 64 16

theorem meets_SideTransfersComplete :
    (∀ n ∈ [1, 2, 4], sideAt (siding 0x10000 0x200 []) 0x10000 n = .data 0 ∧ sideAt (siding 0x10000 0x200 []) 0x200 n = .store 0x200 ∧
      sideAt (siding 0x10000 0x200 []) 0x8000 n = .none) ∧
    ((siding 0x101 0x200 []).side.x 1 &&& 0xFFFFFFFE#32).toNat % 4 = 0 ∧ ((siding 0x102 0x200 []).side.x 1 &&& 0xFFFFFFFE#32).toNat % 4 ≠ 0 ∧
    ((siding 5 6 []).side.pc + ((3#12) ++ 0#1 : BitVec (12 + 1)).signExtend 32).toNat % 4 ≠ 0 ∧
    ((siding 5 6 []).side.pc + ((4#12) ++ 0#1 : BitVec (12 + 1)).signExtend 32).toNat % 4 = 0 := by decide +kernel

theorem meets_SideInstructionsComplete :
    (takeFiring ((siding 0 0 []).core 0) 0).isNone = true ∧
    (takeFiring { (siding 0 0 []).core 0 with routes := [(0, fput 0 61 56 2)] } 0).isSome = true ∧
    sideRange (siding 0x10000 0 []) 0x10000 4 = .data 0 ∧ (((siding 0 0 []).core 0).queue 3).items = [] ∧
    ({ HwQueue.reset with items := [7] } : HwQueue).items = [7] ∧
    (let s := siding 0x10000 0 (toBytes copyDesc 32)
     sideRange s (s.side.x 1).toNat 32 = .data 0 ∧
     copyCheck (sideCopy (ofBytes 256 (zgetRun s.side.dstore 0 32))) ((s.core 0).scratchOf (sideInst s)).size = none ∧
     freeCopy (s.core 0) = some 0) ∧
    (let s := siding 0x20 0xFF00 []
     (match creditAt s 0 (sideInst s) (((s.side.x 2).setWidth 16 ++ s.side.x 1 : BitVec (16 + 32)).signExtend 64) 1 4 false with
       | .ok _ => true
       | _ => false) = true) ∧
    (let s := siding 0x10000 0 (toBytes frameDesc 64)
     let y : BitVec 512 := ofBytes 512 (zgetRun s.side.dstore 0 64)
     sideRange s (s.side.x 1).toNat 64 = .data 0 ∧ (find s.insts (sideInst s)).isSome = true ∧
     ((find s.insts (sideInst s)).any (fun i => i.gang.contains (fnat y 231 224))) = true ∧ decodeDescOk y = true ∧
     pickDecoder s (fnat y 231 224 / 64) = some 0) := by decide +kernel

/-! ### Coltos -/

/-- Endpoint 9 holds session 0 of the ready device, reached over port 0. -/
def hosted : State := { base with
  ports := [(0, 8)], sessions := [(0, { Session.reset with opened := true, holder := some 9 })] }

/-- A command of session 0 in its turn, and the machine that executes it. -/
def cmd (c : Nat) (a : BitVec 64) (b : BitVec 48) (bs : List Byte) : Msg :=
  { withPayload (mkMsg c 0 0 0 9) bs with seq := 1, arg0 := a, arg1 := b }
def turned (m : Msg) : State :=
  setSession (wakeHost hosted 0) 0 { takeAck (hosted.session 0) m.ackseq with port := 0, reorder := [] }

theorem meets_turns (c a b : Nat) (bs : List Byte) (h : bs.length ≤ 4064) :
    InTurn hosted 0 (cmd c (BitVec.ofNat 64 a) (BitVec.ofNat 48 b) bs) (turned (cmd c (BitVec.ofNat 64 a) (BitVec.ofNat 48 b) bs)) := by
  have hl : bs.length = (BitVec.ofNat 16 bs.length).toNat := by simp; omega
  have hs : hosted.session 0 = { Session.reset with opened := true, holder := some 9 } := by decide +kernel
  refine ⟨?_, by simp [isReply, cmd, withPayload, mkMsg, bit], ?_, by decide +kernel, by decide +kernel, by simp [cmd], by simp [cmd, withPayload, mkMsg],
    by decide, by rw [hs], by rw [hs]; rfl, by rw [hs]; rfl, by rw [hs]; rfl, by rw [hs]; rfl, by rw [hs]; rfl, rfl⟩
  · show (alive hosted && decide (0 < 8) && decide (zget hosted.ports 0 ≠ 0) && decide (bs.length = (BitVec.ofNat 16 bs.length).toNat)) = true
    rw [← hl]
    simpa using (by decide +kernel : alive hosted = true ∧ zget hosted.ports 0 ≠ 0)
  · simp [badHeader, cmd, withPayload, mkMsg]; omega

/-- The machine that executes a command, with a mailbox on line 0x1201 and a wait for page 0x12 to arrive. -/
def ready : State := turned (cmd 1 0 0 [])
def mailing : State := { ready with mailbox := [(0, { line := 0x1201, tmpl := 0x2410, pool := [0x2420, 0x2421], pend := [], count := 0 })] }
def paging (c : CohPage) : State := setPage ready 0x12 c
def arrived (st : Nat) : State := { ready with insts := [], regions := ready.regions.map (fun e => (e.1, { e.2 with rcb := fput e.2.rcb 617 615 st })) }

/-- A command's writes have their ACKs. -/
def ackedOf (s : State) : State := setSession s 0 { s.session 0 with wrote := true }

theorem meets_acked_writes : (ready.session 0).wrote = false ∧
    (∀ u ∈ [ackedOf ready, ackedOf mailing], (u.session 0).wrote = true ∧ engBusy u (.session 0) = false ∧ u.boot.state = 4 ∧
      u.recorder.mode ≠ 2) ∧
    (ptwrEntries 0x120100 (List.replicate 8 0xFF)).any (fun e => isLeafPte e.2 && !(queueClear (ackedOf ready) (ptePage e.2) (pteSize e.2))) =
      false ∧
    ((mailboxOf (ackedOf mailing) 0x1201).map Prod.fst = some 0 ∧
      (mailboxOf (ackedOf mailing) 0x1201).bind (fun e => freeMailSlot (ackedOf mailing) e.2) = some 0x2420) := by decide +kernel

theorem meets_ColtosCommandsComplete :
    (∀ n ∈ [4, 8, 256], guarded 0x120100 n = false ∧ inMemory 0x120100 n = true ∧ portHeld ready 0x120100 n true = false ∧
      portHeld ready 0x120100 n false = false ∧ softAt ready 0x120100 n = false) ∧ blockRule 0x120100 8 8 = true ∧ blockRule 0x120100 128 128 = true ∧
    (ptwrEntries 0x120100 (List.replicate 8 0xFF)).any (fun e => isLeafPte e.2 && !(queueClear ready (ptePage e.2) (pteSize e.2))) = false ∧
    (artwrAll ready 2 [setBit 0 107 true]).isSome = true ∧
    (let t := { ready with live := tasked.live }
     let k := 0x120100 / 128
     tRcb (readTcb t k) = placeRcb / 256 ∧ (admitTask t k (readTcb t k) none).isSome = true) ∧
    ((mailboxOf mailing 0x1201).map Prod.fst = some 0 ∧ (mailboxOf mailing 0x1201).bind (fun e => freeMailSlot mailing e.2) = some 0x2420) ∧
    (∀ st ∈ [0, 1, 3], (find (arrived st).regions (placeRcb / 256)).isSome = true ∧ (arrived st).preempts = [] ∧
      rState ((arrived st).rcb (placeRcb / 256)) = st ∧ anyLive (arrived st) (subtree (arrived st) (placeRcb / 256)) = false) ∧
    hosted.recorder.mode ≠ 3 ∧ (ringOk 0x120000 0x1000 = true ∧ guarded 0x120000 0x1000 = false ∧ inMemory 0x120000 0x1000 = true) ∧
    pageArg (cmd 0x21 0x120000 2 []) = true ∧ (ready.page 0x12).state = 0 ∧ handOf ready 0x120000 = none ∧
    (∀ k ∈ [HandKind.give 9 true, .drop], let h : Hand := ⟨0x120000, k, true⟩
     handOf { ready with hands := [h] } 0x120000 = some h ∧ handReady { ready with hands := [h] } h = true) ∧
    pageLocked ready 0x120000 65536 = false ∧ ((paging { CohPage.reset with state := 1 }).page 0x12).state ≠ 0 ∧
    queueClear ready 0x120000 65536 = true ∧ ((paging { CohPage.reset with asked := some true }).page 0x12).asked = some true ∧
    segOff 16 = 65024 ∧ segLen 16 = 512 ∧ knownCode 0x11 = false ∧ deviceCode 0x40 = true := by decide +kernel

/-! ### Ports, boot and power -/

/-- An unsequenced message of endpoint 9, and the device with two messages retained in session 0. -/
def plainMsg (c : Nat) (a : BitVec 64) (b : BitVec 48) (bs : List Byte) : Msg := { cmd c a b bs with seq := 0 }
def retaining : State := { hosted with
  sessions := [(0, { Session.reset with
    opened := true, holder := some 9, lsent := 5, ring := [{ mkMsg 5 0 0 0 9 with seq := 4 }, { mkMsg 5 0 0 0 9 with seq := 5 }] })] }

/-- The ring of a replay holds one record of the kind: a write of 4 bytes to the mapped page, or a QUERY. -/
def replaying (kind : Nat) : State :=
  let body := if kind = 0 then headerBytes { mkMsg 0x0E 0 0 0 9 with arg0 := 0x120000 } else natBytes 0x10 4
  { hosted with
    live := setBytes hosted.live 0x130000 (recordBytes 0 kind 0 0 0 0x120100 body)
    recorder := { Recorder.reset with mode := 2, base := 0x130000, size := 4096, count := 1 } }

/-- A load of core 0 waits at line 0x1201, which another core's group holds. -/
def heldUp : State := { accessing .load false with locks := [(0x1201, heldThere)] }

theorem meets_PortOperationsComplete :
    (∀ m ∈ [plainMsg 1 0 0 [], plainMsg 2 5 0 [], plainMsg 0x0C 0x120100 0x50000 (List.replicate 16 1)],
      arrives hosted m = true ∧ isReply m = false ∧ badHeader m = false ∧ hosted.boot.state = 4 ∧ m.seq = 0) ∧
    ownSession (wakeHost { hosted with sessions := [] } 0) (plainMsg 2 5 0 []) = none ∧
    seqDist 5 5 = 0 ∧ seqDist 5 6 = 1 ∧ notBefore 4 5 = true ∧ notBefore 4 4 = true ∧ notBefore 4 3 = false ∧
    (let m := plainMsg 0x0C 0x120100 0x50000 (List.replicate 16 1)
     atomOf (m.arg1.toNat % 16) = some .add ∧ atomBad m = false ∧ guarded 0x120100 (atomSize m) = false ∧ hosted.recorder.mode ≠ 2 ∧
     ((find (wakeHost hosted 0).idem 0).getD []).find? (fun e => decide (e.ep = 9) && decide (e.aseq = 5) && !e.out) = none) ∧
    (let m := { plainMsg 5 0 0 [] with flags := 1 }
     arrives hosted m = true ∧ isReply m = true ∧ badHeader m = false ∧ m.seq = 0 ∧ m.cmd ≠ 1 ∧
     ownSession (wakeHost hosted 0) m = some 0 ∧ ownSession (ackPlain (wakeHost hosted 0) m) m = some 0) ∧
    askedPage (setPage hosted 0x12 { CohPage.reset with want := some true }) (plainMsg 0x20 0x120000 0 []) = some true ∧
    portUp hosted 0 = true ∧ hosted.boot.state = 4 ∧ inMemory 0x120100 4 = true ∧ guarded 0x120100 4 = false ∧
    engBusy hosted (.remote 0) = false ∧ (∀ b ∈ [false, true], portHeld (wakeHost hosted 0) 0x120100 4 b = false ∧
      portHeld { wakeFor hosted (.port 0) with nextRem := hosted.nextRem + 1 } 0x120100 4 b = false) ∧ hosted.preempts = [] ∧
    (∀ k ∈ [0, 1, 2, 3, 4], (replaying k).recorder.mode = 2 ∧ replayQuiet (replaying k) = true ∧ (nextRecord (replaying k)).kind = k ∧
      portHeld (replaying k) (nextRecord (replaying k)).addr (nextRecord (replaying k)).len true = false) ∧
    (let g := heldUp.group 0 0
     (accOf g 0).isSome = true ∧ (g.accs.all (fun a => accessHeld heldUp 0 0 a)) = true ∧ g.halt = none) := by decide +kernel

/-- The powered device in a state of the boot sequence, its port 0 trained, session 0 held by endpoint 9. -/
def booting (st : BitVec 8) : State := { restartBoot hosted with
  boot := { Boot.reset with powered := true, state := st }
  sessions := hosted.sessions }

/-- A test that found nothing wrong, and one with a bad slice or a bad channel. -/
def passed : BistReport :=
  { badCores := [], badSlices := [], badDecoders := [], badPorts := [], badMgmt := [], badChannels := [], lanes := [8, 8, 8, 8, 8, 8, 8] }

/-- The last segment of an image of 4 bytes. -/
def lastSegment : Msg := cmd 0x03 0 1 [1, 2, 3, 4]

theorem meets_BootAndPowerComplete :
    State.reset.boot.powered = false ∧ alive (booting 0) = true ∧ (booting 0).boot.state = 0 ∧ zget (booting 0).ports 0 ≠ 0 ∧
    zget { booting 0 with ports := [] }.ports 0 = 0 ∧
    (let s := booting 1
     let m := lastSegment
     arrives s m = true ∧ isReply m = false ∧ badHeader m = false ∧ m.cmd = 0x03 ∧ m.port = 0 ∧ m.sess = 0 ∧ m.seq ≠ 0 ∧
     s.boot.state.toNat ≤ 1 ∧ (m.arg0 = 0 → s.boot.imgLen = 0) ∧ (s.session 0).opened = true ∧ (s.session 0).holder = some m.ep ∧
     (s.session 0).reorder = [] ∧ (s.session 0).running = none ∧ m.seq = seqSucc (s.session 0).lacc ∧
     ringFull (takeAck (s.session 0) m.ackseq) = false ∧ s.recorder.mode = 0 ∧ bit m.arg1 0 = true ∧
     bit { m with arg1 := 0 }.arg1 0 = false) ∧
    (setSession (booting 2) 0 { hosted.session 0 with running := some lastSegment }).session 0 =
      { hosted.session 0 with running := some lastSegment } ∧
    bistOk passed = true ∧ bistOk { passed with badSlices := [3] } = false ∧ 0 ∉ passed.badPorts ∧ passed.badChannels = [] ∧
    { passed with badChannels := [1] }.badChannels ≠ [] ∧ (booting 3).boot.helper = [] ∧
    { (booting 3).boot with helper := [1] }.helper ≠ [] ∧ (booting 5).boot.state = 5 ∧ alive hosted = true ∧ hosted.boot.state = 4 ∧
    (∀ k ∈ [Block.core 5, .slice 5, .port 5, .decoder 5, .mgmt 2], blockExists k = true ∧ blockIdle hosted k = true ∧
      (hosted.blockPower k).state = 0 ∧ (hosted.blockPower k).used = false) ∧
    mayBeOff (.port 5) = true ∧ mayBeOff (.decoder 5) = true ∧ mayThrottle (.core 5) = true ∧ mayThrottle (.slice 5) = true ∧
    (∀ v ∈ [(1 : BitVec 2), 2, 3], ((setPower hosted (.core 5) { state := v, rate := 0, used := false }).blockPower (.core 5)).state = v) := by
  decide +kernel

/-- What the image checks and the helper data give, each test may. -/
theorem meets_boot_checks (img : List Byte) (s : State) (h : List Byte) :
    (Config.imageWellFormed img = true ∨ Config.imageWellFormed img = false) ∧ (verifyCode img = stOK ∨ verifyCode img ≠ stOK) ∧
      (helperOk s h = true ∨ helperOk s h = false) :=
  ⟨by cases Config.imageWellFormed img <;> simp, Decidable.em _, by cases helperOk s h <;> simp⟩

/-! ### The digests of the boot flow, on the vectors that FIPS 180-4 and RFC 4493 print -/

theorem test_sha384_abc : (sha384 (asciiBytes "abc")).take 4 = [0xcb, 0x00, 0x75, 0x3f] := by decide +kernel

theorem test_cmac_of_nothing :
    (cmac128 [0x2b, 0x7e, 0x15, 0x16, 0x28, 0xae, 0xd2, 0xa6, 0xab, 0xf7, 0x15, 0x88, 0x09, 0xcf, 0x4f, 0x3c] []).take 4 =
      [0xbb, 0x1d, 0x69, 0x29] := by decide +kernel

/-- Helper data that an enrolment made are accepted whenever they are sent back (R16). -/
theorem test_fresh_helper_fits (s : State) : helperOk s (freshHelper s) = true := helperOk_freshHelper s

/-! ### The dispatcher and the distributor -/

/-- A task of the region waits in die 0's ready queue; a stopped instance of one group waits there to be resumed. -/
def entry : Ready := { tcb := 0x120100 / 128, kind := .first, age := 0, image := none }
def resumed : Ready := { tcb := placeTcb / 128, kind := .resume 0, age := 0, image := some placeTask }
def waiting : State :=
  let s := tasked.setDie 0 { tasked.die 0 with age := 1, ready := [entry] }
  { s with tasks := put s.tasks entry.tcb { tcb := readTcb s entry.tcb, mbx := false } }
def resuming : State :=
  let g := { base.cur with resident := false }
  { base with
    cores := [], insts := base.insts.map (fun e => (e.1, { e.2 with state := .stopped, groups := [(0, g)], cores := [], locs := [] }))
    sched := [(0, { base.die 0 with chosen := [resumed] })] }

/-- An instance of a range task with grains left. -/
def halvable : State :=
  let s := ranged 4
  { s with insts := s.insts.map (fun e => (e.1, { e.2 with ihi := 64 })) }
def halvableInst : Inst := (find halvable.insts 0).getD
  (bareInst 0 0 0 0 0)

/-- Where some range that the distributor tries is free, it takes one. -/
theorem saveAreaFor_some (s : State) (die size : Nat)
    (h : (s.insts.map (fun e => (e.2.area + instAreaSize e.2 + 4095) / 4096 * 4096)).any (fun a => areaFree s die a size) = true) :
    (saveAreaFor s die size).isSome = true := by
  obtain ⟨a, ha, hb⟩ := List.any_eq_true.mp h
  exact List.find?_isSome.mpr ⟨a, List.mem_cons_of_mem _ (List.mem_cons_of_mem _ ha), hb⟩

theorem meets_halving : ∃ t, tryHalve halvable 1 0 halvableInst = some t := by
  refine Option.isSome_iff_exists.mp ?_
  unfold tryHalve
  simp only
  rw [if_neg (by decide +kernel), show sideDesc halvable (1 / 64 * 64) (effRoot halvable (tRcb (halvable.tcb halvableInst.tcb)))
    (fget (halvable.tcb halvableInst.tcb) 1023 976) = .absent by decide +kernel]
  simp only
  rw [if_neg (by decide +kernel), Option.isSome_map]
  exact saveAreaFor_some _ _ _ (by decide +kernel)

def theStopped : Inst := (find resuming.insts 0).getD (bareInst 0 0 0 0 0)

/-- Whether the stopped instance's records verify or not, its entry is placed. -/
theorem meets_resuming : (tryPlace resuming 0 [] resumed).isSome = true := by
  unfold tryPlace
  simp only
  rw [if_neg (by decide +kernel)]
  rw [show resumed.kind = .resume 0 from rfl]
  simp only
  rw [show find resuming.insts 0 = some theStopped by decide +kernel,
    show sideDesc resuming (64 * 0) (effRoot resuming (tRcb (entryTcb resuming resumed))) (fget (entryTcb resuming resumed) 1023 976) = .absent
      by decide +kernel]
  simp only
  rw [show findGang resuming 0 (resumeDemand theStopped .absent) = some [0] by decide +kernel]
  simp only
  rw [if_neg (by decide +kernel)]
  split <;> rfl

theorem meets_SchedulerStepsComplete :
    candidates waiting 0 = [entry] ∧ (waiting.die 0).chosen = [] ∧ 0 < (candidates waiting 0).length ∧ 0 ∉ (waiting.die 0).missed ∧
    (resuming.die 0).chosen = [resumed] ∧
    (let s := halvable
     let d := s.die 0
     (s.core 1).groups.any (fun g => g.2.resident) = false ∧ (d.ready ++ d.chosen).any (selectable s 0) = false ∧ s.recorder.mode ≠ 2 ∧
     s.insts = [(0, halvableInst)] ∧ instRuns s 0 = true ∧ tGrain halvableInst.image ≠ 0 ∧ halvableInst.gang.headD 256 / 64 = 0 ∧
     tHgrp (s.tcb halvableInst.tcb) ≤ 64) := by decide +kernel

/-! ### The life of instances -/

/-- The executing instance, and what the group and the instance are changed to. -/
def theInst : Inst := (find base.insts 0).getD halvableInst
def living (f : Group → Group) (x : Inst) : State := { base.updCur f with insts := [(0, x)] }
def fault : FaultInfo :=
  { cause := cALIGN, fva := 0, pc := 0x1004, thr := 0, arena := 0, word := 0, kill := false, core := 0, slot := 0 }
def emptied : State := { living id { theInst with locs := [] } with cores := [] }
def quotaed : Region := { rcb := fput (fput placeRegion 1215 1152 5) 1279 1216 9, crossed := false }
def preempting : Preempt := { rcb := placeRcb / 256, die := 0, sess := some (0, cmd 0x0D 0x120000 0 []) }

theorem meets_InstanceStepsComplete :
    (∀ n ∈ [0, 8], let x := { theInst with next := BitVec.ofNat 32 n, ihi := 8 }
      let s := living (fun g => { g with wait := .grain 223 }) x
      find s.insts 0 = some x ∧ instRuns s 0 = true ∧ herdGroups s 0 = [(0, 0, s.group 0 0)] ∧ (s.group 0 0).ended = false ∧
      (s.group 0 0).wait = .grain 223 ∧ (s.core 0).wps = []) ∧
    (let s := living (fun g => { g with wait := .tdone 223 }) theInst
     (s.group 0 0).wait = .tdone 223 ∧ (s.group 0 0).quiet = true ∧ (s.group 0 0).inst = 0 ∧ find s.insts 0 = some theInst ∧
     theInst.marks = [] ∧ (s.core 0).wps = []) ∧
    (let x := { theInst with locs := [] }
     let u := setTask (setInst emptied 0 { x with state := .finished }) x.tcb 379 371 (tInst (emptied.tcb x.tcb) - 1)
     find emptied.insts 0 = some x ∧ instOver emptied 0 x = true ∧ tGrain x.image = 0 ∧ tInst (u.tcb x.tcb) = 0 ∧
     u.sched.any (fun d => (d.2.ready ++ d.2.chosen).any (fun q => decide (q.tcb = x.tcb))) = false) ∧
    (quotaed.crossed = false ∧ fnat quotaed.rcb 1215 1152 ≠ 0 ∧ fnat quotaed.rcb 1215 1152 ≤ fnat quotaed.rcb 1279 1216) ∧
    (∀ b ∈ [false, true], let x := { theInst with flt := some { fault with kill := b } }
      let s := living (fun g => { g with stop := some fault }) x
      find s.insts 0 = some x ∧ x.state ≠ .killed ∧ toInterrupt s 0 = [] ∧ instStopped s 0 x false = true ∧ (s.group fault.core fault.slot).inst = 0 ∧
      fault.cause ≠ cSIDEFAULT ∧ fault.pc ≠ 0) ∧
    (let x := { theInst with state := .stopping }
     let s := living (fun g => { g with preempt := true }) x
     find s.insts 0 = some x ∧ x.flt = none ∧ toInterrupt s 0 = [] ∧ instStopped s 0 x true = true) ∧
    (let s := living (fun g => { g with preempt := true, prenote := 2 }) theInst
     (s.group 0 0).preempt = true ∧ (s.group 0 0).prenote ≠ 0) ∧
    anyLive { hosted with insts := [], preempts := [preempting] } (subtree { hosted with insts := [] } preempting.rcb) = false := by
  refine ⟨?_, ?_, ?_, ?_, ?_, ?_, ?_, ?_⟩ <;> decide +kernel

theorem meets_CoreEventsComplete :
    (let c := { base.core 0 with firings := [0] }
     0 ∈ c.firings ∧ c.sideOwn = some 0 ∧ (consumeFiring (base.setCore 0 { c with firings := [] }) 0 0 0).isSome = true) ∧
    { base.core 0 with timer := some 9 }.timer ≠ none ∧
    (∀ p ∈ [1, 9], let w : Walk := { root := instRoot base 0, page := p, cores := [0] }
     let u : Cluster := { (base.cluster 0) with walks := [w] }
     ({ base with clus := [(0, u)] }.cluster 0).walks = [w] ∧
     (match walk base u.upper w.root (w.page * 4096) with | .ok e => inEntry e w.root w.page | .error _ => false) = decide (p = 1)) := by
  decide +kernel

/-! ### Steps -/

/-- A machine whose next turn runs the word in a group, or in a side core, and one whose next turn is an event. -/
theorem meets_StepRunsDecodedInstruction :
    (let s := State.reset.withFetchWord 32 0x20010203
     let g := s.group 0 0
     s.agenda = [.group 0 0] ∧ groupReady s g = true ∧ g.entry = none ∧ g.owed = none ∧ g.far = none ∧ g.prenote ≠ 1 ∧ stoppedCopy s 0 0 g.inst = none ∧ g.halt = none ∧
     g.follow = none ∧ modeOk g.mode = true ∧ fmtOk g.fmt = true ∧
     check ({ s with agenda := [], focus := { core := 0, slot := 0, storer := false, ctl := 0, word := 0, step := false, refused := none } }.setCur g) 0
       (instRoot s g.inst) ((BitVec.ofNat 48 (pcPacket g.pc)).signExtend 64) 32 .fetch = .ok 0x120000 1 0 0 ∧
     badPacket (packetWords s 0x120000) (pcSlot g.pc) = none ∧
     decodeGroup ((packetWords s 0x120000).getD (pcSlot g.pc) 0) = some (.add 1 2 3)) ∧
    (let s := State.reset.withFetchWord 32 0x0B
     let d := (s.core 0).side false
     s.agenda = [.side 0 false] ∧ sideReady s 0 false = true ∧ d.pc.toNat % 4 = 0 ∧ d.pc.toNat ≤ 0x3FFC ∧
     decodeSide (sideWord d) = some .mhalt) ∧
    isEvent (.dispatch 0) = true := by decide +kernel

/-- A step of a machine whose two memories are canonical. -/
theorem meets_StepsKeepMemoryCanonical :
    let s := State.reset.withFetchWord 32 0x20010203
    Memory.wf s.live = true ∧ Memory.wf s.back = true ∧ (match step s with | .next _ => true | _ => false) = true := by decide +kernel

theorem meets_DecodingInvertsEncoding : encode (.add 1 2 3) = some 0x20010203 ∧ decodeGroup 0x20010203 = some (.add 1 2 3) := by
  decide +kernel

/-! ### Single steps; the expected values are calculated by hand from the rules named -/

/-- The state after an instruction. -/
def after (i : Instr) (s : State) : State := match exec i s with | .next t => t | _ => s

/-- R253: a sum wraps, or saturates under SAT. -/
theorem test_add_wraps : (after (.add 223 160 161) (regs [(0, 0xFFFFFFFF), (1, 3)])).cur.s 223 = 2 := by decide +kernel
theorem test_add_saturates :
    (after (.add 223 160 161) ((regs [(0, 0x7FFFFFFF), (1, 3)]).updCur (fun g => { g with mode := 0x00100000 }))).cur.s 223 =
      0x7FFFFFFF := by decide +kernel

/-- R256: an amount of the width gives 0, and the sign for SRA. -/
theorem test_shl_full_width : (after (.shl 223 160 161) (regs [(0, 0xFFFFFFFF), (1, 32)])).cur.s 223 = 0 := by decide +kernel
theorem test_sra_keeps_the_sign : (after (.sra 223 160 161) (regs [(0, 0x80000000), (1, 40)])).cur.s 223 = 0xFFFFFFFF := by decide +kernel

/-- R258, R259: 1.5 plus 2.25 is 3.75, and 1.5 times 2 plus 2.25 is 5.25. -/
theorem test_fadd : (after (.fadd 223 160 161) ((regs [(0, 0x3FC00000), (1, 0x40100000)]).updCur (fun g =>
    { g with mode := 0x02000000 }))).cur.s 223 = 0x40700000 := by decide +kernel
theorem test_fma : (after (.fma 223 160 161) ((regs [(0, 0x3FC00000), (1, 0x40000000), (63, 0x40100000)]).updCur (fun g =>
    { g with mode := 0x02000000 }))).cur.s 223 = 0x40A80000 := by decide +kernel

/-- R257: the leading zeros of a word. -/
theorem test_clz : (after (.clz 223 160) (regs [(0, 0x00010000)])).cur.s 223 = 15 := by decide +kernel

/-- R243, R244: an offset counts instructions, so that the one before a packet's first is the last one of the packet before. -/
theorem test_bra_backward : (after (.bra 0xFFFFFF) base).cur.pc = 0x1004 - 8 := by decide +kernel

/-- R194, R196: TRAP enters the handler at its first slot. -/
theorem test_trap_enters_the_handler : (after (.trap 7) (handled upc)).cur.pc = 0x1004 := by decide +kernel

/-- R175: a store that drains changes its own bytes, lowest address first. -/
theorem test_store_is_little_endian :
    homeByte (after (.drain 0 0 0) ((accessing .store false).updCur (fun g => { g with accs := g.accs.map (fun a =>
      { a with val := 0x11223344 }) }))) 0x120101 = 0x33 := by decide +kernel

/-- R366: a division by zero, and the one that overflows. -/
theorem test_rv_div_by_zero : (after (.rvDiv 3 1 2) (siding 7 0 [])).side.x 3 = 0xFFFFFFFF := by decide +kernel
theorem test_rv_div_overflow : (after (.rvDiv 3 1 2) (siding 0x80000000 0xFFFFFFFF [])).side.x 3 = 0x80000000 := by decide +kernel

/-- R366: register x0 stays 0, and a byte load extends the sign. -/
theorem test_rv_x0 : (after (.rvAddi 0 1 5) (siding 7 0 [])).side.x 0 = 0 := by decide +kernel
theorem test_rv_lb : (after (.rvLb 3 1 0) (siding 0x10000 0 [0x80])).side.x 3 = 0xFFFFFF80 := by decide +kernel

/-- R213, R243: after the last instruction of a packet comes the first of the next packet. -/
theorem test_step_runs_the_word_placed :
    (match step (State.reset.withFetchWord 32 0x20A0A1E8) with
      | .next t => (t.group 0 0).pc
      | _ => 0) = 0x1024 := by decide +kernel

/-- R203: fields of the group control block at their places, and the record of a partition's header word. -/
theorem test_group_block :
    (let b := groupBlock { Group.reset with pc := 0x1004, xheld := 3, waited := 2, locks := [7], mon := some 9 } 5
     [fnat b 1983 1920, fnat b 1919 1872, fnat b 1679 1672, fnat b 1665 1662, fnat b 1206 1204, fnat b 1203 1174, fnat b 1083 1053]) =
      [5, 0x1004, 3, 2, 1, 7, 0x40000009] := by decide +kernel
theorem test_header_place :
    groupRecAt { theInst with image := fput 0 432 430 2, area := 0, gang := [0, 1] } 5 = 0x1C1800 := by decide +kernel

end Sys2Proof.Tests
end

section
/-! PROOFS. The waits for a phase: the distance of the phases decides whether a wait ends, and with which status (R158). -/
namespace Sys2Proof.Machine

/-! ### What a barrier's value says to a wait -/

/-- How far the barrier's PHASE is past the phase that a wait names, modulo 65,536 (R158). -/
def phaseDistance (b : BitVec 128) (p : BitVec 16) : Nat := ((b.extractLsb' 14 16).toNat + 65536 - p.toNat) % 65536

/-- The status that a wait takes when it ends at a distance (R158, R298): 1 POISON, 0 OK, 2 OLD. -/
def phaseStatus (b : BitVec 128) (d : Nat) : Word := if d = 1 then (if b.extractLsb' 12 1 = 1 then 1 else 0) else 2

theorem barPhase_eq_toNat (b : BitVec 128) : barPhase b = (b.extractLsb' 14 16).toNat := fnat_eq b 29 14

/-- A bit of a register is set where the field of that one bit is 1. -/
theorem bit_iff_extract_eq_one {n : Nat} (x : BitVec n) (i : Nat) : bit x i = true ↔ x.extractLsb' i 1 = 1 := by
  have hf : x.extractLsb' i 1 = BitVec.ofBool (bit x i) := by
    ext k hk
    obtain rfl : k = 0 := by omega
    simp [bit]
  rw [hf]
  cases bit x i <;> decide

/-- A wait goes on while the distance is outside 1 to 32,767. -/
theorem barWait_of_far {b : BitVec 128} {p : BitVec 16} (h : ¬(1 ≤ phaseDistance b p ∧ phaseDistance b p ≤ 32767)) :
    barWait b p.toNat = none := by
  have hd : phaseDistance b p = 0 ∨ 32767 < phaseDistance b p := by omega
  unfold barWait
  rw [barPhase_eq_toNat]
  exact if_pos hd

/-- A wait ends where the distance lies between 1 and 32,767, with the status of that distance. -/
theorem barWait_of_near {b : BitVec 128} {p : BitVec 16} (h : 1 ≤ phaseDistance b p ∧ phaseDistance b p ≤ 32767) :
    ∃ st, barWait b p.toNat = some st ∧ BitVec.ofNat 32 st = phaseStatus b (phaseDistance b p) := by
  have hd : ¬(phaseDistance b p = 0 ∨ 32767 < phaseDistance b p) := by omega
  have hw : barWait b p.toNat = if phaseDistance b p = 1 then some (if bit b 12 then 1 else 0) else some 2 := by
    unfold barWait
    rw [barPhase_eq_toNat]
    exact if_neg hd
  by_cases h1 : phaseDistance b p = 1
  · refine ⟨if bit b 12 then 1 else 0, by rw [hw, if_pos h1], ?_⟩
    simp only [phaseStatus, if_pos h1, bit_iff_extract_eq_one]
    split <;> rfl
  · exact ⟨2, by rw [hw, if_neg h1], by simp [phaseStatus, h1]⟩

/-! ### When a waiting group's WAITPH ends -/

section
variable {s : State} {h j at_ : Nat} {scr : Bool} {p : BitVec 16} {e : BitVec 8}

/-- With no older access of the group and no other group's lock on the line, the barrier alone decides the wait. -/
theorem phaseEnd_of_unhindered (hacc : (s.group h j).accs = []) (hheld : heldByOther s h j (lineOf at_) = false) :
    phaseEnd s h j at_ scr p = barWait (barRead s h (s.group h j).inst scr at_) p.toNat := by
  simp [phaseEnd, hacc, hheld]

theorem exec_waitphEnd : exec (.waitphEnd h j) s = execWaitphEnd h j s := rfl

/-- The event leaves a wait that has not ended as it is. -/
theorem exec_waitphEnd_of_none (hw : (s.group h j).wait = .waitph at_ scr p e) (hn : phaseEnd s h j at_ scr p = none) :
    exec (.waitphEnd h j) s = .next s := by
  simp [exec_waitphEnd, execWaitphEnd, hw, hn]

/-- A wait that ends writes its status to the destination and goes on. -/
theorem exec_waitphEnd_of_some {st : Nat} (hw : (s.group h j).wait = .waitph at_ scr p e)
    (hs : phaseEnd s h j at_ scr p = some st) (hsoft : barSoft s scr at_ = false) :
    exec (.waitphEnd h j) s =
      .next (endWait ((selfInv s h).updGroup h j (fun g => writeScal g e (BitVec.ofNat 32 st))) h j) := by
  simp [exec_waitphEnd, execWaitphEnd, hw, hs, hsoft]

/-- A wait that would end on a barrier with a soft error takes SOFTERR (R191). -/
theorem exec_waitphEnd_of_soft {st : Nat} (hw : (s.group h j).wait = .waitph at_ scr p e)
    (hs : phaseEnd s h j at_ scr p = some st) (hsoft : barSoft s scr at_ = true) :
    exec (.waitphEnd h j) s =
      .next (eventTrap s h j (barCause s h j cSOFTERR) (s.group h j).pc (s.group h j).pc) := by
  simp [exec_waitphEnd, execWaitphEnd, hw, hs, hsoft]

end

/-- Settles O59: the distance of the phases decides `barWait`, and with nothing of the group before it `barWait` decides the event. -/
theorem phaseWaitsEndByDistance : Obligations.PhaseWaitsEndByDistance := by
  intro s h j at_ scr p e g b d status hw hacc hheld
  have hend : phaseEnd s h j at_ scr p = barWait b p.toNat := phaseEnd_of_unhindered hacc hheld
  refine ⟨fun hd hsoft => ?_, fun hd hsoft => ?_, fun hd => ?_⟩
  · obtain ⟨st, hst, hstatus⟩ := barWait_of_near (b := b) (p := p) hd
    have hrun := exec_waitphEnd_of_some hw (hend.trans hst) hsoft
    rwa [hstatus] at hrun
  · obtain ⟨st, hst, -⟩ := barWait_of_near (b := b) (p := p) hd
    exact exec_waitphEnd_of_soft hw (hend.trans hst) hsoft
  · exact exec_waitphEnd_of_none hw (hend.trans (barWait_of_far hd))

end Sys2Proof.Machine
end

section
/-! PROOFS. SEL: its word decodes to it, and each active thread takes the source that its guard test picks (R217, R223, R260). -/
namespace Sys2Proof.Machine

/-! ### The word of SEL -/

section
variable (op d a b : BitVec 8)

/-- The fields of a T3 word are the bytes that it is made of (R217). -/
@[simp] theorem fieldOp_wordT3 : fieldOp (wordT3 op d a b) = op := by
  unfold fieldOp wordT3
  rw [BitVec.extractLsb'_append_eq_of_le (by decide), BitVec.extractLsb'_append_eq_of_le (by decide),
    BitVec.extractLsb'_append_eq_of_le (by decide), BitVec.extractLsb'_eq_self]

@[simp] theorem fieldD_wordT3 : fieldD (wordT3 op d a b) = d := by
  unfold fieldD wordT3
  rw [BitVec.extractLsb'_append_eq_of_le (by decide), BitVec.extractLsb'_append_eq_of_le (by decide),
    BitVec.extractLsb'_append_eq_of_add_le (by decide), BitVec.extractLsb'_eq_self]

@[simp] theorem fieldA_wordT3 : fieldA (wordT3 op d a b) = a := by
  unfold fieldA wordT3
  rw [BitVec.extractLsb'_append_eq_of_le (by decide), BitVec.extractLsb'_append_eq_of_add_le (by decide),
    BitVec.extractLsb'_eq_self]

@[simp] theorem fieldB_wordT3 : fieldB (wordT3 op d a b) = b := by
  unfold fieldB wordT3
  rw [BitVec.extractLsb'_append_eq_of_add_le (by decide), BitVec.extractLsb'_eq_self]

end

/-- Opcode 0x35 is SEL, whatever its operand bytes hold (R260). The opcode is made a variable first: the decoder's match is too
large to rewrite in. -/
theorem decodeGroup_of_fieldOp_sel {w : Word} (h : fieldOp w = 0x35#8) :
    decodeGroup w = some (.sel (fieldD w) (fieldA w) (fieldB w)) := by
  have hop : (fieldOp w).toNat = 0x35 := congrArg BitVec.toNat h
  unfold decodeGroup
  generalize (fieldOp w).toNat = n at hop
  subst hop
  rfl

theorem decodeGroup_wordT3_sel (d a b : BitVec 8) : decodeGroup (wordT3 0x35#8 d a b) = some (.sel d a b) := by
  rw [decodeGroup_of_fieldOp_sel (fieldOp_wordT3 0x35#8 d a b), fieldD_wordT3, fieldA_wordT3, fieldB_wordT3]

/-! ### The threads that SEL writes, and the source that each takes -/

/-- Under GUARD 0 the guard test holds for every thread (R223). -/
theorem guardMask_of_guard_zero {g : Group} (h : fnat g.mode 31 28 = 0) : guardMask g = BitVec.allOnes 64 := if_pos h

/-- For a thread of the group, the bit of the guard mask is the guard test, GUARD 0 included. -/
theorem bit_guardMask_iff {g : Group} {t : Nat} (ht : t < 64) :
    bit (guardMask g) t = true ↔ fnat g.mode 31 28 = 0 ∨ bit (guardMask g) t = true := by
  have hzero : fnat g.mode 31 28 = 0 → bit (guardMask g) t = true := fun h => by
    rw [guardMask_of_guard_zero h, bit, BitVec.getLsbD_allOnes, decide_eq_true ht]
  exact ⟨Or.inr, fun h => h.elim hzero id⟩

/-- GUARD does not narrow SEL: every thread of the active mask takes part (R260). -/
theorem taking_selShape (s : State) (g : Group) (d a b : BitVec 8) : taking s (selShape g d a b) = s.cur.amask := by
  simp [taking, narrows, selShape]

/-! ### What SEL writes -/

section
variable {s : State} {d a b : BitVec 8}

theorem exec_sel : exec (.sel d a b) s = execSel d a b s := rfl

/-- SEL to a scalar writes a. -/
theorem exec_sel_of_scal (h : Starts s (selShape s.cur d a b)) (hd : isScal d = true) :
    exec (.sel d a b) s = .next (s.goesOn [d] (writeScal s.cur d ((startCtx s (selShape s.cur d a b)).uni a))) := by
  simp only [exec_sel, execSel, startGroup_starts h, uniForm, hd, if_true, commitScal_starts h]

/-- SEL to a vector writes to each active thread the source that its bit of the guard mask picks. -/
theorem exec_sel_of_not_scal (h : Starts s (selShape s.cur d a b)) (hd : isScal d = false) :
    let x := startCtx s (selShape s.cur d a b)
    exec (.sel d a b) s = .next (s.goesOn [] (writeLanes s.cur d ((bitsOf s.cur.amask).map
      (fun t => (t, if bit (guardMask s.cur) t = true then x.lane a t else x.lane b t))))) := by
  intro x
  have hact : x.act = s.cur.amask := taking_selShape s s.cur d a b
  have hsrc : x.src = s.cur := rfl
  simp only [exec_sel, execSel, startGroup_starts h, uniForm, hd, Bool.false_eq_true, if_false, commitLane_starts h, laneResults]
  rw [applyLane d _ (fun t => if bit (guardMask x.src) t = true then x.lane a t else x.lane b t) (fun _ => some 0), hact, hsrc]

end

/-- Settles O6: the word decodes by its fields; a scalar destination takes a, and in the lanes the bit of the guard mask is the
guard test of each thread. -/
theorem selWritesByTheGuardTest : Obligations.SelWritesByTheGuardTest := by
  intro d a b
  refine ⟨decodeGroup_wordT3_sel d a b, fun s h => ?_⟩
  intro x
  cases hd : isScal d with
  | true => rw [exec_sel_of_scal h hd, if_pos rfl]
  | false =>
    have htest : ∀ t ∈ bitsOf s.cur.amask,
        (bit (guardMask s.cur) t = true ↔ fnat s.cur.mode 31 28 = 0 ∨ bit (guardMask s.cur) t = true) :=
      fun t ht => bit_guardMask_iff (BitVec.lt_of_getLsbD ((mem_bitsOf _ t).mp ht))
    rw [exec_sel_of_not_scal h hd, if_neg Bool.false_ne_true]
    congr 3
    exact List.map_congr_left fun t ht => Prod.ext rfl (if_congr (htest t ht) rfl rfl)

end Sys2Proof.Machine
end

section
/-! PROOFS. MZERO: its word decodes to it, and the rows that it writes are those of the active threads (R232, R317). -/
namespace Sys2Proof.Machine

/-! ### The word of MZERO -/

/-- A field within the low bits of a word whose low bits are zero is zero. -/
theorem extractLsb'_append_zero {m n : Nat} (x : BitVec m) {start len : Nat} (h : start + len ≤ n) :
    (x ++ 0#n).extractLsb' start len = 0#len := by
  rw [BitVec.extractLsb'_append_eq_of_add_le h, BitVec.extractLsb'_zero]

/-- Opcode 0xC7 is MZERO of the tile in its a field, where every other field is zero (R232, R317). The opcode is made a variable first:
the decoder's match is too large to rewrite in. -/
theorem decodeGroup_of_fieldOp_mzero {w : Word} (h : fieldOp w = 0xC7#8) (hslot : fieldSlot w = 0#2) (hzero : fieldMZero w = 0#1)
    (hareg : fieldAreg w = 0#8) (hmeta : fieldMeta w = 0#8) (hsel : fieldSel w = 0#3) :
    decodeGroup w = some (.mzero (fieldAcc w)) := by
  have hop : (fieldOp w).toNat = 0xC7 := congrArg BitVec.toNat h
  unfold decodeGroup
  generalize (fieldOp w).toNat = n at hop
  subst hop
  exact if_pos ⟨hslot, hzero, hareg, hmeta, hsel⟩

theorem decodeGroup_mzeroWord (c : BitVec 2) :
    decodeGroup (0xC7#8 ++ c ++ 0#22 : BitVec (8 + 2 + 22)) = some (.mzero c) := by
  have hop : fieldOp (0xC7#8 ++ c ++ 0#22 : BitVec (8 + 2 + 22)) = 0xC7#8 := by
    unfold fieldOp
    rw [BitVec.extractLsb'_append_eq_of_le (by decide), BitVec.extractLsb'_append_eq_of_le (by decide), BitVec.extractLsb'_eq_self]
  have hacc : fieldAcc (0xC7#8 ++ c ++ 0#22 : BitVec (8 + 2 + 22)) = c := by
    unfold fieldAcc
    rw [BitVec.extractLsb'_append_eq_of_le (by decide), BitVec.extractLsb'_append_eq_of_add_le (by decide), BitVec.extractLsb'_eq_self]
  rw [decodeGroup_of_fieldOp_mzero hop, hacc] <;> exact extractLsb'_append_zero _ (by decide)

/-! ### Writing rows of a tile -/

section
variable {p : Partition} {n i j : Nat}

theorem zwf_setTileRow_tiles (k : Nat) (ws : List Word) (h : zwf p.tiles = true) : zwf (setTileRow p n k ws).tiles = true :=
  zwf_zsetRun _ ws h

theorem zget_setTileRow_same {ws : List Word} (h : zwf p.tiles = true) (hj : j < ws.length) :
    zget (setTileRow p n i ws).tiles (n * 4096 + 64 * i + j) = ws.getD j 0 :=
  zget_zsetRun_in _ j ws h hj

/-- Writing one row of a tile leaves its other rows. -/
theorem zget_setTileRow_ne {k : Nat} {ws : List Word} (hne : i ≠ k) (hlen : ws.length = 64) (hj : j < 64) :
    zget (setTileRow p n k ws).tiles (n * 4096 + 64 * i + j) = zget p.tiles (n * 4096 + 64 * i + j) :=
  zget_zsetRun_out _ _ _ ws (by omega)

/-- Rows written to a tile one after another: a row that is listed holds its new elements, and every other row is kept. -/
theorem zget_foldl_setTileRow {f : Nat → List Word} (hf : ∀ k, (f k).length = 64) (g : Nat → Flags) (l : List Nat)
    (h : zwf p.tiles = true) (hj : j < 64) :
    zget ((l.map (fun k => (k, f k, g k))).foldl (fun q r => setTileRow q n r.1 r.2.1) p).tiles (n * 4096 + 64 * i + j) =
      if i ∈ l then (f i).getD j 0 else zget p.tiles (n * 4096 + 64 * i + j) := by
  induction l generalizing p with
  | nil => rfl
  | cons k l ih =>
    rw [List.map_cons, List.foldl_cons, ih (zwf_setTileRow_tiles k (f k) h)]
    by_cases hl : i ∈ l
    · rw [if_pos hl, if_pos (List.mem_cons_of_mem k hl)]
    · rw [if_neg hl]
      by_cases hk : i = k
      · subst hk
        rw [if_pos List.mem_cons_self, zget_setTileRow_same h (hj.trans_eq (hf i).symm)]
      · rw [if_neg (List.not_mem_cons_of_ne_of_not_mem hk hl), zget_setTileRow_ne hk (hf k) hj]

end

/-! ### What MZERO writes -/

/-- The rows that MZERO writes: 64 elements of +0, with no flag, for each active thread. -/
def mzeroRows (o : UnitOp) : List Row := (bitsOf o.act).map (fun i => (i, List.replicate 64 0, 0))

theorem matrixRows_of_mzero {o : UnitOp} {c : BitVec 2} (p : Partition) (h : o.instr = .mzero c) :
    matrixRows p o = ((mzeroRows o).foldl (fun q r => setTileRow q c.toNat r.1 r.2.1) p, mzeroRows o) := by
  rw [matrixRows, h, mzeroRows]

/-- Settles O32: the fold of row writes gives +0 at the rows of the active threads and the old elements at the others, and each row
carries the empty flag set. -/
theorem mzeroClearsActiveRows : Obligations.MzeroClearsActiveRows := by
  intro c
  refine ⟨decodeGroup_mzeroWord c, fun p o hinstr hp => ?_⟩
  rw [matrixRows_of_mzero p hinstr]
  constructor
  · intro i j _ hj
    rw [mzeroRows, zget_foldl_setTileRow (fun _ => List.length_replicate) _ _ hp hj, List.getD_replicate _ hj]
    exact if_congr (mem_bitsOf o.act i) rfl rfl
  · intro r hr
    obtain ⟨i, -, rfl⟩ := List.mem_map.mp hr
    rfl

end Sys2Proof.Machine
end

section
/-! PROOFS. Decoding and encoding agree: the words of each format by their fields, the rows of the decoders one by one, and each
instruction's word (R217 to R232, R366, R367). -/
namespace Sys2Proof

/-! ### Words by their fields -/

/-- A word is two bit vectors put together exactly where they are its upper and its lower part. -/
theorem eq_append_iff {m n : Nat} {a : BitVec m} {b : BitVec n} {w : BitVec (m + n)} :
    w = a ++ b ↔ w.extractLsb' n m = a ∧ w.extractLsb' 0 n = b := by
  constructor
  · rintro rfl
    exact ⟨BitVec.extractLsb'_append_eq_left, BitVec.extractLsb'_append_eq_right⟩
  · rintro ⟨rfl, rfl⟩
    exact BitVec.extractLsb'_append_extractLsb'.symm

/-- A field of a field is a field of the word. -/
theorem extractLsb'_extractLsb' {n : Nat} (x : BitVec n) {s l t k : Nat} (h : t + k ≤ l) :
    (x.extractLsb' s l).extractLsb' t k = x.extractLsb' (s + t) k := by
  apply BitVec.eq_of_getLsbD_eq
  intro i hi
  simp only [BitVec.getLsbD_extractLsb', hi, show t + i < l by omega, decide_true, Bool.true_and, Nat.add_assoc]

theorem extractLsb'_eq_iff_toNat {n s l : Nat} {x : BitVec n} {a : BitVec l} :
    x.extractLsb' s l = a ↔ (x.extractLsb' s l).toNat = a.toNat :=
  ⟨congrArg BitVec.toNat, BitVec.eq_of_toNat_eq⟩

/-! ### The six formats of a group word (R217) -/

@[simp] theorem eq_wordT3_iff {op d a b : BitVec 8} {w : BitVec (8 + 8 + 8 + 8)} :
    w = wordT3 op d a b ↔ (fieldOp w).toNat = op.toNat ∧ fieldD w = d ∧ fieldA w = a ∧ fieldB w = b := by
  unfold wordT3 fieldOp fieldD fieldA fieldB
  rw [← extractLsb'_eq_iff_toNat, eq_append_iff, eq_append_iff, eq_append_iff]
  simp [extractLsb'_extractLsb', and_assoc]

@[simp] theorem eq_wordI16_iff {op d : BitVec 8} {i : BitVec 16} {w : BitVec (8 + 8 + 16)} :
    w = wordI16 op d i ↔ (fieldOp w).toNat = op.toNat ∧ fieldD w = d ∧ fieldImm w = i := by
  unfold wordI16 fieldOp fieldD fieldImm
  rw [← extractLsb'_eq_iff_toNat, eq_append_iff, eq_append_iff]
  simp [extractLsb'_extractLsb', and_assoc]

@[simp] theorem eq_wordB24_iff {op : BitVec 8} {o : BitVec 24} {w : BitVec (8 + 24)} :
    w = wordB24 op o ↔ (fieldOp w).toNat = op.toNat ∧ fieldOff w = o := by
  unfold wordB24 fieldOp fieldOff
  rw [← extractLsb'_eq_iff_toNat, eq_append_iff]

@[simp] theorem eq_wordBP_iff {op : BitVec 8} {q : BitVec 2} {n : BitVec 1} {z : BitVec 2} {p : BitVec 3} {i : BitVec 16}
    {w : BitVec (8 + 2 + 1 + 2 + 3 + 16)} : w = wordBP op q n z p i ↔
      (fieldOp w).toNat = op.toNat ∧ fieldQnt w = q ∧ fieldNeg w = n ∧ fieldBpZero w = z ∧ fieldPred w = p ∧ fieldImm w = i := by
  unfold wordBP fieldOp fieldQnt fieldNeg fieldBpZero fieldPred fieldImm
  rw [← extractLsb'_eq_iff_toNat, eq_append_iff, eq_append_iff, eq_append_iff, eq_append_iff, eq_append_iff]
  simp [extractLsb'_extractLsb', and_assoc]

@[simp] theorem eq_wordM_iff {op : BitVec 8} {c s : BitVec 2} {z : BitVec 1} {a m : BitVec 8} {e : BitVec 3}
    {w : BitVec (8 + 2 + 2 + 1 + 8 + 8 + 3)} : w = wordM op c s z a m e ↔
      (fieldOp w).toNat = op.toNat ∧ fieldAcc w = c ∧ fieldSlot w = s ∧ fieldMZero w = z ∧ fieldAreg w = a ∧ fieldMeta w = m ∧
        fieldSel w = e := by
  unfold wordM fieldOp fieldAcc fieldSlot fieldMZero fieldAreg fieldMeta fieldSel
  rw [← extractLsb'_eq_iff_toNat, eq_append_iff, eq_append_iff, eq_append_iff, eq_append_iff, eq_append_iff, eq_append_iff]
  simp [extractLsb'_extractLsb', and_assoc]

@[simp] theorem eq_wordQ_iff {op : BitVec 8} {q : BitVec 1} {f : BitVec 5} {t : BitVec 2} {v s : BitVec 8}
    {w : BitVec (8 + 1 + 5 + 2 + 8 + 8)} : w = wordQ op q f t v s ↔
      (fieldOp w).toNat = op.toNat ∧ fieldQ w = q ∧ fieldF w = f ∧ fieldTile w = t ∧ fieldA w = v ∧ fieldB w = s := by
  unfold wordQ fieldOp fieldQ fieldF fieldTile fieldA fieldB
  rw [← extractLsb'_eq_iff_toNat, eq_append_iff, eq_append_iff, eq_append_iff, eq_append_iff, eq_append_iff]
  simp [extractLsb'_extractLsb', and_assoc]

/-! ### The formats of a side core's word (R366, R367) -/

@[simp] theorem eq_wordR_iff {f : BitVec 7} {t s : BitVec 5} {f3 : BitVec 3} {d : BitVec 5} {op : BitVec 7}
    {w : BitVec (7 + 5 + 5 + 3 + 5 + 7)} : w = wordR f t s f3 d op ↔
      (sideOp w).toNat = op.toNat ∧ (sideF3 w).toNat = f3.toNat ∧ sideF7 w = f ∧ sideRs2 w = t ∧ sideRs1 w = s ∧ sideRd w = d := by
  unfold wordR sideOp sideF3 sideF7 sideRs2 sideRs1 sideRd
  rw [← extractLsb'_eq_iff_toNat, ← extractLsb'_eq_iff_toNat, eq_append_iff, eq_append_iff, eq_append_iff, eq_append_iff, eq_append_iff]
  simp [extractLsb'_extractLsb']
  tauto

@[simp] theorem eq_wordI_iff {i : BitVec 12} {s : BitVec 5} {f3 : BitVec 3} {d : BitVec 5} {op : BitVec 7}
    {w : BitVec (12 + 5 + 3 + 5 + 7)} : w = wordI i s f3 d op ↔
      (sideOp w).toNat = op.toNat ∧ (sideF3 w).toNat = f3.toNat ∧ sideImmI w = i ∧ sideRs1 w = s ∧ sideRd w = d := by
  unfold wordI sideOp sideF3 sideImmI sideRs1 sideRd
  rw [← extractLsb'_eq_iff_toNat, ← extractLsb'_eq_iff_toNat, eq_append_iff, eq_append_iff, eq_append_iff, eq_append_iff]
  simp [extractLsb'_extractLsb']
  tauto

@[simp] theorem eq_wordU_iff {i : BitVec 20} {d : BitVec 5} {op : BitVec 7} {w : BitVec (20 + 5 + 7)} :
    w = wordU i d op ↔ (sideOp w).toNat = op.toNat ∧ sideImmU w = i ∧ sideRd w = d := by
  unfold wordU sideOp sideImmU sideRd
  rw [← extractLsb'_eq_iff_toNat, eq_append_iff, eq_append_iff]
  simp [extractLsb'_extractLsb']
  tauto

theorem sideImmS_eq_iff {i : BitVec 12} {w : Word} :
    sideImmS w = i ↔ w.extractLsb' 25 7 = i.extractLsb' 5 7 ∧ w.extractLsb' 7 5 = i.extractLsb' 0 5 := by
  rw [eq_comm (b := i)]
  unfold sideImmS
  rw [eq_append_iff (m := 7) (n := 5)]
  simp [eq_comm]

theorem sideImmB_eq_iff {i : BitVec 12} {w : Word} :
    sideImmB w = i ↔ w.extractLsb' 31 1 = i.extractLsb' 11 1 ∧ w.extractLsb' 7 1 = i.extractLsb' 10 1 ∧
      w.extractLsb' 25 6 = i.extractLsb' 4 6 ∧ w.extractLsb' 8 4 = i.extractLsb' 0 4 := by
  rw [eq_comm (b := i)]
  unfold sideImmB
  rw [eq_append_iff (m := 8) (n := 4), eq_append_iff (m := 2) (n := 6), eq_append_iff (m := 1) (n := 1)]
  simp [extractLsb'_extractLsb', and_assoc, eq_comm]

theorem sideImmJ_eq_iff {i : BitVec 20} {w : Word} :
    sideImmJ w = i ↔ w.extractLsb' 31 1 = i.extractLsb' 19 1 ∧ w.extractLsb' 12 8 = i.extractLsb' 11 8 ∧
      w.extractLsb' 20 1 = i.extractLsb' 10 1 ∧ w.extractLsb' 21 10 = i.extractLsb' 0 10 := by
  rw [eq_comm (b := i)]
  unfold sideImmJ
  rw [eq_append_iff (m := 10) (n := 10), eq_append_iff (m := 9) (n := 1), eq_append_iff (m := 1) (n := 8)]
  simp [extractLsb'_extractLsb', and_assoc, eq_comm]

@[simp] theorem eq_wordS_iff {i : BitVec 12} {t s : BitVec 5} {f3 : BitVec 3} {op : BitVec 7} {w : BitVec (7 + 5 + 5 + 3 + 5 + 7)} :
    w = wordS i t s f3 op ↔
      (sideOp w).toNat = op.toNat ∧ (sideF3 w).toNat = f3.toNat ∧ sideImmS w = i ∧ sideRs2 w = t ∧ sideRs1 w = s := by
  rw [sideImmS_eq_iff]
  unfold wordS sideOp sideF3 sideRs2 sideRs1
  rw [← extractLsb'_eq_iff_toNat, ← extractLsb'_eq_iff_toNat, eq_append_iff, eq_append_iff, eq_append_iff, eq_append_iff, eq_append_iff]
  simp [extractLsb'_extractLsb']
  tauto

@[simp] theorem eq_wordB_iff {i : BitVec 12} {t s : BitVec 5} {f3 : BitVec 3} {op : BitVec 7}
    {w : BitVec (1 + 6 + 5 + 5 + 3 + 4 + 1 + 7)} : w = wordB i t s f3 op ↔
      (sideOp w).toNat = op.toNat ∧ (sideF3 w).toNat = f3.toNat ∧ sideImmB w = i ∧ sideRs2 w = t ∧ sideRs1 w = s := by
  rw [sideImmB_eq_iff]
  unfold wordB sideOp sideF3 sideRs2 sideRs1
  rw [← extractLsb'_eq_iff_toNat, ← extractLsb'_eq_iff_toNat, eq_append_iff, eq_append_iff, eq_append_iff, eq_append_iff, eq_append_iff,
    eq_append_iff, eq_append_iff]
  simp [extractLsb'_extractLsb']
  tauto

@[simp] theorem eq_wordJ_iff {i : BitVec 20} {d : BitVec 5} {op : BitVec 7} {w : BitVec (1 + 10 + 1 + 8 + 5 + 7)} :
    w = wordJ i d op ↔ (sideOp w).toNat = op.toNat ∧ sideImmJ w = i ∧ sideRd w = d := by
  rw [sideImmJ_eq_iff]
  unfold wordJ sideOp sideRd
  rw [← extractLsb'_eq_iff_toNat, eq_append_iff, eq_append_iff, eq_append_iff, eq_append_iff, eq_append_iff]
  simp [extractLsb'_extractLsb']
  tauto

/-- The seventeen free bits of a FENCE lie where an immediate and a source register stand. -/
theorem fenceField_eq_iff {w : Word} {f : BitVec 17} :
    w.extractLsb' 15 17 = f ↔ sideImmI w = f.extractLsb' 5 12 ∧ sideRs1 w = f.extractLsb' 0 5 := by
  have hi : (w.extractLsb' 15 17).extractLsb' 5 12 = sideImmI w := extractLsb'_extractLsb' w (by decide)
  have hs : (w.extractLsb' 15 17).extractLsb' 0 5 = sideRs1 w := extractLsb'_extractLsb' w (by decide)
  constructor
  · rintro rfl
    exact ⟨hi.symm, hs.symm⟩
  · rintro ⟨h1, h2⟩
    have hf := (eq_append_iff (m := 12) (n := 5)).mpr ⟨hi.trans h1, hs.trans h2⟩
    exact hf.trans (BitVec.extractLsb'_append_extractLsb' (len := 5))

theorem sideF3_eq_zero_iff {w : Word} : sideF3 w = 0#3 ↔ (sideF3 w).toNat = 0 := extractLsb'_eq_iff_toNat

/-- A field of funct7 is a field of the word. -/
theorem extract_sideF7 {w : Word} {s l : Nat} (h : s + l ≤ 7) : (sideF7 w).extractLsb' s l = w.extractLsb' (25 + s) l :=
  extractLsb'_extractLsb' w h

/-! ### Operands that share a field with zeros -/

@[simp] theorem eq_append_5_3_iff {a : BitVec 5} {b : BitVec 3} {w : BitVec 8} :
    w = a ++ b ↔ w.extractLsb' 3 5 = a ∧ w.extractLsb' 0 3 = b := eq_append_iff (m := 5) (n := 3)

@[simp] theorem eq_append_4_4_iff {a : BitVec 4} {b : BitVec 4} {w : BitVec 8} :
    w = a ++ b ↔ w.extractLsb' 4 4 = a ∧ w.extractLsb' 0 4 = b := eq_append_iff (m := 4) (n := 4)

@[simp] theorem eq_append_3_5_iff {a : BitVec 3} {b : BitVec 5} {w : BitVec 8} :
    w = a ++ b ↔ w.extractLsb' 5 3 = a ∧ w.extractLsb' 0 5 = b := eq_append_iff (m := 3) (n := 5)

@[simp] theorem eq_append_7_1_iff {a : BitVec 7} {b : BitVec 1} {w : BitVec 8} :
    w = a ++ b ↔ w.extractLsb' 1 7 = a ∧ w.extractLsb' 0 1 = b := eq_append_iff (m := 7) (n := 1)

@[simp] theorem eq_append_15_1_iff {a : BitVec 15} {b : BitVec 1} {w : BitVec 16} :
    w = a ++ b ↔ w.extractLsb' 1 15 = a ∧ w.extractLsb' 0 1 = b := eq_append_iff (m := 15) (n := 1)

@[simp] theorem eq_append_6_1_iff {a : BitVec 6} {b : BitVec 1} {w : BitVec 7} :
    w = a ++ b ↔ w.extractLsb' 1 6 = a ∧ w.extractLsb' 0 1 = b := eq_append_iff (m := 6) (n := 1)

@[simp] theorem eq_append_4_1_iff {a : BitVec 4} {b : BitVec 1} {w : BitVec 5} :
    w = a ++ b ↔ w.extractLsb' 1 4 = a ∧ w.extractLsb' 0 1 = b := eq_append_iff (m := 4) (n := 1)

@[simp] theorem eq_append_3_1_iff {a : BitVec 3} {b : BitVec 1} {w : BitVec 4} :
    w = a ++ b ↔ w.extractLsb' 1 3 = a ∧ w.extractLsb' 0 1 = b := eq_append_iff (m := 3) (n := 1)

@[simp] theorem eq_append_2_1_iff {a : BitVec 2} {b : BitVec 1} {w : BitVec 3} :
    w = a ++ b ↔ w.extractLsb' 1 2 = a ∧ w.extractLsb' 0 1 = b := eq_append_iff (m := 2) (n := 1)

@[simp] theorem eq_append_4_3_iff {a : BitVec 4} {b : BitVec 3} {w : BitVec 7} :
    w = a ++ b ↔ w.extractLsb' 3 4 = a ∧ w.extractLsb' 0 3 = b := eq_append_iff (m := 4) (n := 3)

@[simp] theorem eq_append_5_2_iff {a : BitVec 5} {b : BitVec 2} {w : BitVec 7} :
    w = a ++ b ↔ w.extractLsb' 2 5 = a ∧ w.extractLsb' 0 2 = b := eq_append_iff (m := 5) (n := 2)

/-! ### From a decoder's row to the word -/

/-- A row of a decoder encodes to the word that it was read from. -/
def RowEncodes (w : Word) (o : Option Instr) : Prop := ∀ i, o = some i → some w = encode i

theorem rowEncodes_none {w : Word} : RowEncodes w none := fun _ h => nomatch h

theorem rowEncodes_some {w : Word} {x : Instr} (h : some w = encode x) : RowEncodes w (some x) :=
  fun _ hi => Option.some.inj hi ▸ h

theorem rowEncodes_ite {w : Word} {c : Prop} [Decidable c] {x y : Option Instr} (hx : c → RowEncodes w x) (hy : RowEncodes w y) :
    RowEncodes w (if c then x else y) := by
  split
  · exact hx ‹c›
  · exact hy

/-- The opcodes that no instruction has. -/
def opcodesUnassigned : List Nat :=
  [0, 14, 15, 24, 25, 26, 27, 28, 29, 30, 31, 78, 79, 103, 104, 105, 106, 107, 108, 109, 110, 111, 122, 123, 124, 125, 126, 127,
   143, 182, 183, 184, 185, 186, 187, 188, 189, 190, 191, 214, 215, 216, 217, 218, 219, 220, 221, 222, 223, 231, 232, 233, 234,
   235, 236, 237, 238, 239, 248, 249, 250, 251, 252, 253, 254, 255]

/-- The opcodes of one instruction whose word has no unused field. -/
def opcodesFull : List Nat :=
  [1, 4, 6, 23, 32, 33, 34, 35, 36, 37, 38, 41, 42, 43, 45, 46, 47, 51, 52, 53, 54, 55, 56, 57, 58, 59, 60, 61, 63, 64, 65, 66, 67,
   68, 72, 73, 74, 75, 76, 77, 80, 81, 82, 83, 84, 85, 88, 89, 90, 91, 98, 101, 112, 113, 118, 119, 128, 129, 130, 131, 132, 133,
   134, 135, 136, 137, 140, 141, 147, 148, 149, 150, 151, 152, 153, 154, 155, 170, 176, 179, 209, 227, 228, 242, 243, 245, 246]

/-- The opcodes of two instructions, which a field of the word tells apart. -/
def opcodesPaired : List Nat := [13, 241, 244]

/-- The opcodes of one instruction whose word has unused fields, which are zero. -/
def opcodesPadded : List Nat :=
  [2, 3, 5, 7, 8, 9, 10, 11, 12, 16, 17, 18, 19, 20, 21, 22, 39, 40, 44, 48, 49, 50, 62, 69, 70, 71, 86, 87, 92, 93, 94, 95, 96,
   97, 99, 100, 102, 114, 115, 116, 117, 120, 121, 138, 139, 142, 144, 145, 146, 156, 157, 158, 159, 160, 161, 162, 163, 164, 165,
   166, 167, 168, 169, 171, 172, 173, 174, 175, 177, 178, 180, 181, 192, 193, 194, 195, 196, 197, 198, 199, 200, 201, 202, 203,
   204, 205, 206, 207, 208, 210, 211, 212, 213, 224, 225, 226, 229, 230, 240, 247]

theorem opcode_classes : ∀ n < 256, n ∈ opcodesUnassigned ∨ n ∈ opcodesFull ∨ n ∈ opcodesPaired ∨ n ∈ opcodesPadded := by
  decide +kernel

section
variable {w : Word}

theorem rowEncodes_unassigned (h : (fieldOp w).toNat ∈ opcodesUnassigned) : RowEncodes w (decodeGroup w) := by
  unfold decodeGroup
  generalize (fieldOp w).toNat = n at h
  unfold opcodesUnassigned at h
  fin_cases h
  all_goals exact rowEncodes_none

theorem rowEncodes_full (h : (fieldOp w).toNat ∈ opcodesFull) : RowEncodes w (decodeGroup w) := by
  unfold decodeGroup
  generalize hop : (fieldOp w).toNat = n at h
  unfold opcodesFull at h
  fin_cases h
  all_goals
    refine rowEncodes_some (congrArg some ?_)
    simp [hop]

theorem rowEncodes_paired (h : (fieldOp w).toNat ∈ opcodesPaired) : RowEncodes w (decodeGroup w) := by
  unfold decodeGroup
  generalize hop : (fieldOp w).toNat = n at h
  unfold opcodesPaired at h
  fin_cases h
  all_goals
    refine rowEncodes_ite (fun h => rowEncodes_some (congrArg some ?_))
      (rowEncodes_ite (fun h => rowEncodes_some (congrArg some ?_)) rowEncodes_none) <;> simp [hop, h]

theorem rowEncodes_padded (h : (fieldOp w).toNat ∈ opcodesPadded) : RowEncodes w (decodeGroup w) := by
  unfold decodeGroup
  generalize hop : (fieldOp w).toNat = n at h
  unfold opcodesPadded at h
  fin_cases h
  all_goals
    refine rowEncodes_ite (fun h => rowEncodes_some (congrArg some ?_)) rowEncodes_none
    simp [extractLsb'_extractLsb', hop, h]

end

/-- The rows of the group decoder, by the class of the opcode. -/
theorem rowEncodes_decodeGroup (w : Word) : RowEncodes w (decodeGroup w) := by
  obtain h | h | h | h := opcode_classes (fieldOp w).toNat (BitVec.isLt _)
  · exact rowEncodes_unassigned h
  · exact rowEncodes_full h
  · exact rowEncodes_paired h
  · exact rowEncodes_padded h

/-- Every row of the Mbadun table is a word of format R (R367). -/
theorem encode_of_decodeMbadun {i : Instr} {w : Word} (h : decodeMbadun w = some i) : some w = encode i := by
  unfold decodeMbadun at h
  repeat' split at h
  all_goals cases h
  all_goals refine congrArg some (eq_wordR_iff.mpr ?_)
  all_goals simp [extract_sideF7, *]
  all_goals exact BitVec.eq_of_toNat_eq ‹_›

/-- Every row of the RV32IM table is a word of its format (R366). -/
theorem encode_of_decodeRv {i : Instr} {w : Word} (h : decodeRv w = some i) : some w = encode i := by
  unfold decodeRv at h
  repeat' split at h
  all_goals cases h
  all_goals refine congrArg some ?_
  case h_10.isTrue.refl => exact eq_wordI_iff.mpr (by simp [← fenceField_eq_iff, *])
  all_goals simp [*]
  all_goals exact BitVec.eq_of_toNat_eq ‹_›

theorem encode_of_decodeSide {i : Instr} {w : Word} (h : decodeSide w = some i) : some w = encode i := by
  unfold decodeSide at h
  split at h
  · next hm => exact encode_of_decodeMbadun (hm.trans h)
  · exact encode_of_decodeRv h

/-! ### From an instruction to its row -/

/-- The instructions by what their rows ask: no field, zeros in the unused fields, or those and another row that comes first; then the
two sets of side-core words, and the steps that no word encodes. -/
theorem decode_of_encode {i : Instr} {w : Word} (h : some w = encode i) : decodeGroup w = some i ∨ decodeSide w = some i := by
  cases i
  case bra | call | jpush | rvdonate | add | sub | mul | mulhi | mad | min | max | and | or | xor | shl | shr | sra | bfx |
    bfi | sel | cmpeq | cmpne | cmplt | cmple | cmpltn | cmplen | ldi | ldih | leas | addI | mulI | andI | orI | xorI | cmpeqI
    | cmpneI | cmpltI | cmpleI | cmpltnI | cmplenI | fadd | fsub | fmul | fma | fmin | fmax | fcmpeq | fcmplt | fcmple |
    fcmpun | cvt | pack | shfl | shflx | rduni | bcast | ldb | ldh | ldw | ldd | ldq | stb | sth | stw | std | stq | ldacq |
    strel | aadd | afadd | amin | amax | aand | aor | axor | axchg | acas | waitph | anew | aquota | lock | hltrd | hltwr |
    tdep | mbxreg | csrrd | csrwr =>
    have hw := Option.some.inj h
    simp at hw
    obtain ⟨ho, hw⟩ := hw
    left
    unfold decodeGroup
    generalize (fieldOp w).toNat = n at ho
    subst ho
    exact congrArg some (by simp [hw])
  case brp | jmpr | ret | bdiv | join | exit | yield | nop | trap | rte | setmodeI | setmode | setfmt | getmode | ldtab |
    regacq | regrel | abs | neg | not | popc | clz | brev | mov | shlI | shrI | sraI | fneg | fabs | frcp | frsq | fsin | fcos
    | fexp2 | flog2 | qnt | dqnt | unpack | ballot | vany | vall | matchv | xpair | xshfl | lds | sts | pref | fenceA | fenceR
    | fenceAr | redadd | redfadd | redmin | redmax | redor | cpy | cpys | tagwany | tagwall | tagff | tagclr | barinit |
    bararr | barexp | cntwait | enq | deq | monitor | mwait | adrop | aseal | aquery | cbsync | mloadb | mma | mmas | mmab |
    mbyp | mdrain | mstore | mzero | qinit | qappend | qappl | qapplt | qappr | qapprt | qcount | qcompact | qdense | trylock
    | unlock | lkprobe | lkfree | wpset | wpclr | wprd | hltstep | hltres | tspawn | tdoneFinal | evroute | preack =>
    have hw := Option.some.inj h
    simp [extractLsb'_extractLsb'] at hw
    obtain ⟨ho, hw⟩ := hw
    left
    unfold decodeGroup
    generalize (fieldOp w).toNat = n at ho
    subst ho
    exact (if_pos (by simp [hw])).trans (congrArg some (by simp [hw]))
  case rteSkip | tdoneGrain | evrouteSignal =>
    have hw := Option.some.inj h
    simp at hw
    obtain ⟨ho, hw⟩ := hw
    left
    unfold decodeGroup
    generalize (fieldOp w).toNat = n at ho
    subst ho
    exact (if_neg (by simp [hw])).trans ((if_pos (by simp [hw])).trans (congrArg some (by simp [hw])))
  case mhalt | mevwait | msignal | mtimer | mqpush | mqpop | mqcnt | mtagr | mcpy | mbarc | mavdec =>
    have hw := Option.some.inj h
    simp [eq_wordR_iff, extract_sideF7] at hw
    right
    simp [decodeSide, decodeMbadun, hw]
  case rvSlli | rvSrli | rvSrai | rvAdd | rvSub | rvSll | rvSlt | rvSltu | rvXor | rvSrl | rvSra | rvOr | rvAnd | rvMul |
    rvMulh | rvMulhsu | rvMulhu | rvDiv | rvDivu | rvRem | rvRemu | rvLui | rvAuipc | rvJal | rvJalr | rvLb | rvLh | rvLw |
    rvLbu | rvLhu | rvAddi | rvSlti | rvSltiu | rvXori | rvOri | rvAndi | rvFence | rvBeq | rvBne | rvBlt | rvBge | rvBltu |
    rvBgeu | rvSb | rvSh | rvSw =>
    have hw := Option.some.inj h
    simp at hw
    right
    simp [decodeSide, decodeMbadun, decodeRv, sideF3_eq_zero_iff, fenceField_eq_iff, hw]
  all_goals nomatch h

/-- Settles O55: each decoder's row encodes to the word that it was read from, and each instruction's word is read by its row. -/
theorem decodingInvertsEncoding : Obligations.DecodingInvertsEncoding := by
  intro i w
  refine ⟨fun h => decode_of_encode h.symm, fun h => ?_⟩
  rcases h with h | h
  · exact (rowEncodes_decodeGroup w i h).symm
  · exact (encode_of_decodeSide h).symm

end Sys2Proof
end

section
/-! PROOFS. The integer and word instructions: each is the common course of an arithmetic instruction or of a compare, with a function of
its operands that the statement names (R131, R253 to R259). -/
namespace Sys2Proof.Machine

/-- An instruction that takes the common course of an arithmetic instruction computes its word. -/
theorem computes_of_arith {i : Instr} {d : BitVec 8} {sh : State → Shape} {f : State → (BitVec 8 → Word) → Word × Flags}
    (h : ∀ s, exec i s = arith s (sh s) d (f s)) : Computes i d sh (fun s r => (f s r).1) := by
  intro s hs
  rw [h s, arith_starts hs]

/-- An instruction that takes the common course of a compare decides its relation. -/
theorem decides_of_compare {i : Instr} {d : BitVec 8} {srcs : List (BitVec 8)} {sh : State → Shape}
    {f : State → (BitVec 8 → Word) → Word × Bool × Flags} (h : ∀ s, exec i s = compare s (sh s) d srcs (f s)) :
    Decides i d srcs sh (fun s r => ((f s r).1, (f s r).2.1)) := by
  intro s hs
  rw [h s, compare_starts hs]

/-- Settles O1: every form takes the common course with its function; ABS is written with the absolute value of an integer. -/
theorem integerArithmeticCompletes : Obligations.IntegerArithmeticCompletes := by
  intro d a b i
  have habs : ∀ m w, absFn m w = fit1 m (fun x => |x|) w := fun m w => by simp only [absFn, Int.abs_eq_natAbs]
  refine ⟨?add, ?sub, ?mul, ?mulhi, ?mad, ?min, ?max, ?abs, ?neg, ?addI, ?mulI⟩
  case abs =>
    simp only [← habs]
    exact computes_of_arith (f := fun s r => absFn s.cur.mode (r a)) fun _ => rfl
  all_goals exact computes_of_arith (f := fun s r => (_, _)) fun _ => rfl

/-- Settles O2: every shift takes the common course with its function of the value and the amount. -/
theorem shiftsComplete : Obligations.ShiftsComplete := by
  intro d a b i
  refine ⟨?shl, ?shr, ?sra, ?shlI, ?shrI, ?sraI⟩
  all_goals exact computes_of_arith (f := fun s r => (_, _)) fun _ => rfl

/-- A bit of a mask is set where it is listed. -/
theorem getLsbD_foldl_or {n : Nat} (l : List Nat) (m : BitVec n) {t : Nat} (ht : t < n) :
    (l.foldl (fun m i => m ||| BitVec.ofNat n (2 ^ i)) m).getLsbD t = (m.getLsbD t || decide (t ∈ l)) := by
  induction l generalizing m with
  | nil => simp
  | cons a l ih =>
    have ha : (BitVec.ofNat n (2 ^ a)).getLsbD t = decide (t = a) := by
      rw [BitVec.getLsbD_ofNat, Nat.testBit_two_pow, decide_eq_true ht, Bool.true_and]
      exact decide_eq_decide.mpr eq_comm
    rw [List.foldl_cons, ih, BitVec.getLsbD_or, ha, Bool.or_assoc]
    simp [List.mem_cons, Bool.decide_or]

theorem getLsbD_maskOf {n : Nat} (l : List Nat) {t : Nat} (ht : t < n) : (maskOf n l).getLsbD t = decide (t ∈ l) := by
  rw [maskOf, getLsbD_foldl_or l 0 ht]
  simp

/-- BREV's mask of the mirrored places is the reversed word. -/
theorem reverseBits_eq (x : Word) : reverseBits x = x.reverse := by
  apply BitVec.eq_of_getLsbD_eq
  intro i hi
  have hmem : i ∈ (bitsOf x).map (fun j => 31 - j) ↔ x.getLsbD (31 - i) = true := by
    simp only [List.mem_map, mem_bitsOf]
    constructor
    · rintro ⟨j, hj, rfl⟩
      have := BitVec.lt_of_getLsbD hj
      rwa [show 31 - (31 - j) = j by omega]
    · exact fun h => ⟨31 - i, h, by omega⟩
  rw [reverseBits, getLsbD_maskOf _ hi, BitVec.getLsbD_reverse, BitVec.getMsbD, Bool.eq_iff_iff, decide_eq_true_eq, hmem]
  simp [hi]

/-- Settles O3: every word instruction takes the common course with its function of the whole words. -/
theorem wordInstructionsComplete : Obligations.WordInstructionsComplete := by
  intro d a b i h
  refine ⟨?and, ?or, ?xor, ?not, ?popc, ?clz, ?brev, ?bfx, ?bfi, ?ldi, ?ldih, ?andI, ?orI, ?xorI⟩
  case brev =>
    simp only [← reverseBits_eq]
    exact computes_of_arith (f := fun _ r => (reverseBits (r a), 0)) fun _ => rfl
  all_goals exact computes_of_arith (f := fun s r => (_, _)) fun _ => rfl

/-- Settles O4: every compare takes the common course with its relation of the elements. -/
theorem integerComparesComplete : Obligations.IntegerComparesComplete := by
  intro d a b i
  refine ⟨?eq, ?ne, ?lt, ?le, ?ltn, ?len, ?eqI, ?neI, ?ltI, ?leI, ?ltnI, ?lenI⟩
  case eq | ne | lt | le | ltn | len =>
    exact decides_of_compare (f := fun s r => cmpElems (mType s.cur.mode) _ _ (r a) (r b)) fun _ => rfl
  all_goals
    exact decides_of_compare (f := fun s r => cmpElems (mType s.cur.mode) _ _ (r a) (immWord (mType s.cur.mode) _ i)) fun _ => rfl

/-! ### TYPE i32 (R131, R255) -/

/-- The one element of a word under i32 is the word as a signed integer. -/
theorem val_elemAt_i32 (x : Word) : val 0 (elemAt x 32 0) = x.toInt := by
  have hx := x.isLt
  simp only [val, elemVal, toSigned, elemAt, intWidth, intSigned, BitVec.toInt]
  simp
  omega

/-- The word of one 32-bit element. -/
theorem joinElems_i32 (n : Nat) : joinElems 32 [n] = BitVec.ofNat 32 n := by
  apply BitVec.eq_of_toNat_eq
  simp [joinElems]

theorem ofNat_wrap_i32 (v : Int) : BitVec.ofNat 32 (wrap 32 v) = BitVec.ofInt 32 v := by
  apply BitVec.eq_of_toNat_eq
  have hv : (v % 2 ^ 32).toNat < 2 ^ 32 := by omega
  rw [BitVec.toNat_ofNat, BitVec.toNat_ofInt, wrap, Nat.mod_eq_of_lt hv]
  rfl

theorem intElems_i32 (ws : List Word) (f : List Nat → Nat × Flags) :
    intElems 0 ws f = (BitVec.ofNat 32 (f (ws.map (fun v => elemAt v 32 0))).1, (f (ws.map (fun v => elemAt v 32 0))).2) := by
  have hr : List.range (intCount 0) = [0] := rfl
  rw [intElems, hr, List.map_singleton, joinRes, List.map_singleton, List.foldl_cons, List.foldl_nil]
  exact Prod.ext (joinElems_i32 _) (BitVec.zero_or ..)

/-- A two-operand form at i32 fits the exact result of the two signed words. -/
theorem fit2_i32 {m : Word} (hm : mType m = 0) (f : Int → Int → Int) (a b : Word) :
    fit2 m f a b = (BitVec.ofNat 32 (fitInt (mSat m) 32 true (f a.toInt b.toInt)).1, (fitInt (mSat m) 32 true (f a.toInt b.toInt)).2) := by
  rw [fit2, hm, intElems_i32]
  simp only [List.map_cons, List.map_nil, List.getD_cons_zero, List.getD_cons_succ, val_elemAt_i32]
  rfl

theorem fitMad_i32 {m : Word} (hm : mType m = 0) (a b d : Word) :
    fitMad m a b d = (BitVec.ofNat 32 (fitInt (mSat m) 32 true (a.toInt * b.toInt + d.toInt)).1,
      (fitInt (mSat m) 32 true (a.toInt * b.toInt + d.toInt)).2) := by
  rw [fitMad, hm, intElems_i32]
  simp only [List.map_cons, List.map_nil, List.getD_cons_zero, List.getD_cons_succ, val_elemAt_i32]
  rfl

theorem ofNat_fitInt_wraps (v : Int) : (BitVec.ofNat 32 (fitInt false 32 true v).1, (fitInt false 32 true v).2) = (BitVec.ofInt 32 v, 0) := by
  rw [fitInt, if_neg Bool.false_ne_true, ofNat_wrap_i32]

theorem ofInt_toInt_sub (a b : Word) : BitVec.ofInt 32 (a.toInt - b.toInt) = a - b := by
  rw [Int.sub_eq_add_neg, BitVec.ofInt_add, BitVec.ofInt_neg, BitVec.ofInt_toInt, BitVec.ofInt_toInt, BitVec.sub_eq_add_neg]

/-- Under SAT the element is the nearest signed 32-bit value, and SA tells that it is another one. -/
theorem ofNat_fitInt_saturates (v : Int) :
    let c := if v < -(2 ^ 31) then -(2 ^ 31) else if 2 ^ 31 - 1 < v then 2 ^ 31 - 1 else v
    (BitVec.ofNat 32 (fitInt true 32 true v).1, (fitInt true 32 true v).2) = (BitVec.ofInt 32 c, if v = c then 0 else fSA) := by
  have hmin : typeMin 32 true = -(2 ^ 31) := rfl
  have hmax : typeMax 32 true = 2 ^ 31 - 1 := rfl
  rw [fitInt, if_pos rfl, clamp, hmin, hmax]
  by_cases h1 : v < -(2 ^ 31)
  · simp only [if_pos h1, ofNat_wrap_i32, if_neg h1.ne]
  · by_cases h2 : 2 ^ 31 - 1 < v
    · simp only [if_neg h1, if_pos h2, ofNat_wrap_i32, if_neg h2.ne']
    · simp only [if_neg h1, if_neg h2, ofNat_wrap_i32, if_true]

/-- Settles O7: at i32 an element is the whole signed word, and fitting it is reduction modulo 2^32, or clamping under SAT. -/
theorem i32ArithmeticWrapsOrSaturates : Obligations.I32ArithmeticWrapsOrSaturates := by
  intro m a b d hm
  simp only [fit2_i32 hm, fitMad_i32 hm]
  refine ⟨fun hs => ?_, fun hs => ?_⟩
  · rw [hs]
    simp only [ofNat_fitInt_wraps, ofInt_toInt_sub, BitVec.ofInt_add, BitVec.ofInt_mul, BitVec.ofInt_toInt, and_self]
  · rw [hs]
    exact ofNat_fitInt_saturates _

end Sys2Proof.Machine
end

section
/-! PROOFS. The float instructions, the conversions and the element moves: each is the common course of an arithmetic instruction or of a
compare, with a function of its operands that the statement names (R142 to R144, R268 to R281). -/
namespace Sys2Proof.Machine

/-- Settles O8: every form takes the common course with its function of the decoded elements. -/
theorem floatArithmeticCompletes : Obligations.FloatArithmeticCompletes := by
  intro d a b
  refine ⟨?add, ?sub, ?mul, ?min, ?max, ?fma, ?neg, ?abs⟩
  all_goals exact computes_of_arith (f := fun s r => (_, _)) fun _ => rfl

/-- The answers of a float compare are its relation of each pair of elements; the flags that it raises play no part in them. -/
theorem fcmpElems_eq {rel : Nat} {r : Fp → Fp → Bool} (hr : ∀ x y, (compareFp rel x y).1 = r x y) (m a b : Word) :
    ((fcmpElems m rel a b).1, (fcmpElems m rel a b).2.1) =
      (let fm := fmtOf (mType m)
       let rs := (List.range (32 / fm.width)).map (fun e =>
         r (decodeFp fm (mFtz m) (elemAt a fm.width e)) (decodeFp fm (mFtz m) (elemAt b fm.width e)))
       (joinElems fm.width (rs.map (fun h => if h then 2 ^ fm.width - 1 else 0)), rs.all id)) := by
  simp only [fcmpElems, List.map_map, List.all_map, Function.comp_def, hr, id]

/-- An instruction that takes the common course of the float compares decides the relation of its number. -/
theorem decides_of_fcmp {i : Instr} {d a b : BitVec 8} {rel : Nat} {r : Fp → Fp → Bool} (hi : ∀ s, exec i s = fcmp s d a b rel)
    (hr : ∀ x y, (compareFp rel x y).1 = r x y) :
    Decides i d [a, b] (fun s => floatShape s.cur.mode (cmpShape d [a, b])) (fun s w =>
      let fm := fmtOf (mType s.cur.mode)
      let rs := (List.range (32 / fm.width)).map (fun e =>
        r (decodeFp fm (mFtz s.cur.mode) (elemAt (w a) fm.width e)) (decodeFp fm (mFtz s.cur.mode) (elemAt (w b) fm.width e)))
      (joinElems fm.width (rs.map (fun h => if h then 2 ^ fm.width - 1 else 0)), rs.all id)) := by
  simpa only [fcmpElems_eq hr] using decides_of_compare (f := fun s w => fcmpElems s.cur.mode rel (w a) (w b)) hi

/-- Settles O9: every float compare takes the common course, and the relation of its number is the stated one. -/
theorem floatComparesComplete : Obligations.FloatComparesComplete := by
  intro d a b
  refine ⟨?eq, ?lt, ?le, ?un⟩
  case eq => exact decides_of_fcmp (rel := 0) (r := fun x y => !(x.isNan || y.isNan) && decide (cmpFp x y = 0)) (fun _ => rfl) fun _ _ => rfl
  case lt => exact decides_of_fcmp (rel := 1) (r := fun x y => !(x.isNan || y.isNan) && decide (cmpFp x y < 0)) (fun _ => rfl) fun _ _ => rfl
  case le => exact decides_of_fcmp (rel := 2) (r := fun x y => !(x.isNan || y.isNan) && decide (cmpFp x y ≤ 0)) (fun _ => rfl) fun _ _ => rfl
  case un => exact decides_of_fcmp (rel := 3) (r := fun x y => x.isNan || y.isNan) (fun _ => rfl) fun _ _ => rfl

/-- Settles O10: every form takes the common course with its function of the word. -/
theorem conversionsAndSpecialFunctionsComplete : Obligations.ConversionsAndSpecialFunctionsComplete := by
  refine ⟨fun d a b t f e => ⟨?cvt, ?qnt, ?dqnt, ?pack, ?unpack⟩, fun d a => ⟨?frcp, ?frsq, ?fsin, ?fcos, ?fexp2, ?flog2⟩⟩
  all_goals exact computes_of_arith (f := fun s r => (_, _)) fun _ => rfl

end Sys2Proof.Machine
end

section
/-! PROOFS. The moves, the exchanges and the lane-to-uniform instructions: what each writes is what its commit writes (R98, R258, R261,
R262). -/
namespace Sys2Proof.Machine

/-- An instruction that starts undisturbed has a legal encoding (R193). -/
theorem Starts.legal {s : State} {sh : Shape} (h : Starts s sh) : sh.legal = true := by
  by_contra hl
  have hc : startCause s s.focus.core s.cur sh false = some cILLEGAL := by simp [startCause, hl]
  have := h.2.2.1
  rw [hc] at this
  cases this

/-- The moves of a lane instruction write one word to each thread that takes part. -/
theorem commitLane_laneMoves {s : State} {sh : Shape} (h : Starts s sh) (d : BitVec 8) (f : Nat → Word) :
    commitLane (startCtx s sh) (s.setCur (begun s)) (laneMoves (startCtx s sh) d f) =
      s.goesOn [] (writeLanes s.cur d ((bitsOf (startCtx s sh).act).map (fun t => (t, f t)))) := by
  rw [commitLane_starts h, laneMoves, applyLane d _ f (fun _ => none)]

/-- A uniform write of one scalar by a lane-to-uniform instruction opens no latency. -/
theorem commitUni_writeScal {s : State} {sh : Shape} (h : Starts s sh) (d : BitVec 8) (v : Word) (vals : List Word) (fl : Option Flags) :
    commitUni (startCtx s sh) (s.setCur (begun s)) [] vals fl (fun u => u.updCur (fun g => writeScal g d v)) =
      s.goesOn [] (writeScal s.cur d v) :=
  commitUni_starts h [] vals fl (fun g => writeScal g d v) (writeScal_at d v) (fun _ => rfl)

theorem commitUni_writeScal64 {s : State} {sh : Shape} (h : Starts s sh) (d : BitVec 8) (v : BitVec 64) (vals : List Word) (fl : Option Flags) :
    commitUni (startCtx s sh) (s.setCur (begun s)) [] vals fl (fun u => u.updCur (fun g => writeScal64 g d v)) =
      s.goesOn [] (writeScal64 s.cur d v) :=
  commitUni_starts h [] vals fl (fun g => writeScal64 g d v) (writeScal64_at d v) (fun g => writeScal64_calm g d v)

/-- An instruction that finds no thread advances. -/
theorem retire_begun {s : State} {sh : Shape} (h : Starts s sh) : retire (s.setCur (begun s)) none 0 = s.goesOn [] s.cur := by
  rw [retire_none, updCur_setCur, goOn_none (show (begun s).calm = (none, 0) from h.calm)]
  simp only [cur_setCur]
  rfl

/-- The common course of a vote. -/
theorem vote_starts {s : State} {sh : Shape} (h : Starts s sh) (d : BitVec 8) (f : Ctx → Word) :
    vote s sh d f = .next (s.goesOn [] (if taking s sh = 0 then s.cur else writeScal s.cur d (f (startCtx s sh)))) := by
  rw [vote, startGroup_starts h]
  by_cases ht : taking s sh = 0
  · rw [if_pos ht, if_pos (show (startCtx s sh).act = 0 from ht)]
    exact congrArg _ (retire_begun h)
  · rw [if_neg ht, if_neg (show ¬(startCtx s sh).act = 0 from ht), commitUni_writeScal h]

/-- An instruction that GUARD does not narrow is of every thread of the active mask. -/
theorem taking_of_full {s : State} {sh : Shape} (h : narrows sh = false) : taking s sh = s.cur.amask := by
  rw [taking, h]; rfl

/-- What lane results of a register pair write, whatever flags they raise. -/
theorem applyPair (d : BitVec 8) (l : List Nat) (v : Nat → BitVec 64) (fl : Option Flags) (g : Group) :
    (l.map (fun t => (⟨t, [(d, (v t).setWidth 32), (d + 1, (v t).extractLsb' 32 32)], none, fl⟩ : ThrRes))).foldl applyThr g =
      l.foldl (fun g t => writeLane (writeLane g d t ((v t).setWidth 32)) (d + 1) t ((v t).extractLsb' 32 32)) g := by
  rw [← applyLane64 d l v g, List.foldl_map, List.foldl_map]
  rfl

theorem exec_mov (d a : BitVec 8) (s : State) : exec (.mov d a) s = execMov d a s := rfl
theorem exec_leas (d a b : BitVec 8) (s : State) : exec (.leas d a b) s = execLeas d a b s := rfl

/-- MOV to a predicate from a source that is the same for all threads is uniform: GUARD does not narrow it. -/
theorem taking_movShape {s : State} {d a : BitVec 8} (h : movLane d a = false) : taking s (movShape d a) = s.cur.amask :=
  taking_of_full (by simp [narrows, movShape, mkShape, h])

section
variable {s : State} {d a b : BitVec 8}

theorem exec_mov_of_vec (h : Starts s (movShape d a)) (hv : isVec d = true) :
    let x := startCtx s (movShape d a)
    exec (.mov d a) s = .next (s.goesOn [] (writeLanes s.cur d ((bitsOf x.act).map (fun t => (t, x.lane a t))))) := by
  intro x
  rw [exec_mov, execMov, startGroup_starts h, if_pos hv, laneResults, commitLane_starts h,
    applyLane d _ (fun i => x.lane a i) (fun _ => some 0)]

theorem exec_mov_of_scal (h : Starts s (movShape d a)) (hd : isScal d = true) :
    exec (.mov d a) s = .next (s.goesOn [d] (writeScal s.cur d (movUni s.tick (startCtx s (movShape d a)) a))) := by
  have hv : ¬isVec d = true := by simp [((class_excl d).2.1 hd).1]
  rw [exec_mov, execMov, startGroup_starts h, if_neg hv, if_pos hd, commitScal_starts h]
  rfl

/-- A MOV that is legal and writes no word writes a predicate: in the lanes, or for the whole active mask. -/
theorem exec_mov_of_pred (h : Starts s (movShape d a)) (hv : ¬isVec d = true) (hs : ¬isScal d = true) :
    let x := startCtx s (movShape d a)
    exec (.mov d a) s = .next (if perThread [a] || isPred a then
      s.goesOn [] ((bitsOf x.act).foldl (fun g t =>
        writePred g d (maskOf 64 [t]) (if bit (x.lane a t) 0 then maskOf 64 [t] else 0)) s.cur)
      else s.goesOn [d] (writePred s.cur d s.cur.amask (if bit (x.uni a) 0 then s.cur.amask else 0))) := by
  intro x
  have hp : isPred d = true := by
    have hl := h.legal
    simp only [movShape, mkShape, if_neg hv, if_neg hs, Bool.and_eq_true] at hl
    exact hl.1
  have hlane : movLane d a = (perThread [a] || isPred a) := by simp [movLane, hv, hp]
  rw [exec_mov, execMov, startGroup_starts h, if_neg hv, if_neg hs, ← hlane]
  cases hm : movLane d a with
  | true =>
    rw [if_pos rfl, if_pos rfl, commitLane_starts h, applyPred d _ (fun i => bit (x.lane a i) 0) (fun _ => some 0)]
  | false =>
    rw [if_neg Bool.false_ne_true, if_neg Bool.false_ne_true, ← taking_movShape hm]
    exact congrArg _ (commitUni_starts h [d] [] (some 0)
      (fun g => writePred g d x.act (if bit (x.uni a) 0 then x.act else 0)) (writePred_at d _ _) (fun _ => rfl))

theorem exec_leas_of_scal (h : Starts s (leasShape d a b)) (hd : isScal d = true) :
    let x := startCtx s (leasShape d a b)
    exec (.leas d a b) s = .next (s.goesOn [d, d + 1] (writeScal64 s.cur d (leasFn (x.uni a) (x.uni (a + 1)) (x.uni b)))) := by
  rw [exec_leas, execLeas, startGroup_starts h, uniForm, if_pos hd, commitScal64_starts h]

theorem exec_leas_of_not_scal (h : Starts s (leasShape d a b)) (hd : ¬isScal d = true) :
    let x := startCtx s (leasShape d a b)
    exec (.leas d a b) s = .next (s.goesOn [] ((bitsOf x.act).foldl (fun g t =>
      let v := leasFn (x.lane a t) (x.lane (a + 1) t) (x.lane b t)
      writeLane (writeLane g d t (v.setWidth 32)) (d + 1) t (v.extractLsb' 32 32)) s.cur)) := by
  intro x
  rw [exec_leas, execLeas, startGroup_starts h, uniForm, if_neg hd, commitLane_starts h,
    applyPair d _ (fun i => leasFn (x.lane a i) (x.lane (a + 1) i) (x.lane b i))]

end

/-- Settles O5: each class of destination takes the commit of its pipe. -/
theorem movesComplete : Obligations.MovesComplete := by
  intro d a b s
  refine ⟨fun h => ?mov, fun h => ?leas⟩
  case mov =>
    intro x
    by_cases hv : isVec d = true
    · rw [exec_mov_of_vec h hv, if_pos hv]
    · by_cases hs : isScal d = true
      · rw [exec_mov_of_scal h hs, if_neg hv, if_pos hs]
      · rw [exec_mov_of_pred h hv hs, if_neg hv, if_neg hs]
  case leas =>
    intro x sum
    by_cases hs : isScal d = true
    · rw [exec_leas_of_scal h hs, if_pos hs]; rfl
    · rw [exec_leas_of_not_scal h hs, if_neg hs]; rfl

/-! ### Exchanges and votes -/

/-- The low six bits of a word name one of 64 threads. -/
theorem fnat_low6 (w : Word) : fnat w 5 0 = w.toNat % 64 := by simp [fnat]

theorem exec_shfl (d a b : BitVec 8) (s : State) : exec (.shfl d a b) s = execShfl d a b s := rfl
theorem exec_shflx (d a b : BitVec 8) (s : State) : exec (.shflx d a b) s = execShflx d a b s := rfl
theorem exec_bcast (d a b : BitVec 8) (s : State) : exec (.bcast d a b) s = execBcast d a b s := rfl
theorem exec_matchv (d a : BitVec 8) (s : State) : exec (.matchv d a) s = execMatchv d a s := rfl
theorem exec_vany (d a : BitVec 8) (s : State) : exec (.vany d a) s = execVany d a s := rfl
theorem exec_vall (d a : BitVec 8) (s : State) : exec (.vall d a) s = execVall d a s := rfl
theorem exec_rduni (d a b : BitVec 8) (s : State) : exec (.rduni d a b) s = execRduni d a b s := rfl
theorem exec_ballot (d a : BitVec 8) (s : State) : exec (.ballot d a) s = execBallot d a s := rfl

/-- MATCH to a vector pair gives each thread the mask of the threads that hold its value. -/
theorem exec_matchv_of_vec {s : State} {d a : BitVec 8} (h : Starts s (matchShape d a)) (hv : isVec d = true) :
    let x := startCtx s (matchShape d a)
    exec (.matchv d a) s = .next (s.goesOn [] ((bitsOf x.act).foldl (fun g t =>
      writeLane (writeLane g d t ((sameValue x a (x.lane a t)).setWidth 32)) (d + 1) t
        ((sameValue x a (x.lane a t)).extractLsb' 32 32)) s.cur)) := by
  intro x
  have hs : ¬isScal d = true := by simp [((class_excl d).1 hv).1]
  rw [exec_matchv, execMatchv, startGroup_starts h, if_neg hs, commitLane_starts h,
    applyPair d _ (fun i => sameValue x a (x.lane a i))]

/-- A lane-to-uniform write of a scalar pair; with no thread taking part it does not write. -/
theorem votePair_starts {s : State} {sh : Shape} (h : Starts s sh) (d : BitVec 8) (f : Ctx → BitVec 64) :
    startGroup s sh (fun x t =>
      if x.act = 0 then retire t x.hit 0
      else commitUni x t [] [(f x).setWidth 32, (f x).extractLsb' 32 32] none (fun u => u.updCur (fun g => writeScal64 g d (f x)))) =
      .next (s.goesOn [] (if taking s sh = 0 then s.cur else writeScal64 s.cur d (f (startCtx s sh)))) := by
  rw [startGroup_starts h]
  by_cases ht : taking s sh = 0
  · rw [if_pos ht, if_pos (show (startCtx s sh).act = 0 from ht)]
    exact congrArg _ (retire_begun h)
  · rw [if_neg ht, if_neg (show ¬(startCtx s sh).act = 0 from ht), commitUni_writeScal64 h]

section
variable {s : State} {d a b : BitVec 8}

/-- An exchange gives each thread the value of its source thread, or its own where that thread takes no part. -/
theorem exchange_starts {sh : Shape} (h : Starts s sh) (d a : BitVec 8) (src : Nat → Nat) :
    commitLane (startCtx s sh) (s.setCur (begun s)) (laneMoves (startCtx s sh) d (fun t => fromLane (startCtx s sh) a t (src t))) =
      s.goesOn [] (writeLanes s.cur d ((bitsOf (startCtx s sh).act).map (fun t =>
        (t, (startCtx s sh).lane a (if bit (startCtx s sh).act (src t) then src t else t))))) := by
  have hfrom : ∀ t u, fromLane (startCtx s sh) a t u = (startCtx s sh).lane a (if bit (startCtx s sh).act u then u else t) := by
    intro t u
    rw [fromLane]
    split <;> rfl
  simp only [commitLane_laneMoves h, hfrom]

theorem exec_shfl_starts (h : Starts s (shflShape d a b)) (x : Ctx) (hx : x = startCtx s (shflShape d a b)) :
    exec (.shfl d a b) s = .next (s.goesOn [] (writeLanes s.cur d ((bitsOf x.act).map (fun t =>
      (t, x.lane a (if bit x.act ((x.lane b t).toNat % 64) then (x.lane b t).toNat % 64 else t)))))) := by
  subst hx
  simp only [exec_shfl, execShfl, startGroup_starts h, exchange_starts h, fnat_low6]

theorem exec_shflx_starts (h : Starts s (shflShape d a b)) (x : Ctx) (hx : x = startCtx s (shflShape d a b)) :
    exec (.shflx d a b) s = .next (s.goesOn [] (writeLanes s.cur d ((bitsOf x.act).map (fun t =>
      (t, x.lane a (if bit x.act (Nat.xor t ((x.lane b t).toNat % 64)) then Nat.xor t ((x.lane b t).toNat % 64) else t)))))) := by
  subst hx
  simp only [exec_shflx, execShflx, startGroup_starts h, exchange_starts h, fnat_low6]

theorem exec_bcast_starts (h : Starts s (bcastShape d a b)) (x : Ctx) (hx : x = startCtx s (bcastShape d a b)) :
    exec (.bcast d a b) s = .next (s.goesOn [] (writeLanes s.cur d ((bitsOf x.act).map
      (fun t => (t, x.lane a (segLow x.act (min 6 ((x.uni b).toNat % 8)) t)))))) := by
  have hlow3 : fnat (x.uni b) 2 0 = (x.uni b).toNat % 8 := by simp [fnat]
  rw [← hlow3]
  subst hx
  simp only [exec_bcast, execBcast, startGroup_starts h, commitLane_laneMoves h]

theorem exec_rduni_starts (h : Starts s (rduniShape d a b)) (x : Ctx) (hx : x = startCtx s (rduniShape d a b)) :
    exec (.rduni d a b) s = .next (s.goesOn [] (if taking s (rduniShape d a b) = 0 then s.cur else writeScal s.cur d
      (x.lane a (if bit x.act ((x.uni b).toNat % 64) then (x.uni b).toNat % 64 else lowest x.act)))) := by
  rw [← fnat_low6]
  subst hx
  rw [exec_rduni, execRduni, vote_starts h]
  rfl

end

/-- Settles O11: the exchanges are moves in the lanes, the others one uniform write where a thread takes part. -/
theorem laneInstructionsComplete : Obligations.LaneInstructionsComplete := by
  refine ⟨fun d a b s => ⟨fun h => ⟨exec_shfl_starts h _ rfl, exec_shflx_starts h _ rfl⟩, fun h => exec_bcast_starts h _ rfl,
    fun h hv => exec_matchv_of_vec h hv⟩, fun d a b s => ⟨?ballot, ?vany, ?vall, fun h => exec_rduni_starts h _ rfl, ?matchv⟩⟩
  case ballot => exact fun h => votePair_starts h d (fun x => x.src.pred (predNo a) &&& x.act)
  case vany =>
    intro h
    rw [exec_vany, execVany, vote_starts h]
    rfl
  case vall =>
    intro h
    rw [exec_vall, execVall, vote_starts h]
    rfl
  case matchv =>
    intro hd h
    rw [exec_matchv, execMatchv]
    simp only [if_pos hd]
    exact votePair_starts h d (fun x => sameValue x a (x.lane a x.low))

end Sys2Proof.Machine
end

section
/-! PROOFS. XPAIR: what a step at a later tick leaves in the group that waits (R263). -/
namespace Sys2Proof.Machine

/-- A group of core 0 whose scalars name a group of the same herd on core 8, at a step after the first. -/
def pairingState : State :=
  let s := placeGroupWord State.reset 0
  let t := s.setGroup 8 0 { s.cur with herdIdx := 1 }
  { t.updCur (fun g => (g.setScal 0 8).setScal 1 0) with
    tick := 1, insts := t.insts.map (fun e => (e.1, { e.2 with gang := [0, 8], locs := [(0, 0), (8, 0)] })) }

/-- The step in which, after an instruction, the group that it ran for has begun its wait. -/
def startedAfter (o : Out) : Option Nat :=
  match o with
  | .next t => some t.cur.started
  | _ => none

/-- Refutes O12: an XPAIR that waits notes the step of its start, as every instruction that waits does (R347), and the statement's state
keeps the note of an earlier one. At tick 1, with no note yet, the machine leaves 1 and the statement asks for 0. -/
theorem not_clusterPairsComplete : ¬ Obligations.ClusterPairsComplete := by
  intro h
  have hstarts : Starts pairingState (xpairShape 160 161) := by decide +kernel
  have hpartner : ((startCtx pairingState (xpairShape 160 161)).uni 160).toNat % 256 = 8 ∧
      ((startCtx pairingState (xpairShape 160 161)).uni 161).toNat % 64 = 0 := by decide +kernel
  have hok : pairOk (pairingState.setCur (begun pairingState)) 0 0 8 0 = true := by decide +kernel
  have hrun := (h.1 0 160 161 pairingState).1 hstarts
  simp only [hpartner] at hrun
  have hnote := congrArg startedAfter (hrun hok)
  exact absurd hnote (by decide +kernel)

end Sys2Proof.Machine
end

section
/-! PROOFS. Transfers of control, the reconvergence stack and EXIT: each starts, tests or pops, and commits one change of its group
(R111, R243 to R250). -/
namespace Sys2Proof.Machine

section
variable {s : State} {sh : Shape}

/-- The commit of a uniform instruction that has put another group in place of its own: it writes that group and goes on at the PC that the
group holds. -/
theorem commitUni_at (h : Starts s sh) {g : Group} (hg : g.calm = (none, 0)) (ds : List (BitVec 8)) (vals : List Word)
    (fl : Option Flags) (pc : BitVec 48) (F : Group → Group) (hF : ∀ g pc hz, F (Group.at_ g pc hz) = (F g).at_ pc hz)
    (hH : ∀ g, (F g).calm = g.calm) :
    commitUni (startCtx s sh) (s.setCur (g.at_ pc [])) ds vals fl (fun t => t.updCur F) =
      s.setCur (((F g).at_ pc (hazardsOf g ds)).resumed pc) := by
  rw [commitUni_quiet rfl (by simpa [startCtx] using h.wps) ds vals fl _
    (by rw [updCur_setCur, cur_setCur, hH]; exact hg)]
  simp only [updCur_setCur, cur_setCur, hF]
  rfl

/-- The commit of a uniform instruction that writes and transfers. -/
theorem commitUni_to (h : Starts s sh) (ds : List (BitVec 8)) (vals : List Word) (fl : Option Flags) (pc : BitVec 48)
    (F : Group → Group) (hF : ∀ g pc hz, F (Group.at_ g pc hz) = (F g).at_ pc hz) (hH : ∀ g, (F g).calm = g.calm) :
    commitUni (startCtx s sh) ((s.setCur (begun s)).updCur (fun g => { g with nextPc := pc })) ds vals fl (fun t => t.updCur F) =
      s.goesTo ds pc (F s.cur) := by
  rw [updCur_setCur]
  exact commitUni_at h h.calm ds vals fl pc F hF hH

/-- A group that has been put in place of the executing one at the start of an instruction goes on with what is written to it. -/
theorem commitGroup_put (h : Starts s sh) {g : Group} (hg : g.calm = (none, 0)) (F : Group → Group)
    (hF : ∀ g pc hz, F (Group.at_ g pc hz) = (F g).at_ pc hz) (hH : ∀ g, (F g).calm = g.calm) :
    commitGroup (startCtx s sh) (s.setCur (g.at_ s.after [])) F = s.goesOn [] (F g) :=
  commitUni_at h hg [] [] none s.after F hF hH

/-- A transfer by a group that has been put in place of the executing one. -/
theorem commitTo_put (h : Starts s sh) {g : Group} (hg : g.calm = (none, 0)) (pc pc0 : BitVec 48) (F : Group → Group)
    (hF : ∀ g pc hz, F (Group.at_ g pc hz) = (F g).at_ pc hz) (hH : ∀ g, (F g).calm = g.calm) :
    commitTo (startCtx s sh) (s.setCur (g.at_ pc0 [])) pc F = s.goesTo [] pc (F g) := by
  rw [commitTo, commitGroup, updCur_setCur]
  exact commitUni_at h hg [] [] none pc F hF hH

/-! ### Transfers (R243, R244) -/

/-- The test of BRP is the test of each thread of the active mask (R244). -/
theorem brpTest_eq (q : BitVec 2) (n : BitVec 1) (p m : BitVec 64) :
    brpTest q n p m = (let passes := fun t : Nat => xor (bit p t) (decide (n = 1))
      match q.toNat with
      | 0 => (bitsOf m).any passes
      | 1 => (bitsOf m).all passes
      | _ => !((bitsOf m).any passes)) := by
  have hbit : ∀ t ∈ bitsOf m, bit (if n = 1 then ~~~p else p) t = xor (bit p t) (decide (n = 1)) := by
    intro t ht
    have h64 : t < 64 := BitVec.lt_of_getLsbD ((mem_bitsOf m t).mp ht)
    by_cases hn : n = 1
    · simp [hn, bit, h64]
    · rw [if_neg hn, decide_eq_false hn, Bool.xor_false]
  have hany : (bitsOf m).any (fun t => bit (if n = 1 then ~~~p else p) t) = (bitsOf m).any (fun t => xor (bit p t) (decide (n = 1))) := by
    rw [Bool.eq_iff_iff, List.any_eq_true, List.any_eq_true]
    exact exists_congr fun t => and_congr_right fun ht => by rw [hbit t ht]
  have hall : (bitsOf m).all (fun t => bit (if n = 1 then ~~~p else p) t) = (bitsOf m).all (fun t => xor (bit p t) (decide (n = 1))) := by
    rw [Bool.eq_iff_iff, List.all_eq_true, List.all_eq_true]
    exact forall₂_congr fun t ht => by rw [hbit t ht]
  have hnone : decide ((if n = 1 then ~~~p else p) &&& m = 0) = !((if n = 1 then ~~~p else p) &&& m != 0) := by
    rw [bne, Bool.not_not, beq_eq_decide]
  unfold brpTest
  generalize q.toNat = k
  rcases k with _ | _ | k
  · exact (and_ne_zero _ m).trans hany
  · exact (and_eq_self _ m).trans hall
  · exact hnone.trans (congrArg _ ((and_ne_zero _ m).trans hany))

theorem jumpBy_starts (h : Starts s sh) (k : Int) :
    jumpBy (startCtx s sh) (s.setCur (begun s)) k id = s.goesTo [] (pcOfLinear (signedLinear s.cur.pc + k))
      (s.cur.sentTo (signedLinear s.cur.pc + k)) := jumpTo_starts h _

theorem exec_bra (h : Starts s plainUni) (o : BitVec 24) :
    exec (.bra o) s = .next (s.goesTo [] (pcOfLinear (signedLinear s.cur.pc + o.toInt)) (s.cur.sentTo (signedLinear s.cur.pc + o.toInt))) := by
  show execBra o s = _
  rw [execBra, startGroup_starts h, jumpBy_starts h]

theorem exec_brp {q : BitVec 2} {p : BitVec 3} (n : BitVec 1) (i : BitVec 16)
    (h : Starts s (uniShape (q != 3) [BitVec.ofNat 8 (224 + p.toNat)] [BitVec.ofNat 8 (224 + p.toNat)])) :
    exec (.brp q n p i) s = .next (if brpTest q n (s.cur.pred p.toNat) s.cur.amask then
      s.goesTo [] (pcOfLinear (signedLinear s.cur.pc + i.toInt)) (s.cur.sentTo (signedLinear s.cur.pc + i.toInt)) else s.goesOn [] s.cur) := by
  show execBrp q n p i s = _
  simp only [execBrp, startGroup_starts h, jumpBy_starts h, commitId_starts h]
  rfl

/-- CALL links the slot after it and goes to its target. -/
theorem exec_call (h : Starts s (uniShape true [222, 223] [])) (o : BitVec 24) :
    let l := signedLinear s.cur.pc + o.toInt
    exec (.call o) s = .next (s.goesTo [222, 223] (pcOfLinear l) ((writeScal64 s.cur 222 (s.after.signExtend 64)).sentTo l)) := by
  intro l
  show execCall o s = _
  rw [execCall, startGroup_starts (show Starts s (uniShape true [linkReg, linkReg + 1] []) from h)]
  simp only [cur_setCur]
  exact congrArg _ (commitUni_to h _ _ none _ (fun g => (writeScal64 g linkReg (pcPair s.after)).sentTo l)
    (fun g pc hz => by rw [writeScal64_at]; rfl) (fun g => writeScal64_calm g linkReg (pcPair s.after)))

/-- A transfer to a register pair whose value is not canonical takes ADDRFORM at the jump (R243). -/
theorem jumpPair_addrform (v : BitVec 64) (hv : canonical v = false) :
    jumpPair (startCtx s sh) (s.setCur (begun s)) v = trap s.begins ⟨cADDRFORM, v, lowest s.cur.amask, 0⟩ := by
  rw [jumpPair, hv]; rfl

/-- A transfer to a canonical value that names no slot takes ALIGN at the jump (R243). -/
theorem jumpPair_align (v : BitVec 64) (hv : canonical v = true) (ha : v.toNat % 4 ≠ 0 ∨ v.toNat / 4 % 8 = 0) :
    jumpPair (startCtx s sh) (s.setCur (begun s)) v = trap s.begins ⟨cALIGN, v, lowest s.cur.amask, 0⟩ := by
  have hc : (decide (v.toNat % 4 ≠ 0) || decide (v.toNat / 4 % 8 = 0)) = true := by simpa using ha
  simp only [jumpPair, hv, hc]
  rfl

end

/-- Settles O13: every form starts and transfers as its commit says; BRP by the test of each thread. -/
theorem transfersComplete : Obligations.TransfersComplete := by
  refine ⟨fun s o q n p i a => ⟨fun h => exec_bra h o, fun h => ?brp, fun h hv => ?jmpr, fun h hv => ?ret, fun h => exec_call h o⟩,
    fun s a => ⟨fun h => ?jmprTrap, fun h => ?retTrap⟩, fun s h => ⟨?nop, ?yield⟩⟩
  case brp =>
    rw [exec_brp n i h, brpTest_eq] <;> rfl
  case jmpr =>
    show execJmpr a s = _
    rw [execJmpr, startGroup_starts h]
    exact congrArg _ (jumpPair_starts h _ hv)
  case ret =>
    show execRet s = _
    rw [execRet, startGroup_starts (show Starts s (uniShape true [linkReg, linkReg + 1] [linkReg, linkReg + 1]) from h)]
    exact congrArg _ (jumpPair_starts h _ hv)
  case jmprTrap =>
    show (_ → execJmpr a s = _) ∧ (_ → _ → execJmpr a s = _)
    rw [execJmpr, startGroup_starts h]
    exact ⟨fun hv => congrArg _ (jumpPair_addrform _ hv), fun hv ha => congrArg _ (jumpPair_align _ hv ha)⟩
  case retTrap =>
    show (_ → execRet s = _) ∧ (_ → _ → execRet s = _)
    rw [execRet, startGroup_starts (show Starts s (uniShape true [linkReg, linkReg + 1] [linkReg, linkReg + 1]) from h)]
    exact ⟨fun hv => congrArg _ (jumpPair_addrform _ hv), fun hv ha => congrArg _ (jumpPair_align _ hv ha)⟩
  case nop =>
    show execNop s = _
    rw [execNop, startGroup_starts h, commitId_starts h]
  case yield =>
    show execYield s = _
    rw [execYield, startGroup_starts h, commitId_starts h]

/-! ### Divergence, joins and exits (R246 to R250) -/

section
variable {s : State} {sh : Shape}

/-- A push with room, and what it commits. -/
theorem pushEntry_commits (h : Starts s sh) (hroom : s.cur.stack.length < 32) (e : Entry) (F : Group → Group)
    (hF : ∀ g pc hz, F (Group.at_ g pc hz) = (F g).at_ pc hz) (hH : ∀ g, (F g).calm = g.calm) :
    (pushEntry (s.setCur (begun s)) s.focus.core (s.setCur (begun s)).cur e).orElse s (s.setCur (begun s))
      (fun g => commitGroup (startCtx s sh) ((s.setCur (begun s)).setCur g) F) =
      s.goesOn [] (F { s.cur with stack := e :: s.cur.stack }) := by
  rw [cur_setCur, pushEntry_room _ _ _ _ (show (begun s).stack.length < 32 from hroom), Res.orElse, setCur_setCur]
  exact commitGroup_put (g := { s.cur with stack := e :: s.cur.stack }) h h.calm F hF hH

theorem exec_jpush (h : Starts s plainUni) (hroom : s.cur.stack.length < 32) (o : BitVec 24) :
    exec (.jpush o) s = .next (s.goesOn [] { s.cur with
      stack := ⟨branchTarget s.cur.pc o.toInt, 0, s.cur.amask, s.cur.mode, s.cur.fmt⟩ :: s.cur.stack }) := by
  show execJpush o s = _
  rw [execJpush, startGroup_starts h]
  exact congrArg _ (pushEntry_commits h hroom _ id (fun _ _ _ => rfl) fun _ => rfl)

/-- With nothing spilled and only entries without threads, the pops of a JOIN empty the stack. -/
theorem popLive_none {g : Group} (hsp : spillUsed g = 0) (hd : g.stack.dropWhile (fun e => decide (e.mask = 0)) = [])
    (t : State) (c k : Nat) : popLive t c k (popFuel g) g = .ok (none, { g with stack := [] }) := by
  rw [popLive_room t c k _ g hsp (by simp only [popFuel]; omega), hd]

/-- With nothing spilled, they end at the first entry that holds threads. -/
theorem popLive_some {g : Group} {e : Entry} {r : List Entry} (hsp : spillUsed g = 0)
    (hd : g.stack.dropWhile (fun e => decide (e.mask = 0)) = e :: r) (t : State) (c k : Nat) :
    popLive t c k (popFuel g) g = .ok (some e, { g with stack := r }) := by
  rw [popLive_room t c k _ g hsp (by simp only [popFuel]; omega), hd]

/-- Where an entry continues does not depend on the group that pops it. -/
theorem entryPc_setCur (t : State) (v : Group) (b : Nat) (root : BitVec 30) (e : Entry) :
    entryPc (t.setCur v) b root e = entryPc t b root e := entryPc_setGroup t b _ _ v root e

theorem exec_join_none (h : Starts s plainUni) (hsp : spillUsed s.cur = 0)
    (hd : s.cur.stack.dropWhile (fun e => decide (e.mask = 0)) = []) :
    exec .join s = .next (s.goesOn [] { s.cur with stack := [] }) := by
  show execJoin s = _
  simp only [execJoin, startGroup_starts h, cur_setCur, popLive_none (g := begun s) hsp hd, Res.orElse, setCur_setCur]
  exact congrArg _ (commitGroup_put (g := { s.cur with stack := [] }) h h.calm id (fun _ _ _ => rfl) fun _ => rfl)

/-- A JOIN that finds an entry with threads goes on where that entry says, once its packet can be read. -/
theorem exec_join_some {e : Entry} {r : List Entry} (h : Starts s plainUni) (hsp : spillUsed s.cur = 0)
    (hd : s.cur.stack.dropWhile (fun e => decide (e.mask = 0)) = e :: r) :
    exec .join s = .next ((entryPc s s.focus.core (instRoot s s.cur.inst) e).orElse s (s.setCur (begun s))
      (fun pc => s.goesTo [] pc { s.cur with stack := r, amask := e.mask, mode := e.mode, fmt := e.fmt })) := by
  have hcommit := fun pc => commitTo_put (g := { s.cur with stack := r }) h h.calm pc s.after (fun g => loadEntry g e)
    (fun _ _ _ => rfl) fun _ => rfl
  show execJoin s = _
  simp only [execJoin, startGroup_starts h, cur_setCur, popLive_some (g := begun s) hsp hd, Res.orElse, setCur_setCur,
    entryPc_setCur]
  exact congrArg (fun f => Host.Outcome.next ((entryPc s s.focus.core (instRoot s s.cur.inst) e).orElse s (s.setCur (begun s)) f))
    (funext hcommit)

end

/-- Settles O14: the pushes have room, and a JOIN pops to the first entry that holds threads. -/
theorem divergenceAndJoinComplete : Obligations.DivergenceAndJoinComplete := by
  refine ⟨fun s o n p i => ⟨fun h hroom => exec_jpush h hroom o, fun h ht => ?none, fun h ht hf => ?all, fun h ht hf hroom => ?both⟩,
    fun s pc l h hsp => ?join⟩
  case none =>
    show execBdiv n p i s = _
    rw [execBdiv, startGroup_starts h]
    exact congrArg _ ((if_pos ht).trans (commitId_starts h))
  case all =>
    show execBdiv n p i s = _
    rw [execBdiv, startGroup_starts h]
    exact congrArg _ ((if_neg ht).trans ((if_pos hf).trans (jumpBy_starts h _)))
  case both =>
    show execBdiv n p i s = _
    rw [execBdiv, startGroup_starts h]
    exact congrArg _ ((if_neg ht).trans ((if_neg hf).trans
      (pushEntry_commits h hroom _ (fun k => { k with amask := _ }) (fun _ _ _ => rfl) fun _ => rfl)))
  case join =>
    split
    next hd => exact exec_join_none h hsp hd
    next e r hd =>
      rw [exec_join_some h hsp hd]
      exact ⟨fun hto => congrArg (fun q => Host.Outcome.next (Res.orElse q _ _ _)) hto,
        fun hto => congrArg (fun q => Host.Outcome.next (Res.orElse q _ _ _)) hto⟩

/-! ### EXIT (R249, R250) -/

/-- A group whose stack entries have lost the threads of its active mask. -/
def Group.withoutActive (g : Group) : Group := { g with stack := g.stack.map (fun e => { e with mask := e.mask &&& ~~~g.amask }) }

section
variable {s : State}

/-- With nothing spilled, EXIT rewrites no mask in memory: it pops from the stack without its threads, and ends its group where no entry is
left. -/
theorem exec_exit_eq (h : Starts s plainUni) (hsp : spillUsed s.cur = 0) (hs : hSact s.cur = false) :
    exec .exit s = .next ((popLive (s.setCur (begun s).withoutActive) s.focus.core s.focus.slot (popFuel (begun s).withoutActive)
        (begun s).withoutActive).orElse s (s.setCur (begun s)) (fun r =>
      match r.1 with
      | none => endGroup (commitGroup (startCtx s plainUni) (s.setCur { r.2 with mon := none, monHit := false }) id) s.focus.core s.focus.slot
      | some e => (entryPc s s.focus.core (instRoot s s.cur.inst) e).orElse s (s.setCur (begun s))
          (fun pc => commitTo (startCtx s plainUni) (s.setCur { r.2 with mon := none, monHit := false }) pc (fun k => loadEntry k e)))) := by
  have hmasks : spilledMasks (begun s) = [] := by
    rw [spilledMasks, show spillUsed (begun s) = 0 from hsp]; rfl
  show execExit s = _
  rw [execExit, startGroup_starts h]
  refine congrArg _ ((if_neg (by rw [show hSact (startCtx s plainUni).src = false from hs]; exact Bool.false_ne_true)).trans ?_)
  simp only [exitThreads, cur_setCur, hmasks, checkAll, readyMasks, List.find?_nil, Res.orElse, rewriteMasks, List.isEmpty_nil, if_true,
    setCur_setCur, entryPc_setCur]
  rfl

theorem exec_exit_none (h : Starts s plainUni) (hsp : spillUsed s.cur = 0) (hs : hSact s.cur = false)
    (hd : s.cur.withoutActive.stack.dropWhile (fun e => decide (e.mask = 0)) = []) :
    exec .exit s = .next (endGroup (s.goesOn [] { s.cur with stack := [], mon := none, monHit := false }) s.focus.core s.focus.slot) := by
  have hcommit := commitGroup_put (g := { s.cur with stack := [], mon := none, monHit := false }) h h.calm id (fun _ _ _ => rfl) fun _ => rfl
  simp only [exec_exit_eq h hsp hs, popLive_none (g := (begun s).withoutActive) hsp hd, Res.orElse]
  exact congrArg (fun t => Host.Outcome.next (endGroup t s.focus.core s.focus.slot)) hcommit

theorem exec_exit_some {e : Entry} {r : List Entry} (h : Starts s plainUni) (hsp : spillUsed s.cur = 0) (hs : hSact s.cur = false)
    (hd : s.cur.withoutActive.stack.dropWhile (fun e => decide (e.mask = 0)) = e :: r) :
    exec .exit s = .next ((entryPc s s.focus.core (instRoot s s.cur.inst) e).orElse s (s.setCur (begun s)) (fun pc => s.goesTo [] pc
      { s.cur with stack := r, amask := e.mask, mode := e.mode, fmt := e.fmt, mon := none, monHit := false })) := by
  have hcommit := fun pc => commitTo_put (g := { s.cur with stack := r, mon := none, monHit := false }) h h.calm pc s.after
    (fun g => loadEntry g e) (fun _ _ _ => rfl) fun _ => rfl
  simp only [exec_exit_eq h hsp hs, popLive_some (g := (begun s).withoutActive) hsp hd, Res.orElse]
  exact congrArg (fun f => Host.Outcome.next ((entryPc s s.focus.core (instRoot s s.cur.inst) e).orElse s (s.setCur (begun s)) f))
    (funext hcommit)

end

/-- Settles O15: EXIT pops from the stack without its threads. -/
theorem exitCompletes : Obligations.ExitCompletes := by
  intro s pc l h hsp hs
  split
  next hd => exact exec_exit_none h hsp hs hd
  next e r hd =>
    rw [exec_exit_some h hsp hs hd]
    exact ⟨fun hto => congrArg (fun q => Host.Outcome.next (Res.orElse q _ _ _)) hto,
      fun hto => congrArg (fun q => Host.Outcome.next (Res.orElse q _ _ _)) hto⟩

end Sys2Proof.Machine
end

section
/-! PROOFS. Traps: which handler a cause goes to, what an entry leaves in the group, and what a stopped group shows (R191 to R199). -/
namespace Sys2Proof.Machine

section
variable {s : State} {core slot : Nat} {f : FaultInfo}

/-- A U-class cause with a user handler that is not active goes to that handler (R191). -/
theorem takeTrap_user (hs : hSact (s.group core slot) = false) (hp : isPClass f.cause = false) (hu : isUClass f.cause = true)
    (hpc : hUpc (s.group core slot) ≠ 0) (ha : hUact (s.group core slot) = false) :
    takeTrap s core slot f = enterHandler s core slot f false := by
  have hno : ¬((decide (hUpc (s.group core slot) = 0) || hUact (s.group core slot)) = true) := by
    rw [ha, decide_eq_false hpc]; exact Bool.false_ne_true
  simp only [takeTrap, hs, hp, hu, if_neg hno, Bool.or_self, Bool.false_eq_true, if_false, if_true]

/-- Another cause takes the region's course (R88, R192). -/
theorem takeTrap_region (hs : hSact (s.group core slot) = false) (hp : isPClass f.cause = false)
    (hf : isUClass f.cause = false ∨ hUpc (s.group core slot) = 0 ∨ hUact (s.group core slot) = true) :
    takeTrap s core slot f = regionFault s core slot f := by
  cases hu : isUClass f.cause with
  | false => simp [takeTrap, hs, hp, hu]
  | true =>
    have hno : (decide (hUpc (s.group core slot) = 0) || hUact (s.group core slot)) = true := by
      rcases hf with hf | hf | hf
      · rw [hu] at hf; cases hf
      · simp [hf]
      · simp [hf]
    simp only [takeTrap, hs, hp, hu, hno, Bool.or_self, Bool.false_eq_true, if_false, if_true]

/-- Under SACT, or with a P-class cause, the group stops (R192, R198). -/
theorem takeTrap_parks (h : hSact (s.group core slot) = true ∨ isPClass f.cause = true) :
    takeTrap s core slot f = parkGroup s core slot f := by
  rcases h with h | h <;> simp [takeTrap, h]

/-- The address of the handler that an entry goes to. -/
def handlerPc (g : Group) (sup : Bool) : BitVec 48 := if sup then hSpc g else hUpc g

/-- An entry to a handler whose packet can be fetched, with room on the stack (R196, R197). -/
theorem enterHandler_ready {sup : Bool} (hroom : (s.group core slot).stack.length < 32)
    (hr : handlerReady s core slot (handlerPc (s.group core slot) sup) = true) :
    enterHandler s core slot f sup = s.setGroup core slot ((s.group core slot).inHandler f sup) := by
  rw [handlerReady, Bool.and_eq_true, decide_eq_true_eq] at hr
  obtain ⟨hne, hpass⟩ := hr
  unfold enterHandler
  simp only [handlerPc] at hne hpass
  simp only [if_neg hne]
  cases hc : check s core (instRoot s (s.group core slot).inst)
      ((if sup = true then hSpc (s.group core slot) else hUpc (s.group core slot)).signExtend 64) 32 .fetch with
  | ok pa ar gn rg => simp only [pushEntry_room _ _ _ _ hroom]; rfl
  | fault c a => rw [hc] at hpass; cases hpass
  | wait l => rw [hc] at hpass; cases hpass

/-- An entry to a handler at address 0, or whose packet cannot be fetched, parks the group (R199). -/
theorem enterHandler_noFetch {sup : Bool} {c : BitVec 8} {a : BitVec 12}
    (h : handlerPc (s.group core slot) sup = 0 ∨ check s core (instRoot s (s.group core slot).inst)
      ((handlerPc (s.group core slot) sup).signExtend 64) 32 .fetch = .fault c a) :
    enterHandler s core slot f sup = parkGroup s core slot
      { f with cause := cTRAPFETCH, fva := (handlerPc (s.group core slot) sup).signExtend 64, arena := 0 } := by
  unfold enterHandler
  by_cases hz : handlerPc (s.group core slot) sup = 0
  · exact if_pos hz
  · have hc := h.resolve_left hz
    simp only [handlerPc] at hz hc
    simp only [if_neg hz, hc]
    rfl

/-- An entry whose translation has to wait is held (R44, R211). -/
theorem enterHandler_wait {sup : Bool} {l : List Hold} (hz : handlerPc (s.group core slot) sup ≠ 0)
    (hc : check s core (instRoot s (s.group core slot).inst) ((handlerPc (s.group core slot) sup).signExtend 64) 32 .fetch = .wait l) :
    enterHandler s core slot f sup = holdEntry s core slot f sup l := by
  simp only [handlerPc] at hz hc
  simp only [enterHandler, if_neg hz, hc]

theorem regionFault_super (h : effTrapOk s (instRegion s (s.group core slot).inst) = true) :
    regionFault s core slot f = enterHandler s core slot f true := if_pos h

theorem regionFault_parks (h : effTrapOk s (instRegion s (s.group core slot).inst) = false) :
    regionFault s core slot f = parkGroup s core slot f := if_neg (by rw [h]; exact Bool.false_ne_true)

/-! ### What a stopped group shows (R194, R195) -/

theorem fget_noteCause_cause (x : BitVec 192) (epc : BitVec 48) (f : FaultInfo) : fget (noteCause x epc f) 47 40 = f.cause := by
  rw [noteCause, fget, extract_fput_ne _ 39 34 _ 40 (47 - 40 + 1) (by decide) (by decide), extract_fput_same _ 47 40 _ (by decide) (by decide)]
  exact (BitVec.ofNat_toNat _ _).trans (BitVec.setWidth_eq _)

theorem fnat_noteCause_thr (x : BitVec 192) (epc : BitVec 48) {f : FaultInfo} (h : f.thr < 64) : fnat (noteCause x epc f) 39 34 = f.thr := by
  rw [noteCause, fnat_fput_same _ 39 34 _ (by decide) (by decide)]
  exact Nat.mod_eq_of_lt h

theorem fget_noteCause_epc (x : BitVec 192) (epc : BitVec 48) (f : FaultInfo) : fget (noteCause x epc f) 95 48 = epc := by
  rw [noteCause, fget, extract_fput_ne _ 39 34 _ 48 (95 - 48 + 1) (by decide) (by decide),
    extract_fput_ne _ 47 40 _ 48 (95 - 48 + 1) (by decide) (by decide), extract_fput_same _ 95 48 _ (by decide) (by decide)]
  exact (BitVec.ofNat_toNat _ _).trans (BitVec.setWidth_eq _)

/-- Noting a cause leaves the bits of HNDL below THR as they are. -/
theorem bit_noteCause {i : Nat} (hi : i < 34) (x : BitVec 192) (epc : BitVec 48) (f : FaultInfo) : bit (noteCause x epc f) i = bit x i := by
  rw [noteCause, bit, bit, getLsbD_fput, if_neg (by omega), getLsbD_fput, if_neg (by omega), getLsbD_fput, if_neg (by omega)]

/-- The stopping point that HNDL shows: under TRAPFETCH the entry of the handler. -/
def shownEpc (f : FaultInfo) : BitVec 48 := if f.cause = cTRAPFETCH then f.fva.setWidth 48 + 4 else f.pc

theorem group_updInst (s : State) (i : Nat) (f : Inst → Inst) (c k : Nat) : (updInst s i f).group c k = s.group c k := by
  unfold updInst
  split <;> rfl

/-- A stopped group stands at its stopping point and keeps the cause. -/
theorem group_parkGroup (s : State) (core slot : Nat) (f : FaultInfo) : (parkGroup s core slot f).group core slot =
    { (s.group core slot).stands f with stop := some f, hndl := noteCause (s.group core slot).hndl (shownEpc f) f } := by
  rw [parkGroup, group_updInst, group_updGroup]
  rfl

theorem stands_pc (g : Group) (f : FaultInfo) : (g.stands f).pc = f.pc := by
  unfold Group.stands
  split
  next h => exact h.symm
  next => rfl

end

/-- Settles O16: the class of the cause chooses the handler, the handler's fetch chooses between an entry, a park and a wait, and a stopped
group shows its cause in the fields of HNDL. -/
theorem trapsEnterOrPark : Obligations.TrapsEnterOrPark := by
  refine ⟨?entry, ?park⟩
  case entry =>
    intro s core slot f c a l g user fault super fetch noFetch hs hp
    refine ⟨fun ⟨hu, hpc, ha⟩ hroom hr => ?_, fun ⟨⟨hf, _⟩, ht⟩ hroom hr => ?_, fun ⟨hu, hpc, ha⟩ hc => ?_,
      fun ⟨⟨hf, _⟩, ht⟩ hc => ?_, fun ⟨hu, hpc, ha⟩ hc => ?_, fun ⟨⟨hf, _⟩, ht⟩ hz hc => ?_, fun ⟨hf, _⟩ ht => ?_⟩
    · exact (takeTrap_user hs hp hu hpc ha).trans (enterHandler_ready (sup := false) hroom hr)
    · exact (takeTrap_region hs hp hf).trans ((regionFault_super ht).trans (enterHandler_ready (sup := true) hroom hr))
    · exact (takeTrap_user hs hp hu hpc ha).trans (enterHandler_noFetch (sup := false) (Or.inr hc))
    · exact (takeTrap_region hs hp hf).trans ((regionFault_super ht).trans (enterHandler_noFetch (sup := true) hc))
    · exact (takeTrap_user hs hp hu hpc ha).trans (enterHandler_wait (sup := false) hpc hc)
    · exact (takeTrap_region hs hp hf).trans ((regionFault_super ht).trans (enterHandler_wait (sup := true) hz hc))
    · exact (takeTrap_region hs hp hf).trans (regionFault_parks ht)
  case park =>
    intro s core slot f g k
    have hk : k = { g.stands f with stop := some f, hndl := noteCause g.hndl (shownEpc f) f } := group_parkGroup s core slot f
    refine ⟨takeTrap_parks, ?_⟩
    rw [hk]
    refine ⟨rfl, stands_pc g f, fget_noteCause_cause _ _ _, fnat_noteCause_thr _ _, fun hc => ?_, bit_noteCause (by decide) _ _ _,
      bit_noteCause (by decide) _ _ _⟩
    exact (fget_noteCause_epc _ _ _).trans (if_neg hc)

end Sys2Proof.Machine
end

section
/-! PROOFS. TRAP, the returns, illegal words, start-time causes and the mode instructions (R127, R132, R193, R251, R352, R353). -/
namespace Sys2Proof.Machine

section
variable {s : State}

theorem Starts.no_step {sh : Shape} (h : Starts s sh) : s.focus.step = false := h.2.2.2.2.2.2.1

/-- Outside a step, a cause of the executing instruction is taken as a trap (R193). -/
theorem trap_of_no_step (h : s.focus.step = false) (c : Cause) :
    trap s c = takeTrap s s.focus.core s.focus.slot (instrFault s c) := if_neg (by rw [h]; exact Bool.false_ne_true)

theorem trapAfter_of_no_step (h : s.focus.step = false) (code : BitVec 8) :
    trapAfter s code = takeTrap s s.focus.core s.focus.slot { instrFault s ⟨code, 0, lowest s.cur.amask, 0⟩ with pc := s.cur.nextPc } :=
  if_neg (by rw [h]; exact Bool.false_ne_true)

/-- TRAP stops at the slot after it, with the whole word (R352). -/
theorem exec_trap (h : Starts s plainUni) (i : BitVec 16) :
    let w : Word := (0x0C00#16 ++ i : BitVec (16 + 16))
    exec (.trap i) s = .next (takeTrap (State.setCur { s with focus := { s.focus with word := w } } (begun s)) s.focus.core s.focus.slot
      { cause := cSWTRAP, fva := 0, pc := s.after, thr := lowest s.cur.amask, arena := 0, word := w, kill := false
        core := s.focus.core, slot := s.focus.slot }) := by
  intro w
  show execTrap i s = _
  rw [execTrap, startGroup_starts (s := { s with focus := { s.focus with word := w } }) (show Starts _ plainUni from h)]
  refine congrArg _ ((trapAfter_of_no_step ?_ _).trans ?_)
  · exact h.no_step
  · simp only [instrFault, cur_setCur]
    rfl

/-- The group that a return leaves: the entry's mask, MODE and FMT, and the handler no longer active. -/
def Group.returned (g : Group) (e : Entry) (r : List Entry) : Group :=
  { g with stack := r, amask := e.mask, mode := e.mode, fmt := e.fmt, hndl := setBit g.hndl (if hSact g then 32 else 33) false }

/-- Resuming the copies of a group's herd commutes with a change of the group that leaves it in its herd. -/
theorem resumeCopies_setCur (t : State) {v : Group} (hv : v.inst = t.cur.inst) :
    resumeCopies (t.setCur v) t.focus.core t.focus.slot = (resumeCopies t t.focus.core t.focus.slot).setCur v := by
  have hi : ((t.setCur v).group t.focus.core t.focus.slot).inst = (t.group t.focus.core t.focus.slot).inst := by
    rw [show (t.setCur v).group t.focus.core t.focus.slot = v from cur_setCur t v, hv]
    rfl
  unfold resumeCopies
  simp only [hi]
  simp only [State.updCore, State.setCur, State.setGroup, core_setCore, setCore_setCore, State.setCore_focus]
  rfl

/-- The machine in which a return goes on: from the supervisor handler, with the group's stopped copies resumed (R155). -/
def State.returning (s : State) : State := if hSact s.cur then resumeCopies s.begins s.focus.core s.focus.slot else s.begins

theorem returning_wps {sh : Shape} (h : Starts s sh) : (s.returning.core s.focus.core).wps = [] := by
  unfold State.returning
  split
  · rw [resumeCopies, core_updCore]
    exact begins_wps h _ rfl
  · exact begins_wps h _ rfl

theorem returning_focus : s.returning.focus = s.focus := by
  unfold State.returning
  split <;> rfl

/-- The commit of a return, for the two states in which it may go on. -/
theorem commitTo_returning {sh : Shape} (h : Starts s sh) {g : Group} (hg : g.calm = (none, 0)) (pc : BitVec 48) (F : Group → Group)
    (hF : ∀ g pc hz, F (Group.at_ g pc hz) = (F g).at_ pc hz) (hH : ∀ g, (F g).calm = g.calm) :
    commitTo (startCtx s sh) (s.returning.setCur (g.at_ s.after [])) pc F = s.returning.setCur (((F g).at_ pc []).resumed pc) := by
  have hput := commitPut_starts h (s.returning.setCur (g.at_ pc [])) g pc ?_ (cur_setCur _ _) hg F hF hH
  · rw [commitTo, updCur_setCur]
    exact hput.trans (setCur_setCur _ _ _)
  rw [wps_setCur]
  exact returning_wps h

/-- A return pops the top entry and goes on where it says, or where the slot after it lies. -/
theorem returnFrom_starts {sh : Shape} (h : Starts s sh) {e : Entry} {r : List Entry} (hst : s.cur.stack = e :: r)
    (hsp : spillUsed s.cur = 0) (skip : Bool) :
    returnFrom s (startCtx s sh) (s.setCur (begun s)) skip =
      (if skip then slotAfter s s.focus.core (instRoot s s.cur.inst) e.pc else .ok e.pc).orElse s (s.setCur (begun s)) (fun pc =>
        s.returning.setCur (((s.cur.returned e r).at_ pc []).resumed pc)) := by
  have hst' : (begun s).stack = e :: r := hst
  have hpop : popEntry (s.setCur (begun s)) s.focus.core s.focus.slot (begun s) = .ok (some e, { begun s with stack := r }) := by
    rw [popEntry_room _ _ _ _ (show spillUsed (begun s) = 0 from hsp), hst']
  have hto : (if hSact (begun s) then resumeCopies (s.setCur { begun s with stack := r }) s.focus.core s.focus.slot
      else s.setCur { begun s with stack := r }) = s.returning.setCur (({ s.cur with stack := r } : Group).at_ s.after []) := by
    have hback : s.setCur { begun s with stack := r } = s.begins.setCur { begun s with stack := r } := (setCur_setCur s _ _).symm
    rw [State.returning, show hSact (begun s) = hSact s.cur from rfl]
    cases hSact s.cur with
    | false => exact hback
    | true =>
      rw [if_pos rfl, if_pos rfl, hback]
      exact resumeCopies_setCur s.begins (v := { begun s with stack := r }) (by
        rw [State.begins, cur_setCur])
  have hcommit := fun pc => commitTo_returning (g := { s.cur with stack := r }) h h.calm pc
    (fun k => { loadEntry k e with hndl := setBit k.hndl (if hSact s.cur then 32 else 33) false }) (fun _ _ _ => rfl) fun _ => rfl
  have hcore : (startCtx s sh).core = s.focus.core := rfl
  have hslot : (startCtx s sh).slot = s.focus.slot := rfl
  simp only [returnFrom, cur_setCur, hst', List.isEmpty_cons, Bool.false_and, Bool.false_eq_true, if_false, hcore, hslot, hpop, Res.orElse,
    setCur_setCur, hto, show ∀ b root pc, slotAfter (s.setCur (begun s)) b root pc = slotAfter s b root pc from
      fun b root pc => slotAfter_setGroup s b _ _ _ root pc]
  exact congrArg (fun f => Res.orElse (if skip then slotAfter s s.focus.core (instRoot s s.cur.inst) e.pc else .ok e.pc) s
    (s.setCur (begun s)) f) (funext hcommit)

end

/-- Settles O17: TRAP and an illegal word take their trap; a return is one pop and one commit. -/
theorem trapsAndReturnsComplete : Obligations.TrapsAndReturnsComplete := by
  refine ⟨fun s i h => exec_trap h i, fun s e r pc l h hst hsp => ⟨?rte, fun hto => ?skip, fun hto => ?skipWaits⟩, fun s w hb hz hstep => ?illegal⟩
  case rte =>
    show execRte s = _
    rw [execRte, startGroup_starts h, returnFrom_starts h hst hsp]
    rfl
  case skip =>
    show execRteSkip s = _
    rw [execRteSkip, startGroup_starts h, returnFrom_starts h hst hsp]
    exact congrArg (fun q => Host.Outcome.next (Res.orElse q _ _ _)) hto
  case skipWaits =>
    show execRteSkip s = _
    rw [execRteSkip, startGroup_starts h, returnFrom_starts h hst hsp]
    exact congrArg (fun q => Host.Outcome.next (Res.orElse q _ _ _)) hto
  case illegal =>
    have htrap := trap_of_no_step (s := { s with focus := { s.focus with word := w } }) hstep ⟨cILLEGAL, 0, lowest s.cur.amask, 0⟩
    show execIllegalEncoding w s = _
    rw [execIllegalEncoding, startGroup_trap (c := cILLEGAL)]
    · exact congrArg _ htrap
    · exact hb
    · exact hz
    · rfl

/-- Settles O18. -/
theorem startTimeCausesTrap : Obligations.StartTimeCausesTrap := by
  intro s c d a b n at_ free
  refine ⟨?fadd, ?sel, ?shfl, ?qnt, ?mmab, ?lkfree, fun hd ha hr hs => ?superv, fun hd => ?illegal, fun sh hl hm hr => ?reg, fun sh hl hr ht => ?tab⟩
  case fadd =>
    intro hb hz hc
    show execFadd d a b s = _
    rw [execFadd, fp2, arith, startGroup_trap hb hz hc]
  case sel =>
    intro hb hz hc
    show execSel d a b s = _
    rw [execSel, startGroup_trap hb hz hc]
  case shfl =>
    intro hb hz hc
    show execShfl d a b s = _
    rw [execShfl, startGroup_trap hb hz hc]
  case qnt =>
    intro hb hz hc
    show execQnt d a s = _
    rw [execQnt, arith, startGroup_trap hb hz hc]
  case mmab =>
    intro hb hz hc
    show execMmab n n s = _
    rw [execMmab, unitInstr, startGroup_trap hb hz hc]
  case lkfree =>
    intro hb hz hc
    show execLkfree d a s = _
    rw [execLkfree, startGroup_trap hb hz hc]
  case superv =>
    have hl : free.legal = true := by rw [show free.legal = (isScal d && isScalPair a) from rfl, hd, ha]; rfl
    have hregs : free.regs.all (heldReg s.cur) = true := hr
    have hcls : free.cls = .memory := rfl
    have htabs : free.tabs = [] := rfl
    have hsup : free.superv = true := rfl
    simp [startCause, hl, hregs, hcls, htabs, hsup, hs]
  case illegal => simp [startCause, free, onceShape, mkShape, hd]
  case reg => simp [startCause, hl, hm, hr]
  case tab => simp [startCause, hl, hr, ht]

theorem setModeTo_starts {s : State} {sh : Shape} (h : Starts s sh) {v : Word} (hv : modeOk v = true) :
    setModeTo (startCtx s sh) (s.setCur (begun s)) v = s.goesOn [] { s.cur with mode := v } :=
  (if_pos hv).trans (commitGroup_starts h (fun g => { g with mode := v }) (fun _ _ _ => rfl) fun _ => rfl)

theorem setFmtTo_starts {s : State} {sh : Shape} (h : Starts s sh) {v : Word} (hv : fmtOk v = true) :
    setFmtTo (startCtx s sh) (s.setCur (begun s)) v = s.goesOn [] { s.cur with fmt := v } :=
  (if_pos hv).trans (commitGroup_starts h (fun g => { g with fmt := v }) (fun _ _ _ => rfl) fun _ => rfl)

/-- Settles O19: a legal value is committed, a reserved one takes ILLEGAL. -/
theorem modeInstructionsComplete : Obligations.ModeInstructionsComplete := by
  refine ⟨fun s i a d m => ⟨fun h hv => ?setmodeI, fun h hv => ?setmode, fun h hv => ?setfmt, fun h => ?getmode⟩,
    fun s a h => ⟨fun hv => ?badMode, fun hv => ?badFmt⟩⟩
  case setmodeI =>
    show execSetmodeI i s = _
    rw [execSetmodeI, startGroup_starts h, setModeTo_starts h hv]
  case setmode =>
    show execSetmode a s = _
    rw [execSetmode, startGroup_starts h, setModeTo_starts h hv]
  case setfmt =>
    show execSetfmt a s = _
    rw [execSetfmt, startGroup_starts h, setFmtTo_starts h hv]
  case getmode =>
    show execGetmode d m s = _
    rw [execGetmode, startGroup_starts h, commitScal_starts h]
    rfl
  case badMode =>
    show execSetmode a s = _
    rw [execSetmode, startGroup_starts h]
    exact congrArg _ (if_neg (by rw [hv]; exact Bool.false_ne_true))
  case badFmt =>
    show execSetfmt a s = _
    rw [execSetfmt, startGroup_starts h]
    exact congrArg _ (if_neg (by rw [hv]; exact Bool.false_ne_true))

end Sys2Proof.Machine
end

section
/-! PROOFS. Operations that leave the course of every instruction as it is: where each group goes on, its open latencies and its halt, and
the watch predicates of every core. -/
namespace Sys2Proof.Machine

/-- Where a group goes on after its instruction, with its open latencies and its halt. -/
def Group.course (g : Group) : BitVec 48 × List Hazard × Option Halt × BitVec 64 := (g.nextPc, g.hazards, g.calm)

/-- Two states in which instructions complete alike. -/
structure SameCourse (t s : State) : Prop where
  focus : t.focus = s.focus
  tick : t.tick = s.tick
  wps : ∀ c, (t.core c).wps = (s.core c).wps
  course : ∀ c k, (t.group c k).course = (s.group c k).course

theorem SameCourse.refl (s : State) : SameCourse s s := ⟨rfl, rfl, fun _ => rfl, fun _ _ => rfl⟩

theorem SameCourse.trans {s t u : State} (h : SameCourse u t) (k : SameCourse t s) : SameCourse u s :=
  ⟨h.focus.trans k.focus, h.tick.trans k.tick, fun c => (h.wps c).trans (k.wps c), fun c g => (h.course c g).trans (k.course c g)⟩

theorem SameCourse.cur {s t : State} (h : SameCourse t s) : t.cur.course = s.cur.course := by
  have hk := h.course s.focus.core s.focus.slot
  rw [← h.focus] at hk
  rw [State.cur, hk, h.focus]
  rfl

theorem SameCourse.foldl {α : Type} {f : State → α → State} (hf : ∀ s a, SameCourse (f s a) s) (l : List α) (s : State) :
    SameCourse (l.foldl f s) s := by
  induction l generalizing s with
  | nil => exact .refl s
  | cons a l ih => exact (ih (f s a)).trans (hf s a)

theorem sameCourse_updCore (s : State) (b : Nat) {f : Core → Core} (hw : (f (s.core b)).wps = (s.core b).wps)
    (hg : ∀ k, ((f (s.core b)).group k).course = ((s.core b).group k).course) : SameCourse (s.updCore b f) s := by
  refine ⟨rfl, rfl, fun c => ?_, fun c k => ?_⟩
  · by_cases e : c = b
    · subst e; rw [core_updCore, hw]
    · rw [State.updCore, core_setCore_ne _ _ e]
  · by_cases e : c = b
    · subst e; rw [State.group, core_updCore]; exact hg k
    · rw [State.group, State.updCore, core_setCore_ne _ _ e]; rfl

theorem sameCourse_updGroup (s : State) (b h : Nat) {f : Group → Group} (hf : (f (s.group b h)).course = (s.group b h).course) :
    SameCourse (s.updGroup b h f) s := by
  refine ⟨rfl, rfl, fun c => ?_, fun c k => ?_⟩
  · by_cases e : c = b
    · subst e; simp [State.updGroup, State.setGroup]
    · simp [State.updGroup, State.setGroup, core_setCore_ne _ _ e]
  · by_cases e : c = b ∧ k = h
    · obtain ⟨rfl, rfl⟩ := e; rw [group_updGroup, hf]
    · rw [State.updGroup, group_setGroup_ne s _ (by tauto)]

/-- A state whose cores are those of another differs in no course. -/
theorem sameCourse_of_cores {s t : State} (hf : t.focus = s.focus) (ht : t.tick = s.tick) (hc : t.cores = s.cores) : SameCourse t s :=
  ⟨hf, ht, fun c => by rw [State.core, hc]; rfl, fun c k => by rw [State.group, State.core, hc]; rfl⟩

theorem sameCourse_own (t : State) (o : Tbl Nat) : SameCourse { t with own := o } t := sameCourse_of_cores rfl rfl rfl

/-- A monitor that is hit changes no course. -/
theorem course_hitIn (gs : Tbl Group) (line k : Nat) : ((find (hitIn gs line) k).getD Group.reset).course = ((find gs k).getD Group.reset).course := by
  unfold hitIn
  rw [find_map (fun g : Group => if g.mon = some line then { g with monHit := true } else g) gs k]
  cases find gs k with
  | none => rfl
  | some g =>
    simp only [Option.map_some, Option.getD_some]
    split <;> rfl

theorem writeLive_sameCourse (s : State) (pa : Nat) (bs : List Byte) (a : BitVec 12) (g : BitVec 4) :
    SameCourse (writeLive s pa bs a g) s := by
  obtain ⟨b, c, r, i, w, e, _⟩ := writeLive_eq s pa bs a g
  have hcore : ∀ n, (writeLive s pa bs a g).core n = ((find s.cores n).map
      (fun k : Core => { k with groups := hitIn k.groups (lineOf pa) })).getD Core.reset := by
    intro n
    rw [e]
    exact congrArg (fun o => o.getD Core.reset) (find_map (fun k : Core => { k with groups := hitIn k.groups (lineOf pa) }) s.cores n)
  refine ⟨by rw [e], by rw [e], fun n => ?_, fun n k => ?_⟩
  · rw [hcore, State.core]
    cases find s.cores n <;> rfl
  · rw [State.group, State.group, hcore, State.core]
    cases find s.cores n with
    | none => rfl
    | some v => exact course_hitIn v.groups (lineOf pa) k

theorem evictWord_sameCourse (s : State) (word : Nat) : SameCourse (evictWord s word) s := by
  unfold evictWord
  split
  · exact .refl s
  next c _ =>
    exact (sameCourse_updCore _ c rfl fun _ => rfl).trans ((sameCourse_own _ _).trans (writeLive_sameCourse s (word * 4) _ _ _))

theorem wakeIf_sameCourse (s : State) (k : Block) : SameCourse (wakeIf s k) s := sameCourse_of_cores rfl rfl rfl

theorem hwWrite_sameCourse (s : State) (pa : Nat) (bs : List Byte) : SameCourse (hwWrite s pa bs) s := by
  have hwake : ∀ t, SameCourse (wakeHomes t pa bs.length) t := fun t => SameCourse.foldl (fun _ _ => wakeIf_sameCourse _ _) _ t
  have hwrite : ∀ t, SameCourse (writeRange t pa bs) t := fun t => SameCourse.foldl (fun _ _ => writeLive_sameCourse _ _ _ _ _) _ t
  have htake : SameCourse (retake s pa bs.length) s := SameCourse.foldl evictWord_sameCourse _ s
  exact (hwake _).trans ((hwrite _).trans htake)

theorem setRegion_sameCourse (s : State) (r hi lo v : Nat) : SameCourse (setRegion s r hi lo v) s := by
  unfold setRegion
  split
  · exact .refl s
  · exact (hwWrite_sameCourse _ _ _).trans (sameCourse_of_cores rfl rfl rfl)

theorem addUse_sameCourse (s : State) (r hi lo : Nat) (d : Int) : SameCourse (addUse s r hi lo d) s :=
  SameCourse.foldl (fun _ _ => setRegion_sameCourse _ _ _ _ _) _ s

theorem selfInv_sameCourse (s : State) (core : Nat) : SameCourse (selfInv s core) s := sameCourse_updCore s core rfl fun _ => rfl

theorem addAsks_sameCourse (s : State) (core : Nat) (l : List LineAsk) : SameCourse (addAsks s core l) s := by
  unfold addAsks
  split
  · exact .refl s
  · exact sameCourse_updCore s core rfl fun _ => rfl

theorem setPageState_sameCourse (s : State) (core inst page : Nat) (v : BitVec 2) : SameCourse (setPageState s core inst page v) s :=
  sameCourse_updCore s core rfl fun _ => rfl

theorem pinPage_sameCourse (s : State) (core inst page : Nat) : SameCourse (pinPage s core inst page) s := by
  unfold pinPage
  split
  · exact setPageState_sameCourse _ _ _ _ _
  · exact .refl s

theorem pinRange_sameCourse (s : State) (core inst o n : Nat) : SameCourse (pinRange s core inst o n) s :=
  SameCourse.foldl (fun _ _ => pinPage_sameCourse _ _ _ _) _ s

theorem pulse_sameCourse (s : State) (core src : Nat) : SameCourse (pulse s core src) s := by
  have hsink : ∀ (c : Core) k, (pulseSink c src k).wps = c.wps ∧ (pulseSink c src k).groups = c.groups := by
    intro c k
    unfold pulseSink
    dsimp only
    split
    · exact ⟨rfl, rfl⟩
    · split
      · exact ⟨rfl, rfl⟩
      · split <;> exact ⟨rfl, rfl⟩
  have hall : ∀ (l : List Nat) (c : Core), (l.foldl (fun k sink => pulseSink k src sink) c).wps = c.wps ∧
      (l.foldl (fun k sink => pulseSink k src sink) c).groups = c.groups := by
    intro l
    induction l with
    | nil => exact fun c => ⟨rfl, rfl⟩
    | cons a l ih => exact fun c => ⟨(ih _).1.trans (hsink c a).1, (ih _).2.trans (hsink c a).2⟩
  exact sameCourse_updCore s core (hall _ _).1 fun k => by rw [Core.group, (hall _ _).2]; rfl

theorem queueTake_sameCourse (s : State) (core q agent n : Nat) : SameCourse (queueTake s core q agent n) s := by
  unfold queueTake
  dsimp only
  split
  · exact (pulse_sameCourse _ _ _).trans (sameCourse_updCore s core rfl fun _ => rfl)
  · exact sameCourse_updCore s core rfl fun _ => rfl

theorem leaveList_sameCourse (s : State) (core slot : Nat) : SameCourse (leaveList s core slot) s :=
  sameCourse_updCore s core rfl fun _ => rfl

/-- Changing register slots one after the other changes no course. -/
theorem course_foldl_slots (f : Group → Nat → Group) (hf : ∀ g k, (f g k).course = g.course) (ks : List Nat) (g : Group) :
    (ks.foldl f g).course = g.course := by
  induction ks generalizing g with
  | nil => rfl
  | cons k ks ih => exact (ih (f g k)).trans (hf g k)

theorem course_takeBlocks (g : Group) (n : Nat) : (takeBlocks g n).course = g.course := by
  refine course_foldl_slots _ ?_ _ g
  exact fun _ _ => rfl

theorem course_dropBlocks (g : Group) (n : Nat) : (dropBlocks g n).course = g.course := by
  unfold dropBlocks
  refine (course_foldl_slots _ ?_ _ _).trans rfl
  exact fun _ _ => rfl

theorem grantBlocks_sameCourse (s : State) (core slot k : Nat) : SameCourse (grantBlocks s core slot k) s := by
  unfold grantBlocks
  exact (leaveList_sameCourse _ _ _).trans ((addUse_sameCourse _ _ _ _ _).trans
    (sameCourse_updGroup s core slot (course_takeBlocks _ _)))

theorem releaseBlocks_sameCourse (s : State) (core slot n : Nat) : SameCourse (releaseBlocks s core slot n) s := by
  unfold releaseBlocks
  exact (sameCourse_updCore _ core rfl fun _ => rfl).trans
    (sameCourse_updGroup s core slot (course_dropBlocks _ _))

/-! ### The completion of an instruction whose effect keeps the course -/

section
variable {s : State} {sh : Shape}

/-- A change of the executing group that keeps its course. -/
theorem updCur_sameCourse (t : State) {f : Group → Group} (hf : (f t.cur).course = t.cur.course) : SameCourse (t.updCur f) t :=
  sameCourse_updGroup t t.focus.core t.focus.slot hf

/-- A completion that closes latencies closes none where none is open. -/
theorem retire_updCur_hazards {t : State} (h : t.cur.hazards = []) :
    retire (t.updCur (fun g => { g with hazards := [] })) none 0 = retire t none 0 := by
  have e : ({ t.cur with hazards := [] } : Group) = t.cur := by rw [← h]
  simp only [retire_none, State.updCur, setCur_setCur, cur_setCur, e]

/-- A uniform instruction whose effect keeps the course, and that writes no scalar, completes with its effect. -/
theorem commitUni_keeps {x : Ctx} {t : State} (hx : x.hit = none) (hw : (t.core x.core).wps = []) (vals : List Word) (fl : Option Flags)
    (f : State → State) (hf : SameCourse (f t) t) (hz : t.cur.hazards = []) :
    commitUni x t [] vals fl f = retire (f t) none (fl.getD 0) := by
  have hz' : (f t).cur.hazards = [] := (congrArg (fun c => c.2.1) hf.cur).trans hz
  simp only [commitUni, watch_none hw, hx, Hit.join, bne_self_eq_false, Bool.false_eq_true, if_false]
  exact retire_updCur_hazards hz'

/-- A state that an effect has left at the course of its start completes as that effect says. -/
theorem retire_keeps (h : Starts s sh) {t : State} (hk : SameCourse t s.begins) : retire t none 0 = s.ends t := by
  have hc : t.cur.course = (begun s).course := hk.cur.trans (congrArg Group.course (cur_setCur s (begun s)))
  simp only [Group.course, Prod.mk.injEq] at hc
  obtain ⟨hpc, hz, hcalm⟩ := hc
  exact retire_ends hpc (hcalm.trans h.calm) hz

/-- An instruction that acts once for the group, and whose effect keeps the course, completes with its effect. -/
theorem commitOnce_keeps (h : Starts s sh) {t : State} {f : State → State} (ht : SameCourse t s.begins) (hf : SameCourse (f t) s.begins) :
    commitOnce (startCtx s sh) t f = s.ends (f t) := by
  have hc : (f t).cur.course = (begun s).course := hf.cur.trans (congrArg Group.course (cur_setCur s (begun s)))
  simp only [Group.course, Prod.mk.injEq] at hc
  obtain ⟨hpc, _, hcalm⟩ := hc
  exact commitOnce_ends ((ht.wps _).trans (begins_wps h _ rfl)) hpc (hcalm.trans h.calm)

/-- An instruction whose effect stands already completes with a commit that changes nothing. -/
theorem commitId_keeps {x : Ctx} {t : State} (hx : x.hit = none) (hw : (t.core x.core).wps = []) (hz : t.cur.hazards = []) :
    commitGroup x t id = retire t none 0 := by
  have hid : SameCourse (t.updCur id) t := sameCourse_updGroup t t.focus.core t.focus.slot rfl
  refine (commitUni_keeps hx hw [] none (fun u => u.updCur id) hid hz).trans ?_
  simp only [retire_none, State.updCur, setCur_setCur, cur_setCur, id]

end

/-- The branch that is taken where a test fails. -/
theorem ite_of_false {α : Type} {b : Bool} (h : b = false) {x y : α} : (if b = true then x else y) = y := if_neg (by rw [h]; exact Bool.false_ne_true)

/-! ### LDTAB and the register blocks (R108, R109, R252, R265, R266) -/

section
variable {s : State}

/-- Table slots are no part of a group. -/
theorem tabOwn_setCur (s : State) (v : Group) (c : Nat) : ((s.setCur v).core c).tabOwn = (s.core c).tabOwn := by
  by_cases e : c = s.focus.core
  · subst e; simp [State.setCur, State.setGroup]
  · simp [State.setCur, State.setGroup, core_setCore_ne _ _ e]

end

/-- Settles O20: with a thread taking part and its checks passed, LDTAB is its read. -/
theorem ldtabCompletes : Obligations.LdtabCompletes := by
  intro s k a pa ar gn rg sh h
  refine ⟨fun ht => ?none, fun ht hc hown hheld hsoft => ?read⟩
  case none =>
    show execLdtab k a s = _
    rw [execLdtab, startGroup_starts h]
    exact congrArg _ ((if_pos ht).trans (commitId_starts h))
  case read =>
    intro bs ask
    have hcheck : check (s.setCur (begun s)) s.focus.core (instRoot (s.setCur (begun s)) s.cur.inst) (s.cur.s64 a) 128 .read =
        .ok pa ar gn rg := (check_setCur s _ _ _ _ _ _).trans hc
    have hread : execLdtab.ldtabRead s (startCtx s sh) (s.setCur (begun s)) k (s.cur.s64 a) pa ar gn rg = retire
        ((addAsks (placeLoad s.begins s.focus.core { Access.zero with addr := pa, size := 128, arena := ar, gen := gn, regn := rg })
          s.focus.core [ask]).updCore s.focus.core (fun c => { c with
            tabs := (List.range 64).foldl (fun m i => zset m (64 * k.toNat + i) (ofBytes 16 ((bs.drop (2 * i)).take 2))) c.tabs
            tabOwn := put c.tabOwn k.toNat s.cur.inst })) none 0 := by
      have hwps : ((s.setCur (begun s)).core (startCtx s sh).core).wps = [] := begins_wps h _ rfl
      unfold execLdtab.ldtabRead
      simp only [cur_setCur, watch_none hwps, Hit.join]
      exact (ite_of_false hheld).trans ((ite_of_false hsoft).trans rfl)
    show execLdtab k a s = _
    rw [execLdtab, startGroup_starts h, ← hread]
    refine congrArg _ ((if_neg ht).trans ?_)
    simp only [startCtx, hcheck, tabOwn_setCur]
    rcases hown with hown | hown
    · rw [hown]
    · rw [hown]
      exact if_pos rfl

theorem slot_mem_of_mem_donors {c : Core} {m : BitVec 16} {slots : List Nat} {e : Donor} (h : e ∈ donors c m slots) : e.slot ∈ slots := by
  obtain ⟨k, hk, he⟩ := List.mem_filterMap.mp h
  split at he
  next n o a d _ =>
    by_cases hn : n = m
    · rw [if_pos hn, Option.some.injEq] at he
      rwa [← he]
    · rw [if_neg hn] at he; cases he
  next => cases he

/-- Where every slot waits with the mask, every slot takes part. -/
theorem length_donors {c : Core} {m : BitVec 16} {slots : List Nat}
    (h : ∀ k ∈ slots, ∃ o q e, (c.group k).wait = .rvdonate m o q e) : (donors c m slots).length = slots.length := by
  induction slots with
  | nil => rfl
  | cons k r ih =>
    obtain ⟨o, q, e, hk⟩ := h k List.mem_cons_self
    have hr := ih fun j hj => h j (List.mem_cons_of_mem _ hj)
    simpa [donors, hk] using hr

/-- Where every named slot holds a group of the herd, none has gone and every participant is of the herd. -/
theorem transfer_all_present {c : Core} {m : BitVec 16} {slots : List Nat} {i : Nat}
    (h : ∀ k ∈ slots, (c.group k).resident = true ∧ (c.group k).ended = false ∧ (c.group k).inst = i) :
    slots.any (fun k => !(c.group k).resident || (c.group k).ended || decide ((c.group k).inst ≠ i)) = false ∧
      (donors c m slots).filter (fun e => decide ((c.group e.slot).inst = i)) = donors c m slots := by
  constructor
  · rw [List.any_eq_false]
    intro k hk
    obtain ⟨h1, h2, h3⟩ := h k hk
    simp [h1, h2, h3]
  · rw [List.filter_eq_self]
    intro e he
    exact decide_eq_true (h _ (slot_mem_of_mem_donors he)).2.2

/-- Settles O21: a grant or a release keeps the course of its group; a transfer finds every named group waiting. -/
theorem registerBlocksComplete : Obligations.RegisterBlocksComplete := by
  refine ⟨fun s n => ⟨fun h hk => ?acqNone, fun h hk hg => ?acq, fun h hk hg => ?acqWait, fun h => ?rel, fun b hh j hw hg => ?grant⟩,
    fun s d a b => ⟨fun h hok => ?bad, fun h hok => ?offer, fun c h n o q e hw hall => ?move⟩⟩
  case acqNone =>
    show execRegacq n s = _
    rw [execRegacq, startGroup_starts h]
    exact congrArg _ ((if_pos hk).trans (commitId_starts h))
  case acq =>
    show execRegacq n s = _
    rw [execRegacq, startGroup_starts h]
    refine congrArg _ ((if_neg hk).trans ((if_pos hg).trans ?_))
    have hk := grantBlocks_sameCourse s.begins s.focus.core s.focus.slot (min n.toNat (freeSlots s.cur).length)
    exact commitId_keeps (x := startCtx s (uniShape (decide (n.toNat ≤ 8)) [] [])) rfl ((hk.wps s.focus.core).trans (begins_wps h _ rfl))
      ((congrArg (fun c => c.2.1) hk.cur).trans (congrArg Group.hazards (cur_setCur s (begun s))))
  case acqWait =>
    show execRegacq n s = _
    rw [execRegacq, startGroup_starts h]
    refine congrArg _ ((if_neg hk).trans ((ite_of_false hg).trans ?_))
    exact congrArg (fun t => State.updCore t _ _) (enterWait_starts _)
  case rel =>
    show execRegrel n s = _
    rw [execRegrel, startGroup_starts h]
    refine congrArg _ (commitUni_keeps rfl (begins_wps h _ rfl) [] none _ ?_ (congrArg Group.hazards (cur_setCur s (begun s))))
    exact (releaseBlocks_sameCourse _ _ _ _).trans (addUse_sameCourse _ _ _ _ _)
  case grant =>
    show execRegacqGrant b hh s = _
    simp only [execRegacqGrant, hw, hg, if_true]
  case bad =>
    show execRvdonate d a b s = _
    rw [execRvdonate, startGroup_starts h]
    exact congrArg _ ((if_pos (congrArg not hok)).trans (commitScal_starts h _ _ _))
  case offer =>
    have hlow : ∀ w : Word, fnat w 3 0 = w.toNat % 16 ∧ fnat w 7 4 = w.toNat / 16 % 16 := fun w => by
      simp [fnat, Nat.shiftRight_eq_div_pow]
    show execRvdonate d a b s = _
    simp only [execRvdonate, startGroup_starts h, hlow]
    exact congrArg _ ((ite_of_false (congrArg not hok)).trans (enterWait_starts _))
  case move =>
    obtain ⟨hgone, hsame⟩ := transfer_all_present (c := s.core c) (i := ((s.core c).group h).inst)
      (fun k hk => ⟨(hall k hk).1, (hall k hk).2.1, (hall k hk).2.2.1⟩)
    show execRvdonateTransfer c h s = _
    unfold execRvdonateTransfer
    rw [hw]
    refine (ite_of_false hgone).trans ?_
    rw [hsame]
    exact if_pos (length_donors fun k hk => (hall k hk).2.2.2)

end Sys2Proof.Machine
end

section
/-! PROOFS. Instructions that issue accesses: where every check passes, they enter one operation with its accesses, and where one fails,
they take its fault (R174, R193, R194, R283 to R292). -/
namespace Sys2Proof.Machine

section
variable {s : State} {d a b : BitVec 8}

/-! ### Loads and stores -/

theorem loadInstr_starts {w : Nat} {ps : List Placed} (acq : Bool)
    (h : Starts s (memShape (dataReg (regsFor w) d) d a b (regsFor w) false))
    (hc : globalChecks (startCtx s (memShape (dataReg (regsFor w) d) d a b (regsFor w) false)) s.begins w .read (isScal d) a b = .ok ps) :
    loadInstr s w acq d a b = .next (s.issued 0 (runOf d (regsFor w))
      (ps.map (fun p => { accessAt false (isScal d) .load w p with dst := runOf d (regsFor w), acq := acq }))) := by
  rw [loadInstr, startGroup_starts h, show s.setCur (begun s) = s.begins from rfl, hc]
  exact congrArg _ (issue_starts h _ _ _ _ _ _ _)

theorem loadInstr_fault {w : Nat} {c : Cause} (acq : Bool) (h : Starts s (memShape (dataReg (regsFor w) d) d a b (regsFor w) false))
    (hc : globalChecks (startCtx s (memShape (dataReg (regsFor w) d) d a b (regsFor w) false)) s.begins w .read (isScal d) a b = .fault c) :
    loadInstr s w acq d a b = .next (trap s.begins c) := by
  rw [loadInstr, startGroup_starts h, show s.setCur (begun s) = s.begins from rfl, hc]
  rfl

theorem storeInstr_starts {w : Nat} {ps : List Placed} (rel : Bool)
    (h : Starts s (memShape (storeReg (regsFor w) d) d a b (regsFor w) true))
    (hc : globalChecks (startCtx s (memShape (storeReg (regsFor w) d) d a b (regsFor w) true)) s.begins w .write (isScal d) a b = .ok ps) :
    storeInstr s w rel d a b = .next (s.issued 1 [] (ps.map (fun p => { accessAt false (isScal d) .store w p with
      val := datum (datumWords (startCtx s (memShape (storeReg (regsFor w) d) d a b (regsFor w) true)) (isScal d) d (regsFor w) p.thr)
      rel := rel, mail := rel }))) := by
  rw [storeInstr, startGroup_starts h, show s.setCur (begun s) = s.begins from rfl, hc]
  exact congrArg _ (issue_starts h _ _ _ _ _ _ _)

theorem storeInstr_fault {w : Nat} {c : Cause} (rel : Bool) (h : Starts s (memShape (storeReg (regsFor w) d) d a b (regsFor w) true))
    (hc : globalChecks (startCtx s (memShape (storeReg (regsFor w) d) d a b (regsFor w) true)) s.begins w .write (isScal d) a b = .fault c) :
    storeInstr s w rel d a b = .next (trap s.begins c) := by
  rw [storeInstr, startGroup_starts h, show s.setCur (begun s) = s.begins from rfl, hc]
  rfl

end

/-- Settles O22: each form is the common course of the loads or of the stores at its width. -/
theorem loadsAndStoresComplete : Obligations.LoadsAndStoresComplete := by
  refine ⟨fun s d a b ps => ⟨?ldb, ?ldh, ?ldw, ?ldd, ?ldq, ?ldacq, ?stb, ?sth, ?stw, ?std, ?stq, ?strel⟩,
    fun s d a b c => ⟨fun w acq h hc => loadInstr_fault acq h hc, fun w rel h hc => storeInstr_fault rel h hc⟩⟩
  case ldb | ldh | ldw | ldd | ldq | ldacq => exact fun h hc => loadInstr_starts _ h hc
  case stb | sth | stw | std | stq | strel => exact fun h hc => storeInstr_starts _ h hc

/-! ### The scratchpad, prefetch and fences -/

/-- Entering accesses changes no course. -/
theorem entered_course (g : Group) (born cls : Nat) (dst : List (BitVec 8)) (l : List Access) :
    (g.entered born cls dst l).course = g.course := by
  have hat := entered_at g g.nextPc g.hazards born cls dst l
  have hg : g.at_ g.nextPc g.hazards = g := rfl
  rw [hg] at hat
  have hpc := congrArg Group.nextPc hat
  have hz := congrArg Group.hazards hat
  exact Prod.ext hpc (Prod.ext hz (entered_calm g born cls dst l))

section
variable {s : State} {sh : Shape}

/-- A change of the executing group that is none leaves what a completion leaves. -/
theorem ends_updCur_id (s t : State) : s.ends (t.updCur id) = s.ends t := by
  rw [State.ends, updCur_updCur]
  rfl

/-- Accesses that make no request are entered in the group alone, whatever the state they are entered in. -/
theorem ends_enterAll {t : State} (hstep : t.focus.step = false) (cls : Nat) (dst : List (BitVec 8)) (mk : Placed → Access) (ps : List Placed)
    (hmk : ∀ p, coalesced (mk p) = false) :
    s.ends (enterAll t cls dst mk ps) = s.ends (t.updCur (fun g => g.entered t.tick cls dst (ps.map mk))) := by
  by_cases hp : ps = []
  · subst hp
    exact (ends_updCur_id s t).symm
  · rw [enterAll_entered _ _ _ _ _ hp hstep, asksOf_none _ _ _ _ (fun a ha => by
      obtain ⟨p, _, rfl⟩ := List.mem_map.mp ha
      exact hmk p)]
    rfl

theorem enterAll_sameCourse {t : State} (hstep : t.focus.step = false) (cls : Nat) (dst : List (BitVec 8)) (mk : Placed → Access)
    (ps : List Placed) : SameCourse (enterAll t cls dst mk ps) t := by
  by_cases hp : ps = []
  · subst hp
    exact .refl t
  · rw [enterAll_entered _ _ _ _ _ hp hstep]
    exact (addAsks_sameCourse _ _ _).trans (updCur_sameCourse _ (entered_course _ _ _ _ _))

theorem pinAll_sameCourse (t : State) (core inst w : Nat) (ps : List Placed) : SameCourse (pinAll t core inst w ps) t :=
  SameCourse.foldl (fun _ _ => pinRange_sameCourse _ _ _ _ _) _ t

/-- A scratchpad instruction whose checks pass pins its pages and enters its accesses. -/
theorem issue_scratch (h : Starts s sh) (s0 : State) (once : Bool) (w : Nat) (ps : List Placed) (ws : Nat → List Word) (cls : Nat)
    (dst : List (BitVec 8)) (mk : Placed → Access) (hmk : ∀ p, coalesced (mk p) = false) :
    issue s0 (startCtx s sh) s.begins true once (.ok ps) ws
      (fun ps u => enterAll (pinAll u s.focus.core s.cur.inst w ps) cls dst mk ps) =
      s.ends ((pinAll s.begins s.focus.core s.cur.inst w ps).updCur (fun g => g.entered s.tick cls dst (ps.map mk))) := by
  have hpin := pinAll_sameCourse s.begins s.focus.core s.cur.inst w ps
  have hstep : (pinAll s.begins s.focus.core s.cur.inst w ps).focus.step = false := by rw [hpin.focus]; exact h.no_step
  rw [issue_quiet rfl (begins_wps h (startCtx s sh).core rfl), retire_keeps h ((enterAll_sameCourse hstep _ _ _ _).trans hpin),
    ends_enterAll hstep _ _ _ _ hmk, hpin.tick]
  rfl

theorem exec_lds {d a : BitVec 8} {w : BitVec 3} {ps : List Placed}
    (h : Starts s (scrShape w (dataReg (regsFor (2 ^ w.toNat)) d) d a (regsFor (2 ^ w.toNat)) false))
    (hc : scrChecks (startCtx s (scrShape w (dataReg (regsFor (2 ^ w.toNat)) d) d a (regsFor (2 ^ w.toNat)) false)) s.begins (2 ^ w.toNat)
      (isScal d) a = .ok ps) :
    exec (.lds d a w) s = .next (s.ends ((pinAll s.begins s.focus.core s.cur.inst (2 ^ w.toNat) ps).updCur (fun g =>
      g.entered s.tick 0 (runOf d (regsFor (2 ^ w.toNat))) (ps.map (fun p =>
        { accessAt true (isScal d) .load (2 ^ w.toNat) p with dst := runOf d (regsFor (2 ^ w.toNat)) }))))) := by
  show execLds d a w s = _
  rw [execLds, widthOf, startGroup_starts h, show s.setCur (begun s) = s.begins from rfl, hc]
  exact congrArg _ (issue_scratch h _ _ _ _ _ _ _ _ fun _ => rfl)

theorem exec_sts {d a : BitVec 8} {w : BitVec 3} {ps : List Placed}
    (h : Starts s (scrShape w (storeReg (regsFor (2 ^ w.toNat)) d) d a (regsFor (2 ^ w.toNat)) true)) (x : Ctx)
    (hx : x = startCtx s (scrShape w (storeReg (regsFor (2 ^ w.toNat)) d) d a (regsFor (2 ^ w.toNat)) true))
    (hc : scrChecks x s.begins (2 ^ w.toNat) (isScal d) a = .ok ps) :
    exec (.sts d a w) s = .next (s.ends ((pinAll s.begins s.focus.core s.cur.inst (2 ^ w.toNat) ps).updCur (fun g =>
      g.entered s.tick 1 [] (ps.map (fun p => { accessAt true (isScal d) .store (2 ^ w.toNat) p with
        val := datum (datumWords x (isScal d) d (regsFor (2 ^ w.toNat)) p.thr) }))))) := by
  subst hx
  show execSts d a w s = _
  rw [execSts, widthOf, startGroup_starts h, show s.setCur (begun s) = s.begins from rfl, hc]
  exact congrArg _ (issue_scratch h _ _ _ _ _ _ _ _ fun _ => rfl)

/-- PREF with its translations at hand makes its requests. -/
theorem exec_pref {a b : BitVec 8} (x : Ctx)
    (hx : x = startCtx s (mkShape .memory (addrPair a && isSrc b) [a, a + 1, b] [a, a + 1, b] false))
    (h : Starts s (mkShape .memory (addrPair a && isSrc b) [a, a + 1, b] [a, a + 1, b] false)) (hh : prefHolds x s.begins a b = []) :
    exec (.pref a b) s = .next (s.ends (addAsks s.begins s.focus.core ((prefPlaces x s.begins a b).foldl (fun l p =>
      coalesce { askFor s.focus.slot s.cur.nextOp p.thr p.pa 1 false true p.arena p.gen p.regn with secs := 15 } l) []))) := by
  subst hx
  show execPref a b s = _
  rw [execPref, startGroup_starts h]
  simp only [show s.setCur (begun s) = s.begins from rfl, hh, List.isEmpty_nil, Bool.not_true, Bool.false_eq_true, if_false,
    show s.begins.cur = begun s from cur_setCur s _]
  exact congrArg _ (retire_keeps h (addAsks_sameCourse _ _ _))

/-- A fence is a marker among the accesses, after the invalidation of an acquire that no older load holds back. -/
theorem fenceInstr_starts (h : Starts s plainUni) (acq rel : Bool) :
    let clear := !(s.cur.accs.any (fun a => isLoadLike a && !a.perf))
    fenceInstr s acq rel = .next (s.ends ((if acq && clear then selfInv s.begins s.focus.core else s.begins).updCur (fun g =>
      if g.accs.isEmpty then g
      else addAccess g { Access.zero with kind := .fence acq rel, perf := clear || !acq, pc := g.pc }))) := by
  intro clear
  have hinv : SameCourse (if (acq && clear) = true then selfInv s.begins s.focus.core else s.begins) s.begins := by
    split
    · exact selfInv_sameCourse _ _
    · exact .refl _
  have hadd : ∀ (g : Group) (k : Access), (if g.accs.isEmpty = true then g else addAccess g k).course = g.course := by
    intro g k
    split <;> rfl
  rw [fenceInstr, startGroup_starts (show Starts s (mkShape .uniform true [] [] true) from h)]
  simp only [cur_setCur]
  exact congrArg _ (commitOnce_keeps (f := fun t => t.updCur _) h hinv ((updCur_sameCourse _ (hadd _ _)).trans hinv))

end

/-- Settles O23: the scratchpad accesses are entered behind their pins, a prefetch is its requests, and a fence its marker. -/
theorem scratchpadPrefetchAndFencesComplete : Obligations.ScratchpadPrefetchAndFencesComplete :=
  ⟨fun _ _ _ _ _ => ⟨fun h hc => exec_lds h hc, fun h hc => exec_sts h _ rfl hc⟩,
    fun _ _ _ => ⟨fun h hh => exec_pref _ rfl h hh, fun h => fenceInstr_starts h true false, fun h => fenceInstr_starts h false true,
      fun h => fenceInstr_starts h true true⟩⟩

/-! ### Atomics and reductions -/

section
variable {s : State} {d a b : BitVec 8} {ps : List Placed}

theorem atomicInstr_starts {op : AtomOp} {legal cas : Bool} (x : Ctx)
    (hx : x = startCtx s (memShape (dataReg 1 d && legal) d a b 1 cas)) (h : Starts s (memShape (dataReg 1 d && legal) d a b 1 cas))
    (hc : checkThreads (fun va => check s.begins x.core (instRoot s.begins x.src.inst) va 4 .both) (pairValue x (isScal d) a)
      (accThreads x (isScal d)) = .ok ps) :
    atomicInstr s op legal cas d a b = .next (s.goesOn [] (s.cur.entered s.tick 0 [d] (ps.map (fun p =>
      { accessAt false (isScal d) (.atomic op) 4 p with
        dst := [d], val := (operand x (isScal d) b p.thr).setWidth 128, cmp := if cas then operand x (isScal d) d p.thr else 0 })))) := by
  subst hx
  rw [atomicInstr, startGroup_starts h, show s.setCur (begun s) = s.begins from rfl, hc]
  refine congrArg _ ((issue_starts h _ _ _ _ _ _ _).trans (issued_none s 0 [d] _ fun k hk => ?_))
  obtain ⟨p, _, rfl⟩ := List.mem_map.mp hk
  rfl

theorem reduceInstr_starts {op : AtomOp} {legal : Bool} (x : Ctx)
    (hx : x = startCtx s (mkShape .memory (legal && addrPair a && isSrc b) [a, a + 1, b] [a, a + 1, b] false))
    (h : Starts s (mkShape .memory (legal && addrPair a && isSrc b) [a, a + 1, b] [a, a + 1, b] false))
    (hc : checkThreads (fun va => check s.begins x.core (instRoot s.begins x.src.inst) va 4 .write) (pairValue x false a) (bitsOf x.act) =
      .ok ps) :
    reduceInstr s op legal a b = .next (s.goesOn [] (s.cur.entered s.tick 1 [] (ps.map (fun p =>
      { accessAt false false (.reduce op) 4 p with val := (x.lane b p.thr).setWidth 128 })))) := by
  subst hx
  rw [reduceInstr, startGroup_starts h, show s.setCur (begun s) = s.begins from rfl, hc]
  refine congrArg _ ((issue_starts h _ _ _ _ _ _ _).trans (issued_none s 1 [] _ fun k hk => ?_))
  obtain ⟨p, _, rfl⟩ := List.mem_map.mp hk
  rfl

end

/-- The orders of AMIN and AMAX are those of TYPE i32 and n32 (R290). -/
theorem minMaxOk_eq (m : Word) : minMaxOk m = (decide (mType m = 0) || decide (mType m = 1)) := by
  rw [minMaxOk, Bool.eq_iff_iff]
  simp only [Bool.or_eq_true, decide_eq_true_eq]
  omega

/-- Settles O24: each form is the common course of the atomics or of the reductions with its operation. -/
theorem atomicsComplete : Obligations.AtomicsComplete := by
  intro s d a b ps u m atomics reduces ordered mn mx
  have hordered : ordered = minMaxOk s.cur.mode := (minMaxOk_eq s.cur.mode).symm
  rw [hordered]
  refine ⟨?aadd, ?afadd, ?amin, ?amax, ?aand, ?aor, ?axor, ?axchg, ?acas, ?redadd, ?redfadd, ?redmin, ?redmax, ?redor⟩
  case aadd | afadd | amin | amax | aand | aor | axor | axchg | acas => exact fun h hc => atomicInstr_starts _ rfl h hc
  case redadd | redfadd | redmin | redmax | redor => exact fun h hc => reduceInstr_starts _ rfl h hc

end Sys2Proof.Machine
end

section
/-! PROOFS. Copies, tags, barriers, counter waits, monitors and queues: each commits its one effect, or waits (R153 to R158, R183 to R187,
R293 to R301). -/
namespace Sys2Proof.Machine

section
variable {s : State} {sh : Shape}

/-- What a core holds apart from its groups is as before at the start of an instruction. -/
theorem core_begins (s : State) (c : Nat) : ∃ gs, s.begins.core c = { s.core c with groups := gs } := by
  by_cases e : c = s.focus.core
  · subst e
    exact ⟨_, core_setCore _ _ _⟩
  · exact ⟨(s.core c).groups, core_setCore_ne _ _ e⟩

theorem tags_begins (s : State) (c : Nat) : (s.begins.core c).tags = (s.core c).tags := by
  obtain ⟨gs, e⟩ := core_begins s c
  rw [e]

/-- An instruction that acts once for the group, with one effect that keeps the course. -/
theorem commitOnce_begins (h : Starts s sh) (f : State → State) (hf : SameCourse (f s.begins) s.begins) :
    commitOnce (startCtx s sh) s.begins f = s.ends (f s.begins) := commitOnce_keeps h (.refl _) hf

theorem startCopy_sameCourse (t : State) (core k : Nat) (cmd : CopyCmd) (y : Copy) : SameCourse (startCopy t core k cmd y) t := by
  have hfire : ∀ (c d : Core) n, takeFiring c n = some d → d.wps = c.wps ∧ d.groups = c.groups := by
    intro c d n hd
    unfold takeFiring at hd
    dsimp only at hd
    split at hd
    · cases hd
    · cases hd; exact ⟨rfl, rfl⟩
  have hkeep : ∀ c : Core, ((if cmd.gated then takeFiring c (2 + cmd.gate) else some c).getD c).wps = c.wps ∧
      ((if cmd.gated then takeFiring c (2 + cmd.gate) else some c).getD c).groups = c.groups := by
    intro c
    split
    · cases hd : takeFiring c (2 + cmd.gate) with
      | none => exact ⟨rfl, rfl⟩
      | some d => exact hfire c d _ hd
    · exact ⟨rfl, rfl⟩
  refine sameCourse_updCore t core (hkeep _).1 fun j => ?_
  rw [Core.group, show (Core.groups _) = _ from (hkeep (t.core core)).2]
  rfl

theorem addOp_course (g : Group) (cls n : Nat) : (addOp g cls n).1.course = g.course := by
  unfold addOp
  rcases cls with _ | _ | _ | _ | _ <;> rfl

/-- CPY and CPYS with their checks passed and a slot free take that slot. -/
theorem copyInstr_starts {a b : BitVec 8} {dir : Bool} {k : Nat}
    (h : Starts s (onceShape ((isScal a && alignedTo 4 a) && (isScal b && alignedTo 4 b)) (runOf a 4 ++ runOf b 4) (runOf a 4 ++ runOf b 4)))
    (cmd : CopyCmd) (hcmd : cmd = copyCmd (startCtx s (onceShape ((isScal a && alignedTo 4 a) && (isScal b && alignedTo 4 b))
      (runOf a 4 ++ runOf b 4) (runOf a 4 ++ runOf b 4))) a b dir)
    (ht : taking s (onceShape ((isScal a && alignedTo 4 a) && (isScal b && alignedTo 4 b)) (runOf a 4 ++ runOf b 4) (runOf a 4 ++ runOf b 4)) ≠ 0)
    (hc : copyCheck cmd ((s.begins.core s.focus.core).scratchOf s.cur.inst).size = none)
    (hk : freeCopy (s.begins.core s.focus.core) = some k) :
    copyInstr s dir a b = .next (s.ends (startCopy (s.begins.setCur (addOp (begun s) 2 1).1) s.focus.core k cmd
      { rec_ := copyRec cmd s.focus.slot, inst := s.cur.inst, op := (addOp (begun s) 2 1).2, after := (addOp (begun s) 2 1).1.nextAcc
        rd := 0, buf := [], started := false, order := 0, side := none, stopped := none })) := by
  subst hcmd
  have hcur : s.begins.cur = begun s := cur_setCur s _
  have hop : SameCourse (s.begins.setCur (addOp (begun s) 2 1).1) s.begins :=
    updCur_sameCourse s.begins (f := fun _ => (addOp (begun s) 2 1).1) (by rw [hcur]; exact addOp_course _ _ _)
  rw [copyInstr, startGroup_starts h]
  refine congrArg _ ((if_neg ht).trans ?_)
  simp only [show s.setCur (begun s) = s.begins from rfl]
  rw [show copyCheck (copyCmd (startCtx s _) a b dir) ((s.begins.core (startCtx s _).core).scratchOf (startCtx s _).src.inst).size = none from hc,
    show freeCopy (s.begins.core (startCtx s _).core) = some k from hk]
  simp only [watchOnce, watch_none (begins_wps h (startCtx s _).core rfl), Hit.join]
  refine (commitOnce_begins h _ ?_).trans ?_
  · rw [hcur]
    exact (startCopy_sameCourse _ _ _ _ _).trans hop
  · rw [hcur]
    rfl

/-! ### Tags (R154, R295) -/

/-- A wait for tags with no thread to speak of, or for none, completes; another completes as an acquire where its tags are set, and waits. -/
theorem tagWait_starts {a : BitVec 8} (h : Starts s (onceShape (isScalPair a) [a, a + 1] [a, a + 1]))
    (ht : taking s (onceShape (isScalPair a) [a, a + 1] [a, a + 1]) ≠ 0) (all : Bool) :
    tagWait s all a = .next (if s.cur.s64 a = 0 then s.ends s.begins
      else if tagsMeet (s.core s.focus.core).tags (s.cur.s64 a) all then s.ends (selfInv s.begins s.focus.core)
      else s.waits (.tags (s.cur.s64 a) all)) := by
  have hact : decide ((startCtx s (onceShape (isScalPair a) [a, a + 1] [a, a + 1])).act = 0) = false := decide_eq_false ht
  rw [← tags_begins s s.focus.core, tagWait, startGroup_starts h]
  refine congrArg _ ?_
  by_cases hm : s.cur.s64 a = 0
  · rw [if_pos hm]
    refine (if_pos ?_).trans (commitOnce_begins h id (.refl _))
    rw [hact, show decide ((startCtx s _).src.s64 a = 0) = true from decide_eq_true hm]
    rfl
  · rw [if_neg hm]
    refine (if_neg ?_).trans ?_
    · rw [hact, show decide ((startCtx s _).src.s64 a = 0) = false from decide_eq_false hm]
      exact Bool.false_ne_true
    by_cases hmeet : tagsMeet (s.begins.core s.focus.core).tags (s.cur.s64 a) all = true
    · rw [if_pos hmeet]
      exact (if_pos hmeet).trans (commitOnce_begins h (fun u => selfInv u s.focus.core) (selfInv_sameCourse _ _))
    · rw [if_neg hmeet]
      exact (if_neg hmeet).trans (enterWait_starts _)

/-- Any tag of a mask, or all of them. -/
theorem tagsMeet_any {tags m : BitVec 64} (hm : m ≠ 0) : tagsMeet tags m false = (tags &&& m != 0) := by
  rw [tagsMeet, if_neg hm]; rfl

theorem tagsMeet_all {tags m : BitVec 64} (hm : m ≠ 0) : tagsMeet tags m true = decide (tags &&& m = m) := by
  rw [tagsMeet, if_neg hm]; rfl

theorem exec_tagff {d a : BitVec 8} (h : Starts s (onceShape (isScal d && isScalPair a) [d, a, a + 1] [a, a + 1]))
    (ht : taking s (onceShape (isScal d && isScalPair a) [d, a, a + 1] [a, a + 1]) ≠ 0) :
    exec (.tagff d a) s = .next (s.ends (if (s.core s.focus.core).tags &&& s.cur.s64 a = 0 then
        s.begins.updCur (fun g => writeScal g d 64)
      else (selfInv s.begins s.focus.core).updCur (fun g =>
        writeScal g d (BitVec.ofNat 32 (lowest ((s.core s.focus.core).tags &&& s.cur.s64 a)))))) := by
  have hwrite : ∀ t : State, SameCourse t s.begins → ∀ v, SameCourse (t.updCur (fun g => writeScal g d v)) s.begins :=
    fun t hk v => (updCur_sameCourse t rfl).trans hk
  show execTagff d a s = _
  rw [← tags_begins s s.focus.core, execTagff, startGroup_starts h]
  refine congrArg _ ((if_neg ht).trans ?_)
  by_cases hf : (s.begins.core s.focus.core).tags &&& s.cur.s64 a = 0
  · rw [if_pos hf]
    refine (commitOnce_begins h _ ?_).trans ?_
    · simp only [show ((s.setCur (begun s)).core (startCtx s _).core).tags &&& (startCtx s _).src.s64 a = 0 from hf, if_true]
      exact hwrite _ (.refl _) _
    · simp only [show ((s.setCur (begun s)).core (startCtx s _).core).tags &&& (startCtx s _).src.s64 a = 0 from hf, if_true]
      rfl
  · rw [if_neg hf]
    refine (commitOnce_begins h _ ?_).trans ?_
    · simp only [show ¬ ((s.setCur (begun s)).core (startCtx s _).core).tags &&& (startCtx s _).src.s64 a = 0 from hf, if_false]
      exact hwrite _ (selfInv_sameCourse _ _) _
    · simp only [show ¬ ((s.setCur (begun s)).core (startCtx s _).core).tags &&& (startCtx s _).src.s64 a = 0 from hf, if_false]
      rfl

theorem exec_tagclr {a : BitVec 8} (h : Starts s (onceShape (isScalPair a) [a, a + 1] [a, a + 1]))
    (ht : taking s (onceShape (isScalPair a) [a, a + 1] [a, a + 1]) ≠ 0) :
    exec (.tagclr a) s = .next (s.ends (s.begins.updCore s.focus.core (fun c =>
      { c with tags := c.tags &&& ~~~(maskOf 64 ((bitsOf (s.cur.s64 a)).filter (fun i => zget c.tagCnt i = 0))) }))) := by
  show execTagclr a s = _
  rw [execTagclr, startGroup_starts h]
  exact congrArg _ ((if_neg ht).trans (commitOnce_begins h (fun u => u.updCore _ _) (sameCourse_updCore _ _ rfl fun _ => rfl)))

end

/-- Settles O25: a copy takes its slot with one commit; a wait for tags is decided by the tags of its core. -/
theorem copiesAndTagsComplete : Obligations.CopiesAndTagsComplete := by
  intro s d a b k c quad copies sh m tags
  refine ⟨fun h ht hc hk => copyInstr_starts h _ rfl ht hc hk, fun h ht hc hk => copyInstr_starts h _ rfl ht hc hk,
    fun h ht => ⟨fun hm => ?anyNone, fun hm => ?any, fun hm hn => ?anyWait⟩, fun h ht => ⟨fun hm => ?allNone, fun hm hn => ?all, fun hn => ?allWait⟩,
    fun h ht => exec_tagff h ht, fun h ht => exec_tagclr h ht, fun q j n all hw hmeet => ?ended⟩
  case anyNone => exact (tagWait_starts h ht false).trans (congrArg _ (if_pos hm))
  case any =>
    have hm0 : m ≠ 0 := fun e => hm (by rw [e]; exact BitVec.and_zero)
    exact (tagWait_starts h ht false).trans (congrArg _ ((if_neg hm0).trans (if_pos (by rw [tagsMeet_any hm0]; exact bne_iff_ne.mpr hm))))
  case anyWait =>
    refine (tagWait_starts h ht false).trans (congrArg _ ((if_neg hm).trans (ite_of_false ?_)))
    rw [tagsMeet_any hm, bne_eq_false_iff_eq]
    exact hn
  case allNone => exact (tagWait_starts h ht true).trans (congrArg _ (if_pos hm))
  case all =>
    exact (tagWait_starts h ht true).trans (congrArg _ ((if_neg hm).trans (if_pos (by rw [tagsMeet_all hm]; exact decide_eq_true hn))))
  case allWait =>
    have hm0 : m ≠ 0 := fun e => hn (by rw [e]; exact BitVec.and_zero)
    exact (tagWait_starts h ht true).trans
      (congrArg _ ((if_neg hm0).trans (ite_of_false (by rw [tagsMeet_all hm0]; exact decide_eq_false hn))))
  case ended =>
    show execTagWaitEnd q j s = _
    unfold execTagWaitEnd
    rw [hw]
    exact if_pos hmeet

end Sys2Proof.Machine
end

section
/-! PROOFS. Barriers, counter waits, monitors and queues (R117, R156 to R158, R183 to R187, R200, R296 to R301). -/
namespace Sys2Proof.Machine

/-! ### Barriers -/

/-- A group that asks for a phase of a barrier in memory, the barrier's address in a pair of its vectors. -/
def vectorBarrierState : State := (placeGroupWord State.reset 0).updCur (fun g => g.setVec 0 0 0x1100)

/-- The wait that the executing group is in after an instruction. -/
def waitAfter : Out → Option Wait
  | .next t => some t.cur.wait
  | _ => none

/-- Refutes O26: the statement lets WAITPH take its address from a pair of vectors, while an instruction with a scalar destination takes
it from a pair of scalars (R221, R284) and WAITPH with v0 is an illegal form. The machine takes ILLEGAL where the statement asks for the
wait for the phase. -/
theorem not_barriersComplete : ¬ Obligations.BarriersComplete := by
  intro h
  have hstarts : Starts vectorBarrierState (onceShape (isScal 160 && addrPair 0 && isUni 160) [160, 0, 0 + 1, 160] [0, 0 + 1, 160]) ∧
      taking vectorBarrierState (onceShape (isScal 160 && addrPair 0 && isUni 160) [160, 0, 0 + 1, 160] [0, 0 + 1, 160]) ≠ 0 := by decide +kernel
  have hcheck : barCheck vectorBarrierState.begins 0 vectorBarrierState.cur.inst 0x1100 .read = .ok 0x120100 1 0 0 := by decide +kernel
  obtain ⟨-, -, -, hwait, -⟩ := h vectorBarrierState 160 0 160 0x120100 1 0 0
  obtain ⟨-, -, hwaits⟩ := hwait hstarts.1 hstarts.2 hcheck
  have hrun := hwaits (by decide +kernel)
  exact absurd (congrArg waitAfter hrun) (by decide +kernel)

/-! ### Counter waits and monitors -/

section
variable {s : State}

/-- A change of the executing group's monitor, and of nothing that its course shows. -/
theorem monitor_sameCourse (t : State) (f : Group → Group) (hf : ∀ g, (f g).course = g.course) : SameCourse (t.updCur f) t :=
  updCur_sameCourse t (hf _)

theorem exec_monitor {a : BitVec 8} {pa : Nat} {ar : BitVec 12} {gn : BitVec 4} {rg : BitVec 2}
    (h : Starts s (onceShape (isScalPair a) [a, a + 1] [a, a + 1])) (ht : taking s (onceShape (isScalPair a) [a, a + 1] [a, a + 1]) ≠ 0)
    (hc : check s.begins s.focus.core (instRoot s.begins s.cur.inst) (s.cur.s64 a) 1 .read = .ok pa ar gn rg) :
    exec (.monitor a) s = .next (s.goesOn [] { s.cur with mon := some (lineOf pa), monArena := ar, monHit := false }) := by
  have hc' : check (s.setCur (begun s)) (startCtx s (onceShape (isScalPair a) [a, a + 1] [a, a + 1])).core
      (instRoot (s.setCur (begun s)) (startCtx s (onceShape (isScalPair a) [a, a + 1] [a, a + 1])).src.inst)
      ((startCtx s (onceShape (isScalPair a) [a, a + 1] [a, a + 1])).src.s64 a) 1 .read = .ok pa ar gn rg := hc
  show execMonitor a s = _
  rw [execMonitor, startGroup_starts h]
  refine congrArg _ ((if_neg ht).trans ?_)
  simp only [hc']
  exact commitGroup_starts h (fun g => { g with mon := some (lineOf pa), monArena := ar, monHit := false }) (fun _ _ _ => rfl) fun _ => rfl

/-- An instruction that changes nothing only goes on. -/
theorem ends_begins (s : State) : s.ends s.begins = s.goesOn [] s.cur := by
  simp only [State.ends, State.begins, updCur_setCur]
  rfl

/-- MWAIT with no monitor armed advances; with one it ends as an acquire where the line has been written, and waits otherwise. -/
theorem exec_mwait_none {a : BitVec 8} (h : Starts s (onceShape (isUni a) [a] [a])) (ht : taking s (onceShape (isUni a) [a] [a]) ≠ 0)
    (hm : s.cur.mon = none) : exec (.mwait a) s = .next (s.goesOn [] s.cur) := by
  show execMwait a s = _
  rw [execMwait, startGroup_starts h]
  refine congrArg _ ((if_neg ht).trans ?_)
  simp only [show (startCtx s (onceShape (isUni a) [a] [a])).src.mon = none from hm]
  exact (commitOnce_begins h id (.refl _)).trans (ends_begins s)

theorem exec_mwait_some {a : BitVec 8} (h : Starts s (onceShape (isUni a) [a] [a])) (ht : taking s (onceShape (isUni a) [a] [a]) ≠ 0)
    (hm : s.cur.mon ≠ none) : exec (.mwait a) s = .next (if s.cur.monHit = true then
        s.ends ((selfInv s.begins s.focus.core).updCur (fun g => { g with mon := none, monHit := false, mrem := 0 }))
      else s.setCur { begun s with
        wait := .mwait, started := s.tick, mrem := mwaitCycles s.cur.mrem ((startCtx s (onceShape (isUni a) [a] [a])).uni a) }) := by
  obtain ⟨l, hl⟩ := Option.ne_none_iff_exists'.mp hm
  show execMwait a s = _
  rw [execMwait, startGroup_starts h]
  refine congrArg _ ((if_neg ht).trans ?_)
  rw [show (startCtx s (onceShape (isUni a) [a] [a])).src.mon = some l from hl]
  simp only [cur_setCur, show (begun s).monHit = s.cur.monHit from rfl]
  congr 1
  · exact commitOnce_begins h (fun u => (selfInv u s.focus.core).updCur (fun g => { g with mon := none, monHit := false, mrem := 0 }))
      ((updCur_sameCourse _ rfl).trans (selfInv_sameCourse _ _))
  · simp only [enterWait, startCtx, updCur_setCur]
    rfl

end

/-- Settles O27: a wait is decided by the counts, the monitor or the cycles that remain. -/
theorem counterAndMonitorWaitsComplete : Obligations.CounterAndMonitorWaitsComplete := by
  intro s k n a pa ar gn rg c shc shm shw
  have hcount : ((s.setCur (begun s)).cur.count k.toNat) = s.cur.count k.toNat := by rw [cur_setCur]; rfl
  refine ⟨fun h hle => ?done, fun h hlt => ?wait, fun j i q m hw hle => ?ended, fun h ht hc => exec_monitor h ht hc,
    fun h ht hm => exec_mwait_none h ht hm, fun h ht hm hh => (exec_mwait_some h ht hm).trans (congrArg _ (if_pos hh)),
    fun h ht hm hh => (exec_mwait_some h ht hm).trans (congrArg _ (ite_of_false hh)), fun j i hw hh hr => ?timeout⟩
  case done =>
    show execCntwait k n s = _
    rw [execCntwait, startGroup_starts h]
    exact congrArg _ ((if_pos (by rw [hcount]; exact hle)).trans (commitOnce_begins h (fun u => selfInv u s.focus.core) (selfInv_sameCourse _ _)))
  case wait =>
    show execCntwait k n s = _
    rw [execCntwait, startGroup_starts h]
    exact congrArg _ ((if_neg (by rw [hcount]; exact Nat.not_le.mpr hlt)).trans (enterWait_starts _))
  case ended =>
    show execCntwaitEnd j i s = _
    simp only [execCntwaitEnd, hw]
    exact if_pos hle
  case timeout =>
    show execMwaitTimeout j i s = _
    simp only [execMwaitTimeout, hw, hh, hr]
    rfl

/-! ### Queues -/

section
variable {s : State}

theorem accThreads_ne_nil {x : Ctx} (u : Bool) (h : x.act ≠ 0) : accThreads x u ≠ [] := by
  have hb : bitsOf x.act ≠ [] := fun hb => h (by rw [← maskOf_bitsOf x.act, hb]; rfl)
  rw [accThreads, if_neg h]
  cases u
  · exact hb
  · exact List.cons_ne_nil _ _

/-- The access with which ENQ enters its push (R187, R300). -/
def pushOf (s : State) (x : Ctx) (d a : BitVec 8) (q : BitVec 3) : Access :=
  { Access.zero with
    kind := .push q.toNat, addr := pushAddr q.toNat, thr := x.low, pred := some a, uni := isScal d, rel := true
    mask := if isScal d then s.cur.amask else x.act, words := (accThreads x (isScal d)).map (operand x (isScal d) d) }

/-- A push is one access, entered once. -/
theorem exec_enq {d a : BitVec 8} {q : BitVec 3} {sh : Shape} (hsh : sh = queueShape (storeReg 1 d) d a true (isScal d)) (h : Starts s sh)
    {x : Ctx} (hx : x = startCtx s sh) (hside : sideHeld s.begins s.focus.core s.focus.slot = true) (ht : taking s sh ≠ 0) :
    exec (.enq d a q) s = .next (s.goesOn [] (s.cur.entered s.tick 1 [a] [pushOf s x d a q])) := by
  have hside' : sideHeld (s.setCur (begun s)) x.core x.slot = true := by rw [hx]; exact hside
  have hgo : (accThreads x (isScal d)).filter (fun i => !(bit (0 : BitVec 64) i)) = accThreads x (isScal d) :=
    List.filter_eq_self.mpr fun i _ => by simp [bit]
  have hne : (accThreads x (isScal d)).isEmpty = false := by
    rw [List.isEmpty_eq_false_iff]
    exact accThreads_ne_nil _ (by rw [hx]; exact ht)
  have hmask : (if isScal d then x.src.amask else maskOf 64 (accThreads x (isScal d))) = if isScal d then s.cur.amask else x.act := by
    rw [hx]
    cases hu : isScal d
    · simp only [accThreads, startCtx, ht, if_false, Bool.false_eq_true]
      exact maskOf_bitsOf _
    · rfl
  show execEnq d a q s = _
  rw [execEnq, ← hsh, startGroup_starts h, ← hx]
  refine congrArg _ ((ite_of_false (by rw [hside']; rfl)).trans ((if_neg (by rw [hx]; exact ht)).trans ?_))
  have hwatch : ∀ k n pc l, watch (s.setCur (begun s)) x.core k n pc l = (s.setCur (begun s), none) :=
    fun _ _ _ _ => watch_none (begins_wps h x.core (by rw [hx]; rfl))
  have hhit : x.hit = none := by rw [hx]; rfl
  simp only [hwatch, hhit, Hit.join, hgo, hne, bne_self_eq_false, Bool.and_false, Bool.false_eq_true, if_false, hmask]
  have hend := retire_keeps h (t := s.begins.updCur (fun g => g.entered s.tick 1 [a] [pushOf s x d a q])) (updCur_sameCourse _ (entered_course _ _ _ _ _))
  refine Eq.trans ?_ (hend.trans ?_)
  · rfl
  · simp only [State.ends, State.begins, updCur_setCur, show begun s = s.cur.at_ s.after [] from rfl, entered_at]
    generalize s.cur.entered s.tick 1 [a] [pushOf s x d a q] = g
    rfl

/-- What a pop offers to its threads where nothing watches the entries: one to each while entries remain. -/
theorem foldl_offerEntry {t : State} (born : Option Nat) (core slot : Nat) (pc : BitVec 48) (hw : (t.core core).wps = []) (ts : List Nat)
    (items : List Word) (got : List (Nat × Word)) (none_ : List Nat) :
    ts.foldl (offerEntry born core slot pc) ⟨t, items, got, none_, none⟩ =
      ⟨t, items.drop ts.length, got ++ ts.zip items, none_ ++ ts.drop items.length, none⟩ := by
  induction ts generalizing items got none_ with
  | nil => simp
  | cons i ts ih =>
    cases items with
    | nil =>
      rw [List.foldl_cons, offerEntry, ih]
      simp
    | cons w items =>
      have hwatch : watchFrom t born core slot 1 pc [⟨i, [w], 0, none⟩] = (t, none) := by simp [watchFrom, hw]
      rw [List.foldl_cons, offerEntry]
      simp only [hwatch, Hit.join]
      rw [ih]
      simp

theorem popEntries_eq {t : State} (born : Option Nat) (core slot q : Nat) (pc : BitVec 48) (ts : List Nat) (hw : (t.core core).wps = []) :
    popEntries t born core slot q pc ts = ⟨t, ((t.core core).queue q).items.drop ts.length, ts.zip ((t.core core).queue q).items,
      ts.drop ((t.core core).queue q).items.length, none⟩ := by
  rw [popEntries, foldl_offerEntry born core slot pc hw]
  simp

/-- Every thread of a pop either receives an entry or is left without one. -/
theorem zip_fst_append_drop {α β : Type} (ts : List α) (items : List β) : (ts.zip items).map Prod.fst ++ ts.drop items.length = ts := by
  induction ts generalizing items with
  | nil => simp
  | cons i ts ih =>
    cases items with
    | nil => rfl
    | cons w items => simpa using ih items

theorem writePred_course (g : Group) (d : BitVec 8) (m v : BitVec 64) : (writePred g d m v).course = g.course := rfl

theorem writeLane_course (g : Group) (d : BitVec 8) (t : Nat) (v : Word) : (writeLane g d t v).course = g.course := by
  unfold writeLane
  split
  · rfl
  · split <;> rfl

theorem writeLanes_course (d : BitVec 8) (vs : List (Nat × Word)) (g : Group) : (writeLanes g d vs).course = g.course := by
  induction vs generalizing g with
  | nil => rfl
  | cons e vs ih => exact (ih _).trans (writeLane_course g d e.1 e.2)

theorem foldl_writeScal_course (d : BitVec 8) (l : List (Nat × Word)) (g : Group) :
    (l.foldl (fun k e => writeScal k d e.2) g).course = g.course := by
  induction l generalizing g with
  | nil => rfl
  | cons e l ih => exact ih _

/-- The operation of a pop that is done at once: it is counted and no longer outstanding. -/
def popDone (g : Group) : Group := { (addOp g 0 0).1 with ld := dropDone (addOp g 0 0).1.ld }

theorem popDone_course (g : Group) : (popDone g).course = g.course := addOp_course g 0 0

/-- What DEQ writes, where every thread was offered its entry. -/
def popResult (g : Group) (d a : BitVec 8) (m : BitVec 64) (ts : List Nat) (items : List Word) : Group :=
  let got := ts.zip items
  if isScal d then writePred (got.foldl (fun k e => writeScal k d e.2) g) a m (if got.isEmpty then m else 0)
  else writePred (writeLanes g d got) a (maskOf 64 ts) (maskOf 64 (ts.drop items.length))

theorem popResult_course (g : Group) (d a : BitVec 8) (m : BitVec 64) (ts : List Nat) (items : List Word) :
    (popResult g d a m ts items).course = g.course := by
  unfold popResult
  split
  · rw [writePred_course, foldl_writeScal_course]
  · rw [writePred_course, writeLanes_course]

theorem popWrites_all (g : Group) {d : BitVec 8} (a : BitVec 8) (hd : isScal d = false → isVec d = true) (act amask : BitVec 64) (ts : List Nat)
    (items : List Word) (t : State) (rest : List Word) (h : Option Hit) :
    popWrites g d a (isScal d) (if isScal d then amask else act) ⟨t, rest, ts.zip items, ts.drop items.length, h⟩ = popResult g d a amask ts items := by
  unfold popWrites popResult
  cases hu : isScal d
  · simp only [Bool.false_eq_true, if_false, hd hu, if_true, zip_fst_append_drop]
  · rfl

/-- DEQ: the threads that an entry remains for receive it, in ascending order; the others receive the failure bit. -/
theorem exec_deq {d a : BitVec 8} {q : BitVec 3} {sh : Shape} (hsh : sh = queueShape (dataReg 1 d) d a false (isScal d)) (h : Starts s sh)
    {x : Ctx} (hx : x = startCtx s sh) (hside : sideHeld s.begins s.focus.core s.focus.slot = true) (ht : taking s sh ≠ 0)
    (hready : popReady (begun s) = true) {got : List (Nat × Word)}
    (hgot : got = (accThreads x (isScal d)).zip ((s.begins.core s.focus.core).queue q.toNat).items) :
    exec (.deq d a q) s = .next (s.ends ((if got.isEmpty then queueTake s.begins s.focus.core q.toNat (2 + s.focus.slot / 16) got.length
        else selfInv (queueTake s.begins s.focus.core q.toNat (2 + s.focus.slot / 16) got.length) s.focus.core).updCur (fun g =>
      popResult (popDone g) d a s.cur.amask (accThreads x (isScal d)) ((s.begins.core s.focus.core).queue q.toNat).items))) := by
  have hside' : sideHeld (s.setCur (begun s)) x.core x.slot = true := by rw [hx]; exact hside
  have hready' : popReady (s.setCur (begun s)).cur = true := by rw [cur_setCur]; exact hready
  have hvec : isScal d = false → isVec d = true := by
    have hlegal := h.legal
    rw [hsh] at hlegal
    intro hu
    simp only [queueShape, mkShape, dataReg, hu, Bool.or_false, Bool.and_eq_true] at hlegal
    exact hlegal.1.2
  have hwps : ((s.setCur (begun s)).core x.core).wps = [] := begins_wps h x.core (by rw [hx]; rfl)
  have hhit : x.hit = none := by rw [hx]; rfl
  show execDeq d a q s = _
  rw [execDeq, ← hsh, startGroup_starts h, ← hx]
  refine congrArg _ ((ite_of_false (by rw [hside']; rfl)).trans ((if_neg (by rw [hx]; exact ht)).trans ((if_pos hready').trans ?_)))
  simp only [popEntries_eq none x.core x.slot q.toNat x.src.pc _ hwps, hhit, Hit.join, bne_self_eq_false, Bool.and_false, Bool.false_eq_true, if_false]
  simp only [popWrites_all _ a hvec]
  have htake : SameCourse (if got.isEmpty then queueTake s.begins s.focus.core q.toNat (2 + s.focus.slot / 16) got.length
        else selfInv (queueTake s.begins s.focus.core q.toNat (2 + s.focus.slot / 16) got.length) s.focus.core) s.begins := by
    split
    · exact queueTake_sameCourse _ _ _ _ _
    · exact (selfInv_sameCourse _ _).trans (queueTake_sameCourse _ _ _ _ _)
  rw [hgot, hx]
  rw [hgot, hx] at htake
  exact retire_keeps h ((updCur_sameCourse _ ((popResult_course _ _ _ _ _ _).trans (popDone_course _))).trans htake)

end

/-- Settles O28: a push is one access that owes its predicate, and a pop gives one entry to each thread while entries remain. -/
theorem queueInstructionsComplete : Obligations.QueueInstructionsComplete := by
  intro s d a q c u
  refine ⟨fun h hside ht => exec_enq rfl h rfl hside ht, fun h hside ht hready => ?_⟩
  exact exec_deq rfl h rfl hside ht hready rfl

end Sys2Proof.Machine
end

section
/-! PROOFS. The reset state, the words written out from the spec, and the credits of barriers (R156, R157). -/
namespace Sys2Proof.Machine

/-- Settles O56: after reset no table holds an entry, so every lookup gives the reset value. -/
theorem resetStateAsSpecified : Obligations.ResetStateAsSpecified :=
  ⟨rfl, rfl, rfl, rfl, fun _ => ⟨rfl, rfl, rfl⟩, fun _ => ⟨rfl, rfl, rfl⟩, fun _ => ⟨rfl, fun _ => ⟨rfl, rfl⟩⟩, fun _ _ => ⟨rfl, rfl, rfl, rfl⟩⟩

/-- Settles O54: each word is a fixed one, and the decoders are evaluated on it. -/
theorem specWordsDecode : Obligations.SpecWordsDecode := by
  unfold Obligations.SpecWordsDecode
  decide

/-! ### Credits -/

theorem fnat_setBit_same {n : Nat} (x : BitVec n) (i : Nat) (v : Bool) (h : i < n) : fnat (setBit x i v) i i = if v then 1 else 0 := by
  rw [setBit, fnat_fput_same x i i _ h (le_refl i), Nat.sub_self]
  cases v <;> rfl

theorem fnat_setBit_ne {n : Nat} (x : BitVec n) (i h l : Nat) (v : Bool) (hh : h < i ∨ i < l) (hk : l ≤ h) :
    fnat (setBit x i v) h l = fnat x h l := fnat_fput_ne x i i _ h l hh (le_refl i) hk

theorem fnat_bit {n : Nat} (x : BitVec n) (i : Nat) : fnat x i i = if bit x i then 1 else 0 := by
  rw [fnat_eq, BitVec.extractLsb'_toNat, Nat.sub_self, bit, BitVec.getLsbD, Nat.testBit_eq_decide_div_mod_eq, Nat.shiftRight_eq_div_pow]
  have h := Nat.mod_two_eq_zero_or_one (x.toNat / 2 ^ i)
  rcases h with h | h <;> simp [h]

/-- The completion test keeps what the program expects; a phase that is complete moves POISON to LPOISON, clears what was counted and
goes on to the next phase, and another is left as it is. -/
theorem barComplete_of_full {b : BitVec 128} (h : barTgot b = barTexp b ∧ barBgot b = barBexp b) :
    fnat (barComplete b) 63 47 = fnat b 63 47 ∧ fnat (barComplete b) 127 96 = fnat b 127 96 ∧ fnat (barComplete b) 11 11 = fnat b 11 11 ∧
    fnat (barComplete b) 46 30 = 0 ∧ fnat (barComplete b) 95 64 = 0 ∧ fnat (barComplete b) 13 13 = 0 ∧
    fnat (barComplete b) 12 12 = fnat b 13 13 ∧ fnat (barComplete b) 29 14 = (fnat b 29 14 + 1) % 65536 := by
  rw [barComplete, if_pos h, fnat_bit b 13]
  simp (disch := omega) only [fnat_fput_ne, fnat_fput_same, fnat_setBit_ne, fnat_setBit_same]
  simp [barPhase]

theorem barComplete_of_not_full {b : BitVec 128} (h : ¬(barTgot b = barTexp b ∧ barBgot b = barBexp b)) : barComplete b = b := if_neg h

/-- A barrier after a credit has been counted, and before the completion test. -/
def barCounted (b : BitVec 128) (t n : Nat) (p : Bool) : BitVec 128 :=
  let clip := decide (barTexp b < barTgot b + t) || decide (barBexp b < barBgot b + n)
  let b1 := fput (fput b 46 30 (Nat.min (barTgot b + t) (barTexp b))) 95 64 (Nat.min (barBgot b + n) (barBexp b))
  let b2 := if clip then setBit b1 11 true else b1
  if p then setBit b2 13 true else b2

theorem barCredit_eq (b : BitVec 128) (t n : Nat) (p : Bool) : barCredit b t n p = barComplete (barCounted b t n p) := rfl

/-- What a credit counts and marks: both counts stop at what is expected. -/
theorem fields_barCounted (b : BitVec 128) (t n : Nat) (p : Bool) :
    fnat (barCounted b t n p) 63 47 = fnat b 63 47 ∧ fnat (barCounted b t n p) 127 96 = fnat b 127 96 ∧
    fnat (barCounted b t n p) 46 30 = min (fnat b 46 30 + t) (fnat b 63 47) ∧
    fnat (barCounted b t n p) 95 64 = min (fnat b 95 64 + n) (fnat b 127 96) ∧
    fnat (barCounted b t n p) 11 11 = (if fnat b 63 47 < fnat b 46 30 + t ∨ fnat b 127 96 < fnat b 95 64 + n then 1 else fnat b 11 11) ∧
    fnat (barCounted b t n p) 13 13 = (if p then 1 else fnat b 13 13) ∧ fnat (barCounted b t n p) 12 12 = fnat b 12 12 ∧
    fnat (barCounted b t n p) 29 14 = fnat b 29 14 := by
  have htexp : fnat b 63 47 < 131072 := by rw [fnat_eq]; exact BitVec.isLt _
  have hbexp : fnat b 127 96 < 4294967296 := by rw [fnat_eq]; exact BitVec.isLt _
  have hclip : (decide (barTexp b < barTgot b + t) || decide (barBexp b < barBgot b + n)) =
      decide (fnat b 63 47 < fnat b 46 30 + t ∨ fnat b 127 96 < fnat b 95 64 + n) := (Bool.decide_or _ _).symm
  unfold barCounted
  simp only [hclip, decide_eq_true_eq]
  by_cases hc : fnat b 63 47 < fnat b 46 30 + t ∨ fnat b 127 96 < fnat b 95 64 + n <;> cases p <;>
    simp (disch := omega) only [hc, if_true, if_false, Bool.false_eq_true, fnat_fput_ne, fnat_fput_same, fnat_setBit_ne, fnat_setBit_same,
      barTgot, barTexp, barBgot, barBexp] <;>
    simp [htexp, hbexp]

/-- Settles O60: a credit is counted up to what is expected, and the completion test follows. -/
theorem creditsCompletePhases : Obligations.CreditsCompletePhases := by
  intro b t n p field c tg bg full poison
  have hfield : ∀ (x : BitVec 128) (hi lo : Nat), field x hi lo = fnat x hi lo := fun x hi lo => (fnat_eq x hi lo).symm
  obtain ⟨htexp, hbexp, htgot, hbgot, hover, hpoison, hlpoison, hphase⟩ := fields_barCounted b t n p
  have hfull : (barTgot (barCounted b t n p) = barTexp (barCounted b t n p) ∧ barBgot (barCounted b t n p) = barBexp (barCounted b t n p)) ↔ full := by
    simp only [full, tg, bg, hfield, barTgot, barTexp, barBgot, barBexp, htexp, hbexp, htgot, hbgot]
  simp only [hfield, c, barCredit_eq, poison, tg, bg]
  by_cases h : full
  · obtain ⟨h1, h2, h3, h4, h5, h6, h7, h8⟩ := barComplete_of_full (hfull.mpr h)
    refine ⟨h1.trans htexp, h2.trans hbexp, h3.trans hover, fun _ => ⟨h4, h5, h6, h7.trans hpoison, ?_⟩, fun k => absurd h k⟩
    rw [h8, hphase]
  · rw [barComplete_of_not_full (fun k => h (hfull.mp k))]
    exact ⟨htexp, hbexp, hover, fun k => absurd k h, fun _ => ⟨htgot, hbgot, hpoison, hlpoison, hphase⟩⟩

end Sys2Proof.Machine
end

section
/-! PROOFS. The side cores (R114 to R118, R365 to R372). -/
namespace Sys2Proof.Machine

/-- Settles O44: every register instruction is one register write, with the value that its operation gives. -/
theorem sideArithmeticCompletes : Obligations.SideArithmeticCompletes := by
  intro s d a b i k f x y v up truth gives
  have hwrite : ∀ r : Word, (Host.Outcome.next (sideWrite s d r) : Out) = .next (s.updCore s.focus.core (fun c => c.setSide s.focus.storer
      { s.side with regs := if d = 0 then s.side.regs else zset s.side.regs d.toNat r, pc := s.side.pc + 4, status := 1 })) :=
    fun r => congrArg _ (sideWrite_eq s d r)
  exact ⟨hwrite _, hwrite _, hwrite _, hwrite _, hwrite _, hwrite _, hwrite _, hwrite _, hwrite _, hwrite _, hwrite _, hwrite _, hwrite _,
    hwrite _, hwrite _, hwrite _, hwrite _, hwrite _, hwrite _, hwrite _, hwrite _, hwrite _, hwrite _, hwrite _, hwrite _, hwrite _,
    hwrite _, hwrite _, hwrite _, rfl⟩

/-! ### Transfers, loads and stores -/

section
variable (s : State)

theorem rvLink_aligned (d : BitVec 5) {target : Word} (h : target.toNat % 4 = 0) :
    rvLink s d target = setSide s { s.side.setX d (s.side.pc + 4) with pc := target, status := 1 } := by
  have hn : ¬(target.toNat % 4 ≠ 0) := fun k => k h
  rw [rvLink, if_neg hn, rvJump, if_neg hn]
  simp only [side_setSide, setSide_setSide]

theorem rvLink_misaligned (d : BitVec 5) {target : Word} (h : target.toNat % 4 ≠ 0) :
    rvLink s d target = sideStopAt s (target.setWidth 64) := if_pos h

/-- A branch goes on where it is not taken; taken, it jumps to an aligned target and stops the side core at another. -/
theorem rvBranch_cases (taken : Bool) (i : BitVec 12) (target : Word) (ht : target = s.side.pc + (i ++ 0#1 : BitVec (12 + 1)).signExtend 32) :
    (taken = false → rvBranch s taken i = .next (sideNext s)) ∧
    (taken = true → target.toNat % 4 = 0 → rvBranch s taken i = .next (setSide s { s.side with pc := target, status := 1 })) ∧
    (taken = true → target.toNat % 4 ≠ 0 → rvBranch s taken i = .next (sideStopAt s (target.setWidth 64))) := by
  refine ⟨fun h => ite_of_false h, fun h hal => ?_, fun h hmis => ?_⟩
  · rw [rvBranch, if_pos h, ← ht, rvJump, if_neg (fun k => k hal)]
  · rw [rvBranch, if_pos h, ← ht, rvJump, if_pos hmis]

theorem rvLoad_cases (n : Nat) (ext : Nat → Word) (d a : BitVec 5) (i : BitVec 12) (o : Nat) {va : Word} (hva : va = s.side.x a + rvImm i) :
    (sideAt s va.toNat n = .data o → rvLoad s n ext d a i = .next (sideWrite s d (ext (natOfBytes (zgetRun s.side.dstore o n))))) ∧
    (sideAt s va.toNat n = .store o → rvLoad s n ext d a i = .next (sideWrite s d (ext (natOfBytes (zgetRun s.side.istore o n))))) ∧
    (sideAt s va.toNat n = .none → rvLoad s n ext d a i = .next (sideStopAt s (va.setWidth 64))) := by
  unfold rvLoad
  refine ⟨fun h => ?_, fun h => ?_, fun h => ?_⟩ <;> simp only [← hva, h, sideRead]

theorem rvStore_cases (n : Nat) (a b : BitVec 5) (i : BitVec 12) (o : Nat) {va : Word} (hva : va = s.side.x a + rvImm i) :
    (sideAt s va.toNat n = .data o → rvStore s n a b i = .next
      (sideNext (setSide s { s.side with dstore := zsetRun s.side.dstore o (toBytes (s.side.x b) n) }))) ∧
    (sideAt s va.toNat n = .none → rvStore s n a b i = .next (sideStopAt s (va.setWidth 64))) := by
  unfold rvStore
  refine ⟨fun h => ?_, fun h => ?_⟩ <;> simp only [← hva, h, sideStore]

end

/-- Settles O45: a transfer, a load or a store is decided by where its address leads. -/
theorem sideTransfersComplete : Obligations.SideTransfersComplete := by
  intro s d a b i k w o x y va links branches loads stores
  have hlinks : ∀ (j : Instr) (target : Word), exec j s = .next (rvLink s d target) → links j target := fun j target hj =>
    ⟨fun h => hj.trans (congrArg _ (rvLink_aligned s d h)), fun h => hj.trans (congrArg _ (rvLink_misaligned s d h))⟩
  have hbranches : ∀ (j : Instr) (taken : Bool), exec j s = rvBranch s taken i → branches j taken := by
    intro j taken hj
    obtain ⟨hnot, hto, hmis⟩ := rvBranch_cases s taken i _ rfl
    exact ⟨fun h => hj.trans (hnot h), fun h hal => hj.trans (hto h hal), fun h hal => hj.trans (hmis h hal)⟩
  have hloads : ∀ (j : Instr) (n : Nat) (ext : Nat → Word), exec j s = rvLoad s n ext d a i → loads j n ext := by
    intro j n ext hj
    obtain ⟨hdata, hstore, hnone⟩ := rvLoad_cases s n ext d a i o rfl
    exact ⟨fun h => hj.trans (hdata h), fun h => hj.trans (hstore h), fun h => hj.trans (hnone h)⟩
  have hstores : ∀ (j : Instr) (n : Nat), exec j s = rvStore s n a b i → stores j n := by
    intro j n hj
    obtain ⟨hdata, hnone⟩ := rvStore_cases s n a b i o rfl
    exact ⟨fun h => hj.trans (hdata h), fun h => hj.trans (hnone h)⟩
  have hne : decide (x ≠ y) = (x != y) := by rw [bne, decide_not]; rfl
  exact ⟨hlinks _ _ rfl, hlinks _ _ rfl, hbranches _ _ rfl, hbranches _ _ (by rw [hne]; rfl), hbranches _ _ rfl, hbranches _ _ rfl,
    hbranches _ _ rfl, hbranches _ _ rfl, hloads (.rvLb d a i) 1 (fun v => (BitVec.ofNat 8 v).signExtend 32) rfl,
    hloads (.rvLh d a i) 2 (fun v => (BitVec.ofNat 16 v).signExtend 32) rfl, hloads (.rvLw d a i) 4 (fun v => BitVec.ofNat 32 v) rfl,
    hloads (.rvLbu d a i) 1 (fun v => BitVec.ofNat 32 v) rfl, hloads (.rvLhu d a i) 2 (fun v => BitVec.ofNat 32 v) rfl,
    hstores _ _ rfl, hstores _ _ rfl, hstores _ _ rfl, rfl⟩

/-! ### The Mbadun instructions -/

/-- Settles O46: each instruction is decided by the firing, the queue, the descriptor or the barrier that it names. -/
theorem sideInstructionsComplete : Obligations.SideInstructionsComplete := by
  intro s t d a b e q w o k f c core st inst v
  refine ⟨rfl, fun h => ?wakes, fun h => ?waits, rfl, rfl, rfl, fun hat hq => ?empty, fun x r hat hq => ?pop, rfl, rfl,
    fun hat hok hfree => ?copy, fun hcredit => ?credit, fun i hat hi hgang hdesc hpick => ?decode⟩
  case wakes =>
    show execMevwait s = _
    rw [execMevwait, show takeFiring (s.core s.focus.core) (sideAgent s) = some f from h]
    rfl
  case waits =>
    show execMevwait s = _
    rw [execMevwait, show takeFiring (s.core s.focus.core) (sideAgent s) = none from h]
  case empty =>
    show execMqpop q a d s = _
    simp only [execMqpop, show sideRange s (s.side.x a).toNat 4 = .data o from hat,
      show ((s.core s.focus.core).queue q.toNat).items = [] from hq]
    rfl
  case pop =>
    show execMqpop q a d s = _
    simp only [execMqpop, show sideRange s (s.side.x a).toNat 4 = .data o from hat,
      show ((s.core s.focus.core).queue q.toNat).items = x :: r from hq]
    rfl
  case copy =>
    show execMcpy a d s = _
    simp only [execMcpy, show sideRange s (s.side.x a).toNat 32 = .data o from hat, sideRead]
    simp only [show copyCheck (sideCopy (ofBytes 256 (zgetRun s.side.dstore o 32))) ((s.core s.focus.core).scratchOf (sideInst s)).size = none from hok,
      show freeCopy (s.core s.focus.core) = some k from hfree]
    rfl
  case credit =>
    show execMbarc e b a s = _
    have hc : creditAt s s.focus.core (sideInst s) (((s.side.x b).setWidth 16 ++ s.side.x a : BitVec (16 + 32)).signExtend 64)
      (fnat (s.side.x b) 31 16) (s.side.x e).toNat false = .ok t := hcredit
    simp only [execMbarc, hc]
  case decode =>
    show execMavdec a d s = _
    have hpick' : pickDecoder s (fnat (ofBytes 512 (zgetRun s.side.dstore o 64)) 231 224 / 64) = some k := hpick
    have hgang' : i.gang.contains (fnat (ofBytes 512 (zgetRun s.side.dstore o 64)) 231 224) = true := List.contains_iff_mem.mpr hgang
    simp only [execMavdec, show sideRange s (s.side.x a).toNat 64 = .data o from hat, sideRead, show find s.insts (sideInst s) = some i from hi,
      hpick', hgang', show decodeDescOk (ofBytes 512 (zgetRun s.side.dstore o 64)) = true from hdesc]
    rfl

end Sys2Proof.Machine
end

section
/-! PROOFS. The matrix and the orthogonal units (R306 to R317, R320 to R326). -/
namespace Sys2Proof.Machine

/-! ### Entering a unit -/

section
variable {s : State} {sh : Shape}

theorem setCur_sameCourse (s : State) {g : Group} (hg : g.course = s.cur.course) : SameCourse (s.setCur g) s :=
  updCur_sameCourse s (f := fun _ => g) hg

theorem setCore_sameCourse (s : State) (b : Nat) {d : Core} (hw : d.wps = (s.core b).wps) (hg : d.groups = (s.core b).groups) :
    SameCourse (s.setCore b d) s :=
  sameCourse_updCore s b (f := fun _ => d) hw fun k => by simp only [Core.group, hg]

theorem gatePass_sameCourse {v : State} {k : Nat} (h : gatePass s k = some v) : SameCourse v s := by
  obtain ⟨c, hgroups, hwps, rfl⟩ := gatePass_eq h
  exact (updCur_sameCourse _ rfl).trans (setCore_sameCourse s _ hwps hgroups)

theorem claimPart_sameCourse (t : State) (core part inst : Nat) : SameCourse (claimPart t core part inst) t := by
  unfold claimPart
  dsimp only
  split
  · exact .refl _
  · exact sameCourse_updCore t core rfl fun _ => rfl

theorem claimed_sameCourse {isQ : Bool} {v : State} (hu : unitTakes s isQ v) : SameCourse (s.claimed v) s.begins := by
  obtain ⟨-, -, -, hgate⟩ := hu
  have hv : SameCourse v s.begins := by
    split at hgate
    · exact gatePass_sameCourse hgate
    · cases hgate
      exact .refl _
  exact (claimPart_sameCourse v _ _ _).trans hv

theorem enterUnit_sameCourse {x : Ctx} (u : State) (isQ : Bool) (i : Instr) (vecs dst : List (BitVec 8)) (a b : Word) :
    SameCourse (enterUnit x u isQ i vecs dst a b) u := by
  have hcur : SameCourse (u.setCur (addScore (addOp u.cur (if isQ then 4 else 3) 1).1 (addOp u.cur (if isQ then 4 else 3) 1).2 dst)) u :=
    setCur_sameCourse u (addOp_course u.cur _ 1)
  unfold enterUnit
  dsimp only
  generalize u.setCur _ = t at hcur ⊢
  exact (sameCourse_updCore t x.core rfl fun _ => rfl).trans hcur

/-- An instruction of a unit whose place and operands are at hand, and which nothing watches, completes by entering the unit. -/
theorem retire_enterUnit (h : Starts s sh) {isQ : Bool} {u : State} (hu : SameCourse u s.begins) {x : Ctx} (i : Instr)
    (vecs dst : List (BitVec 8)) (a b : Word) :
    retire (enterUnit x u isQ i vecs dst a b) none 0 = s.ends (enterUnit x u isQ i vecs dst a b) :=
  retire_keeps h ((enterUnit_sameCourse u isQ i vecs dst a b).trans hu)

/-- The start of an instruction that its unit takes, whatever it does behind the claim. -/
theorem startGroup_unit (h : Starts s sh) (ht : taking s sh ≠ 0) {isQ : Bool} {v : State} (hu : unitTakes s isQ v)
    (K : Ctx → State → State → State → State → State) {r : State} (hK : ∀ w, K (startCtx s sh) s.begins w v (s.claimed v) = r) :
    startGroup s sh (fun x t => if x.act = 0 then retire t x.hit 0 else unitStart s x t isQ (K x t)) = .next r := by
  obtain ⟨w, hw⟩ := unitStart_takes (s0 := s) (sh := sh) isQ v (K (startCtx s sh) s.begins) rfl (gatePass_begins s _) hu
  exact (startGroup_starts h _).trans (congrArg _ ((if_neg ht).trans (hw.trans (hK w))))

/-! ### Operands in the scratchpad -/

/-- A scratchpad operand passes: aligned, inside the scratchpad, its pages at hand (R149, R309). -/
def ScrSpan.Passes (s : State) (core inst : Nat) (e : ScrSpan) : Prop :=
  e.off % e.align = 0 ∧ e.off + e.len ≤ ((s.core core).scratchOf inst).size ∧ ∃ p a g r, scrPages s core inst e.off e.len = .ok p a g r

theorem ScrSpan.passes_of_scrRange {core inst o n align : Nat} (h : (scrRange s core inst o n align).passes = true) :
    ScrSpan.Passes s core inst ⟨o, n, align⟩ := by
  unfold scrRange scrRanges at h
  by_cases hal : o % align = 0
  · by_cases hsz : ((s.core core).scratchOf inst).size < o + n
    · simp [hal, hsz, Xlat.passes] at h
    · refine ⟨hal, Nat.le_of_not_lt hsz, ?_⟩
      simp only [List.find?_cons, List.find?_nil, hal, hsz, ne_eq, not_true_eq_false, decide_false, List.foldr_cons, List.foldr_nil] at h
      generalize scrPages s core inst o n = y at h
      cases y with
      | ok p a g r => exact ⟨p, a, g, r, rfl⟩
      | fault c a => cases h
      | wait l => cases h
  · simp [hal, Xlat.passes] at h

/-- Operands that each pass, pass together. -/
theorem scrRanges_ok {core inst : Nat} (l : List ScrSpan) (h : ∀ e ∈ l, e.Passes s core inst) :
    (scrRanges s core inst l).2 = .ok 0 0 0 0 := by
  have hal : l.find? (fun r => decide (r.off % r.align ≠ 0)) = none :=
    List.find?_eq_none.mpr fun e he => by simp [(h e he).1]
  have hsz : l.find? (fun r => decide (((s.core core).scratchOf inst).size < r.off + r.len)) = none :=
    List.find?_eq_none.mpr fun e he => by simpa using (h e he).2.1
  unfold scrRanges
  rw [hal, hsz]
  have hpages : l.foldr (fun r x => match scrPages s core inst r.off r.len with
      | .ok _ _ _ _ => x
      | y => (r.off, y)) ((0, .ok 0 0 0 0) : Nat × Xlat) = (0, .ok 0 0 0 0) := by
    clear hal hsz
    induction l with
    | nil => rfl
    | cons e l ih =>
      obtain ⟨p, a, g, r, hp⟩ := (h e List.mem_cons_self).2.2
      simp only [List.foldr_cons, hp]
      exact ih fun k hk => h k (List.mem_cons_of_mem _ hk)
  exact congrArg Prod.snd hpages

/-- An instruction that shows an address which nothing watches goes on as it is. -/
theorem watchOnce_quiet {t : State} {x : Ctx} (hx : x.hit = none) (hw : (t.core x.core).wps = []) (shown : List Shown) (k : Ctx → State → State) :
    watchOnce x t shown k = k x t := by
  simp only [watchOnce, watch_none hw, hx, Hit.join, bne_self_eq_false, Bool.false_eq_true, if_false]
  rw [← hx]

theorem claimed_quiet (h : Starts s sh) {isQ : Bool} {v : State} (hu : unitTakes s isQ v) : ((s.claimed v).core (startCtx s sh).core).wps = [] :=
  (claimed_cur h hu).2.1

theorem exec_mloadb {n : BitVec 2} {a : BitVec 8} {k : State}
    (hsh : sh = unitShape (isScal a && decide (fmtB s.cur.fmt ≠ 2) && decide (fmtB s.cur.fmt ≠ 3)) [a] [a] [] true)
    (h : Starts s sh) (ht : taking s sh ≠ 0) (hu : unitTakes s false k) {off len : Nat} (hoff : off = fnat (s.cur.s a) 18 0)
    (hlen : len = 32 * (fnat (s.cur.s a) 21 19 + 1) * rowBytes (fmtB s.cur.fmt))
    (hc : (scrRange s.begins s.focus.core s.cur.inst off len 64).passes = true) :
    exec (.mloadb n a) s = .next (s.ends (enterUnit (startCtx s sh) (pinRange (s.claimed k) s.focus.core s.cur.inst off len) false
      (.mloadb n a) [] [] (s.cur.s a) 0)) := by
  show execMloadb n a s = _
  rw [execMloadb, ← hsh]
  refine startGroup_unit h ht hu _ fun w => ?_
  have hrange : scrRange s.begins s.focus.core s.cur.inst off len 64 = .ok 0 0 0 0 :=
    scrRanges_ok _ fun e he => by rw [List.mem_singleton.mp he]; exact ScrSpan.passes_of_scrRange hc
  rw [hoff, hlen] at hrange ⊢
  simp only [show (startCtx s sh).core = s.focus.core from rfl, show (startCtx s sh).src = s.cur from rfl, hrange]
  rw [watchOnce_quiet rfl (claimed_quiet h hu)]
  exact retire_enterUnit h ((pinRange_sameCourse _ _ _ _ _).trans (claimed_sameCourse hu)) _ _ _ _ _

/-- The page of a matrix store's barrier is pinned where it has one (R316). -/
def pinBar (t : State) (core inst : Nat) (bar : Option Nat) : State :=
  match bar with
  | some b => pinRange t core inst b 16
  | none => t

theorem pin_spans (t : State) (core inst off n k : Nat) (bar : Option Nat) :
    ((⟨off, n, k⟩ : ScrSpan) :: bar.toList.map (fun b => ⟨b, 16, 16⟩)).foldl (fun v e => pinRange v core inst e.off e.len) t =
      pinBar (pinRange t core inst off n) core inst bar := by
  cases bar
  · rw [Option.toList_none, List.map_nil, List.foldl_cons, List.foldl_nil, pinBar]
  · rw [Option.toList_some, List.map_cons, List.map_nil, List.foldl_cons, List.foldl_cons, List.foldl_nil, pinBar]

theorem exec_mstore {c : BitVec 2} {a m : BitVec 8} {k : State} (hsh : sh = unitShape (isScal a && (isScal m || isZero m)) [a, m] [a, m] [] true)
    (h : Starts s sh) (ht : taking s sh ≠ 0) (hu : unitTakes s false k) {off : Nat} (hoff : off = fnat (s.cur.s a) 18 0)
    {bar : Option Nat} (hbar : bar = if isZero m then none else some (s.cur.s m).toNat)
    (hc : (scrRange s.begins s.focus.core s.cur.inst off 16384 256).passes = true)
    (hb : ∀ b, bar = some b → (scrRange s.begins s.focus.core s.cur.inst b 16 16).passes = true) {pinned : State}
    (hpinned : pinned = pinRange (s.claimed k) s.focus.core s.cur.inst off 16384) :
    exec (.mstore c a m) s = .next (s.ends (enterUnit (startCtx s sh)
      (pinBar pinned s.focus.core s.cur.inst bar) false (.mstore c a m) [] []
      (BitVec.ofNat 32 off) (BitVec.ofNat 32 (bar.getD 0)))) := by
  have hstore : storeBar (startCtx s sh) m = bar := hbar.symm
  have hrange : (scrRanges s.begins s.focus.core s.cur.inst (storeSpans (startCtx s sh) off m)).2 = .ok 0 0 0 0 := by
    refine scrRanges_ok _ fun e he => ?_
    rw [storeSpans, hstore, List.mem_cons, List.mem_map] at he
    rcases he with rfl | ⟨b, hmem, rfl⟩
    · exact ScrSpan.passes_of_scrRange hc
    · exact ScrSpan.passes_of_scrRange (hb b (Option.mem_toList.mp hmem))
  have hpins : (storeSpans (startCtx s sh) off m).foldl (fun v e => pinRange v s.focus.core s.cur.inst e.off e.len) (s.claimed k) =
      pinBar pinned s.focus.core s.cur.inst bar := by
    rw [storeSpans, hstore, hpinned]
    exact pin_spans _ _ _ _ _ _ _
  have hcourse : SameCourse ((storeSpans (startCtx s sh) off m).foldl (fun v e => pinRange v s.focus.core s.cur.inst e.off e.len) (s.claimed k))
      s.begins := (SameCourse.foldl (fun v e => pinRange_sameCourse v _ _ _ _) _ _).trans (claimed_sameCourse hu)
  show execMstore c a m s = _
  rw [execMstore, ← hsh]
  refine startGroup_unit h ht hu _ fun w => ?_
  rw [hoff] at hrange hpins hcourse ⊢
  simp only [show (startCtx s sh).core = s.focus.core from rfl, show (startCtx s sh).src = s.cur from rfl, hrange]
  rw [watchOnce_quiet rfl (claimed_quiet h hu), hstore, ← hpins]
  exact retire_enterUnit h hcourse _ _ _ _ _

end

/-- Settles O29: an instruction that names no address enters its unit at once, and MLOADB and MSTORE after the checks of their ranges. -/
theorem matrixInstructionsComplete : Obligations.MatrixInstructionsComplete := by
  intro s c n a m e r k core enters ra vs
  exact ⟨fun h ht hu => unitInstr_ends h ht false k hu _ _ _ noWord noWord, fun h ht hu => unitInstr_ends h ht false k hu _ _ _ noWord noWord,
    fun h ht hu => unitInstr_ends h ht false k hu _ _ _ noWord noWord, fun h ht hu => unitInstr_ends h ht false k hu _ _ _ noWord noWord,
    fun h ht hu => unitInstr_ends h ht false k hu _ _ _ noWord noWord, fun h ht hu => unitInstr_ends h ht false k hu _ _ _ noWord noWord,
    fun h ht hu hc => exec_mloadb rfl h ht hu rfl rfl hc, fun h ht hu hc hb => exec_mstore rfl h ht hu rfl rfl hc hb rfl⟩

/-! ### The orthogonal unit -/

section
variable {s : State}

theorem exec_qappend {q : BitVec 1} {v a : BitVec 8} {k : State} {sh : Shape} (hsh : sh = unitShape (isVec v && (isScal a || isZero a)) [v, a] [v, a] [] true)
    (h : Starts s sh) (ht : taking s sh ≠ 0) (hb : qBusy s.begins q = false) (hu : unitTakes s true k) :
    exec (.qappend q v a) s = .next (if decide (qhK (zget (curPart (s.claimed k)).qhdr q.toNat) = 32) &&
        !(qhAuto (zget (curPart (s.claimed k)).qhdr q.toNat)) then trapCode k cORTHCAP
      else s.ends (enterUnit (startCtx s sh) (s.claimed k) true (.qappend q v a) [v] [] ((startCtx s sh).uni a) 0)) := by
  show execQappend q v a s = _
  rw [execQappend, ← hsh]
  refine startGroup_unit h ht hu _ fun w => ?_
  refine (ite_of_false hb).trans (if_congr Iff.rfl rfl ?_)
  exact retire_enterUnit h (claimed_sameCourse hu) _ _ _ _ _

theorem exec_qcount {q : BitVec 1} {a : BitVec 8} {k : State} {sh : Shape} (hsh : sh = unitShape (isScal a) [a] [] [] true)
    (h : Starts s sh) (ht : taking s sh ≠ 0) (hb : qBusy s.begins q = false) (hu : unitTakes s true k) :
    exec (.qcount q a) s = .next (s.ends (enterUnit (startCtx s sh) (s.claimed k) true (.qcount q a) [] [a] 0 0)) := by
  show execQcount q a s = _
  rw [execQcount, ← hsh]
  refine startGroup_unit h ht hu _ fun w => ?_
  exact (ite_of_false hb).trans (retire_enterUnit h (claimed_sameCourse hu) _ _ _ _ _)

end

/-- Settles O30: QAPPEND and QCOUNT enter once nothing older names their q register, the others at once. -/
theorem orthogonalInstructionsComplete : Obligations.OrthogonalInstructionsComplete := by
  intro s q sp au t v a k enters plain sha shc full
  exact ⟨fun h ht hu => unitInstr_ends h ht true k hu _ _ _ noWord noWord, fun h ht hu => unitInstr_ends h ht true k hu _ _ _ noWord noWord,
    fun h ht hu => unitInstr_ends h ht true k hu _ _ _ noWord noWord, fun h ht hu => unitInstr_ends h ht true k hu _ _ _ noWord noWord,
    fun h ht hu => unitInstr_ends h ht true k hu _ _ _ noWord noWord, fun h ht hu => unitInstr_ends h ht true k hu _ _ _ noWord noWord,
    fun h ht hu => unitInstr_ends h ht true k hu _ _ _ noWord noWord,
    fun h ht hb hu => ⟨fun hf => (exec_qappend rfl h ht hb hu).trans (congrArg _ (ite_of_false hf)),
      fun hf => (exec_qappend rfl h ht hb hu).trans (congrArg _ (if_pos hf))⟩, fun h ht hb hu => exec_qcount rfl h ht hb hu⟩

section
variable {s : State} {core part : Nat} {o : UnitOp} {r : List UnitOp}

theorem exec_matrixUnitExecute (hm : ((s.core core).part part).munit = o :: r) : exec (.matrixUnitExecute core part) s =
    if ((s.core core).part part).owner != some o.inst && ((s.core core).part part).mstore.isNone then
      .next (unitDone (s.updCore core (fun c => c.setPart part { (s.core core).part part with munit := r })) core o false)
    else if matrixReady s core ((s.core core).part part) o then
      .next (matrixPerform s core part { (s.core core).part part with munit := r } o)
    else .next s := by
  show execMatrixUnitExecute core part s = _
  simp only [execMatrixUnitExecute, hm]

theorem exec_orthogonalUnitExecute (hq : ((s.core core).part part).qunit = o :: r) : exec (.orthogonalUnitExecute core part) s =
    if ((s.core core).part part).owner != some o.inst then
      .next (unitDone (s.updCore core (fun c => c.setPart part { (s.core core).part part with qunit := r })) core o true)
    else if orthReady ((s.core core).part part) o then .next (orthPerform s core part { (s.core core).part part with qunit := r } o)
    else .next s := by
  show execOrthogonalUnitExecute core part s = _
  simp only [execOrthogonalUnitExecute, hq]

end

/-- Settles O31: the head of a unit executes, or is only counted off where its herd has left. -/
theorem unitsExecuteInOrder : Obligations.UnitsExecuteInOrder := by
  intro s core part o r p
  refine ⟨fun hm => ⟨fun ho hr => ?_, fun ho hst => ?_⟩, fun hq => ⟨fun ho hr => ?_, fun ho => ?_⟩⟩
  · exact (exec_matrixUnitExecute hm).trans ((ite_of_false (by rw [ho, bne_self_eq_false, Bool.false_and])).trans (if_pos hr))
  · exact (exec_matrixUnitExecute hm).trans
      (if_pos (by rw [Bool.and_eq_true, bne_iff_ne]; exact ⟨ho, Option.isNone_iff_eq_none.mpr hst⟩))
  · exact (exec_orthogonalUnitExecute hq).trans ((ite_of_false (by rw [ho, bne_self_eq_false])).trans (if_pos hr))
  · exact (exec_orthogonalUnitExecute hq).trans (if_pos (by rw [bne_iff_ne]; exact ho))

end Sys2Proof.Machine
end

section
/-! PROOFS. Watch predicates in supervisor state, the system registers and the events of a core (R112, R118 to R120, R343 to R347, R355 to
R357, R371). -/
namespace Sys2Proof.Machine

/-! ### Watch predicates in supervisor state -/

/-- A group in supervisor state that has jumped to an address beyond the 48 bits of its PC (log entry 71). -/
def supervisorFarState : State := (placeGroupWord State.reset 0).updCur (fun g => { g with hndl := setBit g.hndl 32 true, far := some 0 })

/-- The far target that the executing group holds after an instruction. -/
def farAfter : Out → Option (BitVec 64)
  | .next t => t.cur.far
  | _ => none

/-- Refutes O41: every instruction that starts clears the far target of its group, and the statement's WPCLR in supervisor state, where
`far` may hold one, keeps it: the machine leaves none, and the statement asks for the old target. -/
theorem not_watchInstructionsComplete : ¬ Obligations.WatchInstructionsComplete := by
  intro h
  obtain ⟨-, hclr, -⟩ := h supervisorFarState 0 160 160 160
  have hquiet : blocked supervisorFarState.cur plainUni (ctlStall supervisorFarState.focus.ctl (pcSlot supervisorFarState.cur.pc)) = false ∧
      supervisorFarState.cur.hazards = [] ∧ startCause supervisorFarState supervisorFarState.focus.core supervisorFarState.cur plainUni false = none ∧
      hSact supervisorFarState.cur = true ∧ supervisorFarState.cur.split = 0 ∧ supervisorFarState.cur.halt = none ∧
      supervisorFarState.focus.step = false := by decide +kernel
  exact absurd (congrArg farAfter (hclr hquiet)) (by decide +kernel)

/-! ### System registers -/

section
variable {s : State}

/-- SPILL is not busy while no block is spilled (R112). -/
theorem spillBusy_of_unused {g : Group} (h : spillUsed g = 0) (p : BitVec 64) : spillBusy g.spill p = false := by
  have h' : fnat g.spill 51 40 = 0 := h
  simp [spillBusy, h']

theorem setRoute_sameCourse (t : State) (core n : Nat) (mask : Word) (all : Bool) (p : BitVec 44) : SameCourse (setRoute t core n mask all p) t :=
  sameCourse_updCore t core rfl fun _ => rfl

theorem exec_evroute {n : BitVec 4} {a b : BitVec 8} {pa : Nat} {ar : BitVec 12} {gn : BitVec 4} {rg : BitVec 2} {sh : Shape}
    (hsh : sh = uniShape (isUni a && isScalPair b) [a, b, b + 1] [a, b, b + 1]) (h : Starts s sh)
    (hside : sideHeld s.begins s.focus.core s.focus.slot = true) {va : BitVec 64} (hva : va = paramAddr (s.cur.s b) (s.cur.s (b + 1))) :
    (n.toNat < 12 → exec (.evroute n a b) s =
      .next (s.ends (setRoute s.begins s.focus.core n.toNat ((startCtx s sh).uni a) (bit (s.cur.s b) 0) 0))) ∧
    (12 ≤ n.toNat → fnat (s.cur.s b) 3 1 = 0 → barCheck s.begins s.focus.core s.cur.inst va .write = .ok pa ar gn rg →
      exec (.evroute n a b) s = .next (s.ends (setRoute s.begins s.focus.core n.toNat ((startCtx s sh).uni a) (bit (s.cur.s b) 0)
        (va.extractLsb' 4 44)))) := by
  have hsets : ∀ p : BitVec 44, commitOnce (startCtx s sh) s.begins (fun u => setRoute u s.focus.core n.toNat ((startCtx s sh).uni a)
      (bit (s.cur.s b) 0) p) = s.ends (setRoute s.begins s.focus.core n.toNat ((startCtx s sh).uni a) (bit (s.cur.s b) 0) p) :=
    fun p => commitOnce_begins h (fun u => setRoute u s.focus.core n.toNat _ _ p) (setRoute_sameCourse _ _ _ _ _ _)
  have hheld : (!sideHeld (s.setCur (begun s)) (startCtx s sh).core (startCtx s sh).slot) = false := congrArg not hside
  refine ⟨fun hn => ?_, fun hn hal hc => ?_⟩ <;> show execEvroute n a b s = _ <;> rw [execEvroute, ← hsh, startGroup_starts h]
  · exact congrArg _ ((ite_of_false hheld).trans ((if_pos hn).trans (hsets 0)))
  · refine congrArg _ ((ite_of_false hheld).trans ((if_neg (Nat.not_lt.mpr hn)).trans ((if_neg (fun k => k hal)).trans ?_)))
    have hc' : barCheck (s.setCur (begun s)) (startCtx s sh).core (startCtx s sh).src.inst
      (paramAddr ((startCtx s sh).src.s b) ((startCtx s sh).src.s (b + 1))) .write = .ok pa ar gn rg := by rw [hva] at hc; exact hc
    simp only [hc', hva]
    exact hsets _

end

/-- Settles O43: each register word is read from, or written to, the group alone; a route and a signal change the core. -/
theorem systemRegistersComplete : Obligations.SystemRegistersComplete := by
  intro s d a b csr n pa ar gn rg c
  refine ⟨fun h => ?read, ?write, fun h hside => exec_evroute rfl h hside rfl, fun h hside => ?signal, fun h => ?preack⟩
  case read =>
    show execCsrrd d csr s = _
    rw [execCsrrd, startGroup_starts h]
    exact congrArg _ (commitScal_starts h d _ none)
  case write =>
    intro sh v w writes hndl spill h
    have hrun : exec (.csrwr a csr) s = _ := (show execCsrwr a csr s = startGroup s sh _ from rfl).trans (startGroup_starts h _)
    refine ⟨fun hr hv => ?_, fun hr hv => ?_, fun hr => ?_, fun hr => ?_, fun hr => ?_, fun hr => ?_, fun hr => ?_, fun hr => ?_, fun hr => ?_,
      fun hr hu => ?_, fun hr => ?_⟩ <;> simp only [hr] at hrun <;> refine hrun.trans (congrArg _ ?_)
    · exact setModeTo_starts h hv
    · exact setFmtTo_starts h hv
    · exact commitGroup_starts h id (fun _ _ _ => rfl) fun _ => rfl
    · exact commitGroup_starts h (fun g => { g with hndl := putUpc g.hndl w v }) (fun _ _ _ => rfl) fun _ => rfl
    · exact commitGroup_starts h (fun g => { g with xop := v }) (fun _ _ _ => rfl) fun _ => rfl
    · exact commitGroup_starts h (fun g => { g with xd := v }) (fun _ _ _ => rfl) fun _ => rfl
    · exact commitGroup_starts h (fun g => { g with xa := v }) (fun _ _ _ => rfl) fun _ => rfl
    · exact commitGroup_starts h (fun g => { g with xb := v }) (fun _ _ _ => rfl) fun _ => rfl
    · exact commitGroup_starts h (fun g => { g with xword := v }) (fun _ _ _ => rfl) fun _ => rfl
    · exact (ite_of_false (spillBusy_of_unused hu _)).trans
        (commitGroup_starts h (fun g => { g with spill := putSpill s.cur.spill w v }) (fun _ _ _ => rfl) fun _ => rfl)
    · exact commitGroup_starts h id (fun _ _ _ => rfl) fun _ => rfl
  case signal =>
    show execEvrouteSignal s = _
    rw [execEvrouteSignal, startGroup_starts h]
    exact congrArg _ ((ite_of_false (congrArg not hside)).trans
      (commitOnce_begins h (fun u => pulse u s.focus.core 29) (pulse_sameCourse _ _ _)))
  case preack =>
    show execPreack s = _
    rw [execPreack, startGroup_starts h]
    exact congrArg _ (commitGroup_starts h (fun g => { g with prenote := 0 }) (fun _ _ _ => rfl) fun _ => rfl)

/-! ### Events of a core -/

/-- Settles O52: a firing is taken from its list, the timer's expiry pulses its source, and a walk ends with or without its entry. -/
theorem coreEventsComplete : Obligations.CoreEventsComplete := by
  intro s u c k i v e core
  refine ⟨fun hmem hown hcons => ?firing, fun ht => ?timer, fun w hw => ⟨fun x hx => ?misses, fun hok => ?fills⟩⟩
  case firing =>
    have hhas : (!(s.core c).firings.contains k) = false := congrArg not (List.contains_iff_mem.mpr hmem)
    show execEventFiring c k s = _
    unfold execEventFiring
    refine (ite_of_false hhas).trans ?_
    split
    next hnone => exact absurd (hown.symm.trans hnone) nofun
    next j hsome =>
      obtain rfl : i = j := Option.some.inj (hown.symm.trans hsome)
      exact congrArg _ (congrArg (fun o => Option.getD o s) hcons)
  case timer =>
    show execSideTimerExpiry c s = _
    exact if_pos (Option.isSome_iff_ne_none.mpr ht)
  case misses =>
    show execWalkComplete c k v s = _
    simp only [execWalkComplete, hw, hx]
    rfl
  case fills =>
    show execWalkComplete c k v s = _
    simp only [execWalkComplete, hw, hok]
    rfl

/-! ### A step -/

section
variable {s t : State} {c k : Nat} {l : List Turn}

/-- A group that nobody halts and that follows no halt is left by its turn as its instruction leaves it. -/
theorem settle_quiet (h : (s.group c k).halt = none) (hf : (s.group c k).follow = none) (u : State) : settle s u c k = u := by
  have hstep : settleStep s u c k = u := by simp only [settleStep, h]
  simp only [settle, hstep, hf, Option.isSome_none, Bool.false_and, Bool.false_eq_true, if_false]

/-- What follows the instruction of a turn (R172). -/
def thenTurn (o : Out) : Out :=
  match o with
  | .next u => .next (afterTurn u)
  | .fault f => .fault f
  | .refused r => .refused r

/-- A step in which a group's word is fetched runs the word's instruction. -/
theorem step_group {i : Instr} {w : Word} (hag : s.agenda = .group c k :: l) (hhalt : (s.group c k).halt = none) (hfollow : (s.group c k).follow = none)
    (hfetch : fetchGroup { s with agenda := l } c k = .word t w) (hi : groupInstr w = i) :
    step s = thenTurn (exec i t) := by
  have hsettle : ∀ u, settle { s with agenda := l } u c k = u := settle_quiet (s := { s with agenda := l }) hhalt hfollow
  simp only [step, hag, takeTurn, groupTurn, hfetch, hi]
  cases exec i t with
  | next u => simp only [hsettle, thenTurn]
  | fault f => rfl
  | refused r => rfl

/-- Nothing that waits for a boundary holds the group: its turn fetches the word at its PC (R90, R102, R155). -/
theorem fetchGroup_quiet (hready : groupReady s (s.group c k) = true) (hentry : (s.group c k).entry = none) (hnotice : (s.group c k).prenote ≠ 1)
    (hcopy : stoppedCopy s c k (s.group c k).inst = none) (howed : (s.group c k).owed = none) (hhalt : (s.group c k).halt = none)
    (hfollow : (s.group c k).follow = none) :
    fetchGroup s c k = fetchWord ({ s with focus := groupFocus (s.group c k) c k }.setCur (s.group c k)) := by
  have howes : takeOwed { s with focus := groupFocus (s.group c k) c k } c k = none := by
    have hc : stoppedCopy { s with focus := groupFocus (s.group c k) c k } c k
      (State.group { s with focus := groupFocus (s.group c k) c k } c k).inst = none := hcopy
    have ho : (State.group { s with focus := groupFocus (s.group c k) c k } c k).owed = none := howed
    simp only [takeOwed, hc, ho]
  have hbegin : beginStep { s with focus := groupFocus (s.group c k) c k } (s.group c k) = .ok (s.group c k) := by
    simp only [beginStep, hhalt]
  have hkeep : ({ s.group c k with follow := none, entry := none } : Group) = s.group c k := by
    generalize s.group c k = g at hfollow hentry
    cases g
    cases hfollow
    cases hentry
    rfl
  simp only [fetchGroup, hready, hentry, hnotice, howes, hbegin, followStop, hfollow, Bool.not_true, Bool.false_eq_true, if_false, decide_false,
    Bool.false_and, Option.map_none]
  exact congrArg (fun g => fetchWord (State.setCur { s with focus := groupFocus (s.group c k) c k } g)) hkeep

/-- A packet that is fetched and passes its checks gives its word. -/
theorem fetchWord_ok {pa : Nat} {ar : BitVec 12} {gn : BitVec 4} {rg : BitVec 2} (hfar : s.cur.far = none) (hm : modeOk s.cur.mode = true)
    (hf : fmtOk s.cur.fmt = true)
    (hc : check s s.focus.core (instRoot s s.cur.inst) ((BitVec.ofNat 48 (pcPacket s.cur.pc)).signExtend 64) 32 .fetch = .ok pa ar gn rg)
    (hb : badPacket (packetWords s pa) (pcSlot s.cur.pc) = none) :
    fetchWord s = .word { s with focus := { s.focus with ctl := (packetWords s pa).getD 0 0, word := (packetWords s pa).getD (pcSlot s.cur.pc) 0 } }
      ((packetWords s pa).getD (pcSlot s.cur.pc) 0) := by
  simp only [fetchWord, hfar, Option.getD_none, hc, hb, hm, hf, Bool.and_self, if_true]

theorem step_side {b : Bool} {w : Word} {i : Instr} (hag : s.agenda = .side c b :: l)
    (hfetch : fetchSide { s with agenda := l } c b = .word t w) (hi : sideInstr w = i) :
    step s = thenTurn (exec i t) := by
  simp only [step, hag, takeTurn, sideTurn, hfetch, hi]
  rfl

/-- The turn of an event runs the event. -/
theorem step_event {i : Instr} (hag : s.agenda = .event i :: l) (hev : isEvent i = true) :
    step s = thenTurn (exec i { s with agenda := l, focus := { s.focus with step := false } }) := by
  have hturn : takeTurn { s with agenda := l } (.event i) = exec i { s with agenda := l, focus := { s.focus with step := false } } := if_pos hev
  refine Eq.trans ?_ (congrArg thenTurn hturn)
  unfold step
  rw [hag]
  rfl

end

/-- Settles O53: the turn of a group or a side core that may run fetches the word at its PC, and an event is its own turn. -/
theorem stepRunsDecodedInstruction : Obligations.StepRunsDecodedInstruction := by
  intro s l c k b runs at_
  refine ⟨?group, ?side, fun i hag hev => ?event⟩
  case group =>
    intro hag g hready hentry hnotice hcopy howed hhalt hfollow hfar hm hf pa ar gn rg hc ws w hb
    have hfetch : fetchGroup { s with agenda := l } c k = .word ((at_ (ws.getD 0 0) w).setCur g) w := by
      refine (fetchGroup_quiet (s := { s with agenda := l }) hready hentry hnotice hcopy howed hhalt hfollow).trans ?_
      have hcur : (State.setCur { s with agenda := l, focus := groupFocus g c k } g).cur = g := cur_setCur _ _
      have hpacket : packetWords (State.setCur { s with agenda := l, focus := groupFocus g c k } g) pa = ws := by
        simp only [packetWords, State.setCur, homeByte_setGroup, ws]
        rfl
      have hword := fetchWord_ok (s := State.setCur { s with agenda := l, focus := groupFocus g c k } g) (pa := pa) (ar := ar) (gn := gn) (rg := rg)
        (by rw [hcur]; exact hfar) (by rw [hcur]; exact hm) (by rw [hcur]; exact hf) (by rw [hcur]; exact hc) (by rw [hcur, hpacket]; exact hb)
      rw [hcur, hpacket] at hword
      exact hword
    exact ⟨fun i hi => step_group hag hhalt hfollow hfetch (by rw [groupInstr, hi]), fun hi => step_group hag hhalt hfollow hfetch (by rw [groupInstr, hi])⟩
  case side =>
    intro hag hready d w f t hal hin
    have hfetch : fetchSide { s with agenda := l } c b = .word t w := by
      have hready' : (!sideReady { s with agenda := l } c b) = false := congrArg not hready
      have hin' : (decide (d.pc.toNat % 4 ≠ 0) || decide (0x3FFC < d.pc.toNat)) = false := by
        rw [Bool.or_eq_false_iff, decide_eq_false_iff_not, decide_eq_false_iff_not]
        exact ⟨fun h => h hal, Nat.not_lt.mpr hin⟩
      exact (ite_of_false hready').trans (ite_of_false hin')
    exact ⟨fun i hi => step_side (i := i) hag hfetch (by rw [sideInstr, hi]),
      fun hi => step_side (i := .sideUnsupportedEncoding w) hag hfetch (by rw [sideInstr, hi])⟩
  case event => exact step_event hag hev

end Sys2Proof.Machine
end

section
/-! PROOFS. What a store that drains changes of memory, as a reader finds it at its home (R174, R175, R177). -/
namespace Sys2Proof.Machine

section
variable {s : State} {core slot : Nat} {a : Access} {x : Nat}

/-! ### Operations that keep every byte at its home -/

/-- A change of a core that keeps what its copy shows of a word that it owns changes no byte at its home. -/
theorem homeByte_updCore (s : State) (b : Nat) (f : Core → Core)
    (h : find s.own (x / 4) = some b → copyByte (f (s.core b)) x = copyByte (s.core b) x) : homeByte (s.updCore b f) x = homeByte s x := by
  unfold homeByte
  show (match find s.own (x / 4) with
    | some c => (copyByte ((s.updCore b f).core c) x).getD (s.byte x)
    | none => s.byte x) = _
  cases hown : find s.own (x / 4) with
  | none => rfl
  | some c =>
    by_cases hcb : c = b
    · subst hcb
      simp only [core_updCore, h hown]
    · simp only [State.updCore, core_setCore_ne s _ hcb]

theorem homeByte_updGroup (s : State) (b k : Nat) (f : Group → Group) : homeByte (s.updGroup b k f) x = homeByte s x :=
  homeByte_setGroup s b k _ x

theorem homeByte_finishAccess (s : State) (core slot : Nat) (a : Access) : homeByte (finishAccess s core slot a) x = homeByte s x :=
  homeByte_updGroup s core slot _

theorem homeByte_sendFor (s : State) (core : Nat) (p : Packet) (acc : Nat) : homeByte (sendFor s core p acc) x = homeByte s x :=
  homeByte_updCore s core (fun c => { c with reqs := c.reqs ++ [_] }) fun _ => rfl

/-- A dirty sector shows nothing else: its line is an HC line, whose bytes stand in memory. -/
theorem homeByte_markDirty (s : State) (core pa : Nat) : homeByte (markDirty s core pa) x = homeByte s x := by
  unfold markDirty
  dsimp only
  split
  next h =>
    refine homeByte_updCore s core _ fun _ => ?_
    have hkind : ((s.core core).line (lineOf pa)).kind = 0 := of_decide_eq_true (Bool.and_eq_true_iff.mp h).2
    by_cases hl : lineOf x = lineOf pa
    · simp only [copyByte, Core.setLine, hl, find_put_same, hkind, bne_self_eq_false, Bool.and_false, Bool.false_eq_true, if_false]
      simp only [Core.line] at hkind
      cases hf : find (s.core core).l1 (lineOf pa) with
      | none => rfl
      | some l =>
        rw [hf, Option.getD_some] at hkind
        simp only [hkind, bne_self_eq_false, Bool.and_false, Bool.false_eq_true, if_false]
    · simp only [copyByte, Core.setLine, find_put_ne _ _ hl]
  next => rfl

/-! ### A store that drains -/

theorem exec_drain_store {acc : Nat} (hacc : accOf (s.group core slot) acc = some a) (hk : a.kind = .store) :
    exec (.drain core slot acc) s = .next (if a.sent || a.perf || !(mayPerform (s.group core slot).accs a) then s
      else if isStoreLike a && !a.scr && decide (a.addr < 2 ^ 40) && heldByOther s core slot (lineOf a.addr) then s
      else drainStore s core slot a) := by
  show execDrain core slot acc s = _
  simp only [execDrain, hacc, hk]
  split
  · rfl
  · split <;> rfl

/-- A store to global memory that carries no notice is discarded, written through, put off or performed. -/
theorem drainStore_global (hscr : a.scr = false) (hmail : a.mail = false) : drainStore s core slot a =
    if accStale s core a then finishAccess s core slot a
    else if writesThrough s core a then
      (if reqRoom s core 1 then markSent (sendFor s core (wrbPkt s core slot a) a.id) core slot a else s)
    else match storeReady s core a with
      | none => askOwned s core slot a
      | some t => finishAccess (storeGlobal t core a) core slot a := by
  unfold drainStore storeMailed
  simp only [hscr, hmail, Bool.false_eq_true, if_false] <;> rfl

theorem askOwned_of_regn (h : a.regn ≠ 1) : askOwned s core slot a = s :=
  if_pos (by rw [decide_eq_true h]; rfl)

/-- A store that drains changes a byte at its home only where it is performed. -/
theorem homeByte_drainStore (hscr : a.scr = false) (hmail : a.mail = false) (hregn : a.regn ≠ 1)
    (hput : ∀ t, storeReady s core a = some t → homeByte (storeGlobal t core a) x = homeByte s x) :
    homeByte (drainStore s core slot a) x = homeByte s x := by
  rw [drainStore_global hscr hmail]
  split
  · exact homeByte_finishAccess s core slot a
  · split
    · split
      · exact (homeByte_updGroup _ core slot _).trans (homeByte_sendFor s core _ _)
      · rfl
    · cases hready : storeReady s core a with
      | none => exact congrArg (homeByte · x) (askOwned_of_regn hregn)
      | some t => exact (homeByte_finishAccess _ core slot a).trans (hput t hready)

theorem homeByte_exec_drain {acc : Nat} {t : State} (hacc : accOf (s.group core slot) acc = some a) (hk : a.kind = .store) (hscr : a.scr = false)
    (hmail : a.mail = false) (hregn : a.regn ≠ 1) (hrun : exec (.drain core slot acc) s = .next t)
    (hput : ∀ t, storeReady s core a = some t → homeByte (storeGlobal t core a) x = homeByte s x) : homeByte t x = homeByte s x := by
  rw [exec_drain_store hacc hk] at hrun
  cases hrun
  split
  · rfl
  · split
    · rfl
    · exact homeByte_drainStore hscr hmail hregn hput

theorem storeReady_hc (h1 : a.regn ≠ 1) (h2 : a.regn ≠ 2) : storeReady s core a = some s := by
  simp only [storeReady, h1, h2, if_false]

theorem storeGlobal_hc (h1 : a.regn ≠ 1) (h2 : a.regn ≠ 2) :
    storeGlobal s core a = markDirty (writeLive s a.addr (toBytes a.val a.size) a.arena a.gen) core a.addr := by
  simp only [storeGlobal, h1, h2, if_false]

theorem length_toBytes {w : Nat} (v : BitVec w) (n : Nat) : (toBytes v n).length = n := by simp [toBytes]

theorem homeByte_storeGlobal_hc (h1 : a.regn ≠ 1) (h2 : a.regn ≠ 2) :
    homeByte (storeGlobal s core a) x = homeByte (writeLive s a.addr (toBytes a.val a.size) a.arena a.gen) x := by
  rw [storeGlobal_hc h1 h2, homeByte_markDirty]

/-- A store to HC memory that may drain and is not stale gives its own bytes at their homes. -/
theorem homeByte_drain_own {acc : Nat} {t : State} {i : Nat} (hacc : accOf (s.group core slot) acc = some a) (hk : a.kind = .store)
    (hscr : a.scr = false) (hmail : a.mail = false) (hrun : exec (.drain core slot acc) s = .next t) (h1 : a.regn ≠ 1) (h2 : a.regn ≠ 2)
    (hsent : a.sent = false) (hperf : a.perf = false) (hmay : mayPerform (s.group core slot).accs a = true)
    (hheld : heldByOther s core slot (lineOf a.addr) = false) (hstale : accStale s core a = false) (hthrough : writesThrough s core a = false)
    (hwf : Memory.wf s.live = true) (hi : i < a.size) (htab : inArenaTable (a.addr + i) = false) (hown : find s.own ((a.addr + i) / 4) = none) :
    homeByte t (a.addr + i) = a.val.extractLsb' (8 * i) 8 := by
  rw [exec_drain_store hacc hk, hsent, hperf, hmay, hheld, drainStore_global hscr hmail, hstale, hthrough, storeReady_hc h1 h2] at hrun
  simp only [Bool.not_true, Bool.or_false, Bool.and_false, Bool.false_eq_true, if_false] at hrun
  cases hrun
  rw [homeByte_finishAccess, homeByte_storeGlobal_hc h1 h2, homeByte_writeLive_in _ _ _ _ hwf (by rw [length_toBytes]; exact hi) htab hown]
  simp [toBytes, hi]

/-- A store to CP memory whose core owns no word changes its core's copy alone, where its line needs no victim. -/
theorem homeByte_storeGlobal_cp {t : State} (h2 : a.regn = 2) (hown : ∀ w, find s.own w ≠ some core)
    (hway : (find (s.core core).l1 (lineOf a.addr)).isSome = true ∨ (freeWay (s.core core) (lineOf a.addr)).isSome = true)
    (hready : storeReady s core a = some t) : homeByte (storeGlobal t core a) x = homeByte s x := by
  have hway' : ((find (s.core core).l1 (lineOf a.addr)).isSome || (freeWay (s.core core) (lineOf a.addr)).isSome) = true :=
    Bool.or_eq_true_iff.mpr hway
  have ht : t = enterLine s core (lineOf a.addr) := by
    simp only [storeReady, h2, takeWay, hway', if_true] at hready
    exact (Option.some.inj (by simpa using hready)).symm
  have hownt : ∀ w, find t.own w ≠ some core := by rw [ht]; exact hown
  have henter : homeByte t x = homeByte s x := by
    rw [ht]
    exact homeByte_updCore s core _ fun k => absurd k (hown _)
  rw [← henter]
  have h21 : ¬(2 : BitVec 2) = 1 := by decide
  simp only [storeGlobal, h2, h21, if_false, if_true]
  exact homeByte_updCore t core _ fun k => absurd k (hownt _)

end

/-- Settles O58: HC bytes change where the store writes them, and a CP store changes its core's copy alone. -/
theorem storesChangeOnlyTheirBytes : Obligations.StoresChangeOnlyTheirBytes := by
  intro s t core slot acc a hacc hk hscr hmail hrun
  refine ⟨fun h1 h2 => ⟨fun x hx => ?out, fun hsent hperf hmay hheld hstale hthrough hwf i hi _ htab hown => ?own⟩, fun h2 hown hway x => ?cp⟩
  case out =>
    refine homeByte_exec_drain hacc hk hscr hmail h1 hrun fun u hu => ?_
    cases (storeReady_hc h1 h2).symm.trans hu
    rw [homeByte_storeGlobal_hc h1 h2, homeByte_writeLive_out _ _ _ _ _ (by rw [length_toBytes]; exact hx)]
  case own => exact homeByte_drain_own hacc hk hscr hmail hrun h1 h2 hsent hperf hmay hheld hstale hthrough hwf hi htab hown
  case cp =>
    exact homeByte_exec_drain hacc hk hscr hmail (by rw [h2]; decide) hrun fun u hu => homeByte_storeGlobal_cp h2 hown hway hu

end Sys2Proof.Machine
end

section
/-! PROOFS. The arena instructions, and the drops, sweeps and seals that end them (R43, R161 to R169, R188, R189, R302, R303). -/
namespace Sys2Proof.Machine

section
variable {s : State} {sh : Shape}

/-! ### Entries of the arena table -/

theorem arenaPath_congr {s t : State} (h : t.arenas = s.arenas) (fuel a : Nat) : arenaPath t fuel a = arenaPath s fuel a := by
  induction fuel generalizing a with
  | zero => rfl
  | succ k ih => simp only [arenaPath, ih, State.arena, h]

theorem arenaTree_congr {s t : State} (h : t.arenas = s.arenas) (a : Nat) : arenaTree t a = arenaTree s a := by
  simp only [arenaTree, arenaPath_congr h, State.arena, h]
  rfl

/-- An entry of the arena table that is written changes no course. -/
theorem setArena_sameCourse (t : State) (a : Nat) (e : ArenaEntry) : SameCourse (t.setArena a e) t := sameCourse_of_cores rfl rfl rfl

theorem putArena_sameCourse (t : State) (a hi lo v : Nat) : SameCourse (putArena t a hi lo v) t := setArena_sameCourse t a _

theorem setBusy_sameCourse (t : State) (a : Nat) (b : Bool) : SameCourse (setBusy t a b) t := putArena_sameCourse t a _ _ _

theorem writeScal_course (g : Group) (d : BitVec 8) (v : Word) : (writeScal g d v).course = g.course := rfl

/-- An arena instruction that is complete at once writes its result. -/
theorem arenaDone_keeps (h : Starts s sh) {t : State} (ht : SameCourse t s.begins) (d : BitVec 8) (v : Word) :
    arenaDone (startCtx s sh) t d v id = s.ends (t.updCur (fun g => writeScal g d v)) :=
  commitOnce_keeps h (f := fun u => (id u).updCur (fun g => writeScal g d v)) ht ((updCur_sameCourse t (writeScal_course _ d v)).trans ht)

theorem arenaInstr_starts {d : BitVec 8} {srcs : List (BitVec 8)} {r : State} (k : Ctx → State → State)
    (h : Starts s (onceShape (isScal d && srcs.all isUni) (d :: srcs) srcs))
    (ht : taking s (onceShape (isScal d && srcs.all isUni) (d :: srcs) srcs) ≠ 0)
    (hk : k (startCtx s (onceShape (isScal d && srcs.all isUni) (d :: srcs) srcs)) s.begins = r) : arenaInstr s d srcs k = .next r :=
  (startGroup_starts h _).trans (congrArg _ ((if_neg ht).trans hk))

theorem exec_anew {d a b : BitVec 8} {k : Nat} (hsh : sh = onceShape (isScal d && [a, b].all isUni) [d, a, b] [a, b]) (h : Starts s sh)
    (ht : taking s sh ≠ 0) {n p : Nat} (hn : n = fnat ((startCtx s sh).uni a) 11 0) (hp : p = fnat ((startCtx s sh).uni b) 11 0)
    (hnb : n ≠ 0 → aBusy (s.arena n) = false) (hpb : p ≠ 0 → aBusy (s.arena p) = false ∧ aValid (s.arena p) = true ∧ aDepth (s.arena p) < 8)
    (hfree : freeArena s n = some k) : exec (.anew d a b) s = .next (if 8 ≤ aDss (s.arena k) then startSweep
        ((setBusy (s.begins.setArena k (newEntry s k p)) k true).updCur (fun g => { g with wait := .anew k d, started := s.tick })) k
        s.focus.core s.focus.slot
      else s.ends ((s.begins.setArena k (newEntry s k p)).updCur (fun g => writeScal g d (arenaResult 0 k (aGen (s.arena k)))))) := by
  subst hsh
  show execAnew d a b s = _
  rw [execAnew]
  refine arenaInstr_starts _ h ht ?_
  have hbusy : ((decide (n ≠ 0) && aBusy (s.arena n)) || (decide (p ≠ 0) && aBusy (s.arena p))) = false := by
    by_cases h0 : n = 0 <;> by_cases h1 : p = 0 <;> simp [h0, h1] <;> grind
  have hvalid : ¬(p ≠ 0 ∧ (!(aValid (s.arena p))) = true) := fun ⟨h0, hv⟩ => by simp [(hpb h0).2.1] at hv
  have hdepth : ¬(p ≠ 0 ∧ 8 ≤ aDepth (s.arena p)) := fun ⟨h0, hv⟩ => absurd (hpb h0).2.2 (Nat.not_lt.mpr hv)
  rw [hn, hp] at hbusy
  rw [hp] at hvalid hdepth ⊢
  refine (ite_of_false hbusy).trans ((if_neg hvalid).trans ((if_neg hdepth).trans ?_))
  have hfree' : freeArena s.begins (arenaNo (startCtx s (onceShape (isScal d && [a, b].all isUni) [d, a, b] [a, b])) a) = some k := by
    rw [← hfree, hn]; rfl
  simp only [hfree']
  refine if_congr Iff.rfl rfl ?_
  exact arenaDone_keeps h (setArena_sameCourse _ _ _) d _

theorem exec_adrop {d a : BitVec 8} {l r : BitVec 1} (hsh : sh = onceShape (isScal d && [a].all isUni) [d, a] [a]) (h : Starts s sh)
    (ht : taking s sh ≠ 0) {n : Nat} (hn : n = fnat ((startCtx s sh).uni a) 11 0) {tree : List Nat}
    (htree : tree = if r = 1 then arenaTree s n else [n]) (hn0 : n ≠ 0) (hvalid : aValid (s.arena n) = true) (hbusy : aBusy (s.arena n) = false)
    (htbusy : tree.any (fun j => aBusy (s.arena j)) = false) (hchild : l = 1 → r = 0 → (arenaTree s n).length ≤ 1) :
    exec (.adrop d a l r) s = .next (dropNext ((tree.foldl (fun u j => setBusy u j true) s.begins).updCur (fun g => { g with
      wait := .adrop tree tree (decide (l = 1)) d, started := s.tick })) s.focus.core s.focus.slot tree (decide (l = 1)) d tree) := by
  subst hsh hn
  have htree' : (if r = 1 then arenaTree s.begins (arenaNo (startCtx s (onceShape (isScal d && [a].all isUni) [d, a] [a])) a)
      else [arenaNo (startCtx s (onceShape (isScal d && [a].all isUni) [d, a] [a])) a]) = tree := by
    rw [htree, arenaTree_congr (s := s) (t := s.begins) rfl]
    rfl
  have htick : (tree.foldl (fun u j => setBusy u j true) s.begins).tick = s.tick :=
    (SameCourse.foldl (fun u j => setBusy_sameCourse u j true) tree s.begins).tick
  show execAdrop d a l r s = _
  rw [execAdrop]
  refine arenaInstr_starts _ h ht ?_
  simp only [htree']
  refine (ite_of_false ?_).trans ((if_neg ?_).trans ((ite_of_false ?_).trans ?_))
  · exact Bool.or_eq_false_iff.mpr ⟨hbusy, htbusy⟩
  · exact not_or.mpr ⟨hn0, fun hv => Bool.false_ne_true ((congrArg not hvalid).symm.trans hv)⟩
  · rw [Bool.and_assoc, Bool.and_eq_false_imp, Bool.and_eq_false_imp]
    intro hl hr
    have hlen := hchild (of_decide_eq_true hl) (of_decide_eq_true hr)
    rw [arenaTree_congr (s := s) (t := s.begins) rfl]
    exact decide_eq_false (Nat.not_lt.mpr hlen)
  · rw [← htick]
    rfl

theorem exec_aseal {d a : BitVec 8} (hsh : sh = onceShape (isScal d && [a].all isUni) [d, a] [a]) (h : Starts s sh) (ht : taking s sh ≠ 0)
    {n : Nat} (hn : n = fnat ((startCtx s sh).uni a) 11 0) (hn0 : n ≠ 0) (hvalid : aValid (s.arena n) = true) (hbusy : aBusy (s.arena n) = false)
    (hsealed : aSealed (s.arena n) = false) (hlocked : arenaLocked s n = false) (hready : releaseReady s.begins.cur = true) {t : State}
    (hbegun : t = (setBusy s.begins n true).updCur (fun g => { g with wait := .aseal n d, started := s.tick })) :
    exec (.aseal d a) s = .next { t with
      seals := t.seals ++ [{ arena := n, cores := List.range 256, sent := false, core := s.focus.core, slot := s.focus.slot }] } := by
  subst hsh hn hbegun
  show execAseal d a s = _
  rw [execAseal]
  refine arenaInstr_starts _ h ht ?_
  refine (ite_of_false hbusy).trans ((if_neg ?_).trans ((ite_of_false hsealed).trans ((ite_of_false hlocked).trans
    ((ite_of_false (congrArg not hready)).trans rfl))))
  exact not_or.mpr ⟨hn0, fun hv => Bool.false_ne_true ((congrArg not hvalid).symm.trans hv)⟩

theorem exec_aquota {d a b : BitVec 8} (hsh : sh = onceShape (isScal d && [a, b].all isUni) [d, a, b] [a, b]) (h : Starts s sh)
    (ht : taking s sh ≠ 0) {n : Nat} (hn : n = fnat ((startCtx s sh).uni a) 11 0) (hn0 : n ≠ 0) (hvalid : aValid (s.arena n) = true)
    (hbusy : aBusy (s.arena n) = false) :
    exec (.aquota d a b) s = .next (s.ends ((putArena s.begins n 95 76 (fnat ((startCtx s sh).uni b) 19 0)).updCur (fun g =>
      writeScal g d (arenaStatus s.begins 0)))) := by
  subst hsh hn
  show execAquota d a b s = _
  rw [execAquota]
  refine arenaInstr_starts _ h ht ?_
  refine (ite_of_false hbusy).trans ((if_neg ?_).trans (arenaDone_keeps h (putArena_sameCourse _ _ _ _ _) d _))
  exact not_or.mpr ⟨hn0, fun hv => Bool.false_ne_true ((congrArg not hvalid).symm.trans hv)⟩

theorem exec_aquery {d a : BitVec 8} (hsh : sh = onceShape (isScalPair d && isUni a) [d, d + 1, a] [a]) (h : Starts s sh) (ht : taking s sh ≠ 0) :
    exec (.aquery d a) s = .next (s.ends (s.begins.updCur (fun g =>
      writeScal64 g d ((s.arena (fnat ((startCtx s sh).uni a) 11 0)).extractLsb' 64 64)))) := by
  subst hsh
  show execAquery d a s = _
  rw [execAquery, startGroup_starts h]
  exact congrArg _ ((if_neg ht).trans (commitOnce_begins h (fun u => u.updCur (fun g => writeScal64 g d _)) (updCur_sameCourse _ rfl)))

/-! ### CBSYNC -/

theorem throughBits_sameCourse {n : Nat} (t : State) (pa : Nat) (y : BitVec n) (hi lo : Nat) : SameCourse (throughBits t pa y hi lo) t :=
  hwWrite_sameCourse _ _ _

theorem setTask_sameCourse (t : State) (k hi lo v : Nat) : SameCourse (setTask t k hi lo v) t := by
  unfold setTask
  split
  · exact .refl t
  · exact (throughBits_sameCourse _ _ _ _ _).trans (sameCourse_of_cores rfl rfl rfl)

theorem setDie_sameCourse (t : State) (k : Nat) (d : DieSched) : SameCourse (t.setDie k d) t := sameCourse_of_cores rfl rfl rfl

theorem pushReady_sameCourse (t : State) (die : Nat) (q : Ready) : SameCourse (pushReady t die q) t := setDie_sameCourse t _ _

theorem moveEntries_sameCourse (t : State) : SameCourse (moveEntries t) t := by
  unfold moveEntries
  refine SameCourse.foldl (fun u die => ?_) _ t
  dsimp only
  exact (SameCourse.foldl (fun v q => pushReady_sameCourse v _ _) _ _).trans (setDie_sameCourse u die _)

theorem rejoin_sameCourse (t : State) (i : Nat) (x : Inst) : SameCourse (rejoin t i x) t := by
  have hstate : SameCourse (if tState (t.tcb x.tcb) = 6 then setTaskState t x.tcb 1 else t) t := by
    split
    · exact setTask_sameCourse _ _ _ _ _
    · exact .refl t
  unfold rejoin
  dsimp only
  generalize (if tState (t.tcb x.tcb) = 6 then setTaskState t x.tcb 1 else t) = u at hstate ⊢
  split
  · exact hstate
  · exact (pushReady_sameCourse _ _ _).trans hstate

theorem resumeRegion_sameCourse (t : State) (r : Nat) : SameCourse (resumeRegion t r) t := by
  have hset : ∀ l : List Nat, SameCourse (l.foldl (fun u q => setRegion u q 617 615 (if rLive (u.rcb q) = 0 then 0 else 1)) t) t := fun l =>
    SameCourse.foldl (fun u q => setRegion_sameCourse u q _ _ _) l t
  exact (SameCourse.foldl (fun u (e : Nat × Inst) => rejoin_sameCourse u e.1 e.2) _ _).trans (hset _)

theorem syncRegion_sameCourse (t : State) (r : Nat) (x : Region) : SameCourse (syncRegion t r x) t := by
  have hmoved : ∀ m : Tbl Region, SameCourse (moveEntries { t with regions := m }) t := fun m =>
    (moveEntries_sameCourse _).trans (sameCourse_of_cores rfl rfl rfl)
  unfold syncRegion
  dsimp only
  refine (setRegion_sameCourse _ _ _ _ _).trans ?_
  split
  · exact (resumeRegion_sameCourse _ _).trans (hmoved _)
  · exact hmoved _

theorem syncBlock_sameCourse (t : State) (pa : Nat) : SameCourse (syncBlock t pa) t := by
  unfold syncBlock
  dsimp only
  cases (if pa % 256 = 0 then find t.regions (pa / 256) else none) with
  | none =>
    dsimp only
    cases (if pa % 128 = 0 then find t.tasks (pa / 128) else none) with
    | none => exact .refl t
    | some y => exact sameCourse_of_cores rfl rfl rfl
  | some x =>
    dsimp only
    have hregion := syncRegion_sameCourse t (pa / 256) x
    generalize syncRegion t (pa / 256) x = u at hregion ⊢
    cases (if pa % 128 = 0 then find u.tasks (pa / 128) else none) with
    | none => exact hregion
    | some y => exact SameCourse.trans (t := u) (sameCourse_of_cores rfl rfl rfl) hregion

/-- Translations that are dropped change no course. -/
theorem dropTlb_sameCourse (t : State) (p : TlbEntry → Bool) : SameCourse (dropTlb t p) t := by
  have hcore : ∀ n, (dropTlb t p).core n = ((find t.cores n).map (fun k : Core => { k with tlb := k.tlb.filter (fun e => !(p e)) })).getD Core.reset :=
    fun n => congrArg (fun o => o.getD Core.reset) (find_map (fun k : Core => { k with tlb := k.tlb.filter (fun e => !(p e)) }) t.cores n)
  refine ⟨rfl, rfl, fun n => ?_, fun n k => ?_⟩
  · rw [hcore, State.core]
    cases find t.cores n <;> rfl
  · rw [State.group, State.group, hcore, State.core]
    cases find t.cores n <;> rfl

theorem forgetPte_sameCourse (t : State) (at_ : Nat) : SameCourse (forgetPte t at_) t :=
  SameCourse.trans (t := dropTlb t (filledFrom at_)) (sameCourse_of_cores rfl rfl rfl) (dropTlb_sameCourse t _)

theorem exec_cbsync {a : BitVec 8} (hsh : sh = onceShape (isScalPair a) [a, a + 1] [a, a + 1]) (h : Starts s sh) (ht : taking s sh ≠ 0)
    (hready : releaseReady s.begins.cur = true) {v : BitVec 64} (hv : v = s.cur.s64 a) :
    (fnat v 63 62 = 0 → exec (.cbsync a) s = .next (s.ends (selfInv (syncBlock s.begins (fnat v 37 0)) s.focus.core))) ∧
    (fnat v 63 62 = 2 → hSact s.cur = true → exec (.cbsync a) s = .next (s.ends (selfInv s.begins s.focus.core))) ∧
    (fnat v 63 62 = 1 → hSact s.cur = true →
      ((pteV (readPte s.begins (fnat v 37 0)) && pteLeaf (readPte s.begins (fnat v 37 0))) = true →
        exec (.cbsync a) s = .next (startFlush (s.waits (.sync 1 (fnat v 37 0))) s.focus.core s.focus.slot
          (ptePage (readPte s.begins (fnat v 37 0))) (pteSize (readPte s.begins (fnat v 37 0))) (readPte s.begins (fnat v 37 0)))) ∧
      ((pteV (readPte s.begins (fnat v 37 0)) && pteLeaf (readPte s.begins (fnat v 37 0))) = false →
        exec (.cbsync a) s = .next (s.ends (selfInv (forgetPte s.begins (fnat v 37 0)) s.focus.core)))) := by
  subst hsh hv
  have hrun : exec (.cbsync a) s = _ := (show execCbsync a s = startGroup s (onceShape (isScalPair a) [a, a + 1] [a, a + 1]) _ from rfl).trans
    (startGroup_starts h _)
  have hact : ∀ k : Nat, k ≠ 3 → ¬((startCtx s (onceShape (isScalPair a) [a, a + 1] [a, a + 1])).act = 0 ∨ k = 3) := fun k hk =>
    not_or.mpr ⟨ht, hk⟩
  have hready' : (!(releaseReady (s.setCur (begun s)).cur)) = false := congrArg not hready
  have hsuper : ∀ q : Prop, hSact s.cur = true → ¬(q ∧ (!(hSact (s.setCur (begun s)).cur)) = true) := fun q hs hq => by
    rw [cur_setCur, show hSact (begun s) = hSact s.cur from rfl, hs] at hq
    exact Bool.false_ne_true hq.2
  have hkind : ∀ k, fnat (s.cur.s64 a) 63 62 = k → fnat ((startCtx s (onceShape (isScalPair a) [a, a + 1] [a, a + 1])).src.s64 a) 63 62 = k :=
    fun _ h => h
  refine ⟨fun hk => hrun.trans (congrArg _ ?_), fun hk hs => hrun.trans (congrArg _ ?_),
    fun hk hs => ⟨fun hl => hrun.trans (congrArg _ ?_), fun hl => hrun.trans (congrArg _ ?_)⟩⟩ <;> simp only [hkind _ hk]
  · exact (if_neg (fun q => absurd q.1 (by decide))).trans ((if_neg (hact 0 (by decide))).trans ((ite_of_false hready').trans ((if_pos trivial).trans
      (commitOnce_begins h (fun u => selfInv (syncBlock u (fnat (s.cur.s64 a) 37 0)) s.focus.core) ((selfInv_sameCourse _ _).trans (syncBlock_sameCourse _ _))))))
  · exact (if_neg (hsuper _ hs)).trans ((if_neg (hact 2 (by decide))).trans ((ite_of_false hready').trans ((if_neg (by decide)).trans ((if_pos trivial).trans
      (commitOnce_begins h (fun u => selfInv u s.focus.core) (selfInv_sameCourse _ _))))))
  · refine (if_neg (hsuper _ hs)).trans ((if_neg (hact 1 (by decide))).trans ((ite_of_false hready').trans ((if_neg (by decide)).trans
      ((if_neg (by decide)).trans ((if_pos hl).trans ?_)))))
    rw [enterWait_starts]
    rfl
  · exact (if_neg (hsuper _ hs)).trans ((if_neg (hact 1 (by decide))).trans ((ite_of_false hready').trans ((if_neg (by decide)).trans
      ((if_neg (by decide)).trans ((ite_of_false hl).trans
        (commitOnce_begins h (fun u => selfInv (forgetPte u (fnat (s.cur.s64 a) 37 0)) s.focus.core) ((selfInv_sameCourse _ _).trans (forgetPte_sameCourse _ _))))))))

end

/-- Settles O33: each instruction changes its entry and completes, or marks it busy and leaves its part to the events that end it. -/
theorem arenaInstructionsComplete : Obligations.ArenaInstructionsComplete := by
  intro s d a b l r k one two n result
  refine ⟨fun h ht hnb hpb hfree => ⟨fun hd => ?_, fun hd => ?_⟩, fun h ht hn0 hvalid hbusy htbusy hchild => exec_adrop rfl h ht rfl rfl hn0 hvalid hbusy htbusy hchild,
    fun h ht hn0 hvalid hbusy hsealed hlocked hready => exec_aseal rfl h ht rfl hn0 hvalid hbusy hsealed hlocked hready rfl,
    fun h ht hn0 hvalid hbusy => exec_aquota rfl h ht rfl hn0 hvalid hbusy, fun h ht => exec_aquery rfl h ht,
    fun h ht hready => exec_cbsync rfl h ht hready rfl⟩
  · exact (exec_anew rfl h ht rfl rfl hnb hpb hfree).trans (congrArg _ (if_neg (Nat.not_le.mpr hd)))
  · exact (exec_anew rfl h ht rfl rfl hnb hpb hfree).trans (congrArg _ (if_pos hd))

/-! ### Drops, sweeps and seals -/

/-- A message that has arrived is taken by the agent that it is for. -/
theorem deliverIf_arrives {s t : State} {p : Packet} {ok : Bool} (ha : Arrives s p t) (hok : ok = true) (k : State → State) :
    deliverIf s p ok k = .next (k t) := by
  have ha' : headArrival s p = some t := ha
  simp only [deliverIf, hok, if_true, ha']

section
variable {s t : State} {p : Packet} {d : Drop}

theorem exec_drop (ha : Arrives s p t) (hop : p.op = 0x25)
    (hd : t.drops.find? (fun d => decide (d.arena = p.arena.toNat) && decide (d.gen = p.gen)) = some d) :
    (∀ h, sliceOfStop p.dst = some h → exec (.drop p) s = .next (send (setDrop (dropSlice t h d.arena d.gen) d (fun e =>
      { e with slices := e.slices.filter (fun k => decide (k ≠ h)) })) (dackPkt d p.dst))) ∧
    (sliceOfStop p.dst = none → exec (.drop p) s = .next (send (setDrop (dropCore t p.core.toNat d.arena d.gen) d (fun e =>
      { e with cores := e.cores.filter (fun k => decide (k ≠ p.core.toNat)) })) (dackPkt d p.dst))) := by
  have hrun : exec (.drop p) s = _ := (show execDrop p s = deliverIf s p _ _ from rfl).trans (deliverIf_arrives ha (decide_eq_true hop) _)
  simp only [hd] at hrun
  refine ⟨fun h hs => ?_, fun hs => ?_⟩
  · simp only [hs] at hrun
    exact hrun
  · simp only [hs] at hrun
    exact hrun

/-- An ADROP waits while one of its drops is logged. -/
theorem dropsDone_of_any (t : State) (core slot : Nat) (h : t.drops.any (fun p => decide (p.core = core) && decide (p.slot = slot)) = true) :
    dropsDone t core slot = t := by
  unfold dropsDone
  split
  · exact if_pos h
  · rfl

theorem dropsDone_of_none {t : State} {core slot : Nat} {all : List Nat} {release : Bool} {d : BitVec 8}
    (hw : (t.group core slot).wait = .adrop all [] release d)
    (h : t.drops.any (fun p => decide (p.core = core) && decide (p.slot = slot)) = false) :
    dropsDone t core slot = arenaEnd (selfInv (all.foldl (fun u a => if release then freeArenaNo (setBusy u a false) a else setBusy u a false) t) core)
      core slot d (arenaResult arOK 0 0) := by
  simp only [dropsDone, hw, h, Bool.false_eq_true, if_false]

/-- The last answer to a drop ends its ADROP; an earlier one is counted. -/
theorem exec_dack {rd : BitVec 8} (ha : Arrives s p t) (hop : p.op = 0x19) (hdrops : t.drops = [d]) (harena : d.arena = p.arena.toNat) (hgen : d.gen = p.gen) :
    (1 < d.acks → exec (.dack p) s = .next { t with drops := [{ d with acks := d.acks - 1 }] }) ∧
    (∀ all, d.acks = 1 → (t.group d.core d.slot).wait = .adrop all [] false rd →
      exec (.dack p) s = .next (endAnswered (selfInv (all.foldl (fun u a => setBusy u a false) { t with drops := [] }) d.core)
        d.core d.slot (fun g => writeScal g rd 0))) := by
  have hfind : t.drops.find? (fun d => decide (d.arena = p.arena.toNat) && decide (d.gen = p.gen)) = some d := by
    rw [hdrops, List.find?_cons_of_pos (by simp [harena, hgen])]
  have hset : ∀ f, setDrop t d f = { t with drops := [f d] } := fun f => by simp [setDrop, hdrops]
  have hrun : exec (.dack p) s = _ := (show execDack p s = deliverIf s p _ _ from rfl).trans (deliverIf_arrives ha (decide_eq_true hop) _)
  simp only [hfind, hset] at hrun
  refine ⟨fun hacks => hrun.trans (congrArg _ ?_), fun all hacks hw => hrun.trans (congrArg _ ?_)⟩
  · have hne : d.acks - 1 ≠ 0 := by omega
    rw [List.filter_cons_of_pos (by simpa using hne), List.filter_nil]
    exact dropsDone_of_any _ _ _ (by simp)
  · rw [List.filter_cons_of_neg (by simp [hacks]), List.filter_nil]
    exact dropsDone_of_none (release := false) hw rfl

end

/-- Settles O34: each message and token is applied to the entry that it names, and the last one ends the instruction that waits. -/
theorem dropsAndSealsComplete : Obligations.DropsAndSealsComplete := by
  intro s t p d k rd
  refine ⟨fun ha hop hd => exec_drop ha hop hd, fun ha hop hdrops harena hgen => exec_dack ha hop hdrops harena hgen,
    fun reg w x hw hx => ?sweep, fun w hw ht hu he hwait => ?swept, fun z c hz hc hk => ?marks, fun z c hz hc hk hd hr => ?gives,
    fun z c hz hc => ⟨fun hs hd => ?recalls, fun hs hd => ?finishes⟩⟩
  case sweep =>
    have hfind : [w].findSome? (fun w => w.tokens.find? (fun t => decide (t.loop = reg / 112) && decide (t.at_ = reg % 112) && tokenMoves s t)) = some x := by
      simp only [List.findSome?_cons, hx]
    have hmem : w.tokens.contains x = true := List.contains_iff_mem.mpr (List.mem_of_find?_eq_some hx)
    show execQsw reg s = _
    simp only [execQsw, hw, hfind, replaceFirst, hmem, if_true]
  case swept =>
    have hover : (w.tokens.isEmpty && w.units.isEmpty && w.engs.isEmpty) = true := by simp [ht, hu, he]
    show execQuiesceSweepDone s = _
    simp only [execQuiesceSweepDone, hw, List.find?_cons, hover, removeFirst, if_true,
      show (State.group (putArena { s with sweeps := [] } w.arena 111 108 0) w.core w.slot).wait = .anew k rd from hwait]
    rfl
  case marks =>
    show execSealBroadcast c k s = _
    simp only [execSealBroadcast, hz, List.contains_iff_mem.mpr hc, if_true]
    exact if_pos (by simpa using hk)
  case gives =>
    show execSealBroadcast c k s = _
    simp only [execSealBroadcast, hz, List.contains_iff_mem.mpr hc, List.contains_iff_mem.mpr hk, hd, hr, if_true, Bool.not_true, Bool.false_eq_true,
      if_false, Bool.and_self]
  case recalls =>
    show execSealBroadcast c k s = _
    simp only [execSealBroadcast, hz, hc, hs, hd, List.contains_nil, List.isEmpty_nil, Bool.not_true, Bool.false_eq_true, if_false, if_true]
  case finishes =>
    show execSealBroadcast c k s = _
    simp only [execSealBroadcast, hz, hc, hs, hd, List.contains_nil, List.isEmpty_nil, Bool.not_true, Bool.false_eq_true, if_false, if_true]

end Sys2Proof.Machine
end

section
/-! PROOFS. The lock instructions and the operations at their homes (R190, R329 to R342). -/
namespace Sys2Proof.Machine

/-! ### Lines that leave a core -/

section
variable {s : State} {sh : Shape}

theorem cpWriteBack_sameCourse (t : State) (core line : Nat) : SameCourse (cpWriteBack t core line) t := by
  unfold cpWriteBack
  dsimp only
  split
  · exact .refl t
  · refine (sameCourse_updCore _ core rfl fun _ => rfl).trans ?_
    split
    · exact .refl t
    · exact SameCourse.foldl (fun _ _ => writeLive_sameCourse _ _ _ _ _) _ t

theorem clearLine_groups (c : Core) (line : Nat) : (clearLine c line).groups = c.groups ∧ (clearLine c line).wps = c.wps := by
  unfold clearLine
  split
  · exact ⟨rfl, rfl⟩
  · split <;> exact ⟨rfl, rfl⟩

theorem flushLine_sameCourse (t : State) (core line : Nat) : SameCourse (flushLine t core line) t := by
  unfold flushLine
  split
  · exact .refl t
  · refine (sameCourse_updCore _ core (clearLine_groups _ line).2 fun k => ?_).trans ((cpWriteBack_sameCourse _ core line).trans
      (SameCourse.foldl (fun u i => ?_) _ t))
    · simp only [Core.group, (clearLine_groups _ line).1]
    · split
      · exact evictWord_sameCourse u _
      · exact .refl u

theorem send_sameCourse (t : State) (p : Packet) : SameCourse (send t p) t := sameCourse_of_cores rfl rfl rfl

theorem sendReq_sameCourse (t : State) (core : Nat) (p : Packet) : SameCourse (sendReq t core p) t :=
  (send_sameCourse _ _).trans (sameCourse_updCore t core rfl fun _ => rfl)

theorem endReq_sameCourse (t : State) (core txn : Nat) : SameCourse (endReq t core txn) t := sameCourse_updCore t core rfl fun _ => rfl

theorem evictLine_sameCourse (t : State) (core line : Nat) (l : L1Line) : SameCourse (evictLine t core line l) t := by
  unfold evictLine
  split
  · exact flushLine_sameCourse t core line
  · exact (sendReq_sameCourse _ _ _).trans (flushLine_sameCourse t core line)

theorem enterLine_sameCourse (t : State) (core line : Nat) : SameCourse (enterLine t core line) t := by
  refine sameCourse_updCore t core ?_ fun k => ?_ <;> split <;> rfl

theorem takeWay_sameCourse {t u : State} {core line : Nat} (h : takeWay t core line = some u) : SameCourse u t := by
  unfold takeWay at h
  dsimp only at h
  split at h
  · cases h
    exact enterLine_sameCourse _ _ _
  · split at h
    · cases h
    · split at h
      · cases h
      · cases h
        exact (enterLine_sameCourse _ _ _).trans (evictLine_sameCourse _ _ _ _)

/-! ### The lock instructions -/

/-- An operation of this lock code, in place of an earlier one of the group, after which it waits (R335). -/
def State.asksLock (s u : State) (sh : Shape) (code line : Nat) (ar : BitVec 12) (gn : BitVec 4) (rg : BitVec 2) (w : Wait) : State :=
  (sendLockAs u code line s.focus.core s.focus.slot (startCtx s sh).low s.cur.save ar gn rg).updCur
    (fun g => { g with wait := w, started := s.tick })

theorem enterWait_asks {u : State} (hu : SameCourse u s.begins) (code line : Nat) (ar : BitVec 12) (gn : BitVec 4) (rg : BitVec 2) (w : Wait) :
    enterWait (startCtx s sh) (sendLockAs u code line s.focus.core s.focus.slot (startCtx s sh).low s.cur.save ar gn rg) w =
      s.asksLock u sh code line ar gn rg w := by
  have ht : (sendLockAs u code line s.focus.core s.focus.slot (startCtx s sh).low s.cur.save ar gn rg).tick = s.tick :=
    ((sendReq_sameCourse _ _ _).trans ((endReq_sameCourse _ _ _).trans hu)).tick
  rw [enterWait, ht]
  rfl

theorem status_course (g : Group) (d : BitVec 8) (st : Nat) : (writeStatus g d st).course = g.course := by
  unfold writeStatus
  split
  · exact writeScal_course _ _ _
  · exact writePred_course _ _ _ _

/-- The checks of LOCK and TRYLOCK pass, for a thread that takes part: the instruction goes on with its line (R334). -/
theorem lockInstr_starts {try_ legal : Bool} {d a : BitVec 8} {more : List (BitVec 8)} {pa : Nat} {ar : BitVec 12} {gn : BitVec 4} {rg : BitVec 2}
    (hsh : sh = onceShape (legal && (isScal d || isPred d) && isScalPair a) (d :: a :: (a + 1) :: more) (a :: (a + 1) :: more))
    (h : Starts s sh) (ht : taking s sh ≠ 0)
    (hc : check s.begins s.focus.core (instRoot s.begins s.cur.inst) (s.cur.s64 a) 4 .both = .ok pa ar gn rg) :
    lockInstr s try_ legal d a more = .next (lockStart s (startCtx s sh) s.begins try_ d (lineOf pa) ar gn rg) := by
  rw [lockInstr, ← hsh, startGroup_starts h]
  refine congrArg _ ((if_neg ht).trans ?_)
  have hc' : check (s.setCur (begun s)) (startCtx s sh).core (instRoot (s.setCur (begun s)) (startCtx s sh).src.inst)
    ((startCtx s sh).src.s64 a) 4 .both = _ := hc
  simp only [hc']
  exact watchOnce_quiet rfl (begins_wps h _ rfl) _ _

/-- A line that may still be asked for: not held, with no release outstanding, within the limits (R332, R335). -/
def State.mayLock (s : State) (line : Nat) : Prop :=
  line ∉ s.cur.locks ∧ unlockPending s.begins.cur line = false ∧ s.cur.locks.length < 4 ∧ setPinned (s.begins.core s.focus.core) line = false

theorem lockStart_held {try_ : Bool} {d : BitVec 8} {line : Nat} (ar : BitVec 12) (gn : BitVec 4) (rg : BitVec 2) (h : Starts s sh)
    (hg : s.cur.lkgr = false) (hl : line ∈ s.cur.locks) :
    lockStart s (startCtx s sh) s.begins try_ d line ar gn rg = s.ends (s.begins.updCur (fun g => writeStatus g d lkSELF)) := by
  have e : s.begins.cur = begun s := cur_setCur _ _
  have h1 : (s.begins.cur.lkgr && s.begins.cur.locks.contains line) = false := by rw [e]; simp [begun, hg]
  have h2 : s.begins.cur.locks.contains line = true := by rw [e]; simpa [begun] using hl
  rw [lockStart, ite_of_false h1, if_pos h2]
  exact commitOnce_begins h _ (updCur_sameCourse _ (status_course _ _ _))

theorem lockStart_asks {try_ : Bool} {d : BitVec 8} {line : Nat} {u : State} (ar : BitVec 12) (gn : BitVec 4) (rg : BitVec 2)
    (hg : s.cur.lkgr = false) (hl : s.mayLock line) (hu : takeWay s.begins s.focus.core line = some u) :
    lockStart s (startCtx s sh) s.begins try_ d line ar gn rg =
      s.asksLock u sh (if try_ then 1 else if stoppedHere s line then 7 else 0) line ar gn rg
        (if try_ then .lkrq 1 line d (startCtx s sh).low else .lock line d (startCtx s sh).low false) := by
  obtain ⟨hm, hp, hn, hs⟩ := hl
  have e : s.begins.cur = begun s := cur_setCur _ _
  have h1 : (s.begins.cur.lkgr && s.begins.cur.locks.contains line) = false := by rw [e]; simp [begun, hg]
  have h2 : s.begins.cur.locks.contains line = false := by rw [e]; simpa [begun] using hm
  have h3 : ¬ 4 ≤ s.begins.cur.locks.length := by rw [e]; simp [begun]; omega
  have h4 : s.begins.cur.save = s.cur.save := by rw [e]; rfl
  have hs' : setPinned (s.begins.core (startCtx s sh).core) line = false := hs
  have hu' : takeWay s.begins (startCtx s sh).core line = some u := hu
  rw [lockStart, ite_of_false h1, ite_of_false h2, ite_of_false hp, if_neg h3, ite_of_false hs']
  simp only [hu', h4]
  exact enterWait_asks (takeWay_sameCourse hu) _ _ _ _ _ _

/-- The check of UNLOCK, LKPROBE and LKFREE passes for a thread that takes part. -/
theorem unlockCheck_starts {a : BitVec 8} {pa : Nat} {ar : BitVec 12} {gn : BitVec 4} {rg : BitVec 2}
    (h : Starts s sh) (ht : taking s sh ≠ 0)
    (hc : check s.begins s.focus.core (instRoot s.begins s.cur.inst) (s.cur.s64 a) 4 .unlock = .ok pa ar gn rg)
    (k : Ctx → State → Nat → BitVec 12 → BitVec 4 → BitVec 2 → State) {r : State} (hk : k (startCtx s sh) s.begins (lineOf pa) ar gn rg = r) :
    startGroup s sh (fun x t => unlockCheck s x t a (k x t)) = .next r := by
  have hc' : check (s.setCur (begun s)) (startCtx s sh).core (instRoot (s.setCur (begun s)) (startCtx s sh).src.inst)
    ((startCtx s sh).src.s64 a) 4 .unlock = _ := hc
  refine (startGroup_starts h _).trans (congrArg _ ((if_neg ht).trans (Eq.trans ?_ hk)))
  simp only [hc']
  rfl

theorem exec_lockTimeout {c j l m : Nat} {e : BitVec 8} (h : (s.group c j).wait = .lock l e m false) :
    exec (.lockTimeout c j) s = .next
      ((sendLock s 5 l c j m (s.group c j).save).updGroup c j (fun g => { g with wait := .lock l e m true })) := by
  show execLockTimeout c j s = _
  simp only [execLockTimeout, h]

end

/-- Settles O35: the checks of each form pass, so a held line gives SELF, and each other operation is sent before its group waits. -/
theorem lockInstructionsComplete : Obligations.LockInstructionsComplete := by
  unfold Obligations.LockInstructionsComplete
  intro s d a b pa ar gn rg c slot line va root shl sht shu shp shf low asks free
  refine ⟨fun hc hg => ⟨fun h ht => ⟨fun hl => ?_, fun u hf hst hu => ?_⟩, fun h ht => ⟨fun hl => ?_, fun u hf hu => ?_⟩⟩,
    fun hc => ⟨fun h ht => ?_, fun h ht => ?_, fun h ht hr => ?_⟩, fun _ _ _ _ _ h => exec_lockTimeout h⟩
  · exact (lockInstr_starts rfl h ht hc).trans (congrArg _ (lockStart_held ar gn rg h hg hl))
  · refine (lockInstr_starts rfl h ht hc).trans (congrArg _ ((lockStart_asks ar gn rg hg hf hu).trans ?_))
    rw [hst]
    rfl
  · exact (lockInstr_starts rfl h ht hc).trans (congrArg _ (lockStart_held ar gn rg h hg hl))
  · exact (lockInstr_starts rfl h ht hc).trans (congrArg _ (lockStart_asks ar gn rg hg hf hu))
  · refine unlockCheck_starts h ht hc (fun x t line _ _ _ =>
      commitOnce x t (fun u => u.updCur (fun g => if g.locks.contains line then addUnlock g line else g))) ?_
    refine (commitOnce_begins h _ (updCur_sameCourse _ ?_)).trans ?_
    · split <;> rfl
    · simp only [List.contains_eq_mem, decide_eq_true_eq]
      rfl
  · exact unlockCheck_starts h ht hc (fun x t line ar gn rg =>
      enterWait x (sendLockAs t 3 line x.core x.slot x.low t.cur.save ar gn rg) (.lkrq 3 line d x.low))
      ((congrArg (fun g : Group => enterWait _ (sendLockAs _ 3 _ _ _ _ g.save _ _ _) _) (cur_setCur _ _)).trans
        (enterWait_asks (.refl _) 3 _ _ _ _ _))
  · refine unlockCheck_starts h ht hc (fun x t line ar gn rg =>
      if releaseReady t.cur then
        enterWait x (sendLockAs t 4 line x.core x.slot x.low t.cur.save ar gn rg) (.lkrq 4 line d x.low)
      else retry s .busy) ((if_pos hr).trans ?_)
    exact (congrArg (fun g : Group => enterWait _ (sendLockAs _ 4 _ _ _ _ g.save _ _ _) _) (cur_setCur _ _)).trans
      (enterWait_asks (.refl _) 4 _ _ _ _ _)

end Sys2Proof.Machine
end

section
/-! PROOFS. The operations of locks at their homes (R190, R329 to R342). -/
namespace Sys2Proof.Machine

/-- The grant of line 0x1201 to group 0 of core 0, with the transaction number of its LOCK. -/
def strayGrant : Packet := { mkPkt 1 0x11 0 0 0x120100 0 0 0 with txn := 3072 }

/-- Group 0 of core 0 waits for the grant of a line, which has landed, while a request of an engine of the same station has the grant's
transaction number. -/
def strayState : State :=
  { (placeGroupWord State.reset 0).updCur (fun g => { g with wait := .lock 0x1201 223 0 false }) with
    engReqs := [⟨strayGrant, none, false, .replay⟩] }

/-- A reply that is alone on the loops arrives. -/
theorem arrives_alone {t : State} (n l : Nat) {p : Packet} (hn : t.net = []) (hp : p.cls ≠ 0) :
    Arrives { t with net := [⟨n, l, .landed 0, p⟩] } p t := by
  cases t
  cases hn
  simpa [Arrives, headArrival, dropTransit, Transit.isLanded] using hp

/-- Refutes O36: a DATX is first matched with the requests of the engines of its station, and the statement does not say that none of them
has its transaction number. The machine then leaves the group waiting, where the statement asks for the end of its wait. -/
theorem not_lockOperationsServed : ¬ Obligations.LockOperationsServed := by
  intro h
  have hrun := (h.2 _ strayState strayGrant 0 0 223 0 false ⟨false, 0, 0, 0, 0, [], 0, 0, 0⟩ ⟨false, 0, 0, 0, 0⟩).1
    (arrives_alone 0 0 rfl (by decide)) rfl (by decide) (by decide +kernel)
  exact absurd (congrArg waitAfter hrun) (by decide +kernel)

end Sys2Proof.Machine
end

section
/-! PROOFS. The home's service of coherence requests (R35 to R40). -/
namespace Sys2Proof.Machine

section
variable {s t : State} {p : Packet}

/-- A request of its kind that is served next has its effect. -/
theorem askedIf_asks (h : Asks s p t) {ok : Bool} (hop : ok = true) (k : State → State) : askedIf s p ok k = .next (k t) := by
  have h' : asked s p = some t := h
  simp only [askedIf, if_pos hop, h']

/-- A line as its home serves it: noted in the L2, with its count and its reservation cleared (R39, R40). -/
def readied (t : State) (p : Packet) : State :=
  fillL2 (serviced t (pktLine p)) (pktLine p) p.arena (t.sgen (homeOfLine (pktLine p)) p.arena.toNat)

theorem serveEntry_room (hm : mayServe t p (pktLine p) = true) (hr : dirRoom t (pktLine p) = .room) (k : State → State) :
    serveEntry t (pktLine p) p k = k (readied t p) := by
  have hm' : (!mayServe t p (pktLine p)) = false := by rw [hm]; rfl
  rw [serveEntry, ite_of_false hm']
  simp only [withRoom, hr]
  rfl

theorem serveEntry_refused (hm : mayServe t p (pktLine p) = false) (k : State → State) :
    serveEntry t (pktLine p) p k = refuse t p (pktLine p) true := by
  have hm' : (!mayServe t p (pktLine p)) = true := by rw [hm]; rfl
  exact if_pos hm'

/-! ### RDS (R37, R39) -/

theorem exec_rds_home (h : Asks s p t) (hop : p.op = 0x01) (hd : p.dst = homeStop (pktLine p)) :
    exec (.rds p) s = .next (serveRds t (pktLine p) p) := by
  refine (askedIf_asks h (decide_eq_true hop) _).trans ?_
  simp only [if_pos hd]

theorem exec_rds_away {n : Nat} (h : Asks s p t) (hop : p.op = 0x01) (hd : p.dst ≠ homeStop (pktLine p)) (hs : sliceOfStop p.dst = some n) :
    exec (.rds p) s = .next (serveReplica t n (pktLine p) p) := by
  refine (askedIf_asks h (decide_eq_true hop) _).trans ?_
  simp only [if_neg hd, hs]

theorem serveReplica_held {n line : Nat} {r : Replica} (hr : find t.replicas (replicaKey n line) = some r) :
    serveReplica t n line p = send { t with replicas := put t.replicas (replicaKey n line) { r with used := t.tick } }
      (sealedReply line p r.arena r.gen (zgetRun r.bytes 0 256)) := by
  simp only [serveReplica, hr]

theorem serveReplica_fetch {n line : Nat} (hr : find t.replicas (replicaKey n line) = none) (hf : t.fetches = []) :
    serveReplica t n line p =
      send { t with fetches := [⟨{ p with src := p.dst, dst := homeStop line, smask := 15 }, [p], none⟩] }
        { p with src := p.dst, dst := homeStop line, smask := 15 } := by
  simp only [serveReplica, hr, joinFetch, hf]
  rfl

theorem serveRds_sealed (hs : sealedPkt t p = true) : serveRds t (pktLine p) p = serveSealed t (pktLine p) p := if_pos hs

theorem serveRds_cp (hs : sealedPkt t p = false) (hr : p.regn = 2) : serveRds t (pktLine p) p = serveCp t (pktLine p) p :=
  (ite_of_false hs).trans (if_pos hr)

/-- A read of HC memory goes to the entry of its line. -/
theorem serveRds_shared (hs : sealedPkt t p = false) (hr : p.regn = 0) (hm : mayServe t p (pktLine p) = true)
    (hroom : dirRoom t (pktLine p) = .room) (ho : otherOwner (readied t p) (pktLine p) p.core.toNat = none) :
    serveRds t (pktLine p) p = completeReq (readied t p) (pktLine p) p := by
  have h2 : ¬p.regn = 2 := by rw [hr]; decide
  have h1 : ¬p.regn = 1 := by rw [hr]; decide
  refine (ite_of_false hs).trans ((if_neg h2).trans ((serveEntry_room hm hroom _).trans ((if_neg h1).trans ?_)))
  simp only [ho]

theorem serveRds_refused (hs : sealedPkt t p = false) (hr : p.regn = 0) (hm : mayServe t p (pktLine p) = false) :
    serveRds t (pktLine p) p = refuse t p (pktLine p) true :=
  (ite_of_false hs).trans ((if_neg (by rw [hr]; decide)).trans (serveEntry_refused hm _))

/-! ### RDX, UPG, OWNW (R39, R40) -/

theorem exec_rdx (h : Asks s p t) (hop : p.op = 0x02) (hr : p.regn = 0) :
    exec (.rdx p) s = .next (serveEntry t (pktLine p) p (fun u => serveExclusive u (pktLine p) p)) :=
  (askedIf_asks h (decide_eq_true hop) _).trans (congrArg _ (if_neg (by rw [hr]; decide)))

theorem exec_upg_listed (h : Asks s p t) (hop : p.op = 0x03) (hm : mayServe t p (pktLine p) = true) (hroom : dirRoom t (pktLine p) = .room)
    (h1 : ((readied t p).dirAt (pktLine p)).state = 1) (h2 : ((readied t p).dirAt (pktLine p)).cvec = false)
    (h3 : p.core.toNat ∈ ((readied t p).dirAt (pktLine p)).ptrs) :
    exec (.upg p) s = .next (serveExclusive (readied t p) (pktLine p) p) := by
  refine (askedIf_asks h (decide_eq_true hop) _).trans (congrArg _ ((serveEntry_room hm hroom _).trans ?_))
  simp [h1, h2, h3]

theorem exec_ownw (h : Asks s p t) (hop : p.op = 0x07) (hst : staleAt t (pktLine p) p.arena p.gen = false) (hf : ownFull t (pktLine p) = false)
    (hm : mayServe t p (pktLine p) = true) (hroom : dirRoom t (pktLine p) = .room)
    (ho : otherOwners (readied t p) (pktLine p) p.core.toNat (p.inl.extractLsb' 0 64) = []) :
    exec (.ownw p) s = .next (completeReq (readied t p) (pktLine p) p) := by
  refine (askedIf_asks h (decide_eq_true hop) _).trans (congrArg _ ((ite_of_false hst).trans ((ite_of_false hf).trans
    ((serveEntry_room hm hroom _).trans (if_pos ?_)))))
  rw [ho]
  rfl

/-! ### Evictions (R35, R40) -/

theorem takeEvict_stale (hs : staleAt t (pktLine p) p.arena p.gen = true) : takeEvict t p = send t (ackPkt (pktLine p) p 0) :=
  if_pos (by rw [hs]; rfl)

/-- The line that may be served is not busy, so the entry awaits nobody. -/
theorem takeEvict_served (hm : mayServe t p (pktLine p) = true) (hs : staleAt t (pktLine p) p.arena p.gen = false) :
    takeEvict t p = send (clearPointer (serviced t (pktLine p)) (pktLine p) p.core.toNat) (ackPkt (pktLine p) p 0) := by
  have hidle : (t.dirAt (pktLine p)).state ≠ 3 := by
    simp only [mayServe, Bool.and_eq_true, decide_eq_true_eq] at hm
    exact hm.1
  have hm' : (!mayServe t p (pktLine p)) = false := by rw [hm]; rfl
  exact (ite_of_false (by simp [hs]; exact fun e => absurd e hidle)).trans (ite_of_false hm')

end

/-- Settles O37: each request of its kind that is served next has the effect of its case at the entry of its line. -/
theorem homeRequestsServed : Obligations.HomeRequestsServed := by
  unfold Obligations.HomeRequestsServed
  intro s t p line c ready h
  refine ⟨fun hop hd => ⟨fun hs => ?_, fun hs hr => ?_⟩, fun n hop hd hs => ⟨fun r hr => ?_, fun hr hf => ?_⟩,
    fun hm hroom => ⟨fun hop hd hs hr ho => ?_, fun hop hr => ?_, fun hop => exec_upg_listed h hop hm hroom,
      fun hop hs hf ho => exec_ownw h hop hs hf hm hroom ho⟩,
    fun hs => ⟨fun hop => ?_, fun hop => ?_, fun hop => ?_⟩, fun hm hs => ⟨fun hop => ?_, fun hop => ?_⟩,
    fun hm hr => ⟨fun hop hd hs => ?_, fun hop => ?_, fun hop => ?_⟩⟩
  · exact (exec_rds_home h hop hd).trans (congrArg _ (serveRds_sealed hs))
  · exact (exec_rds_home h hop hd).trans (congrArg _ (serveRds_cp hs hr))
  · exact (exec_rds_away h hop hd hs).trans (congrArg _ (serveReplica_held hr))
  · exact (exec_rds_away h hop hd hs).trans (congrArg _ (serveReplica_fetch hr hf))
  · exact (exec_rds_home h hop hd).trans (congrArg _ (serveRds_shared hs hr hm hroom ho))
  · exact (exec_rdx h hop hr).trans (congrArg _ (serveEntry_room hm hroom _))
  · exact (askedIf_asks h (decide_eq_true hop) _).trans (congrArg _ (takeEvict_stale hs))
  · exact (askedIf_asks h (decide_eq_true hop) _).trans (congrArg _ (takeEvict_stale hs))
  · exact (askedIf_asks h (decide_eq_true hop) _).trans (congrArg _ (if_pos hs))
  · exact (askedIf_asks h (decide_eq_true hop) _).trans (congrArg _ (takeEvict_served hm hs))
  · exact (askedIf_asks h (decide_eq_true hop) _).trans (congrArg _ (takeEvict_served hm hs))
  · exact (exec_rds_home h hop hd).trans (congrArg _ (serveRds_refused hs hr hm))
  · exact (exec_rdx h hop hr).trans (congrArg _ (serveEntry_refused hm _))
  · exact (askedIf_asks h (decide_eq_true hop) _).trans (congrArg _ (serveEntry_refused hm _))

end Sys2Proof.Machine
end

section
/-! PROOFS. Replies, control messages, answers and page flushes (R37 to R40, R43). -/
namespace Sys2Proof.Machine

section
variable {s t : State} {p : Packet} {q : Request}

/-- The machine with the request of a reply ended, and the asks of its line served with the reply's sectors. -/
def answered (t : State) (p : Packet) (excl : Bool) : State :=
  serveAsks (endReq t p.core.toNat p.txn.toNat) p.core.toNat (pktLine p) p.smask excl

/-! ### Data for a core (R38, R39) -/

theorem exec_dats (h : Arrives s p t) (hop : p.op = 0x10) (hd : sliceOfStop p.dst = none) :
    exec (.dats p) s = .next (takeDats t p) := by
  refine (deliverIf_arrives h (decide_eq_true hop) _).trans ?_
  simp only [hd]

theorem takeDats_keep (hq : replyTo? t p = some q) (hk : mayKeep (answered t p false) p.core.toNat q = true) (hb : bit p.hint 0 = false)
    (hr : q.pkt.regn = 0) :
    takeDats t p = installLine (answered t p false) p.core.toNat (pktLine p) 1 p.smask q.pkt.arena q.pkt.gen := by
  simp only [takeDats, hq]
  refine (ite_of_false ((Bool.not_eq_false' _).mpr hk)).trans ((ite_of_false hb).trans (if_neg ?_))
  rw [hr]
  decide

theorem takeDats_drop (hq : replyTo? t p = some q) (hk : mayKeep (answered t p false) p.core.toNat q = false) :
    takeDats t p = dropFill (answered t p false) p.core.toNat q := by
  simp only [takeDats, hq]
  exact if_pos ((Bool.not_eq_true' _).mpr hk)

/-- A DATX that is not of an engine and not a grant is for the request that it answers. -/
theorem exec_datx (h : Arrives s p t) (hop : p.op = 0x11) (hx : p.txn.toNat < 3072) (he : t.engReqs.any (engOf p) = false)
    (hq : replyTo? t p = some q) {r : State}
    (hk : (if !(mayKeep (answered t p true) p.core.toNat q) then dropFill (answered t p true) p.core.toNat q
      else if q.pkt.regn = 2 then fillCp (answered t p true) p.core.toNat (pktLine p) q.pkt.arena q.pkt.gen p.smask
      else if ((answered t p true).core p.core.toNat).groups.any (fun k => k.2.locks.contains (pktLine p)) then
        pinLine (answered t p true) p.core.toNat (pktLine p) q.pkt.arena q.pkt.gen
      else installLine (answered t p true) p.core.toNat (pktLine p) 2 p.smask q.pkt.arena q.pkt.gen) = r) :
    exec (.datx p) s = .next r := by
  refine (deliverIf_arrives h (decide_eq_true hop) _).trans (congrArg _ ((ite_of_false he).trans ((if_neg (by omega)).trans ?_)))
  simp only [hq]
  exact hk

theorem exec_gntx (h : Arrives s p t) (hop : p.op = 0x12) (hq : replyTo? t p = some q) {r : State}
    (hk : (if !(mayKeep (endReq t p.core.toNat p.txn.toNat) p.core.toNat q) then
        dropFill (endReq t p.core.toNat p.txn.toNat) p.core.toNat q
      else serveAsks (installLine (endReq t p.core.toNat p.txn.toNat) p.core.toNat (pktLine p) 2 0 q.pkt.arena q.pkt.gen) p.core.toNat
        (pktLine p) q.secs true) = r) :
    exec (.gntx p) s = .next r := by
  refine (deliverIf_arrives h (decide_eq_true hop) _).trans (congrArg _ ?_)
  simp only [hq]
  exact hk

/-! ### Answers and refusals (R38, R40) -/

theorem exec_ack (h : Arrives s p t) (hop : p.op = 0x13) (hx : p.txn.toNat < 3072) (he : t.engReqs.any (engOf p) = false) :
    exec (.ack p) s = .next (dropEmpty (endReq t p.core.toNat p.txn.toNat) p.core.toNat (pktLine p)) :=
  (deliverIf_arrives h (decide_eq_true hop) _).trans
    (congrArg _ ((ite_of_false he).trans ((if_neg (by omega)).trans (if_neg (by omega)))))

theorem exec_nack (h : Arrives s p t) (hop : p.op = 0x14) (hd : sliceOfStop p.dst = none) (he : t.engReqs.any (engOf p) = false) :
    exec (.nack p) s = .next (t.updCore p.core.toNat (fun c => { c with reqs := c.reqs.map (fun r =>
      if decide (r.pkt.txn = p.txn) && decide (pktLine r.pkt = pktLine p) then { r with refused := true, due := backOff t p } else r) })) :=
  (deliverIf_arrives h (decide_eq_true hop) _).trans (congrArg _ ((if_neg (by simp [hd])).trans (ite_of_false he)))

theorem exec_requestRetry {k n : Nat} {r : Request} (hreqs : (s.core k).reqs = [r]) (hn : r.pkt.txn.toNat = n) (hlt : n < 3072)
    (href : r.refused = true) (hdue : r.due ≤ s.loopClock) :
    exec (.requestRetry k n) s =
      .next (send (s.updCore k (fun h => { h with reqs := [{ r with refused := false }] })) r.pkt) := by
  have hmay : mayResend s k r = true := by
    subst hn
    simp [mayResend, hlt]
  show execRequestRetry k n s = _
  have hhit : (decide (r.pkt.txn.toNat = n) && r.refused && decide (r.due ≤ s.loopClock) && mayResend s k r) = true := by
    simp [hn, href, hdue, hmay]
  simp only [execRequestRetry, hreqs, List.find?_cons, hhit]
  simp only [State.updCore, hreqs, replaceFirst, hhit, if_true]

theorem exec_reservationLapse {k : Nat} {v : Nat × Nat × Nat} (hv : find s.resv k = some v) :
    exec (.reservationLapse k) s = .next (if v.2.2 + 4096 ≤ s.loopClock then lapse s k else s) := by
  show execReservationLapse k s = _
  simp only [execReservationLapse, hv, resvOver, decide_eq_true_eq]

theorem exec_unassignedMessage (h : anyArrival s p = some t) (hop : opClass p.op.toNat ≠ some p.cls.toNat ∨ p.op = 0x0A ∧ 8 < lockCode p) :
    exec (.unassignedMessage p) s =
      .next (wakeIf { t with errors := t.errors ++ [p.dst.toNat / 32] } (.mgmt (p.dst.toNat / 32))) := by
  refine (if_pos hop).trans ?_
  rw [h]
  rfl

/-! ### Control messages at a core (R38 to R40) -/

theorem exec_dwn_owner (h : Arrives s p t) (hop : p.op = 0x21) (hr : p.regn ≠ 1) (hs : ((t.core p.core.toNat).line (pktLine p)).st = 2) :
    exec (.dwn p) s = .next (send
      (t.updCore p.core.toNat (fun c => c.setLine (pktLine p) { (t.core p.core.toNat).line (pktLine p) with st := 1, dirty := 0 }))
      (rcdPkt t p.core.toNat (pktLine p) ((t.core p.core.toNat).line (pktLine p)).dirty p)) :=
  (deliverIf_arrives h (decide_eq_true hop) _).trans (congrArg _ ((if_neg hr).trans (if_pos hs)))

theorem exec_rcl {l : L1Line} (h : Arrives s p t) (hop : p.op = 0x22) (hl : find (t.core p.core.toNat).l1 (pktLine p) = some l) :
    exec (.rcl p) s = .next (send (flushLine t p.core.toNat (pktLine p)) (rcdPkt t p.core.toNat (pktLine p) (dirtySectors l) p)) := by
  refine (deliverIf_arrives h (decide_eq_true hop) _).trans ?_
  simp only [hl]

/-! ### Page flushes (R43) -/

theorem exec_pflr {f : Flush} (h : Asks s p t) (hop : p.op = 0x0B) (hf : flushOf t p.core.toNat p.grp.toNat = some f) :
    exec (.pflr p) s = .next (sendPfl t f (pktLine p)) := by
  refine (askedIf_asks h (decide_eq_true hop) _).trans ?_
  simp only [hf]

theorem exec_pfl {f : Flush} (h : Arrives s p t) (hop : p.op = 0x24) (hroom : pflRoom s p = true) (hf : flushFor t p = some f) :
    exec (.pfl p) s = .next (send
      (((t.core p.core.toNat).l1.filter (fun e => inPage f.page f.size (homeOfLine (pktLine p)) e.1)).foldl
        (fun u e => giveUpLine u p.core.toNat e.1) (markFills t p.core.toNat (inPage f.page f.size (homeOfLine (pktLine p)))))
      (answerTo p 0x18)) := by
  refine (deliverIf_arrives h (by simp [hop, hroom]) _).trans ?_
  simp only [hf, pflLines, List.foldl_map]

theorem exec_packMessage {f : Flush} (h : Arrives s p t) (hop : p.op = 0x18) (hf : flushFor t p = some f) {left : List (Nat × Nat)}
    (hleft : left = f.cores.filter (fun e => !(decide (e = (homeOfLine (pktLine p), p.core.toNat))))) {t1 r : State}
    (h1 : t1 = setFlush t f.core f.slot (fun g => { g with cores := left }))
    (hr : (if left.any (fun e => decide (e.1 = homeOfLine (pktLine p))) then t1
      else if 256 ≤ f.core then setFlush (clearPage t1 f.page f.size (homeOfLine (pktLine p))) f.core f.slot
        (fun g => { g with homes := g.homes.filter (fun k => decide (k ≠ homeOfLine (pktLine p))) })
      else send (clearPage t1 f.page f.size (homeOfLine (pktLine p))) (flushAck f (pktLine p))) = r) :
    exec (.packMessage p) s = .next r := by
  subst hleft h1
  refine (deliverIf_arrives h (decide_eq_true hop) _).trans (congrArg _ ?_)
  simp only [hf]
  exact hr

end

/-- Settles O38: each message that arrives has the effect of its case, and the page flush goes on at each step. -/
theorem fabricRepliesComplete : Obligations.FabricRepliesComplete := by
  unfold Obligations.FabricRepliesComplete
  refine ⟨?_, ?_⟩
  · intro s t p q k n line c t1 ts tx
    refine ⟨fun h hq => ⟨fun hop hd => ⟨fun hk hb hr => ?_, fun hk => ?_⟩, fun hop hx he => ⟨fun hk hr => ?_, fun hk hr hg => ?_, fun hk => ?_⟩,
      fun hop => ⟨fun hk => ?_, fun hk => ?_⟩⟩, fun h => ⟨exec_ack h, exec_nack h, ?_, ?_, ?_, exec_dwn_owner h, ?_, fun l => exec_rcl h, ?_⟩,
      fun r => exec_requestRetry, fun v hv => ⟨fun hle => ?_, fun hlt => ?_⟩, exec_unassignedMessage⟩
    · exact (exec_dats h hop hd).trans (congrArg _ (takeDats_keep hq hk hb hr))
    · exact (exec_dats h hop hd).trans (congrArg _ (takeDats_drop hq hk))
    · exact exec_datx h hop hx he hq ((ite_of_false ((Bool.not_eq_false' _).mpr hk)).trans (if_pos hr))
    · exact exec_datx h hop hx he hq ((ite_of_false ((Bool.not_eq_false' _).mpr hk)).trans ((if_neg hr).trans (ite_of_false hg)))
    · exact exec_datx h hop hx he hq (if_pos ((Bool.not_eq_true' _).mpr hk))
    · exact exec_gntx h hop hq (ite_of_false ((Bool.not_eq_false' _).mpr hk))
    · exact exec_gntx h hop hq (if_pos ((Bool.not_eq_true' _).mpr hk))
    · exact fun hop => deliverIf_arrives h (decide_eq_true hop) _
    · exact fun hop => deliverIf_arrives h (decide_eq_true hop) _
    · exact fun hop => deliverIf_arrives h (decide_eq_true hop) _
    · exact fun hop hr => (deliverIf_arrives h (decide_eq_true hop) _).trans (congrArg _ (if_pos hr))
    · exact fun hop => deliverIf_arrives h (decide_eq_true hop) _
    · exact (exec_reservationLapse hv).trans (congrArg _ (if_pos hle))
    · exact (exec_reservationLapse hv).trans (congrArg _ (if_neg (by omega)))
  · intro s t p f line home
    refine ⟨exec_pflr, exec_pfl, fun h hop hf => ⟨fun hl => ?_, fun hl hc => ?_, fun hl hc => ?_⟩⟩
    · exact exec_packMessage h hop hf rfl rfl (if_pos hl)
    · exact exec_packMessage h hop hf rfl rfl ((ite_of_false hl).trans (if_neg (by omega)))
    · exact exec_packMessage h hop hf rfl rfl ((ite_of_false hl).trans (if_pos hc))

end Sys2Proof.Machine
end

section
/-! PROOFS. The steps of the ordering machine: loads, drains, write queues and write-backs (R173 to R177, R190). -/
namespace Sys2Proof.Machine

section
variable {s t : State} {p : Packet} {core slot acc : Nat} {a : Access}

/-- An access of a group is outstanding and may be performed now (R179). -/
def Access.Ready (a : Access) (s : State) (core slot acc : Nat) : Prop :=
  accOf (s.group core slot) acc = some a ∧ a.perf = false ∧ a.sent = false ∧ mayPerform (s.group core slot).accs a = true

/-! ### Loads (R173, R190) -/

/-- A load that may be performed, of the scratchpad or of a line that no other group has locked. -/
theorem load_may (h : a.Ready s core slot acc) (hk : a.kind = .load) (hl : a.scr = true ∨ heldByOther s core slot (lineOf a.addr) = false) :
    (decide (a.kind = .load) && !a.perf && mayPerform (s.group core slot).accs a && (a.scr || !(heldByOther s core slot (lineOf a.addr)))) =
      true := by
  obtain ⟨-, hp, -, hm⟩ := h
  rcases hl with hl | hl <;> simp [hk, hp, hm, hl]

theorem exec_load (h : a.Ready s core slot acc) (hk : a.kind = .load) (hl : a.scr = true ∨ heldByOther s core slot (lineOf a.addr) = false) :
    exec (.load core slot acc false) s = .next (finishAccess
      (arriveDatum (if a.acq then selfInv (placeLoad (prepareLoad s core a) core a) core else placeLoad (prepareLoad s core a) core a)
        core slot a (loadBytes (prepareLoad s core a) core slot a)) core slot a) := by
  show execLoad core slot acc false s = _
  simp only [execLoad, h.1, load_may h hk hl, if_true, Bool.false_and, Bool.false_eq_true, if_false]

theorem exec_load_soft (h : a.Ready s core slot acc) (hk : a.kind = .load) (hl : a.scr = true ∨ heldByOther s core slot (lineOf a.addr) = false)
    (hh : (s.group core slot).halt = none) (he : (s.group core slot).ended = false) (hs : a.scr = false)
    (hw : writtenAt s a.addr a.size = true) :
    exec (.load core slot acc true) s = .next (accessFault s core slot a cSOFTERR) := by
  have hsoft : (true && !a.scr && !(s.group core slot).ended && writtenAt s a.addr a.size) = true := by simp [hs, he, hw]
  show execLoad core slot acc true s = _
  simp only [execLoad, h.1, load_may h hk hl, if_true, hsoft, hh, Option.isNone_none]

/-! ### Drains (R175, R176) -/

/-- An access that may be performed, and that no other group's lock holds back, drains. -/
theorem exec_drain_ready (h : a.Ready s core slot acc) (hl : a.scr = true ∨ heldByOther s core slot (lineOf a.addr) = false) :
    (a.kind = .store → exec (.drain core slot acc) s = .next (drainStore s core slot a)) ∧
    (∀ o, a.kind = .atomic o → exec (.drain core slot acc) s = .next (drainAtomic s core slot 0x08 o a)) := by
  obtain ⟨ha, hp, hn, hm⟩ := h
  have hgo : (a.sent || a.perf || !(mayPerform (s.group core slot).accs a)) = false := by simp [hp, hn, hm]
  have hfree : (isStoreLike a && !a.scr && decide (a.addr < 2 ^ 40) && heldByOther s core slot (lineOf a.addr)) = false := by
    rcases hl with hl | hl <;> simp [hl]
  refine ⟨fun hk => ?_, fun o hk => ?_⟩ <;>
    · show execDrain core slot acc s = _
      simp only [execDrain, ha, hgo, hfree, hk, Bool.false_eq_true, if_false]

theorem drainStore_stale (hs : a.scr = false) (h : accStale s core a = true) : drainStore s core slot a = finishAccess s core slot a :=
  (ite_of_false hs).trans (if_pos h)

theorem drainStore_ready {k : State} (hs : a.scr = false) (hst : accStale s core a = false) (hw : writesThrough s core a = false)
    (hm : a.mail = false) (hk : storeReady s core a = some k) :
    drainStore s core slot a = finishAccess (storeGlobal k core a) core slot a := by
  refine (ite_of_false hs).trans ((ite_of_false hst).trans ((ite_of_false hw).trans ?_))
  simp only [hk]
  exact ite_of_false hm

theorem drainStore_asks (hs : a.scr = false) (hst : accStale s core a = false) (hw : writesThrough s core a = false)
    (hk : storeReady s core a = none) : drainStore s core slot a = askOwned s core slot a := by
  refine (ite_of_false hs).trans ((ite_of_false hst).trans ((ite_of_false hw).trans ?_))
  simp only [hk]

/-! ### Requests at the home (R38, R167, R176) -/

/-- A request of an access whose line may be served. -/
theorem accessMessage_served (op : Nat) {o : BitVec 6} (h : Asks s p t) (hm : mayServe t p (pktLine p) = true) (hop : p.op = o)
    (ho : o.toNat = op) (k : State → State) :
    accessMessage s op p k = .next (k (serviced t (pktLine p))) :=
  (askedIf_asks h (decide_eq_true ((congrArg BitVec.toNat hop).trans ho)) _).trans (congrArg _ (if_pos hm))

/-- The bytes that a WRB of a group's store writes at the home of its line: none where its pair is stale. -/
def wrbWritten (t : State) (p : Packet) : State :=
  if staleAt t (pktLine p) p.arena p.gen then t
  else (bitsOf (p.inl.extractLsb' 0 256)).foldl (fun u i => writeLive (retake u (pktLine p * 256 + i) 1) (pktLine p * 256 + i)
    [p.data.getD (pktLine p * 256 + i - (pktLine p * 256 + 64 * lowest p.smask)) 0] p.arena p.gen) t

theorem exec_wrb_group (h : Asks s p t) (hm : mayServe t p (pktLine p) = true) (hop : p.op = 0x04) (he : engPkt p = false)
    (hacc : accOfPkt (serviced t (pktLine p)) p = some acc)
    (ha : accOf ((wrbWritten (serviced t (pktLine p)) p).group p.core.toNat p.grp.toNat) acc = some a) :
    exec (.wrb p) s = .next (send (storeMailed (finishAccess (wrbWritten (serviced t (pktLine p)) p) p.core.toNat p.grp.toNat a) a)
      (ackPkt (pktLine p) p 0)) := by
  have hb : (accOfPkt (serviced t (pktLine p)) p).bind
      (accOf ((wrbWritten (serviced t (pktLine p)) p).group p.core.toNat p.grp.toNat)) = some a := by rw [hacc]; exact ha
  show execWrb p s = _
  unfold execWrb
  refine (accessMessage_served 4 h hm hop rfl _).trans (congrArg _ ((ite_of_false he).trans ?_))
  unfold wrbWritten at hb
  simp only [hb]
  rfl

theorem exec_ares_group (h : Arrives s p t) (hop : p.op = 0x17) (hd : portOfStop? p.dst = none) (hacc : accOfPkt t p = some acc)
    (ha : accOf ((endReq t p.core.toNat p.txn.toNat).group p.core.toNat p.grp.toNat) acc = some a) :
    exec (.ares p) s = .next ((arriveDatum (endReq t p.core.toNat p.txn.toNat) p.core.toNat p.grp.toNat a
      (toBytes (p.inl.extractLsb' 0 32) 4)).updGroup p.core.toNat p.grp.toNat (fun g => dropAccess g a)) := by
  have hb : (accOfPkt t p).bind (accOf ((endReq t p.core.toNat p.txn.toNat).group p.core.toNat p.grp.toNat)) = some a := by
    rw [hacc]; exact ha
  refine (deliverIf_arrives h (decide_eq_true hop) _).trans (congrArg _ ((if_neg (by simp [hd])).trans ?_))
  simp only [hb]

/-! ### Write queues and write-backs (R176, R177) -/

theorem exec_wqperf {line : Nat} {e : WqEntry} (hf : s.wq.find? (fun f => decide (lineOf f.addr = line)) = some e)
    (hh : wqHeld s e = false) (hs : wqSoft s e = none) {u : State}
    (hu : u = { s with wq := removeFirst (fun f => decide (lineOf f.addr = line)) s.wq }) :
    exec (.wqperf line) s = .next (wqReply (wqApply u e).2 e (wqApply u e).1) := by
  subst hu
  show execWqperf line s = _
  simp only [execWqperf, hf, hh, hs, Bool.false_eq_true, if_false]

theorem exec_wback {line : Nat} (hd : dropPending s (homeOfLine line) (linePair s line).1.toNat = false)
    (hl : find (writeBack s line).l2 line = none) : exec (.wback line) s = .next (writeBack s line) := by
  refine (ite_of_false hd).trans ?_
  simp only [hl]

theorem exec_discard_unowned {word : Nat} {l : L1Line} (hl : find (s.core core).l1 (word / 64) = some l) (hk : l.kind = 1)
    (ho : bit l.owned (word % 64) = false) :
    exec (.discard core word) s = .next (s.updCore core (fun h => h.setLine (word / 64)
      { l with held := l.held &&& ~~~(maskOf 256 ((List.range 4).map (fun i => 4 * (word % 64) + i)))
               sectors := l.sectors &&& ~~~(maskOf 4 [word % 64 / 16]) })) := by
  have h3 : ¬(l.kind = 3 ∨ l.kind = 2 ∧ l.written = 0) := by simp [hk]
  have h1 : l.kind = 1 ∧ (!(bit l.owned (word % 64))) = true := ⟨hk, by rw [ho]; rfl⟩
  show execDiscard core word s = _
  simp only [execDiscard, hl, if_neg h3, if_pos h1]

end

/-- Settles O39: each access that may be performed, each request at its home and each write-back takes the branch of its case. -/
theorem accessesPerform : Obligations.AccessesPerform := by
  unfold Obligations.AccessesPerform
  intro s t p core slot acc line word a e g ready home served
  refine ⟨fun h hk hl => ⟨exec_load h hk hl, exec_load_soft h hk hl⟩, fun h hk hs => ?_, fun h hk hs hmail hl => ⟨fun hst => ?_,
    fun hst hw => ⟨fun k hr => ?_, fun hr => ?_⟩⟩, fun o h hk hs hl hr => ?_, fun h hm => ⟨fun hop => ?_, fun hop => ?_, fun hop he => ?_,
    fun hop he hacc => exec_wrb_group h hm hop he hacc⟩, fun h hop hd => ?_, exec_ares_group, fun hf hh hs => exec_wqperf hf hh hs rfl,
    fun ho => if_pos ho, rfl, exec_wback, fun l => exec_discard_unowned⟩
  · exact ((exec_drain_ready h (.inl hs)).1 hk).trans (congrArg _ (if_pos hs))
  · exact ((exec_drain_ready h (.inr hl)).1 hk).trans (congrArg _ (drainStore_stale hs hst))
  · exact ((exec_drain_ready h (.inr hl)).1 hk).trans (congrArg _ (drainStore_ready hs hst hw hmail hr))
  · exact ((exec_drain_ready h (.inr hl)).1 hk).trans (congrArg _ (drainStore_asks hs hst hw hr))
  · exact ((exec_drain_ready h (.inr hl)).2 o hk).trans (congrArg _ (if_pos hr))
  · show execFabricAtom p s = _
    unfold execFabricAtom
    exact accessMessage_served 8 h hm hop rfl _
  · show execRedn p s = _
    unfold execRedn
    exact accessMessage_served 9 h hm hop rfl _
  · show execWrb p s = _
    unfold execWrb
    exact (accessMessage_served 4 h hm hop rfl _).trans (congrArg _ (if_pos he))
  · exact (deliverIf_arrives h (decide_eq_true hop) _).trans (congrArg _ (if_pos hd))

end Sys2Proof.Machine
end

section
/-! PROOFS. The steps of engines: copies, matrix stores and decoders (R153 to R155, R159, R160, R182, R316). -/
namespace Sys2Proof.Machine

/-! ### Copies (R153, R154, R182) -/

section
variable {s : State} {c k : Nat} {y : Copy} {pa : Nat} {ar : BitVec 12} {gn : BitVec 4} {rg : BitVec 2}

theorem exec_read_copy (h : find (s.core c).copies k = some y) : exec (.read (.copy c k)) s = .next (copyRead s c k y) := by
  show execRead (.copy c k) s = _
  simp only [execRead, h]

theorem exec_land_copy (h : find (s.core c).copies k = some y) : exec (.land (.copy c k)) s = .next (copyLand s c k y) := by
  show execLand (.copy c k) s = _
  simp only [execLand, h]

theorem exec_finish_copy (h : find (s.core c).copies k = some y) : exec (.finish (.copy c k)) s = .next (copyFinish s c k y) := by
  show execFinish (.copy c k) s = _
  simp only [execFinish, h]

/-- A READ from memory whose checks pass, of a line that nothing holds back (R182). -/
theorem copyRead_memory (hr : copyRuns s y = true) (ho : copyOrdered s c y = true) (hlt : y.rd < copyLen y) (hs : srcScr (copyDir y) = false)
    (hc : check s c (instRoot s y.inst) (copyVa (copySrc y + y.rd)) 4 .read = .ok pa ar gn rg) (hh : heldLine s (lineOf pa) = false)
    (hl : landsFirst s c y (lineOf pa) = false) {n : Nat} (hn : n = Nat.min (256 - (copySrc y + y.rd) % 256) (copyLen y - y.rd)) {a : Access}
    (ha : a = { Access.zero with addr := pa, size := n, arena := ar, gen := gn, regn := rg }) {s1 : State}
    (h1 : s1 = wakeHomes (prepareLoad s c a) pa n) :
    copyRead s c k y = setCopy (placeLoad s1 c a) c k
      { y with rd := y.rd + n, buf := y.buf ++ (List.range n).map (fun i => coreByte s1 c (pa + i)) } := by
  subst hn ha h1
  have hgo : (!(copyRuns s y) || !(copyOrdered s c y) || decide (copyLen y ≤ y.rd)) = false := by simp [hr, ho, hlt]
  have hfree : (heldLine s (lineOf pa) || landsFirst s c y (lineOf pa)) = false := by rw [hh, hl]; rfl
  refine (ite_of_false hgo).trans ((ite_of_false hs).trans ?_)
  simp only [hc]
  exact ite_of_false hfree

/-- A LAND has bytes to write where READ has fetched its line. -/
theorem land_may (hr : copyRuns s y = true) (h0 : copyRem y ≠ 0) {n : Nat} (hn : n ≤ y.buf.length) :
    (!(copyRuns s y) || decide (copyRem y = 0) || decide (y.buf.length < n)) = false := by
  simp [hr, h0, hn]

theorem copyLand_scratch (hr : copyRuns s y = true) (h0 : copyRem y ≠ 0) {o n : Nat} (hat : o = copyDst y + (copyLen y - copyRem y))
    (hn : n = Nat.min (256 - o % 256) (copyRem y)) (hb : n ≤ y.buf.length) (hd : dstScr (copyDir y) = true)
    (hc : scrPages s c y.inst o n = .ok pa ar gn rg) :
    copyLand s c k y = setCopy (writeScratch (pinRange s c y.inst o n) c y.inst o (y.buf.take n)) c k (copyLanded y n) := by
  subst hn hat
  refine (ite_of_false (land_may hr h0 hb)).trans ((if_pos hd).trans ?_)
  simp only [hc]

theorem copyLand_memory (hr : copyRuns s y = true) (h0 : copyRem y ≠ 0) {o n : Nat} (hat : o = copyDst y + (copyLen y - copyRem y))
    (hn : n = Nat.min (256 - o % 256) (copyRem y)) (hb : n ≤ y.buf.length) (hd : dstScr (copyDir y) = false)
    (hc : check s c (instRoot s y.inst) (copyVa o) 4 .write = .ok pa ar gn rg) (hh : heldLine s (lineOf pa) = false) :
    copyLand s c k y = setCopy (sendEng
      (if staleAt s (lineOf pa) ar gn then s else writeLive (retake s pa n) pa (y.buf.take n) ar gn)
      (copyWrb c k y pa (y.buf.take n) ar gn rg) (.copy c k)) c k (copyLanded y n) := by
  subst hn hat
  refine (ite_of_false (land_may hr h0 hb)).trans ((ite_of_false hd).trans ?_)
  simp only [hc]
  exact ite_of_false hh

theorem issuerLives_of_group {t : State} (h : t.group c (copyGrp y) = s.group c (copyGrp y)) : issuerLives t c y = issuerLives s c y := by
  unfold issuerLives
  rw [h]

/-- The core of a copy that has ended: its count is one lower, its tag's bit is set with the last one, and its slot is free. -/
def copyEnded (h : Core) (k tag : Nat) (left : BitVec 16) : Core :=
  { h with tagCnt := zset h.tagCnt tag left, tags := if left = 0 then h.tags ||| maskOf 64 [tag] else h.tags, copies := del h.copies k }

/-- A FINISH with neither barrier, mailbox nor event leaves the count of its tag and of its group (R154). -/
theorem copyFinish_plain (hr : copyRuns s y = true) (h0 : copyRem y = 0) (he : engBusy s (.copy c k) = false) (hb : copyBar y = 0)
    (hm : copyMail y = false) (hi : issuerLives s c y = true) (ht : 8 ≤ copyTag y) :
    copyFinish s c k y = (s.updCore c (fun h => copyEnded h k (copyTag y) (zget (s.core c).tagCnt (copyTag y) - 1))).updGroup c (copyGrp y)
      (fun g => g.countCp y.op) := by
  have hgo : (!(copyRuns s y) || decide (copyRem y ≠ 0) || engBusy s (.copy c k)) = false := by simp [hr, h0, he]
  have htag : ∀ {q : Prop}, ¬(q ∧ copyTag y < 8) := by omega
  have hlives : issuerLives (s.updCore c (fun h => copyEnded h k (copyTag y) (zget (s.core c).tagCnt (copyTag y) - 1))) c y = true :=
    (issuerLives_of_group (by rw [State.group, core_updCore]; rfl)).trans hi
  unfold copyEnded at hlives
  refine (ite_of_false hgo).trans ?_
  simp only [copyCredit, hb, if_true, copyOwes, copyMailed, hm, Bool.not_false, Bool.true_or, htag, if_false, hlives]
  rfl

end

/-! ### Matrix stores (R316) -/

section
variable {s : State} {c k : Nat} {m : MStore}

theorem exec_land_mstore (h : ((s.core c).part k).mstore = some m) {i : Nat} {ws : List Word} {r : List (Nat × List Word)} {o : UnitOp}
    (ho : ((s.core c).part k).munit.head? = some o) (hr : m.rows = (i, ws) :: r) :
    exec (.land (.mstore c k)) s = .next (showRows (setMstore (writeScratch s c m.inst (m.off + 256 * i)
      (ws.flatMap (fun w => toBytes w 4))) c k (some { m with rows := r })) c o [(i, ws, 0)]) := by
  obtain ⟨l, hl⟩ := List.head?_eq_some_iff.mp ho
  show execLand (.mstore c k) s = _
  simp only [execLand, h, mstoreLand, hr, hl]

theorem exec_finish_mstore (h : ((s.core c).part k).mstore = some m) (hr : m.rows = []) (hb : m.bar = none) :
    exec (.finish (.mstore c k)) s = .next (pulseFor ((s.updCore c (fun h =>
      h.setPart k { h.part k with munit := (h.part k).munit.drop 1, mstore := none })).updGroup c m.slot
      (fun g => if g.inst = m.inst then g.countMx m.op else g)) c m.inst 24) := by
  have hgo : (!m.rows.isEmpty) = false := by rw [hr]; rfl
  show execFinish (.mstore c k) s = _
  simp only [execFinish, h, mstoreFinish, hgo, hb, Bool.false_eq_true, if_false]

end

/-! ### Decoders (R159, R160) -/

section
variable {s t : State} {k : Nat} {x : Submission} {pa : Nat} {ar : BitVec 12} {gn : BitVec 4} {rg : BitVec 2}

theorem exec_decoder (h : (decQueue s k).head? = some x) :
    exec (.read (.decoder k)) s = .next (decoderRead s k x) ∧ exec (.land (.decoder k)) s = .next (decoderLand s k x) ∧
      exec (.finish (.decoder k)) s = .next (decoderFinish s k x) := by
  obtain ⟨l, hl⟩ := List.head?_eq_some_iff.mp h
  refine ⟨?_, ?_, ?_⟩
  · show execRead (.decoder k) s = _
    simp only [execRead, hl]
  · show execLand (.decoder k) s = _
    simp only [execLand, hl]
  · show execFinish (.decoder k) s = _
    simp only [execFinish, hl]

/-- A decoder may read the next part of its bitstream. -/
theorem read_may (hi : instRuns s x.inst = true) (hf : x.fault = false) (hn : (streamNext x).2 ≠ 0) :
    (x.fault || decide ((streamNext x).2 = 0) || !(instRuns s x.inst)) = false := by
  simp [hi, hf, hn]

theorem decoderRead_fault (hi : instRuns s x.inst = true) (hf : x.fault = false) (hn : (streamNext x).2 ≠ 0) {z : BitVec 8} {a : BitVec 12}
    (hc : checkNow s x.core (instRoot s x.inst) (streamNext x).1 1 .read = .fault z a) :
    decoderRead s k x = setHead s k { x with fault := true } := by
  refine (ite_of_false (read_may hi hf hn)).trans ?_
  simp only [hc]

theorem decoderRead_reads (hi : instRuns s x.inst = true) (hf : x.fault = false) (hn : (streamNext x).2 ≠ 0)
    (hc : checkNow s x.core (instRoot s x.inst) (streamNext x).1 1 .read = .ok pa ar gn rg) (hh : heldLine s (lineOf pa) = false)
    (hs : softAt s pa (streamNext x).2 = false) :
    decoderRead s k x = setHead (fillL2 s (lineOf pa) ar gn) k { x with stream := x.stream ++ homeBytes s pa (streamNext x).2 } := by
  refine (ite_of_false (read_may hi hf hn)).trans ?_
  simp only [hc]
  exact (ite_of_false hh).trans (ite_of_false hs)

theorem decoderLand_lands (hi : instRuns s x.inst = true) (hp : x.pos < x.landed.length) {o n : Nat}
    (hat : o = x.dst + x.done * x.landed.length + x.pos) (hn : n = Nat.min (256 - o % 256) (x.landed.length - x.pos))
    (hc : scrPages s x.dcore x.inst o n = .ok pa ar gn rg) :
    decoderLand s k x = setHead (writeScratch (pinRange s x.dcore x.inst o n) x.dcore x.inst o ((x.landed.drop x.pos).take n)) k
      { x with pos := x.pos + n } := by
  subst hn hat
  have hgo : (decide (x.landed.length ≤ x.pos) || !(instRuns s x.inst)) = false := by simp [hi, hp]
  refine (ite_of_false hgo).trans ?_
  simp only [hc]

theorem decoderFinish_credits (hi : instRuns s x.inst = true) (hl : x.landed ≠ []) (hp : x.landed.length ≤ x.pos)
    (hc : decodeCredit s x x.landed.length false = .ok t) : decoderFinish s k x = frameOver t k x false := by
  have hgo : (x.landed.isEmpty || decide (x.pos < x.landed.length) || !(instRuns s x.inst)) = false := by simp [hi, hl, hp]
  refine (ite_of_false hgo).trans ?_
  simp only [decodeCredited, hc]

/-- A frame of the stream has been read, and its herd runs. -/
theorem landing_may (hi : instRuns s x.inst = true) (hr : frameRead x = true) : (!(frameRead x) || !(instRuns s x.inst)) = false := by
  simp [hi, hr]

theorem exec_frameLanding_skips {data : List Byte} (h : (decQueue s k).head? = some x) (hi : instRuns s x.inst = true) (hr : frameRead x = true)
    (hlt : x.seen < x.f0) (hd : data = []) : exec (.frameLanding k data) s = .next (setHead s k { x with seen := x.seen + 1 }) := by
  obtain ⟨l, hl⟩ := List.head?_eq_some_iff.mp h
  subst hd
  show execFrameLanding k [] s = _
  simp only [execFrameLanding, hl, landing_may hi hr, skipsFrame, hlt, decide_true, Bool.false_eq_true, if_true, if_false, List.isEmpty_nil]

theorem exec_frameLanding_lands {data : List Byte} (h : (decQueue s k).head? = some x) (hi : instRuns s x.inst = true) (he : x.landed = []) (hr : frameRead x = true)
    (hle : x.f0 ≤ x.seen) (hd : data ≠ []) (hlen : data.length = frameBytes x false) (hdeep : x.deep ≠ some true)
    (hw : windowFits s x false = true) :
    exec (.frameLanding k data) s = .next (setHead s k { x with deep := some false, landed := data, pos := 0 }) := by
  obtain ⟨l, hl⟩ := List.head?_eq_some_iff.mp h
  have hskip : skipsFrame x = false := by simpa [skipsFrame] using hle
  have hne : data.isEmpty = false := by simpa using hd
  have hlen' : decide (data.length ≠ frameBytes x false) = false := by simp [hlen]
  show execFrameLanding k data s = _
  simp only [execFrameLanding, hl, landing_may hi hr, hskip, Bool.false_eq_true, if_false]
  cases hx : x.deep with
  | none => simp [hlen, he, hw, hne]
  | some b =>
    cases b with
    | false => simp [hlen, he, hw, hne]
    | true => exact absurd hx hdeep

theorem errorHere_of {boff : BitVec 32} {ecode : BitVec 8}
    (h : if x.fault then ecode = 4 ∧ boff.toNat = x.stream.length else ecode ≠ 4 ∧ boff.toNat ≤ x.stream.length) :
    errorHere x boff ecode = true := by
  unfold errorHere
  split at h
  · simp [*]
  · simpa [*] using h

theorem exec_frameDecodeFailure (h : (decQueue s k).head? = some x) (hi : instRuns s x.inst = true) (he : x.landed = []) (hle : x.f0 ≤ x.seen)
    (hdeep : x.deep = some false) (hw : windowFits s x false = true) {boff : BitVec 32} {ecode : BitVec 8} (h1 : 1 ≤ ecode.toNat)
    (h4 : ecode.toNat ≤ 4) (herr : errorHere x boff ecode = true) (hc : decodeCredit s x (frameBytes x false) true = .ok t) :
    exec (.frameDecodeFailure k boff ecode) s = .next (frameOver (writeRecord t (instRegion t x.inst)
      (decodeRecord t x k boff (frameBytes x false) ecode)) k { x with deep := some false, failed := true } false) := by
  obtain ⟨l, hl⟩ := List.head?_eq_some_iff.mp h
  have hskip : skipsFrame x = false := by simpa [skipsFrame] using hle
  have h0 : ecode ≠ 0#8 := by rintro rfl; exact absurd h1 (by decide)
  have h5 : ecode ≠ 5#8 := by rintro rfl; exact absurd h4 (by decide)
  have hlt : ¬5 < ecode.toNat := by omega
  show execFrameDecodeFailure k boff ecode s = _
  simp [execFrameDecodeFailure, hl, hdeep, hw, he, herr, h0, h5, hlt, hi, hskip, decodeCredited, hc]

end

/-- Settles O40: each step of an engine whose conditions hold takes its branch. -/
theorem enginesStep : Obligations.EnginesStep := by
  unfold Obligations.EnginesStep
  intro s t c k y x m pa ar gn rg data boff ecode
  refine ⟨fun hf hr => ⟨fun ho hlt hs => ?_, fun h0 hb => ⟨fun hd hc => ?_, fun hd hc hh => ?_⟩, fun h0 he hb hm hi ht => ?_⟩,
    fun h => ⟨fun i ws r o => exec_land_mstore h, exec_finish_mstore h⟩,
    fun h hi => ⟨fun hf hn => ⟨fun z a hc => ?_, fun hc hh hs => ?_⟩, exec_frameLanding_skips h hi, exec_frameLanding_lands h hi,
      fun hp hc => ?_, fun hl hp hc => ?_, fun he hle hd hw h1 h4 herr hc => ?_⟩⟩
  · intro va n a s1 hc hh hl
    exact (exec_read_copy hf).trans (congrArg _ (copyRead_memory hr ho hlt hs hc hh hl rfl rfl rfl))
  · exact (exec_land_copy hf).trans (congrArg _ (copyLand_scratch hr h0 rfl rfl hb hd hc))
  · exact (exec_land_copy hf).trans (congrArg _ (copyLand_memory hr h0 rfl rfl hb hd hc hh))
  · exact (exec_finish_copy hf).trans (congrArg _ (copyFinish_plain hr h0 he hb hm hi ht))
  · exact (exec_decoder h).1.trans (congrArg _ (decoderRead_fault hi hf hn hc))
  · exact (exec_decoder h).1.trans (congrArg _ (decoderRead_reads hi hf hn hc hh hs))
  · exact (exec_decoder h).2.1.trans (congrArg _ (decoderLand_lands hi hp rfl rfl hc))
  · exact (exec_decoder h).2.2.trans (congrArg _ (decoderFinish_credits hi hl hp hc))
  · exact exec_frameDecodeFailure h hi he hle hd hw h1 h4 (errorHere_of herr) hc

end Sys2Proof.Machine
end

section
/-! PROOFS. The task instructions (R75, R85, R358 to R362). -/
namespace Sys2Proof.Machine

/-! ### Admission and its work -/

section
variable {s : State} {sh : Shape}

theorem throughAll_sameCourse {n : Nat} (at_ : Nat) (y : BitVec n) (l : List (Nat × Nat)) (u : State) :
    SameCourse (l.foldl (fun v f => throughBits v at_ y f.1 f.2) u) u :=
  SameCourse.foldl (f := fun v (p : Nat × Nat) => throughBits v at_ y p.1 p.2) (fun v p => throughBits_sameCourse v at_ y p.1 p.2) l u

theorem admitRegion_sameCourse (t : State) (r : Nat) (x : BitVec 2048) : SameCourse (admitRegion t r x) t := by
  have hput : ∀ e : Tbl Region, SameCourse { t with regions := e } t := fun e => sameCourse_of_cores rfl rfl rfl
  unfold admitRegion
  exact (throughAll_sameCourse _ _ rcbWritten _).trans (hput _)

theorem admitPath_sameCourse {t u : State} {r : Nat} (h : admitPath t r = some u) : SameCourse u t := by
  unfold admitPath at h
  cases hc : chainOf t 17 r with
  | none => simp only [hc] at h; cases h
  | some l =>
    have hfold : SameCourse (l.reverse.foldl (fun v e => admitRegion v e.1 e.2) t) t :=
      SameCourse.foldl (fun v (e : Nat × BitVec 2048) => admitRegion_sameCourse v e.1 e.2) _ t
    simp only [hc] at h
    generalize l.reverse.foldl (fun v e => admitRegion v e.1 e.2) t = v at h hfold
    split at h
    · cases h
      exact hfold
    · cases h

theorem countLive_sameCourse (t : State) (r : Nat) : SameCourse (countLive t r) t := by
  unfold countLive
  dsimp only
  split
  · exact (setRegion_sameCourse _ _ _ _ _).trans (setRegion_sameCourse _ _ _ _ _)
  · exact setRegion_sameCourse _ _ _ _ _

theorem uncountLive_sameCourse (t : State) (r : Nat) : SameCourse (uncountLive t r) t := by
  unfold uncountLive
  dsimp only
  split
  · exact (setRegion_sameCourse _ _ _ _ _).trans (setRegion_sameCourse _ _ _ _ _)
  · exact setRegion_sameCourse _ _ _ _ _

theorem admitCore_sameCourse {t u : State} {k : Nat} {x : BitVec 1024} {w : Option Nat} {m : Bool} (h : admitCore t k x w m = some u) :
    SameCourse u t := by
  have hentered : ∀ (v : State) (e : Tbl Task), SameCourse { v with tasks := e } v := fun v e => sameCourse_of_cores rfl rfl rfl
  unfold admitCore at h
  split at h
  · cases h
  · cases hp : admitPath t (tRcb x) with
    | none => simp only [hp] at h; cases h
    | some v =>
      simp only [hp] at h
      generalize (effDieMask v (tRcb x) = 0 || !(_ : Bool) : Bool) = refused at h
      split at h
      · cases h
      · obtain rfl := Option.some.inj h
        exact (countLive_sameCourse _ _).trans ((throughAll_sameCourse _ _ tcbReset _).trans ((hentered _ _).trans (admitPath_sameCourse hp)))

theorem setTaskState_sameCourse (t : State) (k v : Nat) : SameCourse (setTaskState t k v) t := setTask_sameCourse t k _ _ _

theorem doReady_sameCourse (t : State) (k : Nat) : SameCourse (doReady t k).1 t := by
  have hready : ∀ a, SameCourse (setTaskState (setTask (takeAge t (readyDie t k)) k 319 256 a) k 1) t := fun a =>
    (setTaskState_sameCourse _ _ _).trans ((setTask_sameCourse _ _ _ _ _).trans (setDie_sameCourse t _ _))
  unfold doReady
  dsimp only
  split
  · exact hready _
  · exact (pushReady_sameCourse _ _ _).trans (hready _)

theorem doDone_sameCourse (t : State) (k : Nat) : SameCourse (doDone t k).1 t := by
  have hdrop : ∀ u : State, SameCourse (dropInsts u k) u := fun u => sameCourse_of_cores rfl rfl rfl
  exact (hdrop _).trans ((uncountLive_sameCourse _ _).trans ((setTask_sameCourse _ _ _ _ _).trans (setTaskState_sameCourse t k 3)))

theorem writeRecord_sameCourse (t : State) (r : Nat) (x : BitVec 512) : SameCourse (writeRecord t r x) t := by
  unfold writeRecord
  dsimp only
  split
  · exact .refl t
  · split
    · exact setRegion_sameCourse _ _ _ _ _
    · exact (setRegion_sameCourse _ _ _ _ _).trans (hwWrite_sameCourse _ _ _)

theorem doDec_sameCourse (t : State) (k : Nat) : SameCourse (doDec t k).1 t := by
  unfold doDec
  split
  · dsimp only
    split
    · exact writeRecord_sameCourse _ _ _
    · exact setTask_sameCourse _ _ _ _ _
  · dsimp only
    split
    · exact writeRecord_sameCourse _ _ _
    · dsimp only
      exact hwWrite_sameCourse t _ _

theorem launchSlot_sameCourse (t : State) (k : Nat) (b : Mailbox) (n : Nat) (o : BitVec 32) : SameCourse (launchSlot t k b n o).1 t := by
  unfold launchSlot
  dsimp only
  generalize fput (fput (fput (readTcb t b.tmpl) 416 416 0) 895 864 o.toNat) 863 832 (o.toNat + 1) = x
  have hw := hwWrite_sameCourse t (n * 128) (toBytes x 128)
  generalize hwWrite t (n * 128) (toBytes x 128) = u at hw ⊢
  cases hc : admitCore u n x none true with
  | none => exact (writeRecord_sameCourse _ _ _).trans hw
  | some v => exact (admitCore_sameCourse hc).trans hw

theorem doPump_sameCourse (t : State) (k : Nat) : SameCourse (doPump t k).1 t := by
  have hset : ∀ b, SameCourse (setMailbox t k b) t := fun b => sameCourse_of_cores rfl rfl rfl
  unfold doPump
  split
  · exact .refl t
  · split
    · exact (launchSlot_sameCourse _ _ _ _ _).trans (hset _)
    · exact .refl t

theorem runWork_sameCourse (n : Nat) (t : State) (l : List Work) : SameCourse (runWork n t l) t := by
  induction n generalizing t l with
  | zero => exact .refl t
  | succ n ih =>
    cases l with
    | nil => exact .refl t
    | cons w r =>
      refine (ih _ _).trans ?_
      cases w with
      | ready k => exact doReady_sameCourse t k
      | done k => exact doDone_sameCourse t k
      | dec k => exact doDec_sameCourse t k
      | pump k => exact doPump_sameCourse t k

theorem admitTask_sameCourse {t u : State} {k : Nat} {x : BitVec 1024} {w : Option Nat} (h : admitTask t k x w = some u) : SameCourse u t := by
  unfold admitTask at h
  obtain ⟨v, hv, e⟩ := Option.map_eq_some_iff.mp h
  rw [← e]
  exact (runWork_sameCourse _ _ _).trans (admitCore_sameCourse hv)

theorem raisePend_sameCourse (t : State) (k : Nat) : SameCourse (raisePend t k) t := by
  unfold raisePend
  split
  · exact setTask_sameCourse _ _ _ _ _
  · exact hwWrite_sameCourse _ _ _

theorem addDependency_sameCourse (t : State) (k q : Nat) : SameCourse (addDependency t k q).2 t := by
  unfold addDependency
  cases find t.tasks k with
  | none => exact .refl t
  | some x =>
    dsimp only
    split_ifs
    · exact .refl t
    · exact .refl t
    · exact .refl t
    · exact .refl t
    · exact (setTask_sameCourse _ _ _ _ _).trans ((setTask_sameCourse _ _ _ _ _).trans (raisePend_sameCourse _ _))

theorem setMailbox_sameCourse (t : State) (k : Nat) (b : Mailbox) : SameCourse (setMailbox t k b) t := sameCourse_of_cores rfl rfl rfl

theorem unbindLine_sameCourse (t : State) (line : Nat) : SameCourse (unbindLine t line).2 t := by
  unfold unbindLine
  split
  · exact .refl t
  · exact sameCourse_of_cores rfl rfl rfl

theorem bindLine_sameCourse (t : State) (line k : Nat) (qs : List Nat) : SameCourse (bindLine t line k qs).2 t := by
  unfold bindLine
  dsimp only
  split
  · exact .refl t
  · split
    · exact .refl t
    · split
      · exact .refl t
      · exact setMailbox_sameCourse _ _ _

/-! ### Blocks that an instruction names -/

/-- The checks of a block pass, and it may be read where the instruction reads it (R179, R190, R191). -/
theorem blockAt_passes {va : BitVec 64} {size pa : Nat} {need : Need} {rd : Bool} {ar : BitVec 12} {gn : BitVec 4} {rg : BitVec 2}
    (hc : check s.begins s.focus.core (instRoot s.begins s.cur.inst) va size need = .ok pa ar gn rg)
    (hr : rd = true → blockHeld s.begins (startCtx s sh) pa size = false ∧ softAt s.begins pa size = false) :
    blockAt s.begins (startCtx s sh) va size need rd = .ok pa := by
  have hc' : check s.begins (startCtx s sh).core (instRoot s.begins (startCtx s sh).src.inst) va size need = .ok pa ar gn rg := hc
  have hheld : (rd && blockHeld s.begins (startCtx s sh) pa size) = false := by
    cases rd with
    | false => rfl
    | true => exact (hr rfl).1
  have hsoft : (rd && softAt s.begins pa size) = false := by
    cases rd with
    | false => rfl
    | true => exact (hr rfl).2
  simp only [blockAt, hc', hheld, hsoft, Bool.false_eq_true, if_false]

/-- An instruction whose block passes goes on with it. -/
theorem orElse_block {va : BitVec 64} {size pa : Nat} {need : Need} {rd : Bool} {ar : BitVec 12} {gn : BitVec 4} {rg : BitVec 2}
    (hc : check s.begins s.focus.core (instRoot s.begins s.cur.inst) va size need = .ok pa ar gn rg)
    (hr : rd = true → blockHeld s.begins (startCtx s sh) pa size = false ∧ softAt s.begins pa size = false) (k : Nat → State) :
    (blockAt s.begins (startCtx s sh) va size need rd).orElse s s.begins k = k pa := by
  rw [blockAt_passes hc hr]
  rfl

/-- An instruction that acts once goes on from the state of its effect, and then writes its scalar. -/
theorem commitOnce_writes (h : Starts s sh) {t : State} (ht : SameCourse t s.begins) (d : BitVec 8) (v : State → Word) :
    commitOnce (startCtx s sh) t (fun u => u.updCur (fun g => writeScal g d (v u))) = s.ends (t.updCur (fun g => writeScal g d (v t))) :=
  commitOnce_keeps h (f := fun u => u.updCur (fun g => writeScal g d (v u))) ht ((updCur_sameCourse t (writeScal_course _ d _)).trans ht)

/-! ### The instructions -/

theorem exec_tspawn {d a : BitVec 8} {pa : Nat} {ar : BitVec 12} {gn : BitVec 4} {rg : BitVec 2} {u : State}
    (hsh : sh = onceShape (isScal d && isScalPair a) [d, a, a + 1] [a, a + 1]) (h : Starts s sh) (ht : taking s sh ≠ 0)
    (hc : check s.begins s.focus.core (instRoot s.begins s.cur.inst) (s.cur.s64 a) 128 .both = .ok pa ar gn rg)
    (hr : blockHeld s.begins (startCtx s sh) pa 128 = false ∧ softAt s.begins pa 128 = false)
    (hu : admitTask s.begins (pa / 128) (readTcb s.begins (pa / 128)) (some (instRegion s.begins s.cur.inst)) = some u) :
    exec (.tspawn d a) s = .next (s.ends (u.updCur (fun g => writeScal g d (BitVec.ofNat 32 (tState (u.tcb (pa / 128))))))) := by
  have hu' : admitTask (s.setCur (begun s)) (pa / 128) (readTcb (s.setCur (begun s)) (pa / 128))
    (some (instRegion (s.setCur (begun s)) (startCtx s sh).src.inst)) = some u := hu
  show execTspawn d a s = _
  rw [execTspawn, ← hsh, startGroup_starts h]
  refine congrArg _ ((if_neg ht).trans ((orElse_block hc (fun _ => hr) _).trans ?_))
  simp only [hu']
  exact commitOnce_writes h (admitTask_sameCourse hu) d (fun v => BitVec.ofNat 32 (tState (v.tcb (pa / 128))))

theorem exec_tdep {d a b : BitVec 8} {pa qa : Nat} {ar br : BitVec 12} {gn bn : BitVec 4} {rg bg : BitVec 2}
    (hsh : sh = onceShape (isScal d && isScalPair a && isScalPair b) [d, a, a + 1, b, b + 1] [a, a + 1, b, b + 1])
    (h : Starts s sh) (ht : taking s sh ≠ 0)
    (hc : check s.begins s.focus.core (instRoot s.begins s.cur.inst) (s.cur.s64 a) 128 .both = .ok pa ar gn rg)
    (hc' : check s.begins s.focus.core (instRoot s.begins s.cur.inst) (s.cur.s64 b) 128 .both = .ok qa br bn bg)
    (hr : blockHeld s.begins (startCtx s sh) pa 128 = false ∧ softAt s.begins pa 128 = false)
    (hr' : blockHeld s.begins (startCtx s sh) qa 128 = false ∧ softAt s.begins qa 128 = false) :
    exec (.tdep d a b) s = .next (s.ends ((addDependency s.begins (pa / 128) (qa / 128)).2.updCur (fun g =>
      writeScal g d (BitVec.ofNat 32 (addDependency s.begins (pa / 128) (qa / 128)).1)))) := by
  subst hsh
  show execTdep d a b s = _
  rw [execTdep, startGroup_starts h]
  refine congrArg _ ((if_neg ht).trans ((orElse_block hc (fun _ => hr) _).trans ((orElse_block hc' (fun _ => hr') _).trans ?_)))
  exact commitOnce_writes h (addDependency_sameCourse _ _ _) d (fun _ => _)

/-- The checks of MBXREG's line pass; the instruction unbinds it, or goes on to the template and the pool. -/
theorem exec_mbxreg {d a b : BitVec 8} {pa : Nat} {ar : BitVec 12} {gn : BitVec 4} {rg : BitVec 2}
    (hsh : sh = onceShape (isScal d && isScalPair a && isScal b && alignedTo 4 b) (d :: a :: (a + 1) :: runOf b 4) (a :: (a + 1) :: runOf b 4))
    (h : Starts s sh) (ht : taking s sh ≠ 0)
    (hc : check s.begins s.focus.core (instRoot s.begins s.cur.inst) (s.cur.s64 a) 256 .read = .ok pa ar gn rg) :
    (s.cur.s64 b = 0 → exec (.mbxreg d a b) s =
      .next (s.ends ((unbindLine s.begins (lineOf pa)).2.updCur (fun g => writeScal g d (unbindLine s.begins (lineOf pa)).1)))) ∧
    (∀ {ta : Nat} {br : BitVec 12} {bn : BitVec 4} {bg : BitVec 2} {qs : List Nat} {pool : BitVec 64},
      pool = ((s.cur.s (b + 3)).setWidth 16 ++ s.cur.s (b + 2) : BitVec (16 + 32)).signExtend 64 → s.cur.s64 b ≠ 0 →
      check s.begins s.focus.core (instRoot s.begins s.cur.inst) (s.cur.s64 b) 128 .read = .ok ta br bn bg →
      poolAt s.begins (startCtx s sh) pool (fnat (s.cur.s (b + 3)) 31 24 + 1) = .ok qs →
      blockHeld s.begins (startCtx s sh) ta 128 = false ∧ softAt s.begins ta 128 = false →
      exec (.mbxreg d a b) s = .next (s.ends ((bindLine s.begins (lineOf pa) (ta / 128) qs).2.updCur
        (fun g => writeScal g d (bindLine s.begins (lineOf pa) (ta / 128) qs).1)))) := by
  subst hsh
  refine ⟨fun hb => ?_, fun {ta br bn bg qs pool} hpool hb hct hp hr => ?_⟩
  · show execMbxreg d a b s = _
    rw [execMbxreg]
    dsimp only
    rw [startGroup_starts h]
    refine congrArg _ ((if_neg ht).trans ((orElse_block hc (fun e => absurd e (by decide)) _).trans ((if_pos hb).trans ?_)))
    exact commitOnce_writes h (unbindLine_sameCourse _ _) d (fun _ => _)
  · subst hpool
    show execMbxreg d a b s = _
    rw [execMbxreg]
    dsimp only
    rw [startGroup_starts h]
    refine congrArg _ ((if_neg ht).trans ((orElse_block hc (fun e => absurd e (by decide)) _).trans ((if_neg hb).trans
      ((orElse_block hct (fun _ => hr) _).trans ?_))))
    refine (congrArg (fun r : Res (List Nat) => r.orElse s s.begins _) hp).trans ?_
    exact commitOnce_writes h (bindLine_sameCourse _ _ _ _) d (fun _ => _)

end

/-- Settles O42: the blocks that each form names pass their checks, and its effect on the tasks leaves the course of the instruction. -/
theorem taskInstructionsComplete : Obligations.TaskInstructionsComplete := by
  unfold Obligations.TaskInstructionsComplete
  intro s u d a b pa qa ta qs ar br gn bn rg bg c root checks puts ready
  refine ⟨fun h ht hc hr hu => exec_tspawn rfl h ht hc hr hu, fun h ht => ⟨?_, fun hg => ?_, fun hg => ?_⟩,
    fun h ht hc hc' hr hr' => exec_tdep rfl h ht hc hc' hr hr',
    fun h ht hc => ⟨(exec_mbxreg rfl h ht hc).1, fun hb hct hp hr => (exec_mbxreg rfl h ht hc).2 rfl hb hct hp hr⟩⟩
  · show execTdoneFinal d s = _
    rw [execTdoneFinal, startGroup_starts h]
    exact congrArg _ ((if_neg ht).trans (enterWait_starts _))
  · show execTdoneGrain d s = _
    rw [execTdoneGrain, startGroup_starts h]
    exact congrArg _ ((if_neg ht).trans ((if_pos hg).trans (commitScal_starts h d 0 none)))
  · show execTdoneGrain d s = _
    rw [execTdoneGrain, startGroup_starts h]
    exact congrArg _ ((if_neg ht).trans ((if_neg hg).trans (enterWait_starts _)))

end Sys2Proof.Machine
end

section
/-! PROOFS. The commands of the sessions (R47, R50 to R53, R59, R62 to R66, R91, R161, R408 to R411). -/
namespace Sys2Proof.Machine

section
variable {s t u : State} {n : Nat} {m : Msg}

/-- A session's command may run: its header is in order, the device is READY, and no replay refuses it (R49, R55, R66). -/
structure LetsRun (u : State) (m : Msg) : Prop where
  header : badHeader m = false
  ready : u.boot.state = 4
  live : u.recorder.mode ≠ 2

theorem LetsRun.gates (h : LetsRun u m) (n : Nat) (hu : unseqCode m.cmd.toNat = false) (hd : deviceCode m.cmd.toNat = false)
    (hk : knownCode m.cmd.toNat = true) :
    (badHeader m || unseqCode m.cmd.toNat || deviceCode m.cmd.toNat) = false ∧ (!(bootLets u m)) = false ∧ (!(knownCode m.cmd.toNat)) = false ∧
      (decide (u.recorder.mode = 2) && decide (n ≠ replaySession) && !(replayLets m.cmd.toNat)) = false := by
  obtain ⟨hb, hs, hl⟩ := h
  simp only [hb, hu, hd, hk, bootLets, hs, decide_eq_false hl]
  exact ⟨rfl, rfl, rfl, rfl⟩

/-- The command that each assigned code runs (R53). -/
theorem runCommand_code (h : LetsRun u m) (n : Nat) :
    (m.cmd = 0x04 → runCommand u n m = .gone (restartBoot u)) ∧ (m.cmd = 0x05 → runCommand u n m = runMemwr u n m) ∧
    (m.cmd = 0x06 → runCommand u n m = runMemrd u m.arg0.toNat m.arg1.toNat) ∧ (m.cmd = 0x07 → runCommand u n m = runPtwr u n m) ∧
    (m.cmd = 0x08 → runCommand u n m = runArtwr u m.arg0.toNat m.payload) ∧ (m.cmd = 0x09 → runCommand u n m = runCbwr u n m) ∧
    (m.cmd = 0x0A → runCommand u n m = runLaunch u m.arg0.toNat m.arg1.toNat) ∧ (m.cmd = 0x0B → runCommand u n m = runMail u n m) ∧
    (m.cmd = 0x0D → runCommand u n m = runPreempt u n m) ∧ (m.cmd = 0x0E → runCommand u n m = runQuery u m.arg0.toNat) ∧
    (m.cmd = 0x0F → runCommand u n m = runAttest u m.payload) ∧ (m.cmd = 0x10 → runCommand u n m = runRecctl u n m) ∧
    (m.cmd = 0x21 → runCommand u n m = runRecall u m) ∧ (m.cmd = 0x22 → runCommand u n m = runPginv u m) ∧
    (m.cmd = 0x23 → runCommand u n m = .bad u stBADARG) ∧ (m.cmd = 0x24 → runCommand u n m = runPgxfer u m) ∧
    (m.cmd = 0x25 → runCommand u n m = .bad u stBADARG) ∧ (m.cmd = 0x26 → runCommand u n m = runPgrefuse u m) ∧
    (m.cmd = 0x27 → runCommand u n m = .bad u stBADARG) := by
  refine ⟨?_, ?_, ?_, ?_, ?_, ?_, ?_, ?_, ?_, ?_, ?_, ?_, ?_, ?_, ?_, ?_, ?_, ?_, ?_⟩ <;>
    · intro hc
      obtain ⟨h1, h2, h3, h4⟩ := h.gates n (by rw [hc]; rfl) (by rw [hc]; rfl) (by rw [hc]; rfl)
      unfold runCommand
      rw [ite_of_false h1, ite_of_false h2, ite_of_false h3, ite_of_false h4, hc]
      rfl

theorem runCommand_memwr (h : LetsRun u m) (n : Nat) (hc : m.cmd = 0x05) : runCommand u n m = runMemwr u n m := by
  obtain ⟨-, run, -⟩ := runCommand_code h n
  exact run hc

theorem runCommand_ptwr (h : LetsRun u m) (n : Nat) (hc : m.cmd = 0x07) : runCommand u n m = runPtwr u n m := by
  obtain ⟨-, -, -, run, -⟩ := runCommand_code h n
  exact run hc

theorem runCommand_cbwr (h : LetsRun u m) (n : Nat) (hc : m.cmd = 0x09) : runCommand u n m = runCbwr u n m := by
  obtain ⟨-, -, -, -, -, run, -⟩ := runCommand_code h n
  exact run hc

theorem runCommand_mail (h : LetsRun u m) (n : Nat) (hc : m.cmd = 0x0B) : runCommand u n m = runMail u n m := by
  obtain ⟨-, -, -, -, -, -, -, run, -⟩ := runCommand_code h n
  exact run hc

theorem runCommand_unknown (h : LetsRun u m) (n : Nat) (hk : knownCode m.cmd.toNat = false) : runCommand u n m = .bad u stBADCMD := by
  have hd : deviceCode m.cmd.toNat = false := by
    unfold knownCode at hk
    exact (Bool.or_eq_false_iff.mp hk).2
  have hu : unseqCode m.cmd.toNat = false := by
    simp only [knownCode, Bool.or_eq_false_iff, Bool.and_eq_false_iff, decide_eq_false_iff_not] at hk
    simp only [unseqCode, List.contains_eq_mem, List.mem_cons, List.not_mem_nil, or_false, decide_eq_false_iff_not]
    omega
  have h1 : (badHeader m || unseqCode m.cmd.toNat || deviceCode m.cmd.toNat) = false := by rw [h.header, hu, hd]; rfl
  have h2 : (!(bootLets u m)) = false := by rw [bootLets, h.ready]; rfl
  exact (ite_of_false h1).trans ((ite_of_false h2).trans (if_pos ((Bool.not_eq_true' _).mpr hk)))

theorem runCommand_device (n : Nat) (hd : deviceCode m.cmd.toNat = true) : runCommand u n m = .bad u stBADARG :=
  if_pos (by rw [hd, Bool.or_true])

/-! ### A command in its turn -/

theorem InTurn.letsRun (h : InTurn s n m t) : LetsRun t m := by
  obtain ⟨-, -, hb, hs, hr, -, -, -, -, -, -, -, -, -, rfl⟩ := h
  exact ⟨hb, hs, hr⟩

theorem InTurn.recorder (h : InTurn s n m t) : t.recorder = s.recorder := by
  obtain ⟨-, -, -, -, -, -, -, -, -, -, -, -, -, -, rfl⟩ := h
  rfl

theorem command_inTurn (h : InTurn s n m t) {c : Nat} (hc : m.cmd.toNat = c) : command s m c = .next (pump 31 (runTurn t n m) n) :=
  arrival_inTurn h _ (by rw [h.2.1, hc]; simp)

theorem runTurn_reply (hi : isReply m = false) {v : State} {stat arg0 : Nat} {bs : List Byte} (hr : runCommand u n m = .reply v stat arg0 bs) :
    runTurn u n m = acceptMsg v n m stat arg0 bs := by
  have hno : (isReply m && !(badHeader m)) = false := by rw [hi]; rfl
  refine (ite_of_false hno).trans ?_
  simp only [hr]

theorem runTurn_wait (hi : isReply m = false) {v : State} (hr : runCommand u n m = .wait v) :
    runTurn u n m = setSession v n { v.session n with running := some m } := by
  have hno : (isReply m && !(badHeader m)) = false := by rw [hi]; rfl
  refine (ite_of_false hno).trans ?_
  simp only [hr]

theorem runTurn_gone (hi : isReply m = false) {v : State} (hr : runCommand u n m = .gone v) : runTurn u n m = v := by
  have hno : (isReply m && !(badHeader m)) = false := by rw [hi]; rfl
  refine (ite_of_false hno).trans ?_
  simp only [hr]

/-- A command in its turn that is answered, that waits, and that ends the sessions. -/
theorem command_replies (h : InTurn s n m t) {c : Nat} (hc : m.cmd.toNat = c) {v : State} {stat arg0 : Nat} {bs : List Byte}
    (hr : runCommand t n m = .reply v stat arg0 bs) : command s m c = .next (accepted v n m stat arg0 bs) :=
  (command_inTurn h hc).trans (by rw [runTurn_reply h.2.1 hr]; rfl)

theorem command_waits (h : InTurn s n m t) {c : Nat} (hc : m.cmd.toNat = c) {v : State} (hr : runCommand t n m = .wait v) :
    command s m c = .next (pump 31 (setSession v n { v.session n with running := some m }) n) :=
  (command_inTurn h hc).trans (by rw [runTurn_wait h.2.1 hr])

/-! ### Commands that write memory -/

/-- The payload of a command goes out as WRBs, for which it waits. -/
theorem writes_sends {len : Nat} {k : State → Ran} (hw : (u.session n).wrote = false) (hf : portHeld u m.arg0.toNat len true = false) :
    writes u n m len k =
      .wait (portWrite (setSession u n { u.session n with wrote := true }) m.port m.arg0.toNat m.payload (.session n)) :=
  (ite_of_false hw).trans (ite_of_false hf)

/-- Every WRB of a command has been acknowledged, and it goes on. -/
theorem writes_goesOn {len : Nat} {k : State → Ran} (hw : (u.session n).wrote = true) (hb : engBusy u (.session n) = false) :
    writes u n m len k = k u :=
  (if_pos hw).trans (ite_of_false hb)

theorem runMemwr_writes (hg : guarded m.arg0.toNat m.payload.length = false) (hi : inMemory m.arg0.toNat m.payload.length = true) :
    runMemwr u n m = writes u n m m.payload.length Ran.ok :=
  (ite_of_false hg).trans (ite_of_false ((Bool.not_eq_false' _).mpr hi))

/-- The further effect of a PTWR: its CBSYNCs, once no write queue holds anything of a page that a new leaf maps. -/
def ptwrEffect (m : Msg) (t : State) : Ran :=
  if (ptwrEntries m.arg0.toNat m.payload).any (fun e => isLeafPte e.2 && !(queueClear t (ptePage e.2) (pteSize e.2))) then .wait t
  else .ok ((ptwrEntries m.arg0.toNat m.payload).foldl (fun u e => syncPte u e.1 e.2) t)

theorem blockRule_gate {unit : Nat} (hr : blockRule m.arg0.toNat m.payload.length unit = true)
    (hg : guarded m.arg0.toNat m.payload.length = false) :
    (!(blockRule m.arg0.toNat m.payload.length unit) || guarded m.arg0.toNat m.payload.length) = false := by
  rw [hr, hg]
  rfl

theorem runPtwr_writes (hr : blockRule m.arg0.toNat m.payload.length 8 = true) (hg : guarded m.arg0.toNat m.payload.length = false)
    (hi : inMemory m.arg0.toNat m.payload.length = true) : runPtwr u n m = writes u n m m.payload.length (ptwrEffect m) :=
  (ite_of_false (blockRule_gate hr hg)).trans (ite_of_false ((Bool.not_eq_false' _).mpr hi))

theorem runCbwr_writes (hr : blockRule m.arg0.toNat m.payload.length 128 = true) (hg : guarded m.arg0.toNat m.payload.length = false)
    (hi : inMemory m.arg0.toNat m.payload.length = true) :
    runCbwr u n m = writes u n m m.payload.length (fun t => .ok ((cbwrAddrs m.arg0.toNat m.payload.length).foldl syncBlock t)) :=
  (ite_of_false (blockRule_gate hr hg)).trans (ite_of_false ((Bool.not_eq_false' _).mpr hi))

/-- The further effect of a MAIL: its launch into a free slot. -/
def mailEffect (k : Nat) (b : Mailbox) (j : Nat) (t : State) : Ran := .ok (settleWork (arriveAt t k b j).1 (arriveAt t k b j).2)

theorem runMail_writes {k j : Nat} {b : Mailbox} (ha : m.arg0.toNat % 256 = 0) (hl : m.payload.length ≤ 256)
    (hb : mailboxOf u (m.arg0.toNat / 256) = some (k, b)) (hf : freeMailSlot u b = some j) :
    runMail u n m = writes u n m 256 (mailEffect k b j) := by
  refine (if_neg (by omega)).trans ?_
  simp only [hb, hf]
  rfl

/-! ### Other commands -/

theorem runMemrd_reads {pa l : Nat} (h1 : 1 ≤ l) (h2 : l ≤ 4064) (hi : inMemory pa l = true) (hf : portHeld u pa l false = false)
    (hs : softAt u pa l = false) : runMemrd u pa l = .reply (wakeHomes u pa l) stOK 0 (homeBytes u pa l) :=
  (if_neg (by omega)).trans ((ite_of_false ((Bool.not_eq_false' _).mpr hi)).trans ((ite_of_false hf).trans (ite_of_false hs)))

theorem runArtwr_writes {a : Nat} {bs : List Byte} {v : State} (h16 : bs.length % 16 = 0) (h0 : bs.length ≠ 0) (hle : a + bs.length / 16 ≤ 4096)
    (hv : artwrAll u a ((List.range (bs.length / 16)).map (fun i => ofBytes 128 ((bs.drop (16 * i)).take 16))) = some v) :
    runArtwr u a bs = .ok v := by
  have hgo : (decide (bs.length % 16 ≠ 0) || decide (bs.length / 16 = 0) || decide (4096 < a + bs.length / 16)) = false := by
    simp only [Bool.or_eq_false_iff, decide_eq_false_iff_not]
    omega
  refine (ite_of_false hgo).trans ?_
  simp only [hv]

theorem runLaunch_admits {rcb tcb : Nat} {v : State} (hr : rcb % 256 = 0) (ht : tcb % 128 = 0) (hi : inMemory rcb 256 = true)
    (hj : inMemory tcb 128 = true) (hf : portHeld u tcb 128 false = false) (hx : tRcb (readTcb u (tcb / 128)) * 256 = rcb)
    (hv : admitTask u (tcb / 128) (readTcb u (tcb / 128)) none = some v) : runLaunch u rcb tcb = .ok v := by
  have hgo : (!(inMemory rcb 256) || !(inMemory tcb 128)) = false := by rw [hi, hj]; rfl
  refine (if_neg (by omega)).trans ((ite_of_false hgo).trans ((ite_of_false hf).trans ((if_neg (not_not.mpr hx)).trans ?_)))
  simp only [hv]

/-- A PREEMPT of an admitted region, with no pre-emption in progress: by the state of its region (R91). -/
theorem runPreempt_by_state (ha : m.arg0.toNat % 256 = 0) (hr : (find u.regions (m.arg0.toNat / 256)).isSome = true) (hp : u.preempts = []) :
    (rState (u.rcb (m.arg0.toNat / 256)) = 3 → runPreempt u n m = .ok u) ∧
    (rState (u.rcb (m.arg0.toNat / 256)) = 0 → runPreempt u n m = .ok (startPreempt u (m.arg0.toNat / 256) 3)) ∧
    (rState (u.rcb (m.arg0.toNat / 256)) = 1 → runPreempt u n m = .wait { startPreempt u (m.arg0.toNat / 256) 2 with
      preempts := (startPreempt u (m.arg0.toNat / 256) 2).preempts ++
        [{ rcb := m.arg0.toNat / 256, die := m.port / 2, sess := some (n, m) }] }) := by
  have hgo : ¬(m.arg0.toNat % 256 ≠ 0 ∨ (find u.regions (m.arg0.toNat / 256)).isNone = true) := by
    rw [← Option.not_isSome, hr]
    simp [ha]
  have hnone : u.preempts.any (fun p => decide (p.sess = some (n, m))) = false := by rw [hp]; rfl
  refine ⟨fun h => ?_, fun h => ?_, fun h => ?_⟩
  · exact (if_neg hgo).trans ((ite_of_false hnone).trans (if_pos h))
  · exact (if_neg hgo).trans ((ite_of_false hnone).trans ((if_neg (by omega)).trans ((if_neg (by omega)).trans (if_pos h))))
  · exact (if_neg hgo).trans ((ite_of_false hnone).trans ((if_neg (by omega)).trans ((if_neg (by omega)).trans (if_neg (by omega)))))

theorem runQuery_answers {pa : Nat} (ha : pa % 256 = 0) (hr : (find u.regions (pa / 256)).isSome = true) :
    runQuery u pa = .reply u stOK 0 (queryBytes u (pa / 256)) := by
  refine if_neg ?_
  rw [← Option.not_isSome, hr]
  simp [ha]

/-! ### RECCTL (R64, R66) -/

theorem runMode_ok (h : u.recorder.mode ≠ 3) (r : Recorder) : runMode u r = .ok { u with recorder := r } := if_neg h

theorem onRing_ok {base size : Nat} (h1 : ringOk base size = true) (h2 : guarded base size = false) (h3 : inMemory base size = true) (k : Ran) :
    onRing u base size k = k := by
  have hgo : (!(ringOk base size) || guarded base size) = false := by rw [h1, h2]; rfl
  exact (ite_of_false hgo).trans (ite_of_false ((Bool.not_eq_false' _).mpr h3))

/-- The ring that a RECCTL names may be used. -/
def RingOk (m : Msg) : Prop :=
  ringOk m.arg0.toNat (natOfBytes (m.payload.take 8)) = true ∧ guarded m.arg0.toNat (natOfBytes (m.payload.take 8)) = false ∧
    inMemory m.arg0.toNat (natOfBytes (m.payload.take 8)) = true

theorem runRecctl_by_mode (h : u.recorder.mode ≠ 3) :
    (m.arg1.toNat % 4 = 0 → runRecctl u n m = .ok { u with recorder := Recorder.reset }) ∧
    (m.arg1.toNat % 4 = 1 → m.payload.length = 8 → RingOk m → runRecctl u n m = .ok
      { u with recorder := { Recorder.reset with mode := 1, base := m.arg0.toNat, size := natOfBytes (m.payload.take 8) } }) ∧
    (m.arg1.toNat % 4 = 2 → m.payload.length = 16 → RingOk m → natOfBytes (m.payload.drop 8) ≠ 0 → runRecctl u n m = .ok
      { u with recorder := { Recorder.reset with
          mode := 2, base := m.arg0.toNat, size := natOfBytes (m.payload.take 8),
          count := BitVec.ofNat 64 (natOfBytes (m.payload.drop 8)), ctl := some (n, m) } }) ∧
    (m.arg1.toNat % 4 = 3 → runRecctl u n m = .bad u stBADARG) := by
  refine ⟨fun hm => ?_, fun hm hl hr => ?_, fun hm hl hr hc => ?_, fun hm => ?_⟩
  · simp only [runRecctl, hm]
    exact runMode_ok h _
  · simp only [runRecctl, hm]
    exact (if_neg (not_not.mpr hl)).trans ((onRing_ok hr.1 hr.2.1 hr.2.2 _).trans (runMode_ok h _))
  · simp only [runRecctl, hm, if_neg hc]
    exact (if_neg (not_not.mpr hl)).trans ((onRing_ok hr.1 hr.2.1 hr.2.2 _).trans (runMode_ok h _))
  · simp only [runRecctl, hm]

/-! ### Page messages (R45, R62, R63) -/

/-- The machine in which a page's hand-over has begun, its recalls sent where they may go out at once (R45 steps 1 to 3). -/
def handBegun (t : State) (a : Nat) (kind : HandKind) : State :=
  let s1 := setPage { t with hands := t.hands ++ [⟨a, kind, false⟩] } (a / 65536) { t.page (a / 65536) with trans := true }
  if queueClear t a 65536 && (flushOf t (mgmtOf a) 0).isNone then sendRecalls s1 a else s1

theorem runHand_begins {a : Nat} {kind : HandKind} (h : handOf u a = none) (l : Bool) (k : State → State) :
    runHand u a kind l k = .wait (handBegun u a kind) := by
  have hb : beginHand u a kind = setPage { u with hands := u.hands ++ [⟨a, kind, false⟩] } (a / 65536) { u.page (a / 65536) with trans := true } :=
    if_neg (by simp [h])
  have hone : handOf (setPage { u with hands := u.hands ++ [⟨a, kind, false⟩] } (a / 65536) { u.page (a / 65536) with trans := true }) a =
      some ⟨a, kind, false⟩ := by
    unfold handOf at h ⊢
    simp [setPage, List.find?_append, h]
  simp only [runHand, hb, hone, advanceHand, handReady, Bool.not_false, if_true, Bool.false_and, Bool.false_eq_true, if_false]
  rfl

theorem runHand_ends {a : Nat} {kind : HandKind} {hd : Hand} (h : handOf u a = some hd) (hr : handReady u hd = true) (k : State → State) :
    runHand u a kind false k = .ok (k u) := by
  have hb : beginHand u a kind = u := if_pos (by simp [h])
  have hdone : advanceHand u hd = u := by
    simp only [handReady, Bool.and_eq_true, Bool.not_eq_true'] at hr
    obtain ⟨⟨⟨hsent, hrec⟩, hstill⟩, hcopied⟩ := hr
    simp [advanceHand, hsent, hcopied]
  simp only [runHand, hb, h, hdone, hr, Bool.not_false, Bool.and_true, if_true]

theorem runRecall_runs (hp : pageArg m = true) (hs : (u.page (m.arg0.toNat / 65536)).state = 0) :
    runRecall u m = runHand u m.arg0.toNat (.give (m.arg1.toNat / 2) (bit m.arg1 0)) (pageLocked u m.arg0.toNat 65536)
      (fun t => handOver t m.arg0.toNat (m.arg1.toNat / 2) (bit m.arg1 0)) :=
  ite_of_false (by rw [hp, hs]; rfl)

theorem runPginv_runs (hp : pageArg m = true) (hs : (u.page (m.arg0.toNat / 65536)).state ≠ 0) :
    runPginv u m = runHand u m.arg0.toNat .drop (pageLocked u m.arg0.toNat 65536) (fun t => dropShared t m.arg0.toNat) :=
  ite_of_false (by simp only [hp, decide_eq_false hs]; rfl)

theorem runPgxfer_installs {j : Nat} {own : Bool} (hp : pageArg m = true) (hj : j ≤ 16) (ho : m.arg1.toNat / 2 = segOff j)
    (hl : m.payload.length = segLen j) (ha : (u.page (m.arg0.toNat / 65536)).asked = some own) :
    runPgxfer u m = .ok (installSegment u m.arg0.toNat j own m.payload) := by
  have hi : m.arg1.toNat / 2 / 4064 = j := by rw [ho, segOff]; omega
  have hgo : (!(pageArg m) || decide (m.arg1.toNat / 2 ≠ segOff j) || decide (16 < j) || decide (m.payload.length ≠ segLen j)) = false := by
    simp [hp, ho, hj, hl]
  simp only [runPgxfer, hi]
  refine (ite_of_false hgo).trans ?_
  simp only [ha]

theorem runPgrefuse_fails (hp : pageArg m = true) (ha : (u.page (m.arg0.toNat / 65536)).asked.isSome = true) :
    runPgrefuse u m = .ok (pageFails u (m.arg0.toNat / 65536)) := by
  refine (ite_of_false ((Bool.not_eq_false' _).mpr hp)).trans (if_neg ?_)
  rw [← Option.not_isSome, ha]
  decide

/-! ### Commands that act in their turn -/

/-- A command that writes memory goes on once its WRBs have been acknowledged: the conditions of that turn. -/
def Acked (u : State) (n : Nat) : Prop :=
  (u.session n).wrote = true ∧ engBusy u (.session n) = false ∧ u.boot.state = 4 ∧ u.recorder.mode ≠ 2

theorem Acked.letsRun (h : Acked u n) (hb : badHeader m = false) : LetsRun u m := ⟨hb, h.2.2.1, h.2.2.2⟩

/-- A command whose payload goes out as WRBs waits for them. -/
theorem command_sends (h : InTurn s n m t) {c : Nat} (hc : m.cmd.toNat = c) {len : Nat} {k : State → Ran} (hr : runCommand t n m = writes t n m len k)
    (hf : portHeld t m.arg0.toNat len true = false) (hw : (t.session n).wrote = false) {v : State}
    (hv : v = portWrite (setSession t n { t.session n with wrote := true }) m.port m.arg0.toNat m.payload (.session n)) :
    command s m c = .next (pump 31 (setSession v n { v.session n with running := some m }) n) := by
  subst hv
  exact command_waits h hc (hr.trans (writes_sends hw hf))

/-- The turn in which its effect follows. -/
theorem runTurn_goesOn (h : InTurn s n m t) (ha : Acked u n) {len : Nat} {k : State → Ran} (hr : runCommand u n m = writes u n m len k) {v : State}
    (hk : k u = .ok v) : runTurn u n m = acceptMsg v n m stOK 0 [] :=
  runTurn_reply h.2.1 (hr.trans ((writes_goesOn ha.1 ha.2.1).trans hk))

theorem recctl_replies (h : InTurn s n m t) (hc : m.cmd = 0x10) {k : Nat} (hk : m.arg1.toNat % 4 = k) {v : State} {stat arg0 : Nat}
    {bs : List Byte} (hr : runRecctl t n m = .reply v stat arg0 bs) : recctl s m k = .next (accepted v n m stat arg0 bs) := by
  obtain ⟨-, -, -, -, -, -, -, -, -, -, -, hrec, -⟩ := runCommand_code h.letsRun n
  refine (arrival_inTurn h _ (by simp [h.2.1, hc, hk])).trans ?_
  rw [runTurn_reply h.2.1 ((hrec hc).trans hr)]
  rfl

end

/-- Settles O47: each command in its turn runs, and is answered, waits or goes on by the lemma of its form. -/
theorem coltosCommandsComplete : Obligations.ColtosCommandsComplete := by
  unfold Obligations.ColtosCommandsComplete
  intro s t u n m b k j a len r ok answers free sends acked ends ring h
  obtain ⟨cReset, cMemwr, cMemrd, cPtwr, cArtwr, cCbwr, cLaunch, cMail, cPreempt, cQuery, cAttest, -, cRecall, cPginv, cPgiack, cPgxfer,
    cPgdone, cPgrefuse, cPgack⟩ := runCommand_code h.letsRun n
  have hcode : ∀ {c : BitVec 8} {i : Nat}, m.cmd = c → c.toNat = i → m.cmd.toNat = i := fun h1 h2 => (congrArg BitVec.toNat h1).trans h2
  refine ⟨fun hc hg hf => ⟨fun hw => ?memwr, fun ha => ?memwrEnds⟩, fun hc h1 h2 hf hs => ?memrd, fun hc hr hg hf => ⟨fun hw => ?ptwr,
    fun ha hq => ?ptwrEnds⟩, fun hc h16 h0 hle hv => ?artwr, fun hc hr hg hf => ⟨fun hw => ?cbwr, fun ha => ?cbwrEnds⟩,
    fun hc hr ht hi hf hx hv => ?launch, fun hc ha hl => ⟨fun hb hf hp hw => ?mail, fun hk hb hf => ?mailEnds⟩, fun hc ha hr hp => ?preempt,
    fun hc ha hr => ?query, fun hc hl => ?attest, fun hc hr => ?recctl, fun hp => ?page, fun hc => ?pgiack, fun hc => ?pgdone, fun hc => ?pgack,
    fun hc => ?reset, fun hk => ?bad, fun hd => ?device⟩
  case memwr => exact command_sends h (hcode hc rfl) ((cMemwr hc).trans (runMemwr_writes hg hf.1)) hf.2 hw rfl
  case memwrEnds =>
    exact runTurn_goesOn h ha ((runCommand_memwr (Acked.letsRun ha h.letsRun.header) n hc).trans (runMemwr_writes hg hf.1)) rfl
  case memrd => exact command_replies h (hcode hc rfl) ((cMemrd hc).trans (runMemrd_reads h1 h2 hf.1 hf.2 hs))
  case ptwr => exact command_sends h (hcode hc rfl) ((cPtwr hc).trans (runPtwr_writes hr hg hf.1)) hf.2 hw rfl
  case ptwrEnds =>
    exact runTurn_goesOn h ha ((runCommand_ptwr (Acked.letsRun ha h.letsRun.header) n hc).trans (runPtwr_writes hr hg hf.1))
      (ite_of_false hq)
  case artwr => exact command_replies h (hcode hc rfl) ((cArtwr hc).trans (runArtwr_writes h16 h0 hle hv))
  case cbwr => exact command_sends h (hcode hc rfl) ((cCbwr hc).trans (runCbwr_writes hr hg hf.1)) hf.2 hw rfl
  case cbwrEnds =>
    exact runTurn_goesOn h ha ((runCommand_cbwr (Acked.letsRun ha h.letsRun.header) n hc).trans (runCbwr_writes hr hg hf.1)) rfl
  case launch => exact command_replies h (hcode hc rfl) ((cLaunch hc).trans (runLaunch_admits hr ht hi hf.1 hf.2 hx hv))
  case mail => exact command_sends h (hcode hc rfl) ((cMail hc).trans (runMail_writes ha hl hb hf)) hp hw rfl
  case mailEnds =>
    exact runTurn_goesOn h hk
      ((runCommand_mail (Acked.letsRun hk h.letsRun.header) n hc).trans (runMail_writes ha hl hb hf)) rfl
  case preempt =>
    obtain ⟨h3, h0, h1⟩ := runPreempt_by_state (n := n) ha hr hp
    exact ⟨fun hs => command_replies h (hcode hc rfl) ((cPreempt hc).trans (h3 hs)),
      fun hs => command_replies h (hcode hc rfl) ((cPreempt hc).trans (h0 hs)),
      fun hs => command_waits h (hcode hc rfl) ((cPreempt hc).trans (h1 hs))⟩
  case query => exact command_replies h (hcode hc rfl) ((cQuery hc).trans (runQuery_answers ha hr))
  case attest => exact command_replies h (hcode hc rfl) ((cAttest hc).trans (if_neg (not_not.mpr hl)))
  case recctl =>
    obtain ⟨h0, h1, h2, h3⟩ := runRecctl_by_mode (n := n) (m := m) (u := t) (by rw [h.recorder]; exact hr)
    exact ⟨fun hm => recctl_replies h hc hm (h0 hm), fun hm hl ho => recctl_replies h hc hm (h1 hm hl ho),
      fun hm hl ho hn => recctl_replies h hc hm (h2 hm hl ho hn), fun hm => recctl_replies h hc hm (h3 hm)⟩
  case page =>
    refine ⟨⟨fun hc hs => ⟨fun hn => ?_, fun hd hh hr hl => ?_⟩, fun hc hs => ⟨fun hn => ?_, fun hd hh hr hl => ?_⟩⟩,
      fun own hc hj ho hl ha => ?_, fun hc ha => ?_⟩
    · exact command_waits h (hcode hc rfl) ((cRecall hc).trans ((runRecall_runs hp hs).trans (runHand_begins hn _ _)))
    · refine command_replies h (hcode hc rfl) ((cRecall hc).trans ((runRecall_runs hp hs).trans ?_))
      rw [hl]
      exact runHand_ends hh hr _
    · exact command_waits h (hcode hc rfl) ((cPginv hc).trans ((runPginv_runs hp hs).trans (runHand_begins hn _ _)))
    · refine command_replies h (hcode hc rfl) ((cPginv hc).trans ((runPginv_runs hp hs).trans ?_))
      rw [hl]
      exact runHand_ends hh hr _
    · exact command_replies h (hcode hc rfl) ((cPgxfer hc).trans (runPgxfer_installs hp hj ho hl ha))
    · exact command_replies h (hcode hc rfl) ((cPgrefuse hc).trans (runPgrefuse_fails hp ha))
  case pgiack => exact command_replies h (hcode hc rfl) (cPgiack hc)
  case pgdone => exact command_replies h (hcode hc rfl) (cPgdone hc)
  case pgack => exact command_replies h (hcode hc rfl) (cPgack hc)
  case reset =>
    refine (command_inTurn h (hcode hc rfl)).trans ?_
    rw [runTurn_gone h.2.1 (cReset hc)]
  case bad =>
    refine (arrival_inTurn h _ (by simp [h.2.1, hk])).trans ?_
    rw [runTurn_reply h.2.1 (runCommand_unknown h.letsRun n hk)]
    rfl
  case device =>
    refine (arrival_inTurn h _ (by simp [h.2.1, hd])).trans ?_
    rw [runTurn_reply h.2.1 (runCommand_device n hd)]
    rfl

end Sys2Proof.Machine
end

section
/-! PROOFS. Messages outside the sessions' order, page messages, remote operations and replay (R12, R46 to R48, R52, R53, R60 to R66, R201). -/
namespace Sys2Proof.Machine

section
variable {s : State} {m : Msg}

/-! ### Unsequenced messages (R52, R53, R60, R61) -/

/-- An unsequenced command that arrives in order while the device is READY. -/
def Plain (s : State) (m : Msg) : Prop :=
  arrives s m = true ∧ isReply m = false ∧ badHeader m = false ∧ s.boot.state = 4 ∧ m.seq = 0

theorem command_plain (h : Plain s m) {c : Nat} (hc : m.cmd.toNat = c) : command s m c = .next (receivePlain (wakeHost s m.port) m) := by
  obtain ⟨ha, hr, -, -, hq⟩ := h
  refine (if_pos ?_).trans (congrArg _ (if_pos hq))
  simp [ha, hr, hc]

/-- What each unsequenced code does. -/
theorem receivePlain_code (h : Plain s m) :
    (m.cmd = 0x01 → receivePlain (wakeHost s m.port) m =
      answerPlain (ackPlain (wakeHost s m.port) m) m stOK 0 (statusBytes (ackPlain (wakeHost s m.port) m) m.sess.toNat)) ∧
    (m.cmd = 0x02 → receivePlain (wakeHost s m.port) m = receiveResend (ackPlain (wakeHost s m.port) m) m) ∧
    (m.cmd = 0x0C → receivePlain (wakeHost s m.port) m = receiveAtom (wakeHost s m.port) m) := by
  obtain ⟨-, hi, hb, hs, -⟩ := h
  have hs' : (wakeHost s m.port).boot.state = 4 := hs
  have hlets : (!(plainLets (wakeHost s m.port) m)) = false := by rw [plainLets, hs']; rfl
  refine ⟨?_, ?_, ?_⟩ <;>
    · intro hc
      have hseq : (knownCode m.cmd.toNat && !(unseqCode m.cmd.toNat)) = false := by rw [hc]; rfl
      have hknown : (!(knownCode m.cmd.toNat)) = false := by rw [hc]; rfl
      unfold receivePlain
      rw [ite_of_false hb, ite_of_false hi, ite_of_false hseq, ite_of_false hlets, ite_of_false hknown, hc]
      rfl

theorem exec_status (h : Plain s m) (hc : m.cmd = 0x01) : exec (.status m) s =
    .next (answerPlain (ackPlain (wakeHost s m.port) m) m stOK 0 (statusBytes (ackPlain (wakeHost s m.port) m) m.sess.toNat)) :=
  (command_plain h (by rw [hc]; rfl)).trans (congrArg _ ((receivePlain_code h).1 hc))

theorem exec_resend (h : Plain s m) (hc : m.cmd = 0x02) (ho : ownSession (wakeHost s m.port) m = none) :
    exec (.resend m) s = .next (receiveResend (wakeHost s m.port) m) := by
  have hack : ackPlain (wakeHost s m.port) m = wakeHost s m.port := by simp only [ackPlain, ho]
  obtain ⟨-, hresend, -⟩ := receivePlain_code h
  rw [hack] at hresend
  exact (command_plain h (by rw [hc]; rfl)).trans (congrArg _ (hresend hc))

theorem exec_atom (h : Plain s m) (hc : m.cmd = 0x0C) : exec (.atom m) s = .next (receiveAtom (wakeHost s m.port) m) := by
  obtain ⟨-, -, hatom⟩ := receivePlain_code h
  exact (command_plain h (by rw [hc]; rfl)).trans (congrArg _ (hatom hc))

section
variable {t : State} (hn : m.sess.toNat < 64)
include hn

/-- The SEQ from which a RESEND asks comes after the last one sent. -/
def resendsNothing (t : State) (m : Msg) : Bool :=
  decide (0 < seqDist (t.session m.sess.toNat).lsent (m.arg0.setWidth 32)) &&
    decide (seqDist (t.session m.sess.toNat).lsent (m.arg0.setWidth 32) < 2 ^ 31)

theorem receiveResend_after (ha : resendsNothing t m = true) :
    receiveResend t m = answerPlain t m stOK (t.session m.sess.toNat).lsent.toNat [] := by
  unfold resendsNothing at ha
  simp only [receiveResend, if_pos hn, if_pos ha]
  split <;> rfl

theorem receiveResend_again {q : Msg} {r : List Msg} (ha : resendsNothing t m = false) (hr : (t.session m.sess.toNat).ring = q :: r)
    (hb : notBefore q.seq (m.arg0.setWidth 32) = true) :
    receiveResend t m =
      answerPlain (resendFrom t m.sess.toNat (m.arg0.setWidth 32) m.port) m stOK (t.session m.sess.toNat).lsent.toNat [] := by
  unfold resendsNothing at ha
  simp only [receiveResend, if_pos hn, hr, ite_of_false ha, if_pos hb]

theorem receiveResend_gap {q : Msg} {r : List Msg} (ha : resendsNothing t m = false) (hr : (t.session m.sess.toNat).ring = q :: r)
    (hb : notBefore q.seq (m.arg0.setWidth 32) = false) : receiveResend t m = answerPlain t m stGAP q.seq.toNat [] := by
  unfold resendsNothing at ha
  simp only [receiveResend, if_pos hn, hr, ite_of_false ha, ite_of_false hb]

end

/-- The entry of the cache that answers an ATOM (R61). -/
def idemHit (m : Msg) (e : IdemEntry) : Bool := decide (e.ep = m.ep) && decide (e.aseq = m.arg1.extractLsb' 16 32) && !e.out

/-- An ATOM that breaks no rule goes on to the cache. -/
theorem receiveAtom_gates {t : State} {op : AtomOp} (ho : atomOf (m.arg1.toNat % 16) = some op) (hb : atomBad m = false)
    (hg : guarded m.arg0.toNat (atomSize m) = false) (hr : t.recorder.mode ≠ 2) :
    (((find t.idem m.port).getD []).find? (idemHit m) = none → receiveAtom t m = startAtom t m (m.arg1.extractLsb' 16 32) op) ∧
    (∀ {e : IdemEntry} {v : List Byte × BitVec 8}, ((find t.idem m.port).getD []).find? (idemHit m) = some e → e.res = some v →
      receiveAtom t m = answerPlain t m v.2.toNat 0 v.1) := by
  have hbad : (atomBad m || guarded m.arg0.toNat (atomSize m)) = false := by rw [hb, hg]; rfl
  unfold idemHit
  refine ⟨fun hf => ?_, fun {e v} hf hv => ?_⟩
  · simp only [receiveAtom, ho, ite_of_false hbad, if_neg hr, hf]
  · simp only [receiveAtom, ho, ite_of_false hbad, if_neg hr, hf, hv]

theorem exec_coltosReply {n : Nat} (ha : arrives s m = true) (hi : isReply m = true) (hb : badHeader m = false) (hq : m.seq = 0) (hc : m.cmd ≠ 0x01)
    (ho : ownSession (ackPlain (wakeHost s m.port) m) m = some n) :
    exec (.coltosReply m) s = .next (pumpSession (ackPlain (wakeHost s m.port) m) n) := by
  have hstat : (decide (m.cmd = 0x01) && decide (m.payload.length = 384)) = false := by rw [decide_eq_false hc]; rfl
  refine (if_pos (by rw [hi, ha]; rfl)).trans (congrArg _ ((if_pos hq).trans ((ite_of_false hb).trans ((if_pos hi).trans ?_))))
  simp only [ho, ite_of_false hstat]

theorem exec_pgreq {own : Bool} (h : askedPage s m = some own) :
    exec (.pgreq m) s = .next (sendManager (setPage (wakeIf s (.mgmt (dieOf (m.arg0.toNat / 65536 * 65536)))) (m.arg0.toNat / 65536)
      { s.page (m.arg0.toNat / 65536) with asked := some own }) 0x20 (m.arg0.toNat / 65536 * 65536) (BitVec.ofNat 48 (b2n own)) 0) := by
  show execPgreq m s = _
  simp only [execPgreq, h]

/-! ### Remote operations (R46, R47) -/

/-- A port's machine in which a remote operation has taken its number. -/
def State.numbered (s : State) (port : Nat) : State := { wakeFor s (.port port) with nextRem := s.nextRem + 1 }

theorem exec_remoteWrite {port ep addr : Nat} {data : List Byte} (hp : portUp s port = true) (hs : s.boot.state = 4) (hr : s.recorder.mode ≠ 2)
    (hi : inMemory addr data.length = true) (hg : guarded addr data.length = false)
    (hf : portHeld (s.numbered port) addr data.length true = false) :
    exec (.remoteWrite port ep addr data) s = .next (keepRemote (portWrite (s.numbered port) port addr data (.remote s.nextRem))
      { id := s.nextRem, sent := true, port := port, ep := ep, addr := addr, len := data.length, write := true, data := data }) := by
  have hup : (portUp s port && decide (s.boot.state = 4)) = true := by rw [hp, decide_eq_true hs]; rfl
  have hgo : (!(inMemory addr data.length) || (true && guarded addr data.length) || decide ((wakeFor s (.port port)).recorder.mode = 2)) = false := by
    have hr' : ¬(wakeFor s (.port port)).recorder.mode = 2 := hr
    rw [hi, hg, decide_eq_false hr']
    rfl
  refine (if_pos hup).trans (congrArg _ ((ite_of_false hgo).trans ?_))
  exact (ite_of_false rfl).trans (ite_of_false hf)

theorem exec_remoteRead {port ep addr len : Nat} (hp : portUp s port = true) (hs : s.boot.state = 4) (hr : s.recorder.mode ≠ 2)
    (hi : inMemory addr len = true) (hf : portHeld (s.numbered port) addr len false = false) :
    exec (.remoteRead port ep addr len) s = .next (complete (wakeHomes (s.numbered port) addr len)
      { id := s.nextRem, sent := false, port := port, ep := ep, addr := addr, len := len, write := false, data := [] } true
      (homeBytes (s.numbered port) addr len)) := by
  have hup : (portUp s port && decide (s.boot.state = 4)) = true := by rw [hp, decide_eq_true hs]; rfl
  have hgo : (!(inMemory addr len) || (false && guarded addr len) || decide ((wakeFor s (.port port)).recorder.mode = 2)) = false := by
    have hr' : ¬(wakeFor s (.port port)).recorder.mode = 2 := hr
    rw [hi, decide_eq_false hr']
    rfl
  refine (if_pos hup).trans (congrArg _ ((ite_of_false hgo).trans ?_))
  exact (ite_of_false rfl).trans (ite_of_false hf)

theorem tryRemote_completes {o : RemoteOp} (hs : o.sent = true) (hb : engBusy s (.remote o.id) = false) :
    tryRemote s o = complete (appendRecord s 1 255 o.port 0 o.addr o.data) o true [] :=
  (if_pos hs).trans (ite_of_false hb)

theorem exec_portFailure {port : Nat} (hp : portUp s port = true) (hn : s.preempts = []) {ps : ZMap 4} (hps : ps = zset s.ports port 0)
    {other : Nat} (ho : other = ((List.range 8).find? (fun p => decide (zget ps p ≠ 0))).getD port) :
    exec (.portFailure port) s = .next { s with
      ports := ps
      sessions := s.sessions.map (fun (e : Nat × Session) =>
        (e.1, { e.2 with port := if e.2.port = port then other else e.2.port, running := e.2.running.map (movePort port other) })) } := by
  subst hps ho
  refine (if_pos hp).trans (congrArg _ ?_)
  rw [hn]
  cases s
  cases hn
  rfl

/-! ### Replay (R66) -/

theorem exec_replayApply (hm : s.recorder.mode = 2) (hq : replayQuiet s = true) :
    ((nextRecord s).kind = 0 → exec .replayApply s = .next (applyMessage s (nextRecord s))) ∧
    ((nextRecord s).kind = 1 → exec .replayApply s = .next (applyWrite s (nextRecord s))) ∧
    ((nextRecord s).kind = 2 → exec .replayApply s = .next (applyAtom s (nextRecord s))) := by
  have hgo : ¬(s.recorder.mode ≠ 2 ∨ (!(replayQuiet s)) = true) := by simp [hm, hq]
  refine ⟨fun hk => ?_, fun hk => ?_, fun hk => ?_⟩ <;>
    · show execReplayApply s = _
      simp only [execReplayApply, if_neg hgo, hk]

theorem exec_replayMonitorTimeout (hm : s.recorder.mode = 2) (hq : replayQuiet s = true) (hk : (nextRecord s).kind = 3 ∨ (nextRecord s).kind = 4) :
    exec .replayMonitorTimeout s = .next (replayDiverged s) :=
  if_pos (by simpa [hm, hq] using hk)

/-! ### Timeouts (R201, R335) -/

theorem exec_lockholdTimeout_access {c k j : Nat} {a : Access} (hc : c < 256) (hk : k < 64) (ha : accOf (s.group c k) j = some a)
    (hh : accessHeld s c k a = true) (hn : (s.group c k).halt = none) :
    exec (.lockholdTimeout c k j) s = .next (holdFault s c k a) := by
  have hgo : (accessHeld s c k a && (s.group c k).halt.isNone) = true := by rw [hh, hn]; rfl
  show execLockholdTimeout c k j s = _
  simp only [execLockholdTimeout, if_pos hc, if_pos hk, ha, if_pos hgo]

end

/-- Settles O48: each message, operation and timeout outside the sessions' order takes the branch of its case. -/
theorem portOperationsComplete : Obligations.PortOperationsComplete := by
  unfold Obligations.PortOperationsComplete
  intro s m port ep addr len data e op w a n plain
  refine ⟨fun h hc => exec_status h hc, fun h hc ho hn => ⟨fun ha => ?_, fun q r ha hr hb => ?_, fun q r ha hr hb => ?_⟩,
    fun h hc ho hb hg hr => ⟨fun hf => ?_, fun v hf hv => ?_⟩, fun ha hi hb hq hc _ ho => exec_coltosReply ha hi hb hq hc ho,
    fun own => exec_pgreq, fun hp => ⟨exec_remoteWrite hp, fun o => tryRemote_completes, exec_remoteRead hp, if_pos hp,
      fun hn => exec_portFailure hp hn rfl rfl⟩,
    fun hm hq => ⟨(exec_replayApply hm hq).1, fun hk hf => ?_, (exec_replayApply hm hq).2.2, exec_replayMonitorTimeout hm hq⟩,
    fun pg hw => if_pos hw, fun c k j acc => exec_lockholdTimeout_access⟩
  · exact (exec_resend h hc ho).trans (congrArg _ (receiveResend_after hn ha))
  · exact (exec_resend h hc ho).trans (congrArg _ (receiveResend_again hn ha hr hb))
  · exact (exec_resend h hc ho).trans (congrArg _ (receiveResend_gap hn ha hr hb))
  · exact (exec_atom h hc).trans (congrArg _ ((receiveAtom_gates (t := w) ho hb hg hr).1 hf))
  · exact (exec_atom h hc).trans (congrArg _ ((receiveAtom_gates (t := w) ho hb hg hr).2 hf hv))
  · exact ((exec_replayApply hm hq).2.1 hk).trans (congrArg _ (ite_of_false hf))

end Sys2Proof.Machine
end

section
/-! PROOFS. Restarts (R51, R58). -/
namespace Sys2Proof.Machine

/-- The READY device in whose boot session a command has sent its writes, and has not been accepted. -/
def writingState : State :=
  { State.reset with
    boot := { Boot.reset with powered := true, state := 4 }
    sessions := [(0, { Session.reset with wrote := true })] }

/-- Whether the boot session notes, after a step, that its command has sent its writes. -/
def wroteAfter (o : Out) : Option Bool :=
  match o with
  | .next t => some (t.session 0).wrote
  | _ => none

/-- Refutes O49: a warm restart forgets the command that each session was executing (R58), and with it the note that its writes have been
sent; the statement clears the command alone and keeps the note. The machine leaves the note clear and the statement asks for it set. -/
theorem not_bootAndPowerComplete : ¬ Obligations.BootAndPowerComplete := by
  intro h
  obtain ⟨-, -, -, -, -, -, hrestart, -⟩ := h writingState 0 (mkMsg 0 0 0 0 0) ⟨[], [], [], [], [], [], []⟩ (.mgmt 0) 0
  have hrun := hrestart (by decide +kernel) (by decide +kernel)
  exact absurd (congrArg wroteAfter hrun) (by decide +kernel)

end Sys2Proof.Machine
end

section
/-! PROOFS. The dispatcher, the distributor and the collector (R72, R79 to R84, R91). -/
namespace Sys2Proof.Machine

section
variable {s t : State} {die core c : Nat} {bad : List Nat} {q : Ready} {r l : List Ready}

theorem exec_dispatch (hc : candidates s die = q :: r) (h0 : (s.die die).chosen = []) {p : Ready} (hp : p = selectFrom s die (q :: r) q) {u : State}
    (hu : u = s.setDie die { s.die die with ready := removeFirst (fun x => decide (x = p)) (s.die die).ready
                                            chosen := [{ p with image := some (entryTcb s p) }], missed := [] }) :
    exec (.dispatch die) s = .next (if p = q then u else setTask u q.tcb 370 367 (fnat (u.tcb q.tcb) 370 367 + 1)) := by
  subst hp hu
  show execDispatch die s = _
  simp only [execDispatch, hc, h0, List.isEmpty_nil, Bool.not_true, Bool.false_and, Bool.false_eq_true, if_false]

theorem exec_tileProbeTimeout (hc : c < (candidates s die).length) (hm : c ∉ (s.die die).missed) :
    exec (.tileProbeTimeout die c) s = .next (s.setDie die { s.die die with missed := (s.die die).missed ++ [c] }) := by
  refine congrArg _ (if_pos ?_)
  simp [hc, hm]

theorem exec_placement (hc : (s.die die).chosen = q :: l) (ht : tryPlace s die bad q = some t) : exec (.placement die bad) s =
    .next (t.setDie die { t.die die with chosen := removeFirst (fun x => decide (x = q)) (t.die die).chosen }) := by
  show execPlacement die bad s = _
  simp only [execPlacement, hc, List.findSome?_cons, ht, Option.map_some]

/-- The only herd that runs, which may be halved for the asking core. -/
theorem exec_halving {i : Nat} {x : Inst} (hc : core < 256) (hg : (s.core core).groups.any (fun g => g.2.resident) = false)
    (hr : ((s.die (core / 64)).ready ++ (s.die (core / 64)).chosen).any (selectable s (core / 64)) = false) (hm : s.recorder.mode ≠ 2)
    (hi : s.insts = [(i, x)]) (hruns : instRuns s i = true) (h0 : tGrain x.image ≠ 0) (hgang : x.gang.headD 256 / 64 = core / 64)
    (h64 : tHgrp (s.tcb x.tcb) ≤ 64) (ht : tryHalve s core i x = some t) : exec (.halving core) s = .next t := by
  have hgo : (decide (256 ≤ core) || (s.core core).groups.any (fun g => g.2.resident) ||
      ((s.die (core / 64)).ready ++ (s.die (core / 64)).chosen).any (selectable s (core / 64)) || decide (s.recorder.mode = 2)) = false := by
    rw [hg, hr, decide_eq_false hm, decide_eq_false (by omega)]
    rfl
  have hmay : (instRuns s i && decide (tGrain x.image ≠ 0) && decide (x.gang.headD 256 / 64 = core / 64) && decide (tHgrp (s.tcb x.tcb) ≤ 64)) =
      true := by
    rw [hruns, decide_eq_true h0, decide_eq_true hgang, decide_eq_true h64]
    rfl
  show execHalving core s = _
  simp only [execHalving, ite_of_false hgo, hi, List.filter_cons, List.filter_nil, hmay, if_true, List.foldl_cons, List.foldl_nil, insertHalve,
    List.findSome?_cons, ht]

end

/-- Settles O50: each step of the dispatcher and the distributor takes the branch of its case. -/
theorem schedulerStepsComplete : Obligations.SchedulerStepsComplete := by
  unfold Obligations.SchedulerStepsComplete
  intro s t die core c bad q r d
  exact ⟨fun hc h0 => exec_dispatch hc h0 rfl rfl, exec_tileProbeTimeout, fun l => exec_placement, fun i x => exec_halving⟩

/-! ### The collector -/

/-- A command waits for the pre-emption of a region that was never admitted. -/
def strayPreempt : State :=
  { State.reset with preempts := [{ rcb := 1, die := 0, sess := some (0, mkMsg 0x0D 0 0 0 0) }] }

/-- The number of pre-emptions in progress after a step. -/
def preemptsAfter (o : Out) : Option Nat :=
  match o with
  | .next t => some t.preempts.length
  | _ => none

/-- Refutes O51: the collector answers the requests whose region lies in the pre-empted region's admitted subtree, and the statement does not
say that the region is admitted. One that is not lies in no subtree: the machine keeps the request waiting, and the statement asks for its
answer. -/
theorem not_instanceStepsComplete : ¬ Obligations.InstanceStepsComplete := by
  intro h
  obtain ⟨-, -, -, -, -, -, -, hcollect⟩ := h strayPreempt 0 0 0 0 (bareInst 0 0 0 0 0) 0 (placeFault 0 0 0)
    { rcb := 1, die := 0, sess := some (0, mkMsg 0x0D 0 0 0 0) } { rcb := 0, crossed := false }
  have hrun := hcollect 0 (mkMsg 0x0D 0 0 0 0) rfl rfl (by decide +kernel) rfl
  exact absurd (congrArg preemptsAfter hrun) (by decide +kernel)

end Sys2Proof.Machine
end

section
/-! PROOFS. The canonical form of both memories (R171). `memWf` says that a state's two memories have it. An operation can give a state
in other ways than as its value: as an option, as the outcome of an instruction, with something else beside it. Here stand the forms that
`memWf` takes for these, how a case of such a result gives its state, and the rules for choices and repetitions. -/
namespace Sys2Proof.Machine

/-- Where there is a state, its memories are canonical. -/
def optWf (o : Option State) : Prop := ∀ t, o = some t → memWf t

/-- The next state, where there is one, has canonical memories. -/
def outWf (o : Out) : Prop := ∀ t, o = .next t → memWf t

/-- The state of a check that succeeds has canonical memories. -/
def resWf (r : Res State) : Prop := ∀ t, r = .ok t → memWf t

/-- The state that a command leaves. -/
def Ran.st : Ran → State
  | .reply s _ _ _ => s
  | .wait s => s
  | .gone s => s

/-- The state that a fetch leaves. -/
def Fetched.st : Fetched → State
  | .done s => s
  | .word s _ => s

section
variable {s t : State} {o : Option State} {r : Ran} {f : Fetched}

theorem optWf_some (h : memWf t) : optWf (some t) := fun _ e => Option.some.inj e ▸ h
theorem optWf_none : optWf none := fun _ e => nomatch e
theorem outWf_next (h : memWf t) : outWf (.next t) := fun _ e => Host.Outcome.next.inj e ▸ h
theorem outWf_fault (f : Fault) : outWf (.fault f) := fun _ e => nomatch e
theorem outWf_refused (r : Refusal) : outWf (.refused r) := fun _ e => nomatch e
theorem resWf_ok (h : memWf t) : resWf (.ok t) := fun _ e => Res.ok.inj e ▸ h
theorem resWf_fault (c : Cause) : resWf (.fault c) := fun _ e => nomatch e
theorem resWf_wait (l : List Hold) : resWf (.wait l) := fun _ e => nomatch e
theorem resWf_held (pa : Nat) (va : BitVec 64) (t : Nat) (a : BitVec 12) : resWf (.held pa va t a) := fun _ e => nomatch e

/-! ### The state that a case of a result names -/

theorem memWf_of_some (e : o = some t) (h : optWf o) : memWf t := h t e
theorem memWf_of_next {o : Out} (e : o = .next t) (h : outWf o) : memWf t := h t e
theorem memWf_of_ok {r : Res State} (e : r = .ok t) (h : resWf r) : memWf t := h t e

theorem memWf_of_fst {α : Type} {p : State × α} {x : α} (e : p = (t, x)) (h : memWf p.1) : memWf t := by
  subst e
  exact h

theorem memWf_of_snd {α : Type} {p : α × State} {x : α} (e : p = (x, t)) (h : memWf p.2) : memWf t := by
  subst e
  exact h

theorem memWf_of_reply {a b : Nat} {l : List Byte} (e : r = .reply t a b l) (h : memWf r.st) : memWf t := by
  subst e
  exact h

theorem memWf_of_wait (e : r = .wait t) (h : memWf r.st) : memWf t := by
  subst e
  exact h

theorem memWf_of_gone (e : r = .gone t) (h : memWf r.st) : memWf t := by
  subst e
  exact h

theorem memWf_of_done (e : f = .done t) (h : memWf f.st) : memWf t := by
  subst e
  exact h

theorem memWf_of_word {w : Word} (e : f = .word t w) (h : memWf f.st) : memWf t := by
  subst e
  exact h

/-! ### Changes of other parts of the state -/

/-- A change of other parts keeps the memories. -/
theorem memWf.of_eq (h : memWf t) (e : s.live = t.live) (e' : s.back = t.back) : memWf s := ⟨e ▸ h.1, e' ▸ h.2⟩

theorem flushes_wf {l : List Flush} (h : memWf s) : memWf { s with flushes := l } := h
theorem hands_wf {l : List Hand} (h : memWf s) : memWf { s with hands := l } := h
theorem agenda_wf {l : List Turn} (h : memWf s) : memWf { s with agenda := l } := h
theorem decoders_wf {l : Tbl (List Submission)} (h : memWf s) : memWf { s with decoders := l } := h

/-! ### Choices and repetitions -/

theorem ite_wf {c : Prop} [Decidable c] (hs : memWf s) (ht : memWf t) : memWf (if c then s else t) := by
  split
  · exact hs
  · exact ht

theorem outWf_ite {c : Prop} [Decidable c] {u v : Out} (hu : outWf u) (hv : outWf v) : outWf (if c then u else v) := by
  split
  · exact hu
  · exact hv

theorem optWf_ite {c : Prop} [Decidable c] {u v : Option State} (hu : optWf u) (hv : optWf v) : optWf (if c then u else v) := by
  split
  · exact hu
  · exact hv

theorem optWf_map {g : State → State} (hg : ∀ t, memWf t → memWf (g t)) (h : optWf o) : optWf (o.map g) := by
  intro t e
  obtain ⟨u, hu, rfl⟩ := Option.map_eq_some_iff.mp e
  exact hg u (h u hu)

theorem optWf_mapOf {α : Type} {o : Option α} {g : α → State} (hg : ∀ a, memWf (g a)) : optWf (o.map g) := by
  intro t e
  obtain ⟨a, _, rfl⟩ := Option.map_eq_some_iff.mp e
  exact hg a

theorem getD_wf (h : optWf o) (ht : memWf t) : memWf (o.getD t) := by
  cases o with
  | none => exact ht
  | some u => exact h u rfl

theorem repeat_wf {g : State → State} {n : Nat} (hg : ∀ t, memWf t → memWf (g t)) (h : memWf s) : memWf (n.repeat g s) := by
  induction n with
  | zero => exact h
  | succ n ih => exact hg _ ih

/-- A fold that carries something beside the state. -/
theorem foldl_fst_wf {α β : Type} (g : State × β → α → State × β) (hg : ∀ p a, memWf p.1 → memWf (g p a).1) (l : List α) {b : β}
    (h : memWf s) : memWf (l.foldl g (s, b)).1 := by
  induction l generalizing s b with
  | nil => exact h
  | cons a l ih => exact ih (s := (g (s, b) a).1) (b := (g (s, b) a).2) (hg (s, b) a h)

end

end Sys2Proof.Machine
end

section
/-! PROOFS. Every operation keeps the canonical form of both memories, part 1 of 5: one lemma for each operation, in the order of the
model's files. Most of them change other parts of the state, through operations that came before; only the writes of Laws/Memory.lean and
the clearing of memory at boot change a memory. -/
namespace Sys2Proof.Machine

section
/-! ### Mem -/
variable {s : State} {c g a line slice : Nat} {v : Group} {f : Group → Group} {k : Block}

theorem State.setCore_wf {v : Core} (h : memWf s) : memWf (s.setCore c v) := h
theorem State.updCore_wf {f : Core → Core} (h : memWf s) : memWf (s.updCore c f) := h
theorem State.setGroup_wf (h : memWf s) : memWf (s.setGroup c g v) := h
theorem State.updGroup_wf (h : memWf s) : memWf (s.updGroup c g f) := h
theorem State.setCur_wf (h : memWf s) : memWf (s.setCur v) := h
theorem State.updCur_wf (h : memWf s) : memWf (s.updCur f) := h
theorem State.setDie_wf {d : Nat} {v : DieSched} (h : memWf s) : memWf (s.setDie d v) := h
theorem State.setArena_wf {e : ArenaEntry} (h : memWf s) : memWf (s.setArena a e) := h
theorem setPower_wf {p : Power} (h : memWf s) : memWf (setPower s k p) := h
theorem wakeFor_wf (h : memWf s) : memWf (wakeFor s k) := h
theorem hitMonitors_wf (h : memWf s) : memWf (hitMonitors s line) := h
theorem evictL2_wf {v : L2Line} (h : memWf s) : memWf (evictL2 s line v) := ite_wf (writeBack_wf _ h) h

theorem evictOne_wf (h : memWf s) : memWf (evictOne s slice a) := by
  unfold evictOne
  split
  · exact h
  · exact h
  · exact evictL2_wf h
  · exact ite_wf h (evictL2_wf h)

theorem makeRoom_wf (h : memWf s) : memWf (makeRoom s slice a) := by
  unfold makeRoom
  split
  · exact h
  · exact evictOne_wf h

theorem touchL2_wf {a : BitVec 12} {g : BitVec 4} {dirty : Bool} (h : memWf s) : memWf (touchL2 s line a g dirty) := by
  unfold touchL2
  dsimp only
  split
  · exact h
  · exact makeRoom_wf h

theorem putReplica_wf {a : BitVec 12} {g : BitVec 4} {bs : List Byte} (h : memWf s) :
    memWf (putReplica s slice line a g bs) := makeRoom_wf h

end

section
/-! ### Net -/
variable {s : State} {n id loop : Nat} {p : Packet}

theorem setSlack_wf {core : Nat} (h : memWf s) : memWf (setSlack s core n) := h
theorem send_wf (h : memWf s) : memWf (send s p) := h
theorem sendAll_wf {ps : List Packet} (h : memWf s) : memWf (sendAll s ps) := h
theorem setSpot_wf {p : Spot} (h : memWf s) : memWf (setSpot s id p) := h
theorem dropTransit_wf (h : memWf s) : memWf (dropTransit s id) := h

theorem ejectFlit_wf {x : Transit} (h : memWf s) : memWf (ejectFlit s x) := by
  unfold ejectFlit
  dsimp only
  split
  · exact ite_wf h (ite_wf h (ite_wf h (ite_wf h h)))
  · exact h

theorem injectAt_wf {stop : Nat} (h : memWf s) : memWf (injectAt s loop stop) := by
  unfold injectAt
  dsimp only
  split
  · exact h
  · split
    · exact h
    · split
      · exact h
      · exact ite_wf (setSpot_wf h) h

theorem passTrain_wf (h : memWf s) : memWf (passTrain s loop) := h

theorem loopCycle_wf (h : memWf s) :
    memWf (loopCycle s loop) :=
  foldl_wf _ (fun _ _ hs1 => injectAt_wf hs1) _ (foldl_wf _ (fun _ _ hs1 => ejectFlit_wf hs1) _ (passTrain_wf h))

theorem netCycle_wf (h : memWf s) : memWf (netCycle s) := foldl_wf _ (fun _ _ hs1 => loopCycle_wf hs1) _ h
theorem moveNet_wf (h : memWf s) : memWf (moveNet n s) := ite_wf h (repeat_wf (fun _ ht => netCycle_wf ht) h)

theorem headArrival_wf (h : memWf s) : optWf (headArrival s p) := by
  unfold headArrival
  split
  · exact optWf_none
  · split
    · exact optWf_none
    · exact optWf_ite (optWf_some (dropTransit_wf h)) optWf_none

theorem nextRequest_wf {ready : Packet → Bool} (h : memWf s) : optWf (nextRequest ready s p) := by
  unfold nextRequest
  split
  · exact optWf_none
  · exact optWf_ite (optWf_some (dropTransit_wf h)) optWf_none

theorem anyArrival_wf (h : memWf s) : optWf (anyArrival s p) := optWf_mapOf (fun _ => dropTransit_wf h)

theorem deliverIf_wf {ok : Bool} {k : State → State} (h : memWf s) (hk : ∀ t, memWf t → memWf (k t)) :
    outWf (deliverIf s p ok k) := by
  cases ok with
  | false => exact outWf_next h
  | true =>
    have ha : optWf (headArrival s p) := headArrival_wf h
    cases e : headArrival s p with
    | none => simp only [deliverIf, e, if_true]; exact outWf_next h
    | some t => simp only [deliverIf, e, if_true]; exact outWf_next (hk t (ha t e))

end

section
/-! ### Caches -/
variable {s : State} {core port pa line : Nat} {p : Packet} {secs : BitVec 4} {u : EngUse} {bs : List Byte} {a : Access}

theorem selfInv_wf (h : memWf s) : memWf (selfInv s core) := h
theorem sendMiss_wf {pref : Bool} (h : memWf s) : memWf (sendMiss s core p secs pref) := h
theorem sendFor_wf {acc : Nat} (h : memWf s) : memWf (sendFor s core p acc) := h
theorem sendReq_wf (h : memWf s) : memWf (sendReq s core p) := h
theorem endReq_wf {txn : Nat} (h : memWf s) : memWf (endReq s core txn) := h
theorem sendEng_wf (h : memWf s) : memWf (sendEng s p u) := h

theorem sendPort_wf (h : memWf s) : memWf (sendPort s p u) := by
  unfold sendPort
  split
  · exact sendEng_wf h
  · exact h

theorem portWrbs_wf (h : memWf s) : memWf (portWrbs s port pa bs u) := by
  unfold portWrbs
  refine foldl_wf _ (fun _ _ hs1 => ?_) _ h
  dsimp only
  exact sendPort_wf hs1

theorem portWrite_wf (h : memWf s) : memWf (portWrite s port pa bs u) := portWrbs_wf (hwWrite_wf _ _ h)

theorem settleEngines_wf (h : memWf s) : memWf (settleEngines s) := by
  unfold settleEngines
  refine foldl_wf _ (fun _ _ hs1 => ?_) _ h
  split
  · split
    · exact hs1
    · exact sendPort_wf hs1
  · exact send_wf hs1

theorem enterLine_wf (h : memWf s) : memWf (enterLine s core line) := h
theorem takeWay_optWf (h : memWf s) : optWf (takeWay s core line) := fun _ e => takeWay_wf core line e h
theorem dropEmpty_wf (h : memWf s) : memWf (dropEmpty s core line) := h

theorem holdFresh_wf {kind : BitVec 2} {a : BitVec 12} {gn : BitVec 4} {base len : Nat} (h : memWf s) :
    memWf (holdFresh s core kind a gn base len) := by
  unfold holdFresh
  dsimp only
  split
  · exact h
  · next e => exact State.setCore_wf (memWf_of_some e (takeWay_optWf h))

theorem placeLoad_wf (h : memWf s) : memWf (placeLoad s core a) := ite_wf h (holdFresh_wf h)
theorem reserveLine_wf (h : memWf s) : optWf (reserveLine s core line) := optWf_ite (optWf_some h) (takeWay_optWf h)

/-- The state that a lookup leaves; the one before it, where it waits. -/
def Lookup.st (s : State) : Lookup → State
  | .done t => t
  | .joined t => t
  | .waits => s

theorem lookup_wf {s : State} {core : Nat} {k : LineAsk} (h : memWf s) : memWf ((lookup s core k).st s) := by
  unfold lookup
  dsimp only
  split
  · exact enterLine_wf h
  · split
    · exact h
    · split
      · exact h
      · split
        · split <;> exact h
        · split
          · exact h
          · split
            · exact h
            · next e =>
              split
              · exact h
              · split <;> exact sendMiss_wf (memWf_of_some e (reserveLine_wf h))

theorem runAsks_wf {s : State} {core : Nat} {blocked : List (Nat × Nat)} {l : List LineAsk} (h : memWf s) :
    memWf (runAsks s core blocked l).1 := by
  induction l generalizing s blocked with
  | nil => exact h
  | cons k r ih =>
    unfold runAsks
    split
    · exact ih h
    · have hk := lookup_wf (core := core) (k := k) h
      cases e : lookup s core k with
      | done t => exact ih (by rwa [e] at hk)
      | joined t => exact ih (by rwa [e] at hk)
      | waits => exact ih h

theorem settleAsks_wf (h : memWf s) : memWf (settleAsks s core) := ite_wf h (State.updCore_wf (runAsks_wf h))
theorem addAsks_wf {l : List LineAsk} (h : memWf s) : memWf (addAsks s core l) := ite_wf h (State.updCore_wf h)
theorem serveAsks_wf {excl : Bool} (h : memWf s) : memWf (serveAsks s core line secs excl) := h

theorem storeReady_wf (h : memWf s) : optWf (storeReady s core a) := by
  unfold storeReady
  split
  · exact optWf_ite (optWf_some h) optWf_none
  · exact optWf_ite (takeWay_optWf h) (optWf_some h)

theorem askOwned_wf {slot : Nat} (h : memWf s) : memWf (askOwned s core slot a) := ite_wf h (addAsks_wf h)

end

section
/-! ### Access -/
variable {s : State} {core inst o : Nat} {k : AccKind} {v : BitVec 128} {p : Bool}

theorem writeScratch_wf {bs : List Byte} (h : memWf s) : memWf (writeScratch s core inst o bs) := h
theorem scratchBarrier_wf (h : memWf s) : memWf (scratchBarrier s core inst o k v p) := h

theorem globalBarrier_wf {pa : Nat} {a : BitVec 12} {g : BitVec 4} (h : memWf s) :
    memWf (globalBarrier s pa k v p a g) := writeLive_wf _ _ _ _ (retake_wf _ _ h)

end

section
/-! ### HostOps -/
variable {s : State} {n stat arg0 kind port : Nat} {m : Msg} {payload : List Byte}

theorem setSession_wf {x : Session} (h : memWf s) : memWf (setSession s n x) := h
theorem sendMsg_wf (h : memWf s) : memWf (sendMsg s m) := h
theorem sendPlain_wf (h : memWf s) : memWf (sendPlain s m) := h
theorem sendSeq_wf (h : memWf s) : memWf (sendSeq s n m) := h
theorem answerPlain_wf (h : memWf s) : memWf (answerPlain s m stat arg0 payload) := h

theorem appendRecord_wf {sess : Nat} {seq : BitVec 32} {addr : Nat} {body : List Byte} (h : memWf s) :
    memWf (appendRecord s kind sess port seq addr body) := ite_wf h (ite_wf (hwWrite_wf _ _ h) h)

theorem recordApplied_wf (h : memWf s) : memWf (recordApplied s n) := ite_wf h h
theorem recordBegun_wf (h : memWf s) : memWf (recordBegun s) := h

theorem replayDiverged_wf (h : memWf s) : memWf (replayDiverged s) := by
  unfold replayDiverged
  dsimp only
  split
  · exact h
  · exact ite_wf (sendSeq_wf h) h

theorem noteLaunch_wf {line : Nat} (h : memWf s) :
    memWf (noteLaunch s kind line) := ite_wf (ite_wf (recordApplied_wf h) (replayDiverged_wf h)) (appendRecord_wf h)

theorem recordDone_wf (h : memWf s) : memWf (recordDone s) := ite_wf (recordApplied_wf h) h
theorem endReplayed_wf (h : memWf s) : memWf (endReplayed s) := recordDone_wf (setSession_wf h)

theorem acceptMsg_wf (h : memWf s) :
    memWf (acceptMsg s n m stat arg0 payload) := ite_wf (endReplayed_wf h) (sendSeq_wf (setSession_wf (ite_wf h (appendRecord_wf h))))

theorem acceptQuiet_wf (h : memWf s) :
    memWf (acceptQuiet s n m) := ite_wf (endReplayed_wf h) (setSession_wf (ite_wf h (appendRecord_wf h)))

theorem atomDone_wf {ep : Nat} {aseq : BitVec 32} {result : List Byte} (h : memWf s) :
    memWf (atomDone s port ep aseq stat result) := foldl_wf _ (fun _ _ hs1 => answerPlain_wf hs1) _ h

end

section
/-! ### Regions -/
variable {s : State} {hi lo r v t i : Nat}

theorem throughBits_wf {base n : Nat} {x : BitVec n} (h : memWf s) : memWf (throughBits s base x hi lo) := hwWrite_wf _ _ h

theorem setRegion_wf (h : memWf s) : memWf (setRegion s r hi lo v) := by
  unfold setRegion
  dsimp only
  split
  · exact h
  · exact throughBits_wf h

theorem setTask_wf (h : memWf s) : memWf (setTask s t hi lo v) := by
  unfold setTask
  dsimp only
  split
  · exact h
  · exact throughBits_wf h

theorem setTaskState_wf (h : memWf s) : memWf (setTaskState s t v) := setTask_wf h
theorem setInst_wf {x : Inst} (h : memWf s) : memWf (setInst s i x) := h

theorem updInst_wf {f : Inst → Inst} (h : memWf s) : memWf (updInst s i f) := by
  unfold updInst
  split
  · exact h
  · exact setInst_wf h

theorem addUse_wf {d : Int} (h : memWf s) : memWf (addUse s r hi lo d) := foldl_wf _ (fun _ _ hs1 => setRegion_wf hs1) _ h

theorem writeRecord_wf {rec : BitVec 512} (h : memWf s) :
    memWf (writeRecord s r rec) := ite_wf h (ite_wf (setRegion_wf h) (setRegion_wf (hwWrite_wf _ _ h)))

end

section
/-! ### Admit -/
variable {s : State} {r t die k : Nat} {x : BitVec 1024} {within : Option Nat} {b : Mailbox}

theorem admitRegion_wf {x : BitVec 2048} (h : memWf s) : memWf (admitRegion s r x) := foldl_wf _ (fun _ _ hs1 => throughBits_wf hs1) _ h

theorem admitPath_wf (h : memWf s) : optWf (admitPath s r) := by
  unfold admitPath
  dsimp only
  split
  · exact optWf_none
  · exact optWf_ite (optWf_some (foldl_wf _ (fun _ _ hs1 => admitRegion_wf hs1) _ h)) optWf_none

theorem countLive_wf (h : memWf s) : memWf (countLive s r) := ite_wf (setRegion_wf (setRegion_wf h)) (setRegion_wf h)
theorem uncountLive_wf (h : memWf s) : memWf (uncountLive s r) := ite_wf (setRegion_wf (setRegion_wf h)) (setRegion_wf h)

theorem admitCore_wf {mbx : Bool} (h : memWf s) : optWf (admitCore s t x within mbx) := by
  unfold admitCore
  dsimp only
  split
  · exact optWf_none
  · split
    · exact optWf_none
    · next e =>
      split
      · split
        · exact optWf_none
        · exact optWf_some (countLive_wf (foldl_wf _ (fun _ _ hs1 => throughBits_wf hs1) _ ((memWf_of_some e (admitPath_wf h)).of_eq rfl rfl)))
      · split
        · exact optWf_none
        · exact optWf_some (countLive_wf (foldl_wf _ (fun _ _ hs1 => throughBits_wf hs1) _ ((memWf_of_some e (admitPath_wf h)).of_eq rfl rfl)))

theorem takeAge_wf (h : memWf s) : memWf (takeAge s die) := h
theorem pushReady_wf {q : Ready} (h : memWf s) : memWf (pushReady s die q) := h

theorem moveEntries_wf (h : memWf s) : memWf (moveEntries s) := by
  unfold moveEntries
  refine foldl_wf _ (fun _ _ hs1 => ?_) _ h
  dsimp only
  exact foldl_wf _ (fun _ _ hs2 => pushReady_wf hs2) _ (State.setDie_wf hs1)

theorem doReady_wf (h : memWf s) : memWf (doReady s t).1 := by
  unfold doReady
  dsimp only
  split
  · exact setTaskState_wf (setTask_wf (takeAge_wf h))
  · exact pushReady_wf (setTaskState_wf (setTask_wf (takeAge_wf h)))

theorem dropInsts_wf (h : memWf s) : memWf (dropInsts s t) := h
theorem doDone_wf (h : memWf s) : memWf (doDone s t).1 := dropInsts_wf (uncountLive_wf (setTask_wf (setTaskState_wf h)))
theorem underRecord_wf (h : memWf s) : memWf (underRecord s r t) := writeRecord_wf h

theorem doDec_wf (h : memWf s) : memWf (doDec s t).1 := by
  unfold doDec
  dsimp only
  split
  · split
    · exact underRecord_wf h
    · exact setTask_wf h
  · split
    · exact underRecord_wf h
    · dsimp only
      exact hwWrite_wf _ _ h

theorem launchSlot_wf {ord : BitVec 32} (h : memWf s) : memWf (launchSlot s k b t ord).1 := by
  unfold launchSlot
  dsimp only
  split
  · exact writeRecord_wf (hwWrite_wf _ _ h)
  · next e => exact memWf_of_some e (admitCore_wf (hwWrite_wf _ _ h))

theorem setMailbox_wf (h : memWf s) : memWf (setMailbox s k b) := h
theorem arriveAt_wf (h : memWf s) : memWf (arriveAt s k b t).1 := launchSlot_wf (setMailbox_wf h)

theorem doPump_wf (h : memWf s) : memWf (doPump s k).1 := by
  unfold doPump
  split
  · exact h
  · split
    · exact launchSlot_wf (setMailbox_wf h)
    · exact h

theorem runWork_wf {fuel : Nat} {s : State} {l : List Work} (h : memWf s) : memWf (runWork fuel s l) := by
  induction fuel generalizing s l with
  | zero => exact h
  | succ n ih =>
    cases l with
    | nil => exact h
    | cons w r =>
      refine ih ?_
      cases w with
      | ready t => exact doReady_wf h
      | done t => exact doDone_wf h
      | dec t => exact doDec_wf h
      | pump k => exact doPump_wf h

theorem settleWork_wf {l : List Work} (h : memWf s) : memWf (settleWork s l) := runWork_wf h
theorem admitTask_wf (h : memWf s) : optWf (admitTask s t x within) := optWf_map (fun _ ht1 => settleWork_wf ht1) (admitCore_wf h)

theorem mailArrival_wf {s0 : State} {kind line : Nat} (h : memWf s0) : memWf (mailArrival s0 kind line) := by
  unfold mailArrival
  dsimp only
  split
  · exact h
  · split
    · exact settleWork_wf (arriveAt_wf (noteLaunch_wf h))
    · exact ite_wf (writeRecord_wf (setMailbox_wf h)) (setMailbox_wf (noteLaunch_wf h))

end

section
/-! ### Scratchpad -/
variable {s : State} {core inst page : Nat} {p : Packet}

theorem setPageState_wf {st : BitVec 2} (h : memWf s) : memWf (setPageState s core inst page st) := h
theorem pinPage_wf (h : memWf s) : memWf (pinPage s core inst page) := ite_wf (setPageState_wf h) h

theorem startFill_wf (h : memWf s) :
    memWf (startFill s core inst page) := ite_wf h (foldl_wf _ (fun _ _ hs1 => sendEng_wf hs1) _ (setPageState_wf h))

theorem fillLine_wf (h : memWf s) : memWf (fillLine s p core inst page) := ite_wf h (ite_wf h h)

theorem filled_wf (h : memWf s) : memWf (filled s p) := by
  unfold filled
  split
  · exact fillLine_wf h
  · exact h

theorem pinRange_wf {o n : Nat} (h : memWf s) : memWf (pinRange s core inst o n) := foldl_wf _ (fun _ _ hs1 => pinPage_wf hs1) _ h

end

section
/-! ### Ops -/
variable {s : State} {core src inst q agent n slot pg qty : Nat} {f : FaultInfo} {l : List Hold} {sup storer : Bool} {pc : BitVec 48}
  {shown : List Shown} {h : Option Hit} {flags : BitVec 6}

theorem pulse_wf (h : memWf s) : memWf (pulse s core src) := h
theorem pulseFor_wf (h : memWf s) : memWf (pulseFor s core inst src) := ite_wf (pulse_wf h) h

theorem queuePush_wf {ws : List Word} (h : memWf s) :
    memWf (queuePush s core q agent ws).1 := ite_wf (pulse_wf (State.updCore_wf h)) (State.updCore_wf h)

theorem queueTake_wf (h : memWf s) : memWf (queueTake s core q agent n) := ite_wf (pulse_wf (State.updCore_wf h)) (State.updCore_wf h)
theorem parkGroup_wf (h : memWf s) : memWf (parkGroup s core slot f) := updInst_wf (State.updGroup_wf h)
theorem wantPage_wf {w : Bool} (h : memWf s) : memWf (wantPage s pg w) := ite_wf h h
theorem missPage_wf {root : BitVec 30} (h : memWf s) : memWf (missPage s core root pg) := ite_wf h (State.setCore_wf h)

theorem noteHolds_wf (h : memWf s) : memWf (noteHolds s core l) := by
  unfold noteHolds
  refine foldl_wf _ (fun _ _ hs1 => ?_) _ h
  split
  · exact wantPage_wf hs1
  · exact missPage_wf hs1
  · exact startFill_wf hs1
  · exact hs1

theorem holdEntry_wf (h : memWf s) : memWf (holdEntry s core slot f sup l) := noteHolds_wf (State.updGroup_wf h)

theorem enterHandler_wf (h : memWf s) : memWf (enterHandler s core slot f sup) := by
  unfold enterHandler
  dsimp only
  split
  · split
    · exact parkGroup_wf h
    · split
      · exact parkGroup_wf h
      · exact holdEntry_wf h
      · split
        · exact parkGroup_wf h
        · exact holdEntry_wf h
        · exact h
        · exact State.setGroup_wf h
  · split
    · exact parkGroup_wf h
    · split
      · exact parkGroup_wf h
      · exact holdEntry_wf h
      · split
        · exact parkGroup_wf h
        · exact holdEntry_wf h
        · exact h
        · exact State.setGroup_wf h

theorem regionFault_wf (h : memWf s) : memWf (regionFault s core slot f) := ite_wf (enterHandler_wf h) (parkGroup_wf h)

theorem takeTrap_wf (h : memWf s) : memWf (takeTrap s core slot f) := by
  unfold takeTrap
  dsimp only
  split
  · exact parkGroup_wf h
  · exact ite_wf (ite_wf (regionFault_wf h) (enterHandler_wf h)) (regionFault_wf h)

theorem trap_wf {c : Cause} (h : memWf s) : memWf (trap s c) := ite_wf (State.updCur_wf h) (takeTrap_wf h)
theorem trapCode_wf {code : BitVec 8} (h : memWf s) : memWf (trapCode s code) := trap_wf h
theorem waitXlat_wf (h : memWf s) : memWf (waitXlat s l) := noteHolds_wf (State.updCur_wf h)

theorem watchAct_wf {thr : Nat} (h : memWf s) : memWf (watchAct s core slot n pc thr).1 := by
  unfold watchAct
  dsimp only
  split
  · exact State.updCore_wf h
  · split
    · exact queuePush_wf (State.updCore_wf h)
    · exact State.updCore_wf h
  · exact State.updCore_wf h

theorem watchFrom_wf {born : Option Nat} (h : memWf s) : memWf (watchFrom s born core slot qty pc shown).1 := by
  unfold watchFrom
  dsimp only
  split
  · exact h
  · refine foldl_fst_wf _ (fun _ _ hx => ?_) _ h
    exact watchAct_wf hx

theorem watch_wf (h : memWf s) : memWf (watch s core slot qty pc shown).1 := watchFrom_wf h
theorem leaveList_wf (h : memWf s) : memWf (leaveList s core slot) := h
theorem stopFollower_wf (h : memWf s) : memWf (stopFollower s core slot) := h

theorem followHerd_wf (h : memWf s) :
    memWf (followHerd s core slot inst) := foldl_wf _ (fun _ _ hs1 => ite_wf (stopFollower_wf hs1) (State.updGroup_wf hs1)) _ h

theorem haltGroup_wf {h : Hit} {loadPc : BitVec 48} (hs : memWf s) :
    memWf (haltGroup s core slot h flags loadPc) := ite_wf (followHerd_wf (State.updGroup_wf hs)) (State.updGroup_wf hs)

theorem retireTo_wf (hs : memWf s) : memWf (retireTo s h flags pc) := by
  unfold retireTo
  dsimp only
  split
  · exact State.updCur_wf hs
  · exact haltGroup_wf (State.updCur_wf hs)

theorem retire_wf (hs : memWf s) : memWf (retire s h flags) := retireTo_wf hs
theorem endWait_wf (h : memWf s) : memWf (endWait s core slot) := h

theorem endAnswered_wf {wr : Group → Group} (h : memWf s) :
    memWf (endAnswered s core slot wr) := ite_wf (State.updGroup_wf h) (endWait_wf (State.updGroup_wf h))

theorem sideFaultAt_wf {fva : BitVec 64} (h : memWf s) : memWf (sideFaultAt s core storer fva) := by
  unfold sideFaultAt
  dsimp only
  split
  · exact State.updCore_wf h
  · exact updInst_wf (State.updCore_wf h)

theorem sideFault_wf (h : memWf s) : memWf (sideFault s core storer) := sideFaultAt_wf h

end

section
/-! ### Dir -/
variable {s : State} {code line core grp thr : Nat} {owner : BitVec 30} {ar a : BitVec 12} {rg : BitVec 2} {g : BitVec 4} {p : Packet}
  {e : LockEntry}

theorem sendLockAs_wf {gn : BitVec 4} (h : memWf s) : memWf (sendLockAs s code line core grp thr owner ar gn rg) := h
theorem sendLock_wf (h : memWf s) : memWf (sendLock s code line core grp thr owner) := h
theorem installLine_wf {st : BitVec 2} {secs : BitVec 4} (h : memWf s) : memWf (installLine s core line st secs a g) := h
theorem pinLine_wf (h : memWf s) : memWf (pinLine s core line a g) := h
theorem dropLine_wf (h : memWf s) : memWf (dropLine s core line) := h
theorem setDir_wf {d : DirEntry} (h : memWf s) : memWf (setDir s line d) := h
theorem refuse_wf {count : Bool} (h : memWf s) : memWf (refuse s p line count) := h
theorem lapse_wf (h : memWf s) : memWf (lapse s line) := h
theorem settleResv_wf (h : memWf s) : memWf (settleResv s) := foldl_wf _ (fun _ _ hs1 => lapse_wf hs1) _ h
theorem serviced_wf (h : memWf s) : memWf (serviced s line) := h
theorem freeLock_wf (h : memWf s) : memWf (freeLock s line e) := h

theorem grantTo_wf {own : BitVec 30} {trail : List TrailNode} {status : BitVec 4} (h : memWf s) :
    memWf (grantTo s line core grp thr ar rg own trail status) := send_wf (setDir_wf (retake_wf _ _ h))

theorem grantNext_wf (h : memWf s) : memWf (grantNext s line e) := by
  unfold grantNext
  dsimp only
  split
  · exact setDir_wf (freeLock_wf h)
  · exact ite_wf (setDir_wf h) (grantTo_wf h)

theorem completeReq_wf (h : memWf s) : memWf (completeReq s line p) := by
  unfold completeReq
  dsimp only
  split
  · exact ite_wf (send_wf (setDir_wf h)) (ite_wf (send_wf (setDir_wf h)) (send_wf (setDir_wf h)))
  · exact send_wf (setDir_wf h)
  · exact send_wf (setDir_wf h)
  · exact send_wf (setDir_wf (foldl_wf _ (fun _ _ hs1 => ownWord_wf _ _ _ _ hs1) _ h))
  · split
    · exact send_wf (grantNext_wf h)
    · exact send_wf (grantNext_wf h)
    · exact grantNext_wf h
    · exact grantTo_wf h
    · exact grantTo_wf h

theorem awaitCores_wf {cs : List Nat} {p room : Option Packet} {msgs : List Packet} (h : memWf s) :
    memWf (awaitCores s line cs p room msgs) := h

theorem serveExclusive_wf (h : memWf s) : memWf (serveExclusive s line p) := ite_wf (completeReq_wf h) (awaitCores_wf h)
theorem backToQueue_wf (h : memWf s) : memWf (backToQueue s p) := h
theorem freeDir_wf (h : memWf s) : memWf (freeDir s line) := h
theorem recallVictim_wf (h : memWf s) : memWf (recallVictim s line p) := ite_wf (backToQueue_wf (freeDir_wf h)) (awaitCores_wf h)
theorem recallEntry_wf (h : memWf s) : memWf (recallEntry s line) := ite_wf h (awaitCores_wf h)

theorem takeAnswer_wf (h : memWf s) : memWf (takeAnswer s line core) := by
  unfold takeAnswer
  dsimp only
  split
  · exact h
  · split
    · exact setDir_wf h
    · split
      · exact completeReq_wf (setDir_wf h)
      · split
        · exact backToQueue_wf (freeDir_wf h)
        · exact setDir_wf h

end

section
/-! ### Flush -/
variable {s : State} {p : Packet} {core line slot page size : Nat}

theorem dropTlb_wf {p : TlbEntry → Bool} (h : memWf s) : memWf (dropTlb s p) := h
theorem forgetPte_wf {at_ : Nat} (h : memWf s) : memWf (forgetPte s at_) := h

theorem giveUpLine_wf (h : memWf s) : memWf (giveUpLine s core line) := by
  unfold giveUpLine
  split
  · exact h
  · exact ite_wf (flushLine_wf _ _ h) (evictLine_wf _ _ _ h)

theorem markFills_wf {p : Nat → Bool} (h : memWf s) : memWf (markFills s core p) := h
theorem setFlush_wf {g : Flush → Flush} (h : memWf s) : memWf (setFlush s core slot g) := h

theorem startFlush_wf {e : BitVec 64} (h : memWf s) :
    memWf (startFlush s core slot page size e) := foldl_wf _ (fun _ _ hs1 => sendReq_wf hs1) _ h

theorem sendPfl_wf {f : Flush} (h : memWf s) : memWf (sendPfl s f line) := h

theorem execPfl_wf (h : memWf s) : outWf (execPfl p s) := by
  unfold execPfl
  refine deliverIf_wf h (fun _ ht => ?_)
  dsimp only
  refine send_wf ?_
  split
  · exact ht
  · exact foldl_wf _ (fun _ _ hs1 => giveUpLine_wf hs1) _ (markFills_wf ht)

theorem clearPage_wf {home : Nat} (h : memWf s) : memWf (clearPage s page size home) := foldl_wf _ (fun _ _ hs1 => setDir_wf hs1) _ h

theorem execPackMessage_wf (h : memWf s) : outWf (execPackMessage p s) := by
  unfold execPackMessage
  refine deliverIf_wf h (fun _ ht => ?_)
  dsimp only
  split
  · exact ht
  · split
    · exact setFlush_wf ht
    · exact ite_wf (clearPage_wf (setFlush_wf ht)) (clearPage_wf (setFlush_wf ht))

theorem endLineReq_wf (h : memWf s) : memWf (endLineReq s p) := h

theorem flushAcked_wf {s0 : State} (h : memWf s0) : memWf (flushAcked s0 p) := by
  unfold flushAcked
  dsimp only
  have h1 : memWf (endLineReq s0 p) := endLineReq_wf h
  generalize endLineReq s0 p = s at h1 ⊢
  split
  · exact h1
  · split
    · exact setFlush_wf h1
    · have h2 : ∀ l q, memWf (dropTlb { s with flushes := l } q) := fun _ _ => dropTlb_wf (flushes_wf h1)
      split
      · exact endAnswered_wf (selfInv_wf (forgetPte_wf (h2 _ _)))
      · exact h2 _ _

end

section
/-! ### Life -/
variable {s : State} {core slot inst : Nat}

theorem releaseBlocks_wf {n : Nat} (h : memWf s) : memWf (releaseBlocks s core slot n) := h

theorem coreUse_wf {d : Int} (h : memWf s) :
    memWf (coreUse s core inst d) := foldl_wf _ (fun _ _ hs1 => ite_wf hs1 (setRegion_wf hs1)) _ h

theorem leaveCounts_wf (h : memWf s) : memWf (leaveCounts s core inst) := addUse_wf (addUse_wf (coreUse_wf h))
theorem leaveCore_wf (h : memWf s) : memWf (leaveCore s core inst) := updInst_wf (State.updCore_wf (leaveCounts_wf h))
theorem tryLeave_wf (h : memWf s) : memWf (tryLeave s core inst) := ite_wf (leaveCore_wf h) h

theorem unpair_wf (h : memWf s) : memWf (unpair s core slot) := by
  unfold unpair
  dsimp only
  split
  · exact h
  · exact State.updGroup_wf (State.updGroup_wf h)

theorem endGroup_wf (h : memWf s) : memWf (endGroup s core slot) := tryLeave_wf (State.setGroup_wf (addUse_wf (unpair_wf h)))
theorem killTask_wf {tcb : Nat} {f : FaultInfo} (h : memWf s) : memWf (killTask s tcb inst f) := ite_wf h h

end

section
/-! ### Operands -/
variable {s : State} {sh : Shape} {w : Wait} {x : Ctx} {flags : Option Flags} {f : Group → Group} {d : BitVec 8}

theorem startGroup_wf {k : Ctx → State → State} (hs : memWf s) (hk : ∀ (x : Ctx) (t : State), memWf t → memWf (k x t)) :
    outWf (startGroup s sh k) := by
  unfold startGroup
  dsimp only
  split
  · exact outWf_next hs
  · split
    · exact outWf_next (trapCode_wf hs)
    · split
      · split
        · refine outWf_next ?_
          refine retire_wf ?_
          split
          · exact watch_wf (State.setCur_wf hs)
          · exact State.setCur_wf hs
        · refine outWf_next ?_
          refine hk _ _ ?_
          split
          · exact watch_wf (State.setCur_wf hs)
          · exact State.setCur_wf hs
      · split
        · refine outWf_next ?_
          refine retire_wf ?_
          split
          · exact watch_wf (State.setCur_wf hs)
          · exact State.setCur_wf hs
        · refine outWf_next ?_
          refine hk _ _ ?_
          split
          · exact watch_wf (State.setCur_wf hs)
          · exact State.setCur_wf hs

theorem retry_wf (h : memWf s) : memWf (retry s w) := h

theorem enterWait_wf (h : memWf s) : memWf (enterWait x s w) := by
  unfold enterWait
  dsimp only
  split
  · exact State.updCur_wf h
  · exact haltGroup_wf (State.updCur_wf (State.updCur_wf h))

theorem Res.orElse_wf {α : Type} {r : Res α} {s0 : State} {k : α → State} (hs0 : memWf s0) (hs : memWf s) (hk : ∀ (a : α), memWf (k a)) :
    memWf (r.orElse s0 s k) := by
  unfold Res.orElse
  split
  · exact hk _
  · exact trap_wf hs
  · exact waitXlat_wf hs0
  · exact retry_wf hs0

theorem commitLane_wf {rs : List ThrRes} (h : memWf s) : memWf (commitLane x s rs) := retire_wf (State.updCur_wf (watch_wf (watch_wf h)))

theorem commitUni_wf {ds : List (BitVec 8)} {vals : List Word} {f : State → State} (hs : memWf s)
    (hf : ∀ (t : State), memWf t → memWf (f t)) :
    memWf (commitUni x s ds vals flags f) := ite_wf (retire_wf (watch_wf (watch_wf hs))) (retire_wf (hf _ (watch_wf (watch_wf hs))))

theorem commitGroup_wf (h : memWf s) : memWf (commitGroup x s f) := commitUni_wf h (fun _ ht => State.updCur_wf ht)
theorem commitTo_wf {pc : BitVec 48} (h : memWf s) : memWf (commitTo x s pc f) := commitGroup_wf (State.updCur_wf h)
theorem commitScal_wf {v : Word} (h : memWf s) : memWf (commitScal x s d v flags) := commitUni_wf h (fun _ ht => State.updCur_wf ht)

theorem commitScal64_wf {v : BitVec 64} (h : memWf s) :
    memWf (commitScal64 x s d v flags) := commitUni_wf h (fun _ ht => State.updCur_wf ht)

theorem arith_wf {f : (BitVec 8 → Word) → Word × Flags} (h : memWf s) : outWf (arith s sh d f) := by
  unfold arith
  refine startGroup_wf h (fun _ _ ht => ?_)
  dsimp only
  exact ite_wf (commitScal_wf ht) (commitLane_wf ht)

theorem compare_wf {srcs : List (BitVec 8)} {f : (BitVec 8 → Word) → Word × Bool × Flags} (h : memWf s) :
    outWf (compare s sh d srcs f) := by
  unfold compare
  refine startGroup_wf h (fun _ _ ht => ?_)
  dsimp only
  split
  · exact ite_wf (commitLane_wf ht) (commitUni_wf ht (fun _ ht1 => State.updCur_wf ht1))
  · exact ite_wf (commitScal_wf ht) (commitLane_wf ht)

end

section
/-! ### Memory -/
variable {s : State} {ps : List Placed} {w : Nat} {acq rel legal : Bool} {d a b : BitVec 8} {op : AtomOp}

theorem issue_wf {s0 : State} {x : Ctx} {t : State} {scr once : Bool} {checked : Res (List Placed)} {ws : Nat → List Word} {k : List
    Placed → State → State} (hs0 : memWf s0) (ht : memWf t) (hk : ∀ (l : List Placed) (t1 : State), memWf t1 → memWf (k l t1)) :
    memWf (issue s0 x t scr once checked ws k) := by
  unfold issue
  refine Res.orElse_wf hs0 ht (fun _ => ?_)
  dsimp only
  exact ite_wf (retire_wf (watch_wf (watch_wf ht))) (retire_wf (hk _ _ (watch_wf (watch_wf ht))))

theorem enterAll_wf {cls : Nat} {dst : List (BitVec 8)} {mk : Placed → Access} (h : memWf s) :
    memWf (enterAll s cls dst mk ps) := ite_wf h (addAsks_wf (State.updCur_wf h))

theorem loadInstr_wf (h : memWf s) : outWf (loadInstr s w acq d a b) := by
  unfold loadInstr
  dsimp only
  exact startGroup_wf h (fun _ _ ht => issue_wf h ht (fun _ _ ht1 => enterAll_wf ht1))

theorem storeInstr_wf (h : memWf s) : outWf (storeInstr s w rel d a b) := by
  unfold storeInstr
  dsimp only
  exact startGroup_wf h (fun _ _ ht => issue_wf h ht (fun _ _ ht1 => enterAll_wf ht1))

theorem execLdb_wf (h : memWf s) : outWf (execLdb d a b s) := loadInstr_wf h
theorem execLdh_wf (h : memWf s) : outWf (execLdh d a b s) := loadInstr_wf h
theorem execLdw_wf (h : memWf s) : outWf (execLdw d a b s) := loadInstr_wf h
theorem execLdd_wf (h : memWf s) : outWf (execLdd d a b s) := loadInstr_wf h
theorem execLdq_wf (h : memWf s) : outWf (execLdq d a b s) := loadInstr_wf h
theorem execStb_wf (h : memWf s) : outWf (execStb d a b s) := storeInstr_wf h
theorem execSth_wf (h : memWf s) : outWf (execSth d a b s) := storeInstr_wf h
theorem execStw_wf (h : memWf s) : outWf (execStw d a b s) := storeInstr_wf h
theorem execStd_wf (h : memWf s) : outWf (execStd d a b s) := storeInstr_wf h
theorem execStq_wf (h : memWf s) : outWf (execStq d a b s) := storeInstr_wf h
theorem execLdacq_wf (h : memWf s) : outWf (execLdacq d a b s) := loadInstr_wf h
theorem execStrel_wf (h : memWf s) : outWf (execStrel d a b s) := storeInstr_wf h
theorem pinAll_wf {core inst : Nat} (h : memWf s) : memWf (pinAll s core inst w ps) := foldl_wf _ (fun _ _ hs1 => pinRange_wf hs1) _ h

theorem execLds_wf {w : BitVec 3} (h : memWf s) : outWf (execLds d a w s) := by
  unfold execLds
  dsimp only
  exact startGroup_wf h (fun _ _ ht => issue_wf h ht (fun _ _ ht1 => enterAll_wf (pinAll_wf ht1)))

theorem execSts_wf {w : BitVec 3} (h : memWf s) : outWf (execSts d a w s) := by
  unfold execSts
  dsimp only
  exact startGroup_wf h (fun _ _ ht => issue_wf h ht (fun _ _ ht1 => enterAll_wf (pinAll_wf ht1)))

theorem execPref_wf (h : memWf s) : outWf (execPref a b s) := by
  unfold execPref
  refine startGroup_wf h (fun _ _ ht => ?_)
  dsimp only
  exact ite_wf (waitXlat_wf h) (retire_wf (addAsks_wf ht))

theorem fenceInstr_wf (h : memWf s) : outWf (fenceInstr s acq rel) := by
  unfold fenceInstr
  refine startGroup_wf h (fun _ _ ht => ?_)
  dsimp only
  exact commitGroup_wf (ite_wf (selfInv_wf ht) ht)

theorem execFenceA_wf (h : memWf s) : outWf (execFenceA s) := fenceInstr_wf h
theorem execFenceR_wf (h : memWf s) : outWf (execFenceR s) := fenceInstr_wf h
theorem execFenceAr_wf (h : memWf s) : outWf (execFenceAr s) := fenceInstr_wf h

theorem atomicInstr_wf {cas : Bool} (h : memWf s) : outWf (atomicInstr s op legal cas d a b) := by
  unfold atomicInstr
  dsimp only
  exact startGroup_wf h (fun _ _ ht => issue_wf h ht (fun _ _ ht1 => enterAll_wf ht1))

theorem execAadd_wf (h : memWf s) : outWf (execAadd d a b s) := atomicInstr_wf h
theorem execAfadd_wf (h : memWf s) : outWf (execAfadd d a b s) := atomicInstr_wf h
theorem execAmin_wf (h : memWf s) : outWf (execAmin d a b s) := atomicInstr_wf h
theorem execAmax_wf (h : memWf s) : outWf (execAmax d a b s) := atomicInstr_wf h
theorem execAand_wf (h : memWf s) : outWf (execAand d a b s) := atomicInstr_wf h
theorem execAor_wf (h : memWf s) : outWf (execAor d a b s) := atomicInstr_wf h
theorem execAxor_wf (h : memWf s) : outWf (execAxor d a b s) := atomicInstr_wf h
theorem execAxchg_wf (h : memWf s) : outWf (execAxchg d a b s) := atomicInstr_wf h
theorem execAcas_wf (h : memWf s) : outWf (execAcas d a b s) := atomicInstr_wf h

theorem reduceInstr_wf (h : memWf s) : outWf (reduceInstr s op legal a b) := by
  unfold reduceInstr
  refine startGroup_wf h (fun _ _ ht => ?_)
  dsimp only
  exact issue_wf h ht (fun _ _ ht1 => enterAll_wf ht1)

theorem execRedadd_wf (h : memWf s) : outWf (execRedadd a b s) := reduceInstr_wf h
theorem execRedfadd_wf (h : memWf s) : outWf (execRedfadd a b s) := reduceInstr_wf h
theorem execRedmin_wf (h : memWf s) : outWf (execRedmin a b s) := reduceInstr_wf h
theorem execRedmax_wf (h : memWf s) : outWf (execRedmax a b s) := reduceInstr_wf h
theorem execRedor_wf (h : memWf s) : outWf (execRedor a b s) := reduceInstr_wf h

end

section
/-! ### Serve -/
variable {s : State} {p : Packet} {k : State → State}

theorem asked_wf (h : memWf s) : optWf (asked s p) := nextRequest_wf h

theorem askedIf_wf {ok : Bool} (h : memWf s) (hk : ∀ t, memWf t → memWf (k t)) :
    outWf (askedIf s p ok k) := by
  cases ok with
  | false => exact outWf_next h
  | true =>
    have ha : optWf (asked s p) := asked_wf h
    cases e : asked s p with
    | none => simp only [askedIf, e, if_true]; exact outWf_next h
    | some t => simp only [askedIf, e, if_true]; exact outWf_next (hk t (ha t e))

theorem withRoom_wf {line : Nat} (hs : memWf s) (hk : ∀ (t : State), memWf t → memWf (k t)) : memWf (withRoom s line p k) := by
  unfold withRoom
  split
  · exact hk _ hs
  · exact recallVictim_wf hs
  · exact refuse_wf hs

end

section
/-! ### Sync -/
variable {x : Ctx} {t s : State} {core slot : Nat} {a b d : BitVec 8} {q : BitVec 3} {p : Popping}

theorem commitOnce_wf {f : State → State} (ht : memWf t) (hf : ∀ (t1 : State), memWf t1 → memWf (f t1)) :
    memWf (commitOnce x t f) := commitUni_wf ht (fun _ ht1 => hf _ ht1)

theorem watchOnce_wf {shown : List Shown} {k : Ctx → State → State} (ht : memWf t)
    (hk : ∀ (x1 : Ctx) (t1 : State), memWf t1 → memWf (k x1 t1)) :
    memWf (watchOnce x t shown k) := ite_wf (retire_wf (watch_wf ht)) (hk _ _ (watch_wf ht))

theorem startCopy_wf {k : Nat} {cmd : CopyCmd} {y : Copy} (h : memWf s) : memWf (startCopy s core k cmd y) := h

theorem copyInstr_wf {useDir : Bool} (h : memWf s) : outWf (copyInstr s useDir a b) := by
  unfold copyInstr
  dsimp only
  refine startGroup_wf h (fun _ _ ht => ?_)
  split
  · exact commitOnce_wf ht (fun _ ht1 => ht1)
  · split
    · exact trap_wf ht
    · split
      · exact retry_wf h
      · exact watchOnce_wf ht (fun _ _ ht1 => commitOnce_wf ht1 (fun _ ht11 => startCopy_wf (State.setCur_wf ht11)))

theorem execCpy_wf (h : memWf s) : outWf (execCpy a b s) := copyInstr_wf h
theorem execCpys_wf (h : memWf s) : outWf (execCpys a b s) := copyInstr_wf h

theorem tagWait_wf {all : Bool} (h : memWf s) : outWf (tagWait s all a) := by
  unfold tagWait
  refine startGroup_wf h (fun _ _ ht => ?_)
  dsimp only
  split
  · exact commitOnce_wf ht (fun _ ht1 => ht1)
  · exact ite_wf (commitOnce_wf ht (fun _ ht1 => selfInv_wf ht1)) (enterWait_wf ht)

theorem execTagwany_wf (h : memWf s) : outWf (execTagwany a s) := tagWait_wf h
theorem execTagwall_wf (h : memWf s) : outWf (execTagwall a s) := tagWait_wf h

theorem execTagff_wf (h : memWf s) : outWf (execTagff d a s) := by
  unfold execTagff
  refine startGroup_wf h (fun _ _ ht => ?_)
  dsimp only
  split
  · exact commitOnce_wf ht (fun _ ht1 => ht1)
  · exact commitOnce_wf ht (fun _ ht1 => State.updCur_wf (ite_wf ht1 (selfInv_wf ht1)))

theorem execTagclr_wf (h : memWf s) : outWf (execTagclr a s) := by
  unfold execTagclr
  refine startGroup_wf h (fun _ _ ht => ite_wf (commitOnce_wf ht (fun _ ht1 => ht1)) (commitOnce_wf ht (fun _ ht1 => State.updCore_wf
      ht1)))

theorem barrierInstr_wf {legalB : Bool} {bRegs : List (BitVec 8)} {rel : Bool} {kind : Ctx → AccKind} {val : Ctx → BitVec 64}
    (h : memWf s) :
    outWf (barrierInstr s a legalB bRegs rel kind val) := by
  unfold barrierInstr
  refine startGroup_wf h (fun _ _ ht => ?_)
  dsimp only
  split
  · exact commitOnce_wf ht (fun _ ht1 => ht1)
  · split
    · exact trap_wf ht
    · exact waitXlat_wf h
    · exact commitOnce_wf ht (fun _ ht1 => enterAll_wf (ite_wf (pinRange_wf ht1) ht1))

theorem execBarinit_wf (h : memWf s) : outWf (execBarinit a b s) := barrierInstr_wf h
theorem execBararr_wf (h : memWf s) : outWf (execBararr a b s) := barrierInstr_wf h
theorem execBarexp_wf (h : memWf s) : outWf (execBarexp a b s) := barrierInstr_wf h

theorem execWaitph_wf (h : memWf s) : outWf (execWaitph d a b s) := by
  unfold execWaitph
  refine startGroup_wf h (fun _ _ ht => ?_)
  dsimp only
  split
  · exact commitOnce_wf ht (fun _ ht1 => ht1)
  · split
    · exact trap_wf ht
    · exact waitXlat_wf h
    · split
      · exact ite_wf (trap_wf ht) (commitOnce_wf (ite_wf (pinRange_wf ht) ht) (fun _ ht1 => ht1))
      · exact enterWait_wf (ite_wf (pinRange_wf ht) ht)

theorem execCntwait_wf {k : BitVec 3} {n : BitVec 16} (h : memWf s) : outWf (execCntwait k n s) := by
  unfold execCntwait
  refine startGroup_wf h (fun _ _ ht => ite_wf (commitOnce_wf ht (fun _ ht1 => selfInv_wf ht1)) (enterWait_wf ht))

theorem execEnq_wf (h : memWf s) : outWf (execEnq d a q s) := by
  unfold execEnq
  dsimp only
  refine startGroup_wf h (fun _ _ ht => ite_wf (trap_wf ht) (ite_wf (retire_wf ht) (ite_wf (retire_wf (watch_wf ht)) (retire_wf (ite_wf
      (watch_wf ht) (State.updCur_wf (watch_wf ht)))))))

theorem offerEntry_wf {born : Option Nat} {pc : BitVec 48} {t : Nat} (h : memWf p.st) : memWf (offerEntry born core slot pc p t).st := by
  unfold offerEntry
  dsimp only
  split
  · exact h
  · split
    · split <;> exact watchFrom_wf h
    · exact watchFrom_wf h

theorem popEntries_wf {s : State} {born : Option Nat} {core slot q : Nat} {pc : BitVec 48} {ts : List Nat} (h : memWf s) :
    memWf (popEntries s born core slot q pc ts).st := by
  have run (p : Popping) (hp : memWf p.st) : memWf (ts.foldl (offerEntry born core slot pc) p).st := by
    induction ts generalizing p with
    | nil => exact hp
    | cons t ts ih => exact ih _ (offerEntry_wf hp)
  exact run _ h

theorem popTaken_wf {q : Nat} (h : memWf p.st) : memWf (popTaken p core slot q) := ite_wf (queueTake_wf h) (selfInv_wf (queueTake_wf h))

theorem execDeq_wf (h : memWf s) : outWf (execDeq d a q s) := by
  unfold execDeq
  dsimp only
  refine startGroup_wf h (fun _ _ ht => ite_wf (trap_wf ht) (ite_wf (retire_wf ht) (ite_wf (ite_wf (retire_wf (popEntries_wf ht))
      (retire_wf (State.updCur_wf (popTaken_wf (popEntries_wf ht))))) (ite_wf (retry_wf h) (retire_wf (State.updCur_wf ht))))))

theorem execMonitor_wf (h : memWf s) : outWf (execMonitor a s) := by
  unfold execMonitor
  refine startGroup_wf h (fun _ _ ht => ?_)
  dsimp only
  split
  · exact commitOnce_wf ht (fun _ ht1 => ht1)
  · split
    · exact trap_wf ht
    · exact waitXlat_wf h
    · exact commitOnce_wf ht (fun _ ht1 => State.updCur_wf ht1)

theorem execMwait_wf (h : memWf s) : outWf (execMwait a s) := by
  unfold execMwait
  refine startGroup_wf h (fun _ _ ht => ?_)
  split
  · exact commitOnce_wf ht (fun _ ht1 => ht1)
  · split
    · exact commitOnce_wf ht (fun _ ht1 => ht1)
    · exact ite_wf (commitOnce_wf ht (fun _ ht1 => ht1)) (enterWait_wf (State.updCur_wf ht))

end

end Sys2Proof.Machine
end

section
/-! PROOFS. Every operation keeps the canonical form of both memories, part 2 of 5: one lemma for each operation, in the order of the
model's files. Most of them change other parts of the state, through operations that came before; only the writes of Laws/Memory.lean and
the clearing of memory at boot change a memory. -/
namespace Sys2Proof.Machine

section
/-! ### Locks -/
variable {x : Ctx} {t s : State} {try_ : Bool} {d a : BitVec 8} {line core : Nat} {p : Packet}

theorem lockStart_wf {s0 : State} {ar : BitVec 12} {gn : BitVec 4} {rg : BitVec 2} (hs0 : memWf s0) (ht : memWf t) :
    memWf (lockStart s0 x t try_ d line ar gn rg) := by
  unfold lockStart
  dsimp only
  split
  · exact commitOnce_wf ht (fun _ ht1 => State.updCur_wf (selfInv_wf ht1))
  · split
    · exact commitOnce_wf ht (fun _ ht1 => State.updCur_wf (ite_wf (selfInv_wf ht1) ht1))
    · split
      · exact retry_wf hs0
      · split
        · exact commitOnce_wf ht (fun _ ht1 => State.updCur_wf (ite_wf (selfInv_wf ht1) ht1))
        · split
          · exact commitOnce_wf ht (fun _ ht1 => State.updCur_wf (ite_wf (selfInv_wf ht1) ht1))
          · split
            · exact retry_wf hs0
            · next e => exact enterWait_wf (sendLockAs_wf (memWf_of_some e (takeWay_optWf ht)))

theorem lockInstr_wf {legal : Bool} {more : List (BitVec 8)} (h : memWf s) : outWf (lockInstr s try_ legal d a more) := by
  unfold lockInstr
  refine startGroup_wf h (fun _ _ ht => ?_)
  dsimp only
  split
  · exact commitOnce_wf ht (fun _ ht1 => ht1)
  · split
    · exact trap_wf ht
    · exact waitXlat_wf h
    · exact watchOnce_wf ht (fun _ _ ht1 => lockStart_wf h ht1)

theorem execLock_wf {b : BitVec 8} (h : memWf s) : outWf (execLock d a b s) := lockInstr_wf h
theorem execTrylock_wf (h : memWf s) : outWf (execTrylock d a s) := lockInstr_wf h

theorem unlockCheck_wf {k : Nat → BitVec 12 → BitVec 4 → BitVec 2 → State} (hs : memWf s) (ht : memWf t)
    (hk : ∀ (n : Nat) (v : BitVec 12) (v1 : BitVec 4) (v2 : BitVec 2), memWf (k n v v1 v2)) :
    memWf (unlockCheck s x t a k) := by
  unfold unlockCheck
  dsimp only
  split
  · exact commitOnce_wf ht (fun _ ht1 => ht1)
  · split
    · exact trap_wf ht
    · exact waitXlat_wf hs
    · exact hk _ _ _ _

theorem execUnlock_wf (h : memWf s) :
    outWf (execUnlock a s) :=
  startGroup_wf h (fun _ _ ht => unlockCheck_wf h ht (fun _ _ _ _ => commitOnce_wf ht (fun _ ht1 => State.updCur_wf ht1)))

theorem execLkprobe_wf (h : memWf s) :
    outWf (execLkprobe d a s) := startGroup_wf h (fun _ _ ht => unlockCheck_wf h ht (fun _ _ _ _ => enterWait_wf (sendLockAs_wf ht)))

theorem execLkfree_wf (h : memWf s) : outWf (execLkfree d a s) := by
  unfold execLkfree
  refine startGroup_wf h (fun _ _ ht => unlockCheck_wf h ht (fun _ _ _ _ => ite_wf (enterWait_wf (sendLockAs_wf ht)) (retry_wf h)))

theorem lockMessage_wf {code : Nat} {k : State → State} (hs : memWf s) (hk : ∀ (t : State), memWf t → memWf (k t)) :
    outWf (lockMessage s code p k) := by
  unfold lockMessage
  refine askedIf_wf hs (fun _ ht => ?_)
  dsimp only
  exact ite_wf (hk _ ht) (refuse_wf ht)

theorem grantFree_wf (h : memWf s) :
    memWf (grantFree s line p) := ite_wf (refuse_wf h) (withRoom_wf h (fun _ ht => serveExclusive_wf (serviced_wf ht)))

theorem lockAtHome_wf (h : memWf s) : memWf (lockAtHome s line p) := by
  unfold lockAtHome
  dsimp only
  split
  · exact grantFree_wf h
  · split
    · exact send_wf (serviced_wf h)
    · split
      · exact refuse_wf h
      · split <;> exact h

theorem execLkrqLock_wf (h : memWf s) : outWf (execLkrqLock p s) := lockMessage_wf h (fun _ ht => lockAtHome_wf ht)
theorem execLkrqTrylock_wf (h : memWf s) : outWf (execLkrqTrylock p s) := lockMessage_wf h (fun _ ht => lockAtHome_wf ht)
theorem recallHolder_wf (h : memWf s) : memWf (recallHolder s line core p) := awaitCores_wf (serviced_wf h)

theorem execLkrqUnlock_wf (h : memWf s) : outWf (execLkrqUnlock p s) := by
  unfold execLkrqUnlock
  refine lockMessage_wf h (fun _ ht => ?_)
  split
  · exact recallHolder_wf ht
  · exact send_wf (serviced_wf ht)

theorem wakeWalker_wf (h : memWf s) : memWf (wakeWalker s line) := h

theorem execLkrqProbe_wf (h : memWf s) : outWf (execLkrqProbe p s) := by
  unfold execLkrqProbe
  refine lockMessage_wf h (fun _ ht => ?_)
  dsimp only
  exact send_wf (wakeWalker_wf (serviced_wf ht))

theorem execLkrqFree_wf (h : memWf s) : outWf (execLkrqFree p s) := by
  unfold execLkrqFree
  refine lockMessage_wf h (fun _ ht => ?_)
  split
  · exact ite_wf (recallHolder_wf ht) (send_wf (serviced_wf ht))
  · exact send_wf (serviced_wf ht)

theorem putTrail_wf {e : LockEntry} {l : List TrailNode} (h : memWf s) : memWf (putTrail s line e l) := ite_wf (freeLock_wf h) h

theorem execLkrqUnlink_wf (h : memWf s) : outWf (execLkrqUnlink p s) := by
  unfold execLkrqUnlink
  refine lockMessage_wf h (fun _ ht => ?_)
  dsimp only
  split
  · exact send_wf (serviced_wf ht)
  · exact ite_wf (serviced_wf ht) (send_wf (putTrail_wf (serviced_wf ht)))

theorem execLkrqAbsent_wf (h : memWf s) : outWf (execLkrqAbsent p s) := by
  unfold execLkrqAbsent
  refine lockMessage_wf h (fun _ ht => ?_)
  dsimp only
  refine send_wf ?_
  split
  · exact serviced_wf ht
  · exact putTrail_wf (serviced_wf ht)

theorem execLkrqResume_wf (h : memWf s) : outWf (execLkrqResume p s) := by
  unfold execLkrqResume
  refine lockMessage_wf h (fun _ ht => ?_)
  dsimp only
  split
  · exact lockAtHome_wf ht
  · split
    · split
      · exact putTrail_wf (serviced_wf ht)
      · exact withRoom_wf (putTrail_wf (serviced_wf ht)) (fun _ ht1 => serveExclusive_wf ht1)
    · exact lockAtHome_wf ht

theorem execLkrqHoldmove_wf (h : memWf s) : outWf (execLkrqHoldmove p s) := by
  unfold execLkrqHoldmove
  refine lockMessage_wf h (fun _ ht => ?_)
  dsimp only
  split
  · exact send_wf (serviced_wf ht)
  · exact send_wf (setDir_wf (ite_wf (serviced_wf ht) (dropLine_wf (serviced_wf ht))))

theorem endLockReqs_wf {grp : Nat} (h : memWf s) : memWf (endLockReqs s core grp) := foldl_wf _ (fun _ _ hs1 => endReq_wf hs1) _ h

theorem lockGranted_wf (h : memWf s) : memWf (lockGranted s p) := by
  unfold lockGranted
  dsimp only
  split
  · split
    · exact endWait_wf (State.updGroup_wf (selfInv_wf (pinLine_wf (endLockReqs_wf h))))
    · exact dropEmpty_wf (endLockReqs_wf h)
  · split
    · exact dropEmpty_wf (endLockReqs_wf h)
    · split
      · exact State.updGroup_wf (pinLine_wf (endLockReqs_wf h))
      · exact endWait_wf (State.updGroup_wf (selfInv_wf (pinLine_wf (endLockReqs_wf h))))
  · split
    · exact State.updGroup_wf (pinLine_wf (endLockReqs_wf h))
    · exact dropEmpty_wf (endLockReqs_wf h)
  · exact dropEmpty_wf (endLockReqs_wf h)

theorem holdMoved_wf {status : Nat} (h : memWf s) :
    memWf (holdMoved s p status) := updInst_wf (ite_wf (State.updGroup_wf (endLineReq_wf h)) (pinLine_wf (endLineReq_wf h)))

theorem takeLockAck_wf (h : memWf s) : memWf (takeLockAck s p) := by
  unfold takeLockAck
  dsimp only
  split
  · exact holdMoved_wf h
  · split
    · exact endAnswered_wf (endReq_wf h)
    · exact endAnswered_wf (endReq_wf h)
    · exact endAnswered_wf (endReq_wf h)
    · exact endLockReqs_wf (endAnswered_wf (endReq_wf h))
    · exact endLockReqs_wf (State.updGroup_wf (endReq_wf h))
    · exact endReq_wf h

theorem lockAcked_wf (h : memWf s) : memWf (lockAcked s p) := dropEmpty_wf (takeLockAck_wf h)

theorem execLockTimeout_wf {slot : Nat} (h : memWf s) : outWf (execLockTimeout core slot s) := by
  unfold execLockTimeout
  dsimp only
  split
  · exact outWf_next (State.updGroup_wf (sendLock_wf h))
  · exact outWf_next h

theorem execDeadlockWalk_wf {node : Nat} (h : memWf s) : outWf (execDeadlockWalk line node s) := by
  unfold execDeadlockWalk
  dsimp only
  split
  · exact outWf_next h
  · split
    · exact outWf_next h
    · exact outWf_ite (outWf_next h) (outWf_ite (outWf_next (writeRecord_wf h)) (outWf_next h))

end

section
/-! ### Arena -/
variable {s : State} {a core slot r : Nat} {v : Word} {b d : BitVec 8} {g : BitVec 4} {p : Packet}

theorem putArena_wf {hi lo v : Nat} (h : memWf s) : memWf (putArena s a hi lo v) := h
theorem setBusy_wf {b : Bool} (h : memWf s) : memWf (setBusy s a b) := h

theorem arenaDone_wf {x : Ctx} {t : State} {f : State → State} (ht : memWf t) (hf : ∀ (t1 : State), memWf t1 → memWf (f t1)) :
    memWf (arenaDone x t d v f) := commitOnce_wf ht (fun _ ht1 => State.updCur_wf (hf _ ht1))

theorem arenaInstr_wf {srcs : List (BitVec 8)} {k : Ctx → State → State} (hs : memWf s)
    (hk : ∀ (x : Ctx) (t : State), memWf t → memWf (k x t)) :
    outWf (arenaInstr s d srcs k) := startGroup_wf hs (fun _ _ ht => ite_wf (commitOnce_wf ht (fun _ ht1 => ht1)) (hk _ _ ht))

theorem arenaEnd_wf (h : memWf s) : memWf (arenaEnd s core slot d v) := endAnswered_wf h
theorem startSweep_wf (h : memWf s) : memWf (startSweep s a core slot) := h
theorem settleSweeps_wf (h : memWf s) : memWf (settleSweeps s) := h

theorem execQsw_wf {reg : Nat} (h : memWf s) : outWf (execQsw reg s) := by
  unfold execQsw
  split <;> exact outWf_next h

theorem logDrop_wf (h : memWf s) : memWf (logDrop s a core slot) := h

theorem dropNext_wf {s : State} {core slot : Nat} {all : List Nat} {release : Bool} {d : BitVec 8} {todo : List Nat} (h : memWf s) :
    memWf (dropNext s core slot all release d todo) := by
  induction todo generalizing s with
  | nil => exact State.updGroup_wf h
  | cons a r ih =>
    unfold dropNext
    split
    · exact startSweep_wf (State.updGroup_wf h)
    · exact ih (logDrop_wf h)

theorem freeArenaNo_wf (h : memWf s) : memWf (freeArenaNo s a) := h

theorem dropsDone_wf (h : memWf s) : memWf (dropsDone s core slot) := by
  unfold dropsDone
  dsimp only
  split
  · split
    · exact h
    · refine arenaEnd_wf (selfInv_wf (foldl_wf _ (fun _ _ hs1 => ite_wf (freeArenaNo_wf (setBusy_wf hs1)) (setBusy_wf hs1)) _ h))
  · exact h

theorem execAdrop_wf {a : BitVec 8} {l r : BitVec 1} (h : memWf s) : outWf (execAdrop d a l r s) := by
  unfold execAdrop
  refine arenaInstr_wf h (fun _ _ ht => ?_)
  dsimp only
  split
  · split
    · exact retry_wf h
    · split
      · exact arenaDone_wf ht (fun _ ht1 => ht1)
      · split
        · exact arenaDone_wf ht (fun _ ht1 => ht1)
        · exact dropNext_wf (enterWait_wf (foldl_wf _ (fun _ _ hs1 => setBusy_wf hs1) _ ht))
  · split
    · exact retry_wf h
    · split
      · exact arenaDone_wf ht (fun _ ht1 => ht1)
      · split
        · exact arenaDone_wf ht (fun _ ht1 => ht1)
        · exact dropNext_wf (enterWait_wf (foldl_wf _ (fun _ _ hs1 => setBusy_wf hs1) _ ht))

theorem dropSlice_wf {c : Nat} (h : memWf s) : memWf (dropSlice s c a g) := by
  unfold dropSlice
  dsimp only
  generalize (s.l2.filter _).map Prod.fst = lines
  generalize h0 : lines.foldl _ s = s0
  have w0 : memWf s0 := by
    rw [← h0]
    refine foldl_wf _ (fun _ l ht => restoreLine_wf l ?_) _ h
    exact ht
  clear h0
  generalize h1 : List.foldl hitMonitors s0 _ = s1
  have w1 : memWf s1 := by
    rw [← h1]
    exact foldl_wf _ (fun _ _ ht => hitMonitors_wf ht) _ w0
  clear h1
  generalize h2 : List.foldl _ s1 _ = s2
  have w2 : memWf s2 := by
    rw [← h2]
    refine foldl_wf _ (fun _ _ ht => ?_) _ w1
    exact ht
  clear h2
  generalize h3 : List.foldl _ s2 _ = s3
  have w3 : memWf s3 := by
    rw [← h3]
    exact foldl_wf _ (fun _ _ ht => setDir_wf ht) _ w2
  clear h3
  exact w3

theorem dropCore_wf (h : memWf s) : memWf (dropCore s core a g) := h
theorem setDrop_wf {d : Drop} {f : Drop → Drop} (h : memWf s) : memWf (setDrop s d f) := h

theorem execDrop_wf (h : memWf s) : outWf (execDrop p s) := by
  unfold execDrop
  refine deliverIf_wf h (fun _ ht => ?_)
  dsimp only
  split
  · exact ht
  · split
    · exact send_wf (setDrop_wf (dropSlice_wf ht))
    · exact send_wf (setDrop_wf (dropCore_wf ht))

theorem execDack_wf (h : memWf s) : outWf (execDack p s) := by
  unfold execDack
  refine deliverIf_wf h (fun t ht => ?_)
  cases t.drops.find? _ with
  | none => exact ht
  | some d => exact dropsDone_wf ht

theorem execAnew_wf {a : BitVec 8} (h : memWf s) : outWf (execAnew d a b s) := by
  unfold execAnew
  refine arenaInstr_wf h (fun _ _ ht => ?_)
  dsimp only
  split
  · exact retry_wf h
  · split
    · exact arenaDone_wf ht (fun _ ht1 => ht1)
    · split
      · exact arenaDone_wf ht (fun _ ht1 => ht1)
      · split
        · exact arenaDone_wf ht (fun _ ht1 => ht1)
        · split
          · exact startSweep_wf (enterWait_wf (setBusy_wf (State.setArena_wf ht)))
          · exact arenaDone_wf (State.setArena_wf ht) (fun _ ht1 => ht1)

theorem execQuiesceSweepDone_wf (h : memWf s) : outWf (execQuiesceSweepDone s) := by
  unfold execQuiesceSweepDone
  dsimp only
  split
  · exact outWf_next h
  · split
    · exact outWf_next (arenaEnd_wf (setBusy_wf (putArena_wf h)))
    · exact outWf_next (dropNext_wf (putArena_wf h))
    · exact outWf_next (putArena_wf h)

theorem execAseal_wf {a : BitVec 8} (h : memWf s) : outWf (execAseal d a s) := by
  unfold execAseal
  refine arenaInstr_wf h (fun _ _ ht => ?_)
  dsimp only
  split
  · exact retry_wf h
  · split
    · exact arenaDone_wf ht (fun _ ht1 => ht1)
    · split
      · exact arenaDone_wf ht (fun _ ht1 => ht1)
      · exact ite_wf (arenaDone_wf ht (fun _ ht1 => ht1)) (ite_wf h (enterWait_wf (setBusy_wf ht)))

theorem recallArena_wf (h : memWf s) : memWf (recallArena s a) := foldl_wf _ (fun _ _ hs1 => recallEntry_wf hs1) _ h

theorem finishSeal_wf {z : Seal} (h : memWf s) : memWf (finishSeal s z) := by
  unfold finishSeal
  dsimp only
  split
  · exact arenaEnd_wf (selfInv_wf (setBusy_wf (putArena_wf (foldl_wf _ (fun _ _ hs1 => setDir_wf hs1) _ h))))
  · exact setBusy_wf (putArena_wf (foldl_wf _ (fun _ _ hs1 => setDir_wf hs1) _ h))

theorem execSealBroadcast_wf {arena : Nat} (h : memWf s) : outWf (execSealBroadcast core arena s) := by
  unfold execSealBroadcast
  dsimp only
  split
  · exact outWf_next h
  · split
    · split
      · exact outWf_next (State.setCore_wf h)
      · exact outWf_ite (outWf_next (foldl_wf _ (fun _ _ hs1 => giveUpLine_wf hs1) _ h)) (outWf_next h)
    · split
      · exact outWf_next h
      · split
        · exact outWf_next (ite_wf (finishSeal_wf h) h)
        · exact outWf_next (ite_wf (recallArena_wf h) h)

theorem execAquota_wf {a : BitVec 8} (h : memWf s) : outWf (execAquota d a b s) := by
  unfold execAquota
  refine arenaInstr_wf h (fun _ _ ht => ?_)
  dsimp only
  split
  · exact retry_wf h
  · split
    · exact arenaDone_wf ht (fun _ ht1 => ht1)
    · exact arenaDone_wf (putArena_wf ht) (fun _ ht1 => ht1)

theorem execAquery_wf {a : BitVec 8} (h : memWf s) : outWf (execAquery d a s) := by
  unfold execAquery
  refine startGroup_wf h (fun _ _ ht => ite_wf (commitOnce_wf ht (fun _ ht1 => ht1)) (commitOnce_wf ht (fun _ ht1 => State.updCur_wf
      ht1)))

theorem rejoin_wf {i : Nat} {x : Inst} (h : memWf s) :
    memWf (rejoin s i x) := ite_wf (ite_wf (setTaskState_wf h) h) (pushReady_wf (ite_wf (setTaskState_wf h) h))

theorem resumeRegion_wf (h : memWf s) :
    memWf (resumeRegion s r) := foldl_wf _ (fun _ _ hs1 => rejoin_wf hs1) _ (foldl_wf _ (fun _ _ hs1 => setRegion_wf hs1) _ h)

theorem syncRegion_wf {x : Region} (h : memWf s) :
    memWf (syncRegion s r x) := setRegion_wf (ite_wf (resumeRegion_wf (moveEntries_wf h)) (moveEntries_wf h))

theorem syncTask_wf {t : Nat} {x : Task} (h : memWf s) : memWf (syncTask s t x) := h

theorem syncBlock_wf {pa : Nat} (h : memWf s) : memWf (syncBlock s pa) := by
  unfold syncBlock
  dsimp only
  split
  · refine syncTask_wf ?_
    split
    · exact syncRegion_wf h
    · exact h
  · split
    · exact syncRegion_wf h
    · exact h

theorem execCbsync_wf {a : BitVec 8} (h : memWf s) : outWf (execCbsync a s) := by
  unfold execCbsync
  refine startGroup_wf h (fun _ _ ht => ?_)
  dsimp only
  split
  · exact trap_wf ht
  · split
    · exact commitOnce_wf ht (fun _ ht1 => ht1)
    · split
      · exact retry_wf h
      · split
        · exact commitOnce_wf ht (fun _ ht1 => selfInv_wf (syncBlock_wf ht1))
        · split
          · exact commitOnce_wf ht (fun _ ht1 => selfInv_wf ht1)
          · exact ite_wf (startFlush_wf (enterWait_wf ht)) (commitOnce_wf ht (fun _ ht1 => ht1))

end

section
/-! ### BootOps -/
variable {s : State} {r : BistReport}

theorem restartBoot_wf (h : memWf s) : memWf (restartBoot s) := reset_memWf
theorem storeSegment_wf {off : Nat} {bs : List Byte} (h : memWf s) : memWf (storeSegment s off bs) := h
theorem dropImage_wf (h : memWf s) : memWf (dropImage s) := h
theorem trainPorts_wf (h : memWf s) : memWf (trainPorts s r) := h
theorem stopBoot_wf {cause : Nat} (h : memWf s) : memWf (stopBoot s cause) := h
theorem initMemory_wf (_ : memWf s) : memWf (initMemory s) := reset_memWf
theorem deriveKeys_wf {helper : List Byte} (h : memWf s) : memWf (deriveKeys s helper) := h
theorem announceReady_wf {fresh : List Byte} (h : memWf s) : memWf (announceReady s fresh) := h

theorem bringUp_wf (h : memWf s) : memWf (bringUp s r) := by
  unfold bringUp
  dsimp only
  split
  · exact stopBoot_wf (ite_wf h h)
  · split
    · exact stopBoot_wf (initMemory_wf (trainPorts_wf h))
    · split
      · exact announceReady_wf (deriveKeys_wf (initMemory_wf (trainPorts_wf h)))
      · split
        · exact stopBoot_wf (initMemory_wf (trainPorts_wf h))
        · exact announceReady_wf (deriveKeys_wf (initMemory_wf (trainPorts_wf h)))

end

section
/-! ### Credit -/
variable {s : State} {core : Nat}

theorem wqPut_wf {e : WqEntry} (h : memWf s) : memWf (wqPut s e) := h

theorem creditAt_wf {inst : Nat} {va : BitVec 64} {arrivals bytes : Nat} {poison : Bool} (h : memWf s) :
    resWf (creditAt s core inst va arrivals bytes poison) := by
  unfold creditAt
  split
  · exact resWf_fault _
  · exact resWf_wait _
  · split
    · exact resWf_ok (scratchBarrier_wf (pinRange_wf h))
    · exact resWf_ok (wqPut_wf h)

theorem creditFails_wf {i : Nat} {c : Cause} (h : memWf s) : memWf (creditFails s core i c) := updInst_wf h

end

section
/-! ### Port -/
variable {s : State} {pa page ep code stat : Nat} {bs : List Byte} {arg1 : BitVec 48}

theorem portWant_wf {len : Nat} {write : Bool} (h : memWf s) :
    memWf (portWant s pa len write) := foldl_wf _ (fun _ _ hs1 => wantPage_wf hs1) _ h

theorem writeFree_wf (h : memWf s) : memWf (writeFree s pa bs) := foldl_wf _ (fun _ _ hs1 => ite_wf hs1 (hwWrite_wf _ _ hs1)) _ h

theorem flushPage_wf {size : Nat} (h : memWf s) :
    memWf (flushPage s page size) :=
  dropTlb_wf (foldl_wf _ (fun _ _ hs1 => setDir_wf hs1) _
    (foldl_wf _ (fun _ _ hs1 => foldl_wf _ (fun _ _ hs2 => flushLine_wf _ _ hs2) _ hs1) _ h))

theorem setPage_wf {pg : Nat} {c : CohPage} (h : memWf s) : memWf (setPage s pg c) := h

theorem sessionTo_wf (h : memWf s) : memWf (sessionTo s ep).1 := by
  unfold sessionTo
  dsimp only
  split
  · exact h
  · split
    · exact setSession_wf h
    · exact h

theorem sendPage_wf {n : Nat} {payload : List Byte} (h : memWf s) : memWf (sendPage s n code page arg1 stat payload) := h
theorem sendManager_wf (h : memWf s) : memWf (sendManager s code page arg1 stat) := h
theorem sendData_wf (h : memWf s) : memWf (sendData s ep page) := foldl_wf _ (fun _ _ hs1 => sendPage_wf hs1) _ (sessionTo_wf h)
theorem beginHand_wf {kind : HandKind} (h : memWf s) : memWf (beginHand s page kind) := ite_wf h (setPage_wf h)

theorem sendRecalls_wf (h : memWf s) : memWf (sendRecalls s page) := by
  unfold sendRecalls
  refine hands_wf (foldl_wf _ (fun _ _ ht => sendPfl_wf ht) _ (flushes_wf ?_))
  exact foldl_wf _ (fun _ _ ht => recallEntry_wf ht) _ h

theorem advanceHand_wf {h : Hand} (hs : memWf s) : memWf (advanceHand s h) := ite_wf (ite_wf (sendRecalls_wf hs) hs) (ite_wf hs hs)
theorem endHand_wf (h : memWf s) : memWf (endHand s page) := h

theorem handOver_wf {away : Bool} (h : memWf s) :
    memWf (handOver s page ep away) := sendManager_wf (setPage_wf (sendData_wf (endHand_wf h)))

theorem refuseHand_wf (h : memWf s) : memWf (refuseHand s page) := h
theorem dropShared_wf (h : memWf s) : memWf (dropShared s page) := sendManager_wf (setPage_wf (endHand_wf h))

theorem installSegment_wf {i : Nat} {own : Bool} (h : memWf s) :
    memWf (installSegment s page i own bs) := ite_wf (setPage_wf (hwWrite_wf _ _ h)) (sendManager_wf (setPage_wf (hwWrite_wf _ _ h)))

end

section
/-! ### Fetch -/
variable {s s0 : State} {core slot : Nat}

theorem fetchWord_wf (h : memWf s) : memWf (fetchWord s).st := by
  unfold fetchWord
  dsimp only
  split
  · exact trap_wf h
  · exact waitXlat_wf h
  · split
    · exact trapCode_wf h
    · split
      · exact h
      · exact trapCode_wf h

theorem noteTaken_wf {k : Nat} (h : memWf s) : memWf (noteTaken s core k) := h
theorem takeNotice_wf (h : memWf s) : memWf (takeNotice s core slot) := ite_wf (State.updGroup_wf h) (State.updGroup_wf (takeTrap_wf h))

theorem takeOwed_wf (h : memWf s) : optWf (takeOwed s core slot) := by
  unfold takeOwed
  dsimp only
  split
  · exact optWf_some (takeTrap_wf (noteTaken_wf h))
  · exact optWf_some (takeTrap_wf (State.updGroup_wf h))
  · exact optWf_none

theorem fetchGroup_wf (h : memWf s) : memWf (fetchGroup s core slot).st := by
  unfold fetchGroup
  dsimp only
  split
  · exact h
  · split
    · exact enterHandler_wf (State.updGroup_wf h)
    · split
      · exact takeNotice_wf h
      · split
        · next e => exact memWf_of_some e (takeOwed_wf h)
        · split
          · exact stopFollower_wf h
          · split
            · exact trap_wf h
            · exact waitXlat_wf h
            · exact h
            · exact fetchWord_wf (State.setCur_wf h)

theorem settleStep_wf (hs0 : memWf s0) (hs : memWf s) : memWf (settleStep s0 s core slot) := by
  unfold settleStep
  dsimp only
  split
  · exact ite_wf hs0 (ite_wf hs (ite_wf hs hs))
  · exact hs

theorem settle_wf (hs0 : memWf s0) (hs : memWf s) :
    memWf (settle s0 s core slot) := ite_wf (stopFollower_wf (settleStep_wf hs0 hs)) (settleStep_wf hs0 hs)

theorem fetchSide_wf {storer : Bool} (h : memWf s) : memWf (fetchSide s core storer).st := by
  unfold fetchSide
  dsimp only
  split
  · exact h
  · split
    · exact sideFaultAt_wf (State.updCore_wf h)
    · exact h

theorem passTime_wf (h : memWf s) : memWf (passTime s) := foldl_wf _ (fun _ _ hs1 => addUse_wf hs1) _ h

end

section
/-! ### Halts -/
variable {s : State} {core slot born qty : Nat} {flags : BitVec 6} {pc : BitVec 48} {step : Bool} {shown : List Shown}

theorem interruptWait_wf (h : memWf s) : memWf (interruptWait s core slot) := by
  unfold interruptWait
  dsimp only
  split
  · exact State.updGroup_wf (sendLock_wf h)
  · exact State.updGroup_wf (leaveList_wf h)
  · exact h
  · exact h
  · exact State.updGroup_wf h

theorem haltLate_wf {h : Hit} {loadPc : BitVec 48} (hs : memWf s) :
    memWf (haltLate s core slot h flags loadPc) := haltGroup_wf (State.updGroup_wf (interruptWait_wf hs))

theorem watchApart_wf (h : memWf s) : memWf (watchApart s born core slot qty pc step shown).1 := watchFrom_wf h

theorem lateWatch_wf {inst : Nat} (h : memWf s) : memWf (lateWatch s born core slot inst pc qty step shown).1 := by
  unfold lateWatch
  dsimp only
  split
  · exact watchApart_wf h
  · exact h

theorem lateHalt_wf {h : Option Hit} (hs : memWf s) : memWf (lateHalt s core slot h flags pc) := by
  unfold lateHalt
  split
  · exact hs
  · exact ite_wf (haltLate_wf hs) (ite_wf (followHerd_wf hs) hs)

theorem endShown_wf {vals : List Word} {wr : Group → Group} (h : memWf s) : memWf (endShown s core slot vals wr) := by
  unfold endShown
  dsimp only
  split
  · exact endWait_wf (State.updGroup_wf (watchApart_wf h))
  · exact haltGroup_wf (endWait_wf (ite_wf (State.updGroup_wf (watchApart_wf h)) (watchApart_wf h)))

end

section
/-! ### FloatOps -/
variable {s : State} {d a b : BitVec 8}

theorem fp2_wf {f : Fmt → Arith → Fp → Fp → Nat × Flags} (h : memWf s) : outWf (fp2 s d a b f) := by
  unfold fp2
  dsimp only
  exact arith_wf h

theorem execFadd_wf (h : memWf s) : outWf (execFadd d a b s) := fp2_wf h
theorem execFsub_wf (h : memWf s) : outWf (execFsub d a b s) := fp2_wf h
theorem execFmul_wf (h : memWf s) : outWf (execFmul d a b s) := fp2_wf h

theorem execFma_wf (h : memWf s) : outWf (execFma d a b s) := by
  unfold execFma
  dsimp only
  exact arith_wf h

theorem execFmin_wf (h : memWf s) : outWf (execFmin d a b s) := fp2_wf h
theorem execFmax_wf (h : memWf s) : outWf (execFmax d a b s) := fp2_wf h

theorem execFneg_wf (h : memWf s) : outWf (execFneg d a s) := by
  unfold execFneg
  dsimp only
  exact arith_wf h

theorem execFabs_wf (h : memWf s) : outWf (execFabs d a s) := by
  unfold execFabs
  dsimp only
  exact arith_wf h

theorem fcmp_wf {rel : Nat} (h : memWf s) : outWf (fcmp s d a b rel) := by
  unfold fcmp
  dsimp only
  exact compare_wf h

theorem execFcmpeq_wf (h : memWf s) : outWf (execFcmpeq d a b s) := fcmp_wf h
theorem execFcmplt_wf (h : memWf s) : outWf (execFcmplt d a b s) := fcmp_wf h
theorem execFcmple_wf (h : memWf s) : outWf (execFcmple d a b s) := fcmp_wf h
theorem execFcmpun_wf (h : memWf s) : outWf (execFcmpun d a b s) := fcmp_wf h

theorem specialOp_wf {fn : Nat} (h : memWf s) : outWf (specialOp s fn d a) := by
  unfold specialOp
  dsimp only
  exact arith_wf h

theorem execFrcp_wf (h : memWf s) : outWf (execFrcp d a s) := specialOp_wf h
theorem execFrsq_wf (h : memWf s) : outWf (execFrsq d a s) := specialOp_wf h
theorem execFsin_wf (h : memWf s) : outWf (execFsin d a s) := specialOp_wf h
theorem execFcos_wf (h : memWf s) : outWf (execFcos d a s) := specialOp_wf h
theorem execFexp2_wf (h : memWf s) : outWf (execFexp2 d a s) := specialOp_wf h
theorem execFlog2_wf (h : memWf s) : outWf (execFlog2 d a s) := specialOp_wf h

theorem execCvt_wf {t f : BitVec 4} (h : memWf s) : outWf (execCvt d a t f s) := by
  unfold execCvt
  dsimp only
  exact arith_wf h

theorem execQnt_wf (h : memWf s) : outWf (execQnt d a s) := by
  unfold execQnt
  dsimp only
  exact arith_wf h

theorem execDqnt_wf (h : memWf s) : outWf (execDqnt d a s) := by
  unfold execDqnt
  dsimp only
  exact arith_wf h

theorem execPack_wf (h : memWf s) : outWf (execPack d a b s) := by
  unfold execPack
  dsimp only
  exact arith_wf h

theorem execUnpack_wf {e : BitVec 3} (h : memWf s) : outWf (execUnpack d a e s) := by
  unfold execUnpack
  dsimp only
  exact arith_wf h

end

section
/-! ### Matrix -/
variable {s s0 t : State} {sink core part : Nat} {x : Ctx} {isQ : Bool} {i : Instr} {vecs dst : List (BitVec 8)} {a m : BitVec 8}
  {n c : BitVec 2} {o : UnitOp} {rows : List Row}

theorem gatePass_wf (h : memWf s) :
    optWf (gatePass s sink) := optWf_ite (optWf_mapOf (fun _ => State.updCur_wf (State.setCore_wf h))) optWf_none

theorem releaseGate_wf (h : memWf s) : optWf (releaseGate s core sink) := by
  unfold releaseGate
  split
  · exact optWf_none
  · exact optWf_some (State.updGroup_wf (State.updCore_wf h))

theorem gateWait_wf (h : memWf s) : memWf (gateWait s sink) := h

theorem passGate_wf {w v : State} {gated : Bool} (h : memWf s0) (ht : memWf t)
    (e : passGate s0 t gated sink = some (w, v)) : memWf w ∧ memWf v := by
  unfold passGate at e
  split at e
  · split at e
    · next hw hv =>
      cases e
      exact ⟨memWf_of_some hw (gatePass_wf h), memWf_of_some hv (gatePass_wf ht)⟩
    · cases e
  · cases e
    exact ⟨h, ht⟩

theorem claimPart_wf {inst : Nat} (h : memWf t) : memWf (claimPart t core part inst) := ite_wf h (State.updCore_wf h)

theorem unitStart_wf {k : State → State → State → State} (hs0 : memWf s0) (ht : memWf t)
    (hk : ∀ w v u, memWf w → memWf v → memWf u → memWf (k w v u)) : memWf (unitStart s0 x t isQ k) := by
  unfold unitStart
  dsimp only
  split
  · exact trapCode_wf ht
  · generalize (if isQ then 11 else 10) = sink
    generalize (if isQ then _ else _ : List UnitOp) = queue
    cases e : passGate s0 t (mGate x.src.mode) sink with
    | none => exact gateWait_wf hs0
    | some r =>
      obtain ⟨w, v⟩ := r
      obtain ⟨hw, hv⟩ := passGate_wf hs0 ht e
      dsimp only
      split
      · exact retry_wf hw
      · split
        · exact retry_wf hw
        · exact hk _ _ _ hw hv (claimPart_wf hv)

theorem enterUnit_wf {u : State} {a b : Word} (h : memWf u) : memWf (enterUnit x u isQ i vecs dst a b) := h

theorem unitInstr_wf {sh : Shape} {a b : Ctx → Word} (h : memWf s) : outWf (unitInstr s sh isQ i vecs dst a b) := by
  unfold unitInstr
  refine startGroup_wf h (fun _ _ ht => ite_wf (retire_wf ht) (unitStart_wf h ht (fun _ _ _ _ _ hu2 => retire_wf (enterUnit_wf hu2))))

theorem execMloadb_wf (h : memWf s) : outWf (execMloadb n a s) := by
  unfold execMloadb
  dsimp only
  refine startGroup_wf h (fun _ _ ht => ?_)
  split
  · exact retire_wf ht
  · refine unitStart_wf h ht (fun _ _ _ hu hu1 hu2 => ?_)
    split
    · exact trap_wf hu1
    · exact waitXlat_wf hu
    · exact watchOnce_wf hu2 (fun _ _ ht1 => retire_wf (enterUnit_wf (pinRange_wf ht1)))

theorem execMma_wf (h : memWf s) : outWf (execMma c n a s) := unitInstr_wf h
theorem execMmas_wf {e : BitVec 3} (h : memWf s) : outWf (execMmas c n a m e s) := unitInstr_wf h
theorem execMmab_wf (h : memWf s) : outWf (execMmab c n s) := unitInstr_wf h
theorem execMbyp_wf {r : BitVec 1} (h : memWf s) : outWf (execMbyp c r s) := unitInstr_wf h
theorem execMdrain_wf (h : memWf s) : outWf (execMdrain c a s) := unitInstr_wf h

theorem execMstore_wf (h : memWf s) : outWf (execMstore c a m s) := by
  unfold execMstore
  refine startGroup_wf h (fun _ _ ht => ?_)
  dsimp only
  split
  · exact retire_wf ht
  · refine unitStart_wf h ht (fun _ _ _ hu hu1 hu2 => ?_)
    split
    · exact trap_wf hu1
    · exact waitXlat_wf hu
    · exact watchOnce_wf hu2 (fun _ _ ht1 => retire_wf (enterUnit_wf (foldl_wf _ (fun _ _ hs1 => pinRange_wf hs1) _ ht1)))

theorem execMzero_wf (h : memWf s) : outWf (execMzero c s) := unitInstr_wf h
theorem showRows_wf (h : memWf s) : memWf (showRows s core o rows) := lateHalt_wf (lateWatch_wf (lateWatch_wf h))
theorem unitDone_wf (h : memWf s) : memWf (unitDone s core o isQ) := h
theorem drainRows_wf (h : memWf s) : memWf (drainRows s core o a rows) := h

theorem matrixPerform_wf {p : Partition} (h : memWf s) : memWf (matrixPerform s core part p o) := by
  unfold matrixPerform
  dsimp only
  split
  · exact showRows_wf (unitDone_wf (State.updCore_wf h))
  · exact State.updCore_wf h
  · exact showRows_wf (pulseFor_wf (unitDone_wf (drainRows_wf (State.updCore_wf h))))
  · exact showRows_wf (unitDone_wf (State.updCore_wf h))

theorem execMatrixUnitExecute_wf (h : memWf s) : outWf (execMatrixUnitExecute core part s) := by
  unfold execMatrixUnitExecute
  dsimp only
  split
  · exact outWf_next h
  · exact outWf_ite (outWf_next h) (outWf_ite (outWf_next (matrixPerform_wf h)) (outWf_next h))

end

section
/-! ### Side -/
variable {s : State} {d r a b : BitVec 5} {va target : Word} {at_ : SideAt} {n : Nat} {i : BitVec 12} {q : BitVec 3}

theorem setSide_wf {d : Side} (h : memWf s) : memWf (setSide s d) := h
theorem sideNext_wf (h : memWf s) : memWf (sideNext s) := h
theorem sideWrite_wf {v : Word} (h : memWf s) : memWf (sideWrite s r v) := h
theorem sideStop_wf (h : memWf s) : memWf (sideStop s) := sideFault_wf h
theorem sideStopAt_wf {va : BitVec 64} (h : memWf s) : memWf (sideStopAt s va) := sideFaultAt_wf h
theorem sideHold_wf {l : List Hold} (h : memWf s) : memWf (sideHold s l) := noteHolds_wf (setSide_wf h)

theorem sideRead_wf {k : State → List Byte → State} (hs : memWf s) (hk : ∀ (t : State) (l : List Byte), memWf t → memWf (k t l)) :
    memWf (sideRead s va at_ n k) := by
  unfold sideRead
  dsimp only
  split
  · exact sideStopAt_wf hs
  · exact hk _ _ hs
  · exact hk _ _ hs
  · split
    · exact hk _ _ (pinRange_wf hs)
    · exact sideStopAt_wf hs
    · exact sideHold_wf hs

theorem sideStore_wf {bs : List Byte} {k : State → State} (hs : memWf s) (hk : ∀ (t : State), memWf t → memWf (k t)) :
    memWf (sideStore s va at_ bs k) := by
  unfold sideStore
  dsimp only
  split
  · exact sideStopAt_wf hs
  · exact sideStopAt_wf hs
  · exact hk _ (setSide_wf hs)
  · split
    · exact hk _ (writeScratch_wf (pinRange_wf hs))
    · exact sideStopAt_wf hs
    · exact sideHold_wf hs

theorem rvJump_wf (h : memWf s) : memWf (rvJump s target) := ite_wf (sideStopAt_wf h) (setSide_wf h)
theorem execRvLui_wf {i : BitVec 20} (h : memWf s) : outWf (execRvLui d i s) := outWf_next (sideWrite_wf h)
theorem execRvAuipc_wf {i : BitVec 20} (h : memWf s) : outWf (execRvAuipc d i s) := outWf_next (sideWrite_wf h)
theorem rvLink_wf (h : memWf s) : memWf (rvLink s d target) := ite_wf (sideStopAt_wf h) (rvJump_wf (setSide_wf h))
theorem execRvJal_wf {i : BitVec 20} (h : memWf s) : outWf (execRvJal d i s) := outWf_next (rvLink_wf h)
theorem execRvJalr_wf (h : memWf s) : outWf (execRvJalr d a i s) := outWf_next (rvLink_wf h)

theorem rvBranch_wf {taken : Bool} (h : memWf s) :
    outWf (rvBranch s taken i) := outWf_ite (outWf_next (rvJump_wf h)) (outWf_next (sideNext_wf h))

theorem execRvBeq_wf (h : memWf s) : outWf (execRvBeq a b i s) := rvBranch_wf h
theorem execRvBne_wf (h : memWf s) : outWf (execRvBne a b i s) := rvBranch_wf h
theorem execRvBlt_wf (h : memWf s) : outWf (execRvBlt a b i s) := rvBranch_wf h
theorem execRvBge_wf (h : memWf s) : outWf (execRvBge a b i s) := rvBranch_wf h
theorem execRvBltu_wf (h : memWf s) : outWf (execRvBltu a b i s) := rvBranch_wf h
theorem execRvBgeu_wf (h : memWf s) : outWf (execRvBgeu a b i s) := rvBranch_wf h

theorem rvLoad_wf {ext : Nat → Word} (h : memWf s) :
    outWf (rvLoad s n ext d a i) := outWf_next (sideRead_wf h (fun _ _ ht => sideWrite_wf ht))

theorem execRvLb_wf (h : memWf s) : outWf (execRvLb d a i s) := rvLoad_wf h
theorem execRvLh_wf (h : memWf s) : outWf (execRvLh d a i s) := rvLoad_wf h
theorem execRvLw_wf (h : memWf s) : outWf (execRvLw d a i s) := rvLoad_wf h
theorem execRvLbu_wf (h : memWf s) : outWf (execRvLbu d a i s) := rvLoad_wf h
theorem execRvLhu_wf (h : memWf s) : outWf (execRvLhu d a i s) := rvLoad_wf h
theorem rvStore_wf (h : memWf s) : outWf (rvStore s n a b i) := outWf_next (sideStore_wf h (fun _ ht => sideNext_wf ht))
theorem execRvSb_wf (h : memWf s) : outWf (execRvSb a b i s) := rvStore_wf h
theorem execRvSh_wf (h : memWf s) : outWf (execRvSh a b i s) := rvStore_wf h
theorem execRvSw_wf (h : memWf s) : outWf (execRvSw a b i s) := rvStore_wf h
theorem rvOpImm_wf {f : Word → Word} (h : memWf s) : outWf (rvOpImm s d a f) := outWf_next (sideWrite_wf h)
theorem rvOp_wf {f : Word → Word → Word} (h : memWf s) : outWf (rvOp s d a b f) := outWf_next (sideWrite_wf h)
theorem execRvAddi_wf (h : memWf s) : outWf (execRvAddi d a i s) := rvOpImm_wf h
theorem execRvSlti_wf (h : memWf s) : outWf (execRvSlti d a i s) := rvOpImm_wf h
theorem execRvSltiu_wf (h : memWf s) : outWf (execRvSltiu d a i s) := rvOpImm_wf h
theorem execRvXori_wf (h : memWf s) : outWf (execRvXori d a i s) := rvOpImm_wf h
theorem execRvOri_wf (h : memWf s) : outWf (execRvOri d a i s) := rvOpImm_wf h
theorem execRvAndi_wf (h : memWf s) : outWf (execRvAndi d a i s) := rvOpImm_wf h
theorem execRvSlli_wf {i : BitVec 5} (h : memWf s) : outWf (execRvSlli d a i s) := rvOpImm_wf h
theorem execRvSrli_wf {i : BitVec 5} (h : memWf s) : outWf (execRvSrli d a i s) := rvOpImm_wf h
theorem execRvSrai_wf {i : BitVec 5} (h : memWf s) : outWf (execRvSrai d a i s) := rvOpImm_wf h
theorem execRvAdd_wf (h : memWf s) : outWf (execRvAdd d a b s) := rvOp_wf h
theorem execRvSub_wf (h : memWf s) : outWf (execRvSub d a b s) := rvOp_wf h
theorem execRvSll_wf (h : memWf s) : outWf (execRvSll d a b s) := rvOp_wf h
theorem execRvSlt_wf (h : memWf s) : outWf (execRvSlt d a b s) := rvOp_wf h
theorem execRvSltu_wf (h : memWf s) : outWf (execRvSltu d a b s) := rvOp_wf h
theorem execRvXor_wf (h : memWf s) : outWf (execRvXor d a b s) := rvOp_wf h
theorem execRvSrl_wf (h : memWf s) : outWf (execRvSrl d a b s) := rvOp_wf h
theorem execRvSra_wf (h : memWf s) : outWf (execRvSra d a b s) := rvOp_wf h
theorem execRvOr_wf (h : memWf s) : outWf (execRvOr d a b s) := rvOp_wf h
theorem execRvAnd_wf (h : memWf s) : outWf (execRvAnd d a b s) := rvOp_wf h
theorem execRvFence_wf {_f : BitVec 17} {_d : BitVec 5} (h : memWf s) : outWf (execRvFence _f _d s) := outWf_next (sideNext_wf h)
theorem execRvMul_wf (h : memWf s) : outWf (execRvMul d a b s) := rvOp_wf h
theorem execRvMulh_wf (h : memWf s) : outWf (execRvMulh d a b s) := rvOp_wf h
theorem execRvMulhsu_wf (h : memWf s) : outWf (execRvMulhsu d a b s) := rvOp_wf h
theorem execRvMulhu_wf (h : memWf s) : outWf (execRvMulhu d a b s) := rvOp_wf h
theorem execRvDiv_wf (h : memWf s) : outWf (execRvDiv d a b s) := rvOp_wf h
theorem execRvDivu_wf (h : memWf s) : outWf (execRvDivu d a b s) := rvOp_wf h
theorem execRvRem_wf (h : memWf s) : outWf (execRvRem d a b s) := rvOp_wf h
theorem execRvRemu_wf (h : memWf s) : outWf (execRvRemu d a b s) := rvOp_wf h

theorem execSideUnsupportedEncoding_wf {_word : BitVec 32} (h : memWf s) :
    outWf (execSideUnsupportedEncoding _word s) := outWf_next (sideStop_wf h)

theorem execMhalt_wf (h : memWf s) : outWf (execMhalt s) := outWf_next (tryLeave_wf (setSide_wf h))
theorem sideWake_wf {core : Nat} {storer : Bool} {c : Core} (h : memWf s) : memWf (sideWake s core storer c) := h

theorem execMevwait_wf (h : memWf s) : outWf (execMevwait s) := by
  unfold execMevwait
  dsimp only
  split
  · exact outWf_next (sideWake_wf h)
  · exact outWf_next (setSide_wf h)

theorem execMsignal_wf (h : memWf s) : outWf (execMsignal s) := outWf_next (sideNext_wf (pulse_wf h))
theorem execMtimer_wf (h : memWf s) : outWf (execMtimer r s) := outWf_next (sideNext_wf (State.updCore_wf h))
theorem execMqpush_wf (h : memWf s) : outWf (execMqpush q a d s) := outWf_next (sideWrite_wf (queuePush_wf h))

theorem execMqpop_wf (h : memWf s) : outWf (execMqpop q a d s) := by
  unfold execMqpop
  split
  · exact outWf_next (sideStopAt_wf h)
  · split
    · exact outWf_next (sideWrite_wf (queueTake_wf h))
    · exact outWf_next (sideStore_wf h (fun _ ht => sideWrite_wf (selfInv_wf (queueTake_wf ht))))

theorem execMqcnt_wf (h : memWf s) : outWf (execMqcnt q d s) := outWf_next (sideWrite_wf h)
theorem execMtagr_wf {w : BitVec 1} (h : memWf s) : outWf (execMtagr w d s) := outWf_next (sideWrite_wf (ite_wf h (selfInv_wf h)))

theorem execMcpy_wf (h : memWf s) : outWf (execMcpy a d s) := by
  unfold execMcpy
  refine outWf_next ?_
  refine sideRead_wf h (fun _ _ ht => ?_)
  dsimp only
  split
  · exact sideStopAt_wf ht
  · split
    · exact setSide_wf ht
    · exact sideWrite_wf (startCopy_wf ht)

theorem execMbarc_wf {c : BitVec 5} (h : memWf s) : outWf (execMbarc c b a s) := by
  unfold execMbarc
  dsimp only
  split
  · next e => exact outWf_next (sideNext_wf (memWf_of_ok e (creditAt_wf h)))
  · exact outWf_next (sideStopAt_wf h)
  · exact outWf_next (sideHold_wf h)
  · exact outWf_next h

theorem execMavdec_wf (h : memWf s) : outWf (execMavdec a d s) := by
  unfold execMavdec
  refine outWf_next (sideRead_wf h (fun t bs ht => ?_))
  dsimp only
  cases find t.insts (sideInst s) <;> cases pickDecoder t (fnat (ofBytes 512 bs) 231 224 / 64)
  all_goals dsimp only
  · exact sideWrite_wf ht
  · exact ite_wf (sideWrite_wf ht) (ite_wf (sideWrite_wf ht) (sideWrite_wf (decoders_wf (wakeFor_wf ht))))
  · exact sideWrite_wf ht
  · exact ite_wf (sideWrite_wf ht) (ite_wf (sideWrite_wf ht) (sideWrite_wf (decoders_wf (wakeFor_wf ht))))

end

end Sys2Proof.Machine
end

section
/-! PROOFS. Every operation keeps the canonical form of both memories, part 3 of 5: one lemma for each operation, in the order of the
model's files. Most of them change other parts of the state, through operations that came before; only the writes of Laws/Memory.lean and
the clearing of memory at boot change a memory. -/
namespace Sys2Proof.Machine

section
/-! ### Wq -/
variable {s : State} {core slot line op word : Nat} {a : Access} {bs old : List Byte} {g : BitVec 4} {o : AtomOp} {p : Packet}
  {e : WqEntry}

theorem finishAccess_wf (h : memWf s) : memWf (finishAccess s core slot a) := h
theorem markPerformed_wf (h : memWf s) : memWf (markPerformed s core slot a) := h
theorem markSent_wf (h : memWf s) : memWf (markSent s core slot a) := h

theorem arriveDatum_wf (h : memWf s) :
    memWf (arriveDatum s core slot a bs) := ite_wf h (lateHalt_wf (ite_wf (lateWatch_wf h) (State.updGroup_wf (lateWatch_wf h))))

theorem fillL2_wf {a : BitVec 12} (h : memWf s) : memWf (fillL2 s line a g) := by
  unfold fillL2
  split
  · exact h
  · exact touchL2_wf h

theorem fetchReplica_wf {a : BitVec 12} (h : memWf s) :
    memWf (fetchReplica s core line a g) := ite_wf (fillL2_wf h) (ite_wf h (putReplica_wf (fillL2_wf h)))

theorem holdSealed_wf {a : BitVec 12} (h : memWf s) : memWf (holdSealed s core line a g bs) := by
  unfold holdSealed
  dsimp only
  split
  · exact h
  · next e => exact State.updCore_wf (memWf_of_some e (takeWay_optWf h))

theorem placeSealed_wf {a : BitVec 12} (h : memWf s) : memWf (placeSealed s core line a g) := holdSealed_wf (fetchReplica_wf h)
theorem prepareLoad_wf (h : memWf s) : memWf (prepareLoad s core a) := ite_wf h (ite_wf (placeSealed_wf h) (ite_wf (fillL2_wf h) h))
theorem storeMailed_wf (h : memWf s) : memWf (storeMailed s a) := ite_wf (mailArrival_wf h) h

theorem drainStore_wf (h : memWf s) : memWf (drainStore s core slot a) := by
  unfold drainStore
  split
  · exact finishAccess_wf (writeScratch_wf h)
  · split
    · exact finishAccess_wf h
    · split
      · exact ite_wf (markSent_wf (sendFor_wf h)) h
      · split
        · exact askOwned_wf h
        · next e => exact storeMailed_wf (finishAccess_wf (storeGlobal_wf _ _ (memWf_of_some e (storeReady_wf h))))

theorem drainAtomic_wf (h : memWf s) : memWf (drainAtomic s core slot op o a) := ite_wf (markSent_wf (sendFor_wf h)) h

theorem drainBarrier_wf (h : memWf s) :
    memWf (drainBarrier s core slot a) := ite_wf (finishAccess_wf (scratchBarrier_wf h)) (markSent_wf (wqPut_wf h))

theorem drainPush_wf {q : Nat} (h : memWf s) : memWf (drainPush s core slot q a) := by
  unfold drainPush
  dsimp only
  refine finishAccess_wf ?_
  split
  · split
    · exact queuePush_wf h
    · exact h
  · refine State.updGroup_wf ?_
    split
    · exact queuePush_wf h
    · exact h

theorem execDrain_wf {acc : Nat} (h : memWf s) : outWf (execDrain core slot acc s) := by
  unfold execDrain
  dsimp only
  split
  · exact outWf_next h
  · split
    · exact outWf_next h
    · split
      · exact outWf_next h
      · split
        · exact outWf_next (drainStore_wf h)
        · exact outWf_next (drainAtomic_wf h)
        · exact outWf_next (drainAtomic_wf h)
        · exact outWf_next (drainBarrier_wf h)
        · exact outWf_next (drainBarrier_wf h)
        · exact outWf_next (drainBarrier_wf h)
        · exact outWf_next (drainPush_wf h)
        · exact outWf_next (finishAccess_wf (sendLock_wf h))
        · exact outWf_next h
        · exact outWf_next h
        · exact outWf_next h

theorem accessMessage_wf {k : State → State} (hs : memWf s) (hk : ∀ (t : State), memWf t → memWf (k t)) :
    outWf (accessMessage s op p k) := askedIf_wf hs (fun _ ht => ite_wf (hk _ (serviced_wf ht)) (refuse_wf ht))

theorem execFabricAtom_wf (h : memWf s) :
    outWf (execFabricAtom p s) := accessMessage_wf h (fun _ ht => wqPut_wf (ite_wf (wantPage_wf ht) ht))

theorem execRedn_wf (h : memWf s) : outWf (execRedn p s) := accessMessage_wf h (fun _ ht => send_wf (wqPut_wf ht))

theorem execWrb_wf (h : memWf s) : outWf (execWrb p s) := by
  unfold execWrb
  refine accessMessage_wf h (fun _ ht => ?_)
  dsimp only
  split
  · exact send_wf ht
  · refine send_wf ?_
    split
    · refine storeMailed_wf (finishAccess_wf (ite_wf ht (foldl_wf _ (fun _ _ hs1 => writeLive_wf _ _ _ _ (retake_wf _ _ hs1)) _ ht)))
    · exact ite_wf ht (foldl_wf _ (fun _ _ hs1 => writeLive_wf _ _ _ _ (retake_wf _ _ hs1)) _ ht)

theorem wqApply.rmw_wf (h : memWf s) : memWf (wqApply.rmw s e o).2 := by
  unfold wqApply.rmw
  dsimp only
  split
  · exact h
  · exact writeLive_wf _ _ _ _ (retake_wf _ _ h)

theorem wqApply_wf (h : memWf s) : memWf (wqApply s e).2 := by
  unfold wqApply
  split
  · exact wqApply.rmw_wf h
  · exact wqApply.rmw_wf h
  · split
    · exact h
    · exact globalBarrier_wf h

theorem portAnswer_wf {x : BitVec 7} {txn : Nat} (h : memWf s) : memWf (portAnswer s e x txn old) := by
  unfold portAnswer
  dsimp only
  split
  · exact h
  · refine send_wf ?_
    split
    · exact appendRecord_wf h
    · exact h

theorem wqReply_wf (h : memWf s) : memWf (wqReply s e old) := by
  unfold wqReply
  dsimp only
  split
  · split
    · exact h
    · split
      · split
        · exact send_wf (markPerformed_wf h)
        · exact markPerformed_wf h
      · exact finishAccess_wf h
  · exact portAnswer_wf h
  · exact h

theorem replayEnds_wf {u : EngUse} (h : memWf s) : memWf (replayEnds s u) := ite_wf (recordDone_wf h) h

theorem portAres_wf (h : memWf s) : memWf (portAres s p) := by
  unfold portAres
  dsimp only
  split
  · exact h
  · split
    · exact atomDone_wf h
    · exact replayEnds_wf h

theorem engAcked_wf (h : memWf s) : memWf (engAcked s p) := by
  unfold engAcked
  split
  · exact h
  · exact replayEnds_wf h

theorem execAres_wf (h : memWf s) : outWf (execAres p s) := by
  unfold execAres
  refine deliverIf_wf h (fun _ ht => ?_)
  dsimp only
  split
  · exact portAres_wf ht
  · split
    · exact endReq_wf ht
    · exact State.updGroup_wf (arriveDatum_wf (endReq_wf ht))

theorem execEvict_wf (h : memWf s) : outWf (execEvict core word s) := outWf_ite (outWf_next (evictWord_wf _ h)) (outWf_next h)
theorem execCpwb_wf (h : memWf s) : outWf (execCpwb core line s) := outWf_next (cpWriteBack_wf _ _ h)

theorem execWback_wf (h : memWf s) : outWf (execWback line s) := by
  unfold execWback
  dsimp only
  split
  · exact outWf_next h
  · refine outWf_next ?_
    have hw := writeBack_wf line h
    generalize writeBack s line = s1 at hw ⊢
    cases find s1.l2 line with
    | none => exact hw
    | some v => exact hw

theorem execDiscard_wf (h : memWf s) : outWf (execDiscard core word s) := by
  unfold execDiscard
  dsimp only
  split
  · exact outWf_ite (outWf_next h) (outWf_next h)
  · exact outWf_ite (outWf_next h) (outWf_ite (outWf_next h) (outWf_next h))

end

section
/-! ### Engines -/
variable {s : State} {core k part n bytes dec : Nat} {y : Copy} {m : MStore} {x : Submission} {poison : Bool} {e : Engine}

theorem setCopy_wf (h : memWf s) : memWf (setCopy s core k y) := h

theorem copyStop_wf {c : Cause} (h : memWf s) :
    memWf (copyStop s core k y c) := ite_wf (interruptWait_wf (setCopy_wf h)) (updInst_wf (setCopy_wf h))

theorem copyRead_wf (h : memWf s) : memWf (copyRead s core k y) := by
  unfold copyRead
  dsimp only
  split
  · exact h
  · split
    · split
      · exact copyStop_wf h
      · exact noteHolds_wf h
      · exact ite_wf h (setCopy_wf (pinRange_wf h))
    · split
      · exact copyStop_wf h
      · exact noteHolds_wf h
      · exact ite_wf h (setCopy_wf (placeLoad_wf (wakeHomes_wf _ _ (prepareLoad_wf h))))

theorem copyLand_wf (h : memWf s) : memWf (copyLand s core k y) := by
  unfold copyLand
  dsimp only
  split
  · exact h
  · split
    · split
      · exact copyStop_wf h
      · exact noteHolds_wf h
      · exact setCopy_wf (writeScratch_wf (pinRange_wf h))
    · split
      · exact copyStop_wf h
      · exact noteHolds_wf h
      · exact ite_wf h (setCopy_wf (sendEng_wf (ite_wf h (writeLive_wf _ _ _ _ (retake_wf _ _ h)))))

theorem copyCredit_wf (h : memWf s) : resWf (copyCredit s core y) := by
  unfold copyCredit
  split
  · exact resWf_ok h
  · exact creditAt_wf h

theorem copyMailed_wf (h : memWf s) : memWf (copyMailed s core y) := by
  unfold copyMailed
  split
  · exact h
  · split
    · exact mailArrival_wf h
    · exact h

theorem copyOwes_wf {f : Option FaultInfo} (h : memWf s) : memWf (copyOwes s core y f) := by
  unfold copyOwes
  split
  · exact h
  · exact ite_wf (State.updGroup_wf (interruptWait_wf h)) (updInst_wf h)

theorem copyFinish_wf (h : memWf s) : memWf (copyFinish s core k y) := by
  unfold copyFinish
  split
  · exact h
  · dsimp only
    split
    · exact copyOwes_wf (copyMailed_wf (ite_wf (pulseFor_wf (ite_wf (State.updGroup_wf h) h)) (ite_wf (State.updGroup_wf h) h)))
    · exact noteHolds_wf h
    · exact h
    · next e =>
      have h3 := memWf_of_ok e (copyCredit_wf (ite_wf (State.updGroup_wf h) h))
      exact copyOwes_wf (copyMailed_wf (ite_wf (pulseFor_wf h3) h3))

theorem setMstore_wf {m : Option MStore} (h : memWf s) : memWf (setMstore s core part m) := h

theorem mstoreLand_wf (h : memWf s) : memWf (mstoreLand s core part m) := by
  unfold mstoreLand
  dsimp only
  split
  · exact h
  · split
    · exact showRows_wf (setMstore_wf (writeScratch_wf h))
    · exact setMstore_wf (writeScratch_wf h)

theorem mstoreFinish_wf (h : memWf s) : memWf (mstoreFinish s core part m) := by
  unfold mstoreFinish
  dsimp only
  split
  · exact h
  · refine pulseFor_wf ?_
    refine State.updGroup_wf ?_
    split
    · exact State.updCore_wf h
    · exact scratchBarrier_wf (State.updCore_wf h)

theorem setHead_wf (h : memWf s) : memWf (setHead s n x) := h

theorem decodeCredit_wf (h : memWf s) : resWf (decodeCredit s x bytes poison) := by
  unfold decodeCredit
  split
  · exact resWf_ok (creditFails_wf h)
  · exact creditAt_wf h

theorem decodeCredited_wf {k : State → State} (hs : memWf s) (hk : ∀ (t : State), memWf t → memWf (k t)) :
    memWf (decodeCredited s x bytes poison k) := by
  unfold decodeCredited
  split
  · next e => exact hk _ (memWf_of_ok e (decodeCredit_wf hs))
  · exact noteHolds_wf hs
  · exact hs

theorem decoderRead_wf (h : memWf s) : memWf (decoderRead s n x) := by
  unfold decoderRead
  dsimp only
  split
  · exact h
  · split
    · exact setHead_wf h
    · exact noteHolds_wf h
    · exact ite_wf h (ite_wf (setHead_wf h) (setHead_wf (fillL2_wf h)))

theorem frameOver_wf {all : Bool} (h : memWf s) : memWf (frameOver s n x all) := ite_wf (pulseFor_wf h) (setHead_wf h)

theorem decoderLand_wf (h : memWf s) : memWf (decoderLand s n x) := by
  unfold decoderLand
  dsimp only
  split
  · exact h
  · split
    · exact noteHolds_wf h
    · exact creditFails_wf (setHead_wf h)
    · exact setHead_wf (writeScratch_wf (pinRange_wf h))

theorem decoderFinish_wf (h : memWf s) : memWf (decoderFinish s n x) := ite_wf h (decodeCredited_wf h (fun _ ht => frameOver_wf ht))

theorem execFrameLanding_wf {data : List (BitVec 8)} (h : memWf s) : outWf (execFrameLanding dec data s) := by
  unfold execFrameLanding
  dsimp only
  split
  · exact outWf_next h
  · split
    · exact outWf_next h
    · split
      · exact outWf_next (ite_wf (setHead_wf h) h)
      · split
        · split
          · exact outWf_next h
          · exact outWf_ite (outWf_next (decodeCredited_wf h (fun _ ht => frameOver_wf ht))) (outWf_next h)
        · split
          · exact outWf_next h
          · exact outWf_ite (outWf_next (decodeCredited_wf h (fun _ ht => frameOver_wf ht))) (outWf_next h)

theorem execFrameDecodeFailure_wf {boff : BitVec 32} {ecode : BitVec 8} (h : memWf s) :
    outWf (execFrameDecodeFailure dec boff ecode s) := by
  unfold execFrameDecodeFailure
  dsimp only
  split
  · exact outWf_next h
  · split
    · exact outWf_next h
    · split
      · exact outWf_next (setHead_wf h)
      · split
        · split
          · exact outWf_next h
          · exact outWf_next (decodeCredited_wf h (fun _ ht => frameOver_wf (writeRecord_wf ht)))
        · split
          · exact outWf_next h
          · exact outWf_next (decodeCredited_wf h (fun _ ht => frameOver_wf (writeRecord_wf ht)))

theorem execRead_wf (h : memWf s) : outWf (execRead e s) := by
  unfold execRead
  split
  · split
    · exact outWf_next (copyRead_wf h)
    · exact outWf_next h
  · split
    · exact outWf_next (decoderRead_wf h)
    · exact outWf_next h
  · exact outWf_next h

theorem execLand_wf (h : memWf s) : outWf (execLand e s) := by
  unfold execLand
  split
  · split
    · exact outWf_next (copyLand_wf h)
    · exact outWf_next h
  · split
    · exact outWf_next (decoderLand_wf h)
    · exact outWf_next h
  · split
    · exact outWf_next (mstoreLand_wf h)
    · exact outWf_next h

theorem execFinish_wf (h : memWf s) : outWf (execFinish e s) := by
  unfold execFinish
  split
  · split
    · exact outWf_next (copyFinish_wf h)
    · exact outWf_next h
  · split
    · exact outWf_next (decoderFinish_wf h)
    · exact outWf_next h
  · split
    · exact outWf_next (mstoreFinish_wf h)
    · exact outWf_next h

end

section
/-! ### SaveArea -/
variable {s : State} {pa istate : Nat} {ps : List (Nat × List Byte)} {stops : BitVec 64} {x : Inst}

theorem writePieces_wf (h : memWf s) : memWf (writePieces s pa ps) := foldl_wf _ (fun _ _ hs1 => hwWrite_wf _ _ hs1) _ h

theorem writeRecordAt_wf {len tagAt : Nat} (h : memWf s) :
    memWf (writeRecordAt s pa len tagAt stops ps) := hwWrite_wf _ _ (writePieces_wf h)

theorem saveGroup_wf {g : Group} (h : memWf s) : memWf (saveGroup s x stops g) := writeRecordAt_wf h
theorem saveCore_wf {m : Nat} {v : CoreSave} (h : memWf s) : memWf (saveCore s x stops m v) := writeRecordAt_wf h
theorem saveHeader_wf (h : memWf s) : memWf (saveHeader s x stops istate) := writeRecordAt_wf h

theorem writeSaveArea_wf {groups : List Group} {cores : Tbl CoreSave} (h : memWf s) :
    memWf (writeSaveArea s x stops istate groups cores) :=
  foldl_wf _ (fun _ _ hs1 => saveGroup_wf hs1) _ (foldl_wf _ (fun _ _ hs1 => saveCore_wf hs1) _ (saveHeader_wf h))

end

section
/-! ### Sched -/
variable {die i h core code m tcb lo hi : Nat} {s : State} {gang bad : List Nat} {g : Group} {desc : SideDesc} {t : BitVec 1024}
  {age fva : BitVec 64} {x : Inst}

theorem execDispatch_wf (h : memWf s) : outWf (execDispatch die s) := by
  unfold execDispatch
  dsimp only
  split
  · exact outWf_next h
  · exact outWf_ite (outWf_next h) (outWf_next (ite_wf h (setTask_wf h)))

theorem execTileProbeTimeout_wf {cand : Nat} (h : memWf s) :
    outWf (execTileProbeTimeout die cand s) := outWf_next (ite_wf (State.setDie_wf h) h)

theorem seatGroup_wf (hs : memWf s) : memWf (seatGroup s i gang h g) := updInst_wf (State.setGroup_wf hs)
theorem giveUpWays_wf (h : memWf s) : memWf (giveUpWays s core code) := foldl_wf _ (fun _ _ hs1 => evictLine_wf _ _ _ hs1) _ h
theorem readyAt_wf (h : memWf s) : memWf (readyAt s core i m code desc) := State.updCore_wf (giveUpWays_wf h)
theorem taskRuns_wf {t : Nat} (h : memWf s) : memWf (taskRuns s t) := ite_wf (setTaskState_wf h) h

theorem startInst_wf {area : Nat} (h : memWf s) :
    memWf (startInst s tcb t lo hi age gang desc area) :=
  taskRuns_wf (setTask_wf (addUse_wf (addUse_wf (foldl_wf _ (fun _ _ hs1 => seatGroup_wf hs1) _
    (foldl_wf _ (fun _ _ hs1 => readyAt_wf hs1) _ (foldl_wf _ (fun _ _ hs1 => coreUse_wf hs1) _ (saveHeader_wf h)))))))

theorem taskFaults_wf (h : memWf s) : memWf (taskFaults s tcb) := ite_wf h (setRegion_wf (setTaskState_wf h))
theorem placeRecord_wf {f : FaultInfo} {locks : List Nat} (h : memWf s) : memWf (placeRecord s f locks x) := writeRecord_wf h
theorem badImage_wf (h : memWf s) : memWf (badImage s i x fva) := placeRecord_wf (taskFaults_wf (setInst_wf h))
theorem sideImage_wf (h : memWf s) : memWf (sideImage s tcb t lo hi age fva) := badImage_wf (setTask_wf h)
theorem seatSaved_wf (hs : memWf s) : memWf (seatSaved s i x gang bad h g) := ite_wf (seatGroup_wf hs) (seatGroup_wf hs)
theorem restoreIssuers_wf (h : memWf s) : memWf (restoreIssuers s i m core) := h

theorem restorePairs_wf {saved : Tbl Group} (h : memWf s) : memWf (restorePairs s i saved) := by
  unfold restorePairs
  refine foldl_wf _ (fun _ _ hs1 => ?_) _ h
  split
  · exact State.updGroup_wf hs1
  · exact hs1

theorem sendMoves_wf (h : memWf s) : memWf (sendMoves s i) := by
  unfold sendMoves
  refine foldl_wf _ (fun _ _ hs1 => ?_) _ h
  refine foldl_wf _ (fun _ _ hs2 => ?_) _ hs1
  dsimp only
  exact updInst_wf (sendReq_wf (getD_wf (takeWay_optWf hs2) hs2))

theorem moveSubmissions_wf {old : List Nat} (h : memWf s) : memWf (moveSubmissions s i old gang) := h

theorem resumeInst_wf (h : memWf s) : memWf (resumeInst s i x gang desc bad) := by
  unfold resumeInst
  dsimp only
  refine foldl_wf _ (fun _ _ hs1 => ?_) _ ?_
  · split
    · exact placeRecord_wf (taskFaults_wf hs1)
    · exact hs1
  · refine taskRuns_wf ?_
    refine moveSubmissions_wf (sendMoves_wf (restorePairs_wf (addUse_wf (addUse_wf (foldl_wf _ (fun _ _ hs1 => restoreIssuers_wf hs1) _
        (foldl_wf _ (fun _ _ hs1 => seatSaved_wf hs1) _ (foldl_wf _ (fun _ _ hs1 => ite_wf (State.updCore_wf (readyAt_wf hs1))
        (State.updCore_wf hs1)) _ (foldl_wf _ (fun _ _ hs1 => coreUse_wf hs1) _ (setInst_wf (saveHeader_wf h))))))))))

theorem restoreFails_wf (h : memWf s) : memWf (restoreFails s i x) := placeRecord_wf (taskFaults_wf (setInst_wf h))

theorem tryPlace_wf {q : Ready} (h : memWf s) : optWf (tryPlace s die bad q) := by
  unfold tryPlace
  dsimp only
  split
  · exact optWf_none
  · split
    · split
      · exact optWf_none
      · exact optWf_some (sideImage_wf h)
      · split
        · exact optWf_none
        · exact optWf_ite (optWf_mapOf (fun _ => startInst_wf h)) optWf_none
    · split
      · exact optWf_none
      · exact optWf_some (sideImage_wf h)
      · split
        · exact optWf_none
        · exact optWf_ite (optWf_mapOf (fun _ => startInst_wf h)) optWf_none
    · split
      · exact optWf_some h
      · exact optWf_none
      · exact optWf_some (badImage_wf h)
      · split
        · exact optWf_none
        · split
          · exact optWf_none
          · exact optWf_ite (optWf_some (restoreFails_wf h)) (optWf_some (resumeInst_wf h))

theorem execPlacement_wf (h : memWf s) : outWf (execPlacement die bad s) := by
  unfold execPlacement
  cases e : (s.die die).chosen.findSome? (fun q => (tryPlace s die bad q).map (fun t => (q, t))) with
  | none => exact outWf_next (foldl_wf _ (fun _ _ ht => noteHolds_wf ht) _ h)
  | some r =>
    obtain ⟨q, t⟩ := r
    obtain ⟨p, _, hp⟩ := List.exists_of_findSome?_eq_some e
    obtain ⟨u, hu, hr⟩ := Option.map_eq_some_iff.mp hp
    obtain ⟨-, rfl⟩ := Prod.mk.inj hr
    exact outWf_next (State.setDie_wf (tryPlace_wf h u hu))

theorem tryHalve_wf {asker : Nat} (h : memWf s) : optWf (tryHalve s asker i x) := by
  unfold tryHalve
  dsimp only
  split
  · exact optWf_none
  · split
    · exact optWf_none
    · exact optWf_some (sideImage_wf (setTask_wf (setInst_wf h)))
    · exact optWf_ite optWf_none (optWf_mapOf (fun _ => startInst_wf (setTask_wf (setInst_wf h))))

theorem execHalving_wf (h : memWf s) : outWf (execHalving core s) := by
  unfold execHalving
  dsimp only
  split
  · exact outWf_next h
  · generalize (s.insts.filter _).foldl _ _ = l
    cases e : l.findSome? (fun e => tryHalve s core e.1 e.2) with
    | none => exact outWf_next h
    | some t =>
      obtain ⟨p, _, hp⟩ := List.exists_of_findSome?_eq_some e
      exact outWf_next (memWf_of_some hp (tryHalve_wf h))

end

section
/-! ### Stop -/
variable {s : State} {core slot i t inst r : Nat} {x : Inst} {rs : List Nat}

theorem stopWaiting_wf (h : memWf s) : memWf (stopWaiting s core slot) := State.updGroup_wf (interruptWait_wf h)

theorem unpinPages_wf (h : memWf s) : memWf (unpinPages s core i) := by
  unfold unpinPages
  dsimp only
  split
  · exact h
  · refine State.updCore_wf (foldl_wf _ (fun _ _ hs1 => foldl_wf _ (fun _ _ hs2 => ite_wf hs2 (writeLive_wf _ _ _ _ (retake_wf _ _ hs2)))
      _ hs1) _ h)

theorem unpinLocks_wf {lines : List Nat} (h : memWf s) :
    memWf (unpinLocks s core lines) := foldl_wf _ (fun _ _ hs1 => State.updCore_wf (cpWriteBack_wf _ _ hs1)) _ h

theorem vacate_wf (h : memWf s) : memWf (vacate s core i) := ite_wf h (leaveCounts_wf (unpinLocks_wf (unpinPages_wf h)))

theorem stopInst_wf {state : IState} (h : memWf s) :
    memWf (stopInst s i x state) := setInst_wf (writeSaveArea_wf (foldl_wf _ (fun _ _ hs1 => vacate_wf hs1) _ h))

theorem killDone_wf (h : memWf s) :
    memWf (killDone s t) := settleWork_wf (uncountLive_wf (setTask_wf (setTaskState_wf (ite_wf (setRegion_wf h) h))))

theorem killInst_wf (h : memWf s) : memWf (killInst s i x) := by
  unfold killInst
  dsimp only
  split
  · refine killDone_wf ?_
    split
    · split
      · exact writeRecord_wf (setInst_wf (stopInst_wf h))
      · exact setInst_wf (stopInst_wf h)
    · exact setInst_wf (stopInst_wf h)
  · exact setInst_wf (stopInst_wf h)

theorem execFaultPark_wf (h : memWf s) : outWf (execFaultPark inst s) := by
  unfold execFaultPark
  dsimp only
  split
  · exact outWf_next h
  · split
    · exact outWf_next h
    · split
      · exact outWf_next (foldl_wf _ (fun _ _ hs1 => stopWaiting_wf hs1) _ h)
      · split
        · exact outWf_next h
        · split
          · exact outWf_next (killInst_wf h)
          · exact outWf_next (taskFaults_wf (writeRecord_wf (stopInst_wf h)))

theorem notify_wf (h : memWf s) : memWf (notify s core slot) := ite_wf (interruptWait_wf (State.updGroup_wf h)) (State.updGroup_wf h)

theorem preemptInsts_wf (h : memWf s) : memWf (preemptInsts s rs) := by
  unfold preemptInsts
  refine foldl_wf _ (fun _ _ hs1 => ?_) _ h
  dsimp only
  refine foldl_wf _ (fun _ _ hs2 => ite_wf hs2 (ite_wf (notify_wf (State.updGroup_wf hs2)) (State.updGroup_wf hs2))) _ (updInst_wf hs1)

theorem unchoose_wf (h : memWf s) : memWf (unchoose s rs) := h

theorem startPreempt_wf {st : Nat} (h : memWf s) :
    memWf (startPreempt s r st) := unchoose_wf (preemptInsts_wf (foldl_wf _ (fun _ _ hs1 => setRegion_wf hs1) _ h))

theorem taskPreempted_wf (h : memWf s) : memWf (taskPreempted s t) := ite_wf (setTaskState_wf h) h

theorem endPreempt_wf (h : memWf s) :
    memWf (endPreempt s r) := foldl_wf _ (fun _ _ hs1 => taskPreempted_wf hs1) _ (foldl_wf _ (fun _ _ hs1 => setRegion_wf hs1) _ h)

theorem stoppedNow_wf (h : memWf s) : memWf (stoppedNow s i x) := by
  unfold stoppedNow
  dsimp only
  split
  · exact stopInst_wf h
  · exact ite_wf (taskPreempted_wf (stopInst_wf h)) (rejoin_wf (stopInst_wf h))

theorem execEngineStop_wf (h : memWf s) : outWf (execEngineStop inst s) := by
  unfold execEngineStop
  split
  · exact outWf_next h
  · split
    · exact outWf_next h
    · split
      · exact outWf_next (foldl_wf _ (fun _ _ hs1 => stopWaiting_wf hs1) _ h)
      · exact outWf_ite (outWf_next (stoppedNow_wf h)) (outWf_next h)

theorem execPrenoteTimeout_wf (h : memWf s) : outWf (execPrenoteTimeout core slot s) := outWf_next (ite_wf (State.setGroup_wf h) h)

theorem answerPreempt_wf {p : Preempt} (h : memWf s) : memWf (answerPreempt s p) := by
  unfold answerPreempt
  split
  · exact h
  · exact acceptMsg_wf h

theorem execCollectorComplete_wf {die : Nat} (h : memWf s) : outWf (execCollectorComplete die s) := by
  unfold execCollectorComplete
  dsimp only
  split
  · exact outWf_next h
  · exact outWf_next (foldl_wf _ (fun _ _ hs1 => answerPreempt_wf hs1) _ (endPreempt_wf h))

theorem markDone_wf {h : Nat} (hs : memWf s) : memWf (markDone s i h) := updInst_wf hs
theorem settleMarks_wf (h : memWf s) : memWf (settleMarks s) := foldl_wf _ (fun _ _ hs1 => markDone_wf hs1) _ h

theorem execFinalTdoneMark_wf (h : memWf s) : outWf (execFinalTdoneMark core slot s) := by
  unfold execFinalTdoneMark
  dsimp only
  split
  · exact outWf_ite (outWf_next h) (outWf_next (endShown_wf (markDone_wf h)))
  · exact outWf_next h

theorem execGrainClaim_wf (h : memWf s) : outWf (execGrainClaim inst s) := by
  unfold execGrainClaim
  dsimp only
  split
  · exact outWf_next h
  · split
    · exact outWf_next h
    · refine outWf_next ?_
      refine foldl_wf _ (fun _ _ hs1 => ?_) _ (ite_wf (setInst_wf h) h)
      split
      · exact hs1
      · exact ite_wf (endShown_wf hs1) (endShown_wf hs1)

theorem execInstanceFinish_wf (h : memWf s) : outWf (execInstanceFinish inst s) := by
  unfold execInstanceFinish
  dsimp only
  split
  · exact outWf_next h
  · split
    · exact outWf_next h
    · split
      · exact outWf_next (pushReady_wf (setTask_wf (takeAge_wf (setTask_wf (setInst_wf h)))))
      · exact outWf_ite (outWf_next (settleWork_wf (setTask_wf h))) (outWf_next (setTask_wf h))

theorem execQuotaCrossing_wf {rcb : Nat} (h : memWf s) : outWf (execQuotaCrossing rcb s) := by
  unfold execQuotaCrossing
  split
  · exact outWf_next h
  · exact outWf_ite (outWf_next h) (outWf_next (writeRecord_wf h))

end

section
/-! ### Control -/
variable {x : Ctx} {s s0 t : State} {f : Group → Group} {v : Word} {o : BitVec 24} {n : BitVec 1} {p : BitVec 3} {a d : BitVec 8}
  {k : BitVec 4}

theorem jumpTo_wf {l : Int} (h : memWf s) : memWf (jumpTo x s l f) := commitTo_wf h
theorem jumpBy_wf {off : Int} (h : memWf s) : memWf (jumpBy x s off f) := jumpTo_wf h
theorem jumpPair_wf {v : BitVec 64} (h : memWf s) : memWf (jumpPair x s v) := ite_wf (trap_wf h) (ite_wf (trap_wf h) (commitTo_wf h))
theorem execBra_wf (h : memWf s) : outWf (execBra o s) := startGroup_wf h (fun _ _ ht => jumpBy_wf ht)

theorem execBrp_wf {q : BitVec 2} {o : BitVec 16} (h : memWf s) :
    outWf (execBrp q n p o s) := startGroup_wf h (fun _ _ ht => ite_wf (jumpBy_wf ht) (commitGroup_wf ht))

theorem execJmpr_wf (h : memWf s) : outWf (execJmpr a s) := startGroup_wf h (fun _ _ ht => jumpPair_wf ht)

theorem execCall_wf (h : memWf s) : outWf (execCall o s) := by
  unfold execCall
  refine startGroup_wf h (fun _ _ ht => ?_)
  dsimp only
  exact commitUni_wf (State.updCur_wf ht) (fun _ ht1 => State.updCur_wf ht1)

theorem execRet_wf (h : memWf s) : outWf (execRet s) := startGroup_wf h (fun _ _ ht => jumpPair_wf ht)
theorem execYield_wf (h : memWf s) : outWf (execYield s) := startGroup_wf h (fun _ _ ht => commitGroup_wf ht)
theorem execNop_wf (h : memWf s) : outWf (execNop s) := startGroup_wf h (fun _ _ ht => commitGroup_wf ht)

theorem execJpush_wf (h : memWf s) : outWf (execJpush o s) := by
  unfold execJpush
  refine startGroup_wf h (fun _ _ ht => ?_)
  dsimp only
  exact Res.orElse_wf h ht (fun _ => commitGroup_wf (State.setCur_wf ht))

theorem execBdiv_wf {o : BitVec 16} (h : memWf s) : outWf (execBdiv n p o s) := by
  unfold execBdiv
  dsimp only
  refine startGroup_wf h (fun _ _ ht => ite_wf (commitGroup_wf ht) (ite_wf (jumpBy_wf ht) (Res.orElse_wf h ht (fun _ => commitGroup_wf
      (State.setCur_wf ht)))))

theorem execJoin_wf (h : memWf s) : outWf (execJoin s) := by
  unfold execJoin
  refine startGroup_wf h (fun _ _ ht => ?_)
  refine Res.orElse_wf h ht (fun _ => ?_)
  split
  · exact commitGroup_wf (State.setCur_wf ht)
  · exact Res.orElse_wf h ht (fun _ => commitTo_wf (State.setCur_wf ht))

theorem exitThreads_wf (hs0 : memWf s0) (ht : memWf t) : memWf (exitThreads s0 x t) := by
  unfold exitThreads
  dsimp only
  refine Res.orElse_wf hs0 ht (fun _ => ?_)
  refine Res.orElse_wf hs0 ht (fun _ => ?_)
  refine Res.orElse_wf hs0 ht (fun _ => ?_)
  split
  · exact endGroup_wf (commitGroup_wf (State.setCur_wf ht))
  · exact Res.orElse_wf hs0 ht (fun _ => commitTo_wf (State.setCur_wf ht))

theorem execExit_wf (h : memWf s) : outWf (execExit s) := by
  unfold execExit
  refine startGroup_wf h (fun _ _ ht => ?_)
  dsimp only
  exact ite_wf (killTask_wf ht) (exitThreads_wf h ht)

theorem trapAfter_wf {code : BitVec 8} (h : memWf s) : memWf (trapAfter s code) := ite_wf (State.updCur_wf h) (takeTrap_wf h)
theorem execTrap_wf {i : BitVec 16} (h : memWf s) : outWf (execTrap i s) := startGroup_wf h (fun _ _ ht => trapAfter_wf ht)

theorem returnFrom_wf {skip : Bool} (hs0 : memWf s0) (ht : memWf t) : memWf (returnFrom s0 x t skip) := by
  unfold returnFrom
  dsimp only
  split
  · exact trapCode_wf ht
  · refine Res.orElse_wf hs0 ht (fun _ => ?_)
    split
    · exact trapCode_wf ht
    · exact Res.orElse_wf hs0 ht (fun _ => commitTo_wf (ite_wf ht ht))

theorem execRte_wf (h : memWf s) : outWf (execRte s) := startGroup_wf h (fun _ _ ht => returnFrom_wf h ht)
theorem execRteSkip_wf (h : memWf s) : outWf (execRteSkip s) := startGroup_wf h (fun _ _ ht => returnFrom_wf h ht)
theorem execIllegalEncoding_wf {word : BitVec 32} (h : memWf s) : outWf (execIllegalEncoding word s) := startGroup_wf h (fun _ _ ht => ht)
theorem setModeTo_wf (h : memWf t) : memWf (setModeTo x t v) := ite_wf (commitGroup_wf h) (trapCode_wf h)
theorem setFmtTo_wf (h : memWf t) : memWf (setFmtTo x t v) := ite_wf (commitGroup_wf h) (trapCode_wf h)
theorem execSetmodeI_wf {i : BitVec 15} (h : memWf s) : outWf (execSetmodeI i s) := startGroup_wf h (fun _ _ ht => setModeTo_wf ht)
theorem execSetmode_wf (h : memWf s) : outWf (execSetmode a s) := startGroup_wf h (fun _ _ ht => setModeTo_wf ht)
theorem execSetfmt_wf (h : memWf s) : outWf (execSetfmt a s) := startGroup_wf h (fun _ _ ht => setFmtTo_wf ht)
theorem execGetmode_wf {m : BitVec 1} (h : memWf s) : outWf (execGetmode d m s) := startGroup_wf h (fun _ _ ht => commitScal_wf ht)

theorem execLdtab.ldtabRead_wf {va : BitVec 64} {pa : Nat} {ar : BitVec 12} {gn : BitVec 4} {rg : BitVec 2} (hs0 : memWf s0)
    (ht : memWf t) :
    memWf (execLdtab.ldtabRead s0 x t k va pa ar gn rg) := by
  unfold execLdtab.ldtabRead
  dsimp only
  split
  · exact retry_wf hs0
  · split
    · exact trap_wf ht
    · exact ite_wf (retire_wf (watch_wf ht)) (retire_wf (addAsks_wf (placeLoad_wf (watch_wf ht))))

theorem execLdtab_wf (h : memWf s) : outWf (execLdtab k a s) := by
  unfold execLdtab
  refine startGroup_wf h (fun _ _ ht => ?_)
  dsimp only
  split
  · exact commitGroup_wf ht
  · split
    · exact trap_wf ht
    · exact waitXlat_wf h
    · split
      · exact ite_wf (execLdtab.ldtabRead_wf h ht) (trap_wf ht)
      · exact execLdtab.ldtabRead_wf h ht

theorem grantBlocks_wf {core slot k : Nat} (h : memWf s) :
    memWf (grantBlocks s core slot k) := leaveList_wf (addUse_wf (State.updGroup_wf h))

theorem execRegacq_wf {n : BitVec 16} (h : memWf s) : outWf (execRegacq n s) := by
  unfold execRegacq
  refine startGroup_wf h (fun _ _ ht => ?_)
  dsimp only
  exact ite_wf (commitGroup_wf ht) (ite_wf (commitGroup_wf (grantBlocks_wf ht)) (enterWait_wf ht))

theorem execRegrel_wf {n : BitVec 16} (h : memWf s) : outWf (execRegrel n s) := by
  unfold execRegrel
  refine startGroup_wf h (fun _ _ ht => ?_)
  dsimp only
  exact commitUni_wf ht (fun _ ht1 => releaseBlocks_wf (addUse_wf ht1))

theorem execRvdonate_wf {b : BitVec 8} (h : memWf s) : outWf (execRvdonate d a b s) := by
  unfold execRvdonate
  refine startGroup_wf h (fun _ _ ht => ?_)
  dsimp only
  exact ite_wf (commitScal_wf ht) (enterWait_wf ht)

end

section
/-! ### Waits -/
variable {s : State} {e : TlbEntry} {k core slot i sink : Nat} {a : Access} {y : Copy} {h : Hold}

theorem noteAttr_wf (h : memWf s) : memWf (noteAttr s e) := h

theorem walkFills_wf {new : List NonLeaf} (h : memWf s) :
    memWf (walkFills s k e new) := foldl_wf _ (fun _ _ hs1 => State.updCore_wf hs1) _ (noteAttr_wf h)

theorem walkEnds_wf {w : Walk} (h : memWf s) : memWf (walkEnds s k w) := foldl_wf _ (fun _ _ hs1 => State.updCore_wf hs1) _ h

theorem execWalkComplete_wf {root va : Nat} (h : memWf s) : outWf (execWalkComplete core root va s) := by
  unfold execWalkComplete
  dsimp only
  split
  · exact outWf_next h
  · split
    · exact outWf_next (walkEnds_wf h)
    · exact outWf_next (walkFills_wf h)

theorem eventTrap_wf {c : Cause} {pc at_ : BitVec 48} (h : memWf s) : memWf (eventTrap s core slot c pc at_) := by
  unfold eventTrap
  dsimp only
  split
  · exact ite_wf h (takeTrap_wf h)
  · exact takeTrap_wf (State.setGroup_wf (leaveList_wf h))

theorem execWaitphEnd_wf (h : memWf s) : outWf (execWaitphEnd core slot s) := by
  unfold execWaitphEnd
  split
  · split
    · exact outWf_ite (outWf_next (eventTrap_wf h)) (outWf_next h)
    · exact outWf_next h
  · exact outWf_next h

theorem execTagWaitEnd_wf (h : memWf s) : outWf (execTagWaitEnd core slot s) := by
  unfold execTagWaitEnd
  split
  · exact outWf_ite (outWf_next (endWait_wf (selfInv_wf h))) (outWf_next h)
  · exact outWf_next h

theorem execCntwaitEnd_wf (h : memWf s) : outWf (execCntwaitEnd core slot s) := by
  unfold execCntwaitEnd
  dsimp only
  split
  · exact outWf_ite (outWf_next (endWait_wf (selfInv_wf h))) (outWf_next h)
  · exact outWf_next h

theorem execRegacqGrant_wf (h : memWf s) : outWf (execRegacqGrant core slot s) := by
  unfold execRegacqGrant
  split
  · exact outWf_ite (outWf_next (endWait_wf (grantBlocks_wf h))) (outWf_next h)
  · exact outWf_next (leaveList_wf h)

theorem moveBlocks_wf {l : List Donor} (h : memWf s) : memWf (moveBlocks s core l) := by
  unfold moveBlocks
  dsimp only
  refine foldl_wf _ (fun _ _ ht => endShown_wf ht) _ (foldl_fst_wf _ (fun _ _ hp => ?_) _ ?_)
  · exact State.updGroup_wf hp
  · exact foldl_wf _ (fun _ _ ht => releaseBlocks_wf ht) _ h

theorem execRvdonateTransfer_wf (h : memWf s) : outWf (execRvdonateTransfer core slot s) := by
  unfold execRvdonateTransfer
  dsimp only
  split
  · split
    · exact outWf_next (foldl_wf _ (fun _ _ hs1 => endShown_wf hs1) _ h)
    · exact outWf_ite (outWf_next (moveBlocks_wf h)) (outWf_next h)
  · exact outWf_next h

theorem execXpairBind_wf (h : memWf s) : outWf (execXpairBind core slot s) := by
  unfold execXpairBind
  dsimp only
  split
  · split
    · exact outWf_next (endWait_wf h)
    · split
      · split
        · exact outWf_next (endWait_wf (endWait_wf (State.updGroup_wf (State.updGroup_wf h))))
        · exact outWf_next (endWait_wf h)
      · exact outWf_next h
  · exact outWf_next h

theorem shuffleInto_wf {d : BitVec 8} {vs : List (Nat × Word)} (h : memWf s) : memWf (shuffleInto s core slot d vs) := by
  unfold shuffleInto
  dsimp only
  split
  · exact endWait_wf (State.updGroup_wf (watchApart_wf h))
  · exact haltGroup_wf (ite_wf (watchApart_wf h) (watchApart_wf h))

theorem execXshflExchange_wf (h : memWf s) : outWf (execXshflExchange core slot s) := by
  unfold execXshflExchange
  dsimp only
  split
  · split
    · exact outWf_next (eventTrap_wf h)
    · split
      · exact outWf_ite (outWf_next (shuffleInto_wf (shuffleInto_wf h))) (outWf_next h)
      · exact outWf_next h
  · exact outWf_next h

theorem execMwaitTimeout_wf (h : memWf s) : outWf (execMwaitTimeout core slot s) := by
  unfold execMwaitTimeout
  dsimp only
  split
  · exact outWf_ite (outWf_next h) (outWf_next (eventTrap_wf (State.setGroup_wf h)))
  · exact outWf_next h

theorem endMonitors_wf (h : memWf s) :
    memWf (endMonitors s) := foldl_wf _ (fun _ _ hs1 => endWait_wf (State.updGroup_wf (selfInv_wf hs1))) _ h

theorem creditFiring_wf (h : memWf s) : optWf (creditFiring s core i sink) := by
  unfold creditFiring
  dsimp only
  split
  · next e => exact optWf_some (memWf_of_ok e (creditAt_wf h))
  · exact optWf_some (State.updCore_wf (noteHolds_wf h))
  · exact optWf_none
  · exact optWf_some (creditFails_wf h)

theorem consumeFiring_wf (h : memWf s) : optWf (consumeFiring s core i sink) := by
  unfold consumeFiring
  dsimp only
  split
  · exact optWf_ite (optWf_some (sideWake_wf h)) (optWf_some (State.setCore_wf h))
  · split
    · split
      · exact optWf_some (State.updCore_wf h)
      · exact optWf_some (State.setCore_wf h)
    · exact optWf_ite (optWf_some (getD_wf (releaseGate_wf h) h)) (creditFiring_wf h)

theorem execEventFiring_wf (h : memWf s) : outWf (execEventFiring core sink s) := by
  unfold execEventFiring
  dsimp only
  split
  · exact outWf_next h
  · split
    · exact outWf_next (State.setCore_wf h)
    · exact outWf_next (getD_wf (consumeFiring_wf (State.setCore_wf h)) h)

theorem execSideTimerExpiry_wf (h : memWf s) :
    outWf (execSideTimerExpiry core s) := outWf_ite (outWf_next (pulse_wf (State.updCore_wf h))) (outWf_next h)

theorem abandonAccess_wf (h : memWf s) : memWf (abandonAccess s core slot a) := h

theorem accessFault_wf {code : BitVec 8} (h : memWf s) : memWf (accessFault s core slot a code) := by
  unfold accessFault
  dsimp only
  split
  · exact interruptWait_wf h
  · exact eventTrap_wf (foldl_wf _ (fun _ _ hs1 => abandonAccess_wf hs1) _ h)
  · exact ite_wf h (eventTrap_wf (foldl_wf _ (fun _ _ hs1 => abandonAccess_wf hs1) _ h))

theorem holdFault_wf (h : memWf s) : memWf (holdFault s core slot a) := accessFault_wf h

theorem popLate_wf {q : Nat} (h : memWf s) : memWf (popLate s core slot q a) := by
  unfold popLate
  dsimp only
  split
  · exact finishAccess_wf h
  · split
    · exact lateHalt_wf (popTaken_wf (popEntries_wf h))
    · exact finishAccess_wf (popTaken_wf h)

theorem execLoad_wf {acc : Nat} {soft : Bool} (h : memWf s) : outWf (execLoad core slot acc soft s) := by
  unfold execLoad
  dsimp only
  split
  · exact outWf_next h
  · split
    · split
      · exact outWf_next (ite_wf (accessFault_wf h) h)
      · refine outWf_next (finishAccess_wf (arriveDatum_wf (ite_wf (selfInv_wf (placeLoad_wf (prepareLoad_wf h))) (placeLoad_wf
          (prepareLoad_wf h)))))
    · split
      · exact outWf_next (ite_wf (popLate_wf h) h)
      · exact outWf_next h

theorem execWqperf_wf {line : Nat} (h : memWf s) : outWf (execWqperf line s) := by
  unfold execWqperf
  dsimp only
  split
  · exact outWf_next h
  · split
    · exact outWf_next h
    · split
      · exact outWf_next (ite_wf (wqReply_wf (wqApply_wf h)) (ite_wf (accessFault_wf h) h))
      · exact outWf_next (wqReply_wf (wqApply_wf h))

theorem copyHoldFault_wf (h : memWf s) : memWf (copyHoldFault s core k y) := by
  unfold copyHoldFault
  split
  · exact copyStop_wf h
  · exact h

theorem refusing_wf (hs : memWf s) : memWf (refusing s h) := hs

theorem meeting_wf {f : State → State} (hs : memWf s) (hf : ∀ (t : State), memWf t → memWf (f t)) :
    memWf (meeting s h f) := hf _ (refusing_wf hs)

theorem copyMeets_wf (hs : memWf s) : memWf (copyMeets s core k h y) := by
  unfold copyMeets
  split
  · split
    · exact copyStop_wf hs
    · exact hs
  · exact ite_wf (meeting_wf hs (fun _ ht => copyFinish_wf ht)) hs

theorem streamMeets_wf {n : Nat} (hs : memWf s) : memWf (streamMeets s h n) := by
  unfold streamMeets
  dsimp only
  split
  · exact hs
  · split
    · exact meeting_wf hs (fun _ ht => decoderRead_wf ht)
    · split
      · exact meeting_wf hs (fun _ ht => decoderLand_wf ht)
      · exact ite_wf (meeting_wf hs (fun _ ht => decoderFinish_wf ht)) hs

theorem firingMeets_wf (hs : memWf s) : memWf (firingMeets s core sink h) := by
  unfold firingMeets
  dsimp only
  split
  · exact hs
  · exact ite_wf (meeting_wf (State.updCore_wf hs) (fun _ ht => getD_wf (creditFiring_wf ht) ht)) hs

theorem failHold_wf (hs : memWf s) :
    memWf (failHold s h) :=
  foldl_wf _ (fun _ _ hs1 => streamMeets_wf hs1) _
    (foldl_wf _ (fun _ _ hs1 => foldl_wf _ (fun _ _ hs2 => firingMeets_wf hs2) _ hs1) _
    (foldl_wf _ (fun _ _ hs1 => foldl_wf _ (fun _ _ hs2 => copyMeets_wf hs2) _ hs1) _ hs))

theorem failPage_wf {pg : Nat} (h : memWf s) : memWf (failPage s pg) := failHold_wf h
theorem failFill_wf {f : Nat × Nat × Nat} (h : memWf s) : memWf (failFill s f) := failHold_wf (State.updCore_wf h)
theorem settleFills_wf (h : memWf s) : memWf (settleFills s) := foldl_wf _ (fun _ _ hs1 => failFill_wf hs1) _ h

end

end Sys2Proof.Machine
end

section
/-! PROOFS. Every operation keeps the canonical form of both memories, part 4 of 5: one lemma for each operation, in the order of the
model's files. Most of them change other parts of the state, through operations that came before; only the writes of Laws/Memory.lean and
the clearing of memory at boot change a memory. -/
namespace Sys2Proof.Machine

section
/-! ### Coltos -/
variable {s s0 : State} {pa len n size page port ep addr core slot : Nat} {k : Ran} {m : Msg} {r : ReplayRec} {o : RemoteOp} {ok : Bool}
  {data : List Byte} {op : AtomOp} {aseq : BitVec 32}

theorem Ran.ok_wf (h : memWf s) : memWf (Ran.ok s).st := h
theorem Ran.bad_wf {stat : Nat} (h : memWf s) : memWf (Ran.bad s stat).st := h

theorem onRange_wf {write : Bool} (hs : memWf s) (hk : memWf k.st) : memWf (onRange s pa len write k).st := by
  unfold onRange
  split
  · exact portWant_wf hs
  · exact hk

theorem writes_wf {k : State → Ran} (hs : memWf s) (hk : ∀ (t : State), memWf t → memWf (k t).st) : memWf (writes s n m len k).st := by
  unfold writes
  dsimp only
  split
  · split
    · exact hs
    · exact hk _ hs
  · exact onRange_wf hs (portWrite_wf (setSession_wf hs))

theorem runMemwr_wf (h : memWf s) : memWf (runMemwr s n m).st := by
  unfold runMemwr
  dsimp only
  split
  · exact Ran.bad_wf h
  · split
    · exact Ran.bad_wf h
    · exact writes_wf h (fun _ ht => Ran.ok_wf ht)

theorem runMemrd_wf (h : memWf s) : memWf (runMemrd s pa n).st := by
  unfold runMemrd
  split
  · exact Ran.bad_wf h
  · split
    · exact Ran.bad_wf h
    · refine onRange_wf h ?_
      split
      · exact Ran.bad_wf (wakeHomes_wf _ _ h)
      · exact wakeHomes_wf _ _ h

theorem syncPte_wf {at_ : Nat} {e : BitVec 64} (h : memWf s) : memWf (syncPte s at_ e) := forgetPte_wf (ite_wf (flushPage_wf h) h)

theorem runPtwr_wf (h : memWf s) : memWf (runPtwr s n m).st := by
  unfold runPtwr
  dsimp only
  split
  · exact Ran.bad_wf h
  · split
    · exact Ran.bad_wf h
    · refine writes_wf h (fun _ ht => ?_)
      split
      · exact ht
      · exact Ran.ok_wf (foldl_wf _ (fun _ _ hu => syncPte_wf hu) _ ht)

theorem runCbwr_wf (h : memWf s) : memWf (runCbwr s n m).st := by
  unfold runCbwr
  dsimp only
  split
  · exact Ran.bad_wf h
  · split
    · exact Ran.bad_wf h
    · exact writes_wf h (fun _ ht => Ran.ok_wf (foldl_wf _ (fun _ _ hs1 => syncBlock_wf hs1) _ ht))

theorem artwrPut_wf {e : ArenaEntry} (h : memWf s) : memWf (artwrPut s n e) := h

theorem artwrAll_wf {s : State} {n : Nat} {es : List ArenaEntry} (h : memWf s) : optWf (artwrAll s n es) := by
  induction es generalizing s n with
  | nil => exact optWf_some h
  | cons e r ih =>
    unfold artwrAll
    split
    · exact ih (artwrPut_wf h)
    · exact optWf_none

theorem runArtwr_wf {a0 : Nat} {bs : List Byte} (h : memWf s) : memWf (runArtwr s a0 bs).st := by
  unfold runArtwr
  dsimp only
  split
  · exact Ran.bad_wf h
  · split
    · next e => exact Ran.ok_wf (memWf_of_some e (artwrAll_wf h))
    · exact Ran.bad_wf h

theorem runLaunch_wf {rcb tcb : Nat} (h : memWf s) : memWf (runLaunch s rcb tcb).st := by
  unfold runLaunch
  dsimp only
  split
  · exact Ran.bad_wf h
  · split
    · exact Ran.bad_wf h
    · refine onRange_wf h ?_
      split
      · exact Ran.bad_wf h
      · split
        · next e => exact Ran.ok_wf (memWf_of_some e (admitTask_wf h))
        · exact Ran.bad_wf h

theorem runMail_wf (h : memWf s) : memWf (runMail s n m).st := by
  unfold runMail
  dsimp only
  split
  · exact Ran.bad_wf h
  · split
    · exact Ran.bad_wf h
    · split
      · exact h
      · exact writes_wf h (fun _ ht => Ran.ok_wf (settleWork_wf (arriveAt_wf ht)))

theorem runPreempt_wf (h : memWf s) : memWf (runPreempt s n m).st := by
  unfold runPreempt
  dsimp only
  split
  · exact Ran.bad_wf h
  · split
    · exact h
    · split
      · exact Ran.ok_wf h
      · split
        · exact h
        · split
          · exact Ran.ok_wf (startPreempt_wf h)
          · exact startPreempt_wf h

theorem runQuery_wf (h : memWf s) : memWf (runQuery s pa).st := by
  unfold runQuery
  split
  · exact Ran.bad_wf h
  · exact h

theorem runAttest_wf {nonce : List Byte} (h : memWf s) : memWf (runAttest s nonce).st := by
  unfold runAttest
  split
  · exact Ran.bad_wf h
  · exact h

theorem runMode_wf {r : Recorder} (h : memWf s) : memWf (runMode s r).st := by
  unfold runMode
  dsimp only
  split
  · exact h
  · exact Ran.ok_wf h

theorem onRing_wf {base : Nat} (hs : memWf s) (hk : memWf k.st) : memWf (onRing s base size k).st := by
  unfold onRing
  split
  · exact Ran.bad_wf hs
  · split
    · exact Ran.bad_wf hs
    · exact hk

theorem runRecctl_wf (h : memWf s) : memWf (runRecctl s n m).st := by
  unfold runRecctl
  dsimp only
  split
  · exact runMode_wf h
  · split
    · exact Ran.bad_wf h
    · exact onRing_wf h (runMode_wf h)
  · split
    · exact Ran.bad_wf h
    · exact onRing_wf h (runMode_wf h)
  · exact Ran.bad_wf h

theorem runFwload_wf (h : memWf s) : memWf (runFwload s n m).st := by
  unfold runFwload
  dsimp only
  split
  · exact Ran.bad_wf h
  · split
    · exact Ran.bad_wf h
    · split
      · exact Ran.ok_wf (storeSegment_wf h)
      · split
        · exact Ran.bad_wf (dropImage_wf (storeSegment_wf h))
        · exact h

theorem runHand_wf {kind : HandKind} {locked : Bool} {k : State → State} (hs : memWf s) (hk : ∀ (t : State), memWf t → memWf (k t)) :
    memWf (runHand s page kind locked k).st := by
  unfold runHand
  dsimp only
  split
  · exact beginHand_wf hs
  · split
    · exact Ran.ok_wf (hk _ (advanceHand_wf (beginHand_wf hs)))
    · exact advanceHand_wf (beginHand_wf hs)

theorem runRecall_wf (h : memWf s) : memWf (runRecall s m).st := by
  unfold runRecall
  dsimp only
  split
  · exact Ran.bad_wf h
  · exact runHand_wf h (fun _ ht => handOver_wf ht)

theorem runPginv_wf (h : memWf s) : memWf (runPginv s m).st := by
  unfold runPginv
  dsimp only
  split
  · exact Ran.bad_wf h
  · exact runHand_wf h (fun _ ht => dropShared_wf ht)

theorem runPgxfer_wf (h : memWf s) : memWf (runPgxfer s m).st := by
  unfold runPgxfer
  dsimp only
  split
  · exact Ran.bad_wf h
  · split
    · exact Ran.bad_wf h
    · exact Ran.ok_wf (installSegment_wf h)

theorem failCommand_wf (h : memWf s) : memWf (failCommand s n m) := by
  unfold failCommand
  dsimp only
  refine acceptMsg_wf ?_
  split
  · exact writeFree_wf h
  · exact h

theorem failIf_wf {p : State → Nat → Nat → Bool → Bool} (h : memWf s) : memWf (failIf p s n) := by
  unfold failIf
  split
  · exact h
  · split
    · exact h
    · exact ite_wf (failCommand_wf h) h

theorem complete_wf (h : memWf s) : memWf (complete s o ok data) := h
theorem failRemote_wf (h : memWf s) : memWf (failRemote s o) := complete_wf (ite_wf (writeFree_wf h) h)
theorem failRemotes_wf {p : RemoteOp → Bool} (h : memWf s) : memWf (failRemotes s p) := foldl_wf _ (fun _ _ hs1 => failRemote_wf hs1) _ h

theorem failAtom_wf {r : EngReq} (h : memWf s) : memWf (failAtom s r) := by
  unfold failAtom
  dsimp only
  split
  · exact atomDone_wf h
  · exact replayEnds_wf h

theorem failAtoms_wf {p : Nat → Bool} (h : memWf s) : memWf (failAtoms s p) := foldl_wf _ (fun _ _ hs1 => failAtom_wf hs1) _ h

theorem pageFails_wf {pg : Nat} (h : memWf s) :
    memWf (pageFails s pg) := failPage_wf (failAtoms_wf (failRemotes_wf (foldl_wf _ (fun _ _ hs1 => failIf_wf hs1) _ h)))

theorem runPgrefuse_wf (h : memWf s) : memWf (runPgrefuse s m).st := by
  unfold runPgrefuse
  dsimp only
  split
  · exact Ran.bad_wf h
  · split
    · exact Ran.ok_wf h
    · exact Ran.ok_wf (pageFails_wf h)

theorem runCommand_wf (h : memWf s) : memWf (runCommand s n m).st := by
  unfold runCommand
  dsimp only
  split
  · exact Ran.bad_wf h
  · split
    · exact Ran.bad_wf h
    · split
      · exact Ran.bad_wf h
      · split
        · exact Ran.bad_wf h
        · split
          · exact runFwload_wf h
          · exact restartBoot_wf h
          · exact runMemwr_wf h
          · exact runMemrd_wf h
          · exact runPtwr_wf h
          · exact runArtwr_wf h
          · exact runCbwr_wf h
          · exact runLaunch_wf h
          · exact runMail_wf h
          · exact runPreempt_wf h
          · exact runQuery_wf h
          · exact runAttest_wf h
          · exact runRecctl_wf h
          · exact runRecall_wf h
          · exact runPginv_wf h
          · exact runPgxfer_wf h
          · exact runPgrefuse_wf h
          · exact Ran.bad_wf h

theorem runTurn_wf (h : memWf s) : memWf (runTurn s n m) := by
  unfold runTurn
  dsimp only
  split
  · exact acceptQuiet_wf h
  · split
    · next e => exact acceptMsg_wf (memWf_of_reply e (runCommand_wf h))
    · next e => exact setSession_wf (memWf_of_wait e (runCommand_wf h))
    · next e => exact memWf_of_gone e (runCommand_wf h)

theorem pump_wf {fuel : Nat} {s : State} {n : Nat} (h : memWf s) : memWf (pump fuel s n) := by
  induction fuel generalizing s with
  | zero => exact h
  | succ k ih =>
    unfold pump
    dsimp only
    split
    · exact h
    · split
      · exact h
      · exact ih (runTurn_wf (setSession_wf h))

theorem pumpSession_wf (h : memWf s) : memWf (pumpSession s n) := ite_wf (restartBoot_wf h) (pump_wf h)

theorem inSession_wf {m0 : Msg} (h : memWf s) :
    memWf (inSession s n m0) := ite_wf (pumpSession_wf h) (ite_wf (pumpSession_wf h) (pumpSession_wf h))

theorem bindBoot_wf (h : memWf s) : memWf (bindBoot s m) := ite_wf (setSession_wf h) h
theorem openSession_wf {k : Nat} (h : memWf s) : memWf (openSession s k m) := h

theorem receiveSeq_wf (h : memWf s0) : memWf (receiveSeq s0 m) := by
  unfold receiveSeq
  dsimp only
  split
  · exact inSession_wf (bindBoot_wf h)
  · split
    · exact answerPlain_wf (bindBoot_wf h)
    · split
      · exact answerPlain_wf (bindBoot_wf h)
      · exact inSession_wf (openSession_wf (bindBoot_wf h))

theorem resendFrom_wf {a : BitVec 32} (h : memWf s) : memWf (resendFrom s n a port) := foldl_wf _ (fun _ _ hs1 => sendMsg_wf hs1) _ h

theorem receiveResend_wf (h : memWf s) : memWf (receiveResend s m) := by
  unfold receiveResend
  dsimp only
  split
  · exact answerPlain_wf h
  · exact ite_wf (answerPlain_wf h) (ite_wf (answerPlain_wf (resendFrom_wf h)) (answerPlain_wf h))

theorem sendAtom_wf {val cmp : BitVec 64} {u : EngUse} (h : memWf s) :
    memWf (sendAtom s port pa op size val cmp u) := sendPort_wf (portWant_wf h)

theorem idemAdd_wf (h : memWf s) : memWf (idemAdd s m aseq) := h
theorem startAtom_wf (h : memWf s) : memWf (startAtom s m aseq op) := ite_wf (atomDone_wf (idemAdd_wf h)) (sendAtom_wf (idemAdd_wf h))

theorem receiveAtom_wf (h : memWf s) : memWf (receiveAtom s m) := by
  unfold receiveAtom
  dsimp only
  split
  · exact answerPlain_wf h
  · split
    · exact answerPlain_wf h
    · split
      · exact answerPlain_wf h
      · split
        · exact startAtom_wf h
        · split
          · exact answerPlain_wf h
          · exact h

theorem takeStatus_wf (h : memWf s) : memWf (takeStatus s n m) := ite_wf (sendPlain_wf (resendFrom_wf h)) (resendFrom_wf h)

theorem ackPlain_wf (h : memWf s) : memWf (ackPlain s m) := by
  unfold ackPlain
  split
  · exact setSession_wf h
  · exact h

theorem receivePlain_wf (h : memWf s0) : memWf (receivePlain s0 m) := by
  unfold receivePlain
  dsimp only
  split
  · exact answerPlain_wf h
  · split
    · split
      · exact ite_wf (takeStatus_wf (ackPlain_wf h)) (pumpSession_wf (ackPlain_wf h))
      · exact ackPlain_wf h
    · split
      · exact answerPlain_wf h
      · split
        · exact answerPlain_wf h
        · split
          · exact answerPlain_wf h
          · split
            · exact answerPlain_wf (ackPlain_wf h)
            · exact receiveResend_wf (ackPlain_wf h)
            · exact receiveAtom_wf h

theorem wakeHost_wf (h : memWf s) : memWf (wakeHost s port) := h
theorem receive_wf (h : memWf s) : memWf (receive s m) := ite_wf (receivePlain_wf (wakeHost_wf h)) (receiveSeq_wf (wakeHost_wf h))
theorem arrival_wf (h : memWf s) : outWf (arrival s m ok) := outWf_ite (outWf_next (receive_wf h)) (outWf_next h)
theorem command_wf {code : Nat} (h : memWf s) : outWf (command s m code) := arrival_wf h
theorem execStatus_wf (h : memWf s) : outWf (execStatus m s) := command_wf h
theorem execResend_wf (h : memWf s) : outWf (execResend m s) := command_wf h
theorem execFwload_wf (h : memWf s) : outWf (execFwload m s) := command_wf h
theorem execReset_wf (h : memWf s) : outWf (execReset m s) := command_wf h
theorem execMemwr_wf (h : memWf s) : outWf (execMemwr m s) := command_wf h
theorem execMemrd_wf (h : memWf s) : outWf (execMemrd m s) := command_wf h
theorem execPtwr_wf (h : memWf s) : outWf (execPtwr m s) := command_wf h
theorem execArtwr_wf (h : memWf s) : outWf (execArtwr m s) := command_wf h
theorem execCbwr_wf (h : memWf s) : outWf (execCbwr m s) := command_wf h
theorem execLaunch_wf (h : memWf s) : outWf (execLaunch m s) := command_wf h
theorem execMail_wf (h : memWf s) : outWf (execMail m s) := command_wf h
theorem execAtom_wf (h : memWf s) : outWf (execAtom m s) := command_wf h
theorem execPreempt_wf (h : memWf s) : outWf (execPreempt m s) := command_wf h
theorem execQuery_wf (h : memWf s) : outWf (execQuery m s) := command_wf h
theorem execAttest_wf (h : memWf s) : outWf (execAttest m s) := command_wf h
theorem recctl_wf {mode : Nat} (h : memWf s) : outWf (recctl s m mode) := arrival_wf h
theorem execRecctlOff_wf (h : memWf s) : outWf (execRecctlOff m s) := recctl_wf h
theorem execRecctlRecord_wf (h : memWf s) : outWf (execRecctlRecord m s) := recctl_wf h
theorem execRecctlReplay_wf (h : memWf s) : outWf (execRecctlReplay m s) := recctl_wf h
theorem execRecctlBadarg_wf (h : memWf s) : outWf (execRecctlBadarg m s) := recctl_wf h
theorem execBadcmd_wf (h : memWf s) : outWf (execBadcmd m s) := arrival_wf h
theorem execDeviceOnlyCode_wf (h : memWf s) : outWf (execDeviceOnlyCode m s) := arrival_wf h
theorem execColtosReply_wf (h : memWf s) : outWf (execColtosReply m s) := arrival_wf h

theorem execPgreq_wf (h : memWf s) : outWf (execPgreq m s) := by
  unfold execPgreq
  dsimp only
  split
  · exact outWf_next (sendManager_wf (setPage_wf (wakeIf_wf _ h)))
  · exact command_wf h

theorem execPgrecall_wf (h : memWf s) : outWf (execPgrecall m s) := command_wf h
theorem execPginv_wf (h : memWf s) : outWf (execPginv m s) := command_wf h
theorem execPgiack_wf (h : memWf s) : outWf (execPgiack m s) := command_wf h
theorem execPgxfer_wf (h : memWf s) : outWf (execPgxfer m s) := command_wf h
theorem execPgdone_wf (h : memWf s) : outWf (execPgdone m s) := command_wf h
theorem execPgrefuse_wf (h : memWf s) : outWf (execPgrefuse m s) := command_wf h
theorem execPgack_wf (h : memWf s) : outWf (execPgack m s) := command_wf h
theorem keepRemote_wf (h : memWf s) : memWf (keepRemote s o) := h

theorem performRemote_wf (h : memWf s) :
    memWf (performRemote s o) := ite_wf (keepRemote_wf (portWrite_wf h)) (complete_wf (wakeHomes_wf _ _ h))

theorem tryRemote_wf (h : memWf s) :
    memWf (tryRemote s o) := ite_wf (ite_wf h (appendRecord_wf h)) (ite_wf (portWant_wf h) (performRemote_wf h))

theorem startRemote_wf (h : memWf s) : memWf (startRemote s o) := ite_wf (complete_wf h) (tryRemote_wf h)

theorem execRemoteWrite_wf (h : memWf s) :
    outWf (execRemoteWrite port ep addr data s) := outWf_ite (outWf_next (startRemote_wf (wakeFor_wf h))) (outWf_next h)

theorem execRemoteRead_wf (h : memWf s) :
    outWf (execRemoteRead port ep addr len s) := outWf_ite (outWf_next (startRemote_wf (wakeFor_wf h))) (outWf_next h)

theorem execUnreliableDeliveryRequest_wf (h : memWf s) :
    outWf (execUnreliableDeliveryRequest port ep s) := outWf_ite (outWf_next h) (outWf_next h)

theorem execPortFailure_wf (h : memWf s) : outWf (execPortFailure port s) := outWf_ite (outWf_next h) (outWf_next h)
theorem applyMessage_wf (h : memWf s) : memWf (applyMessage s r) := runTurn_wf (recordBegun_wf h)
theorem applyWrite_wf (h : memWf s) : memWf (applyWrite s r) := ite_wf (portWant_wf h) (replayEnds_wf (portWrite_wf (recordBegun_wf h)))

theorem applyAtom_wf (h : memWf s) : memWf (applyAtom s r) := by
  unfold applyAtom
  dsimp only
  split
  · exact recordApplied_wf h
  · exact sendAtom_wf (recordBegun_wf h)

theorem execReplayApply_wf (h : memWf s) : outWf (execReplayApply s) := by
  unfold execReplayApply
  dsimp only
  split
  · exact outWf_next h
  · split
    · exact outWf_next (applyMessage_wf h)
    · exact outWf_next (applyWrite_wf h)
    · exact outWf_next (applyAtom_wf h)
    · exact outWf_next h

theorem execReplayMonitorTimeout_wf (h : memWf s) :
    outWf (execReplayMonitorTimeout s) := outWf_ite (outWf_next (replayDiverged_wf h)) (outWf_next h)

theorem sessionHold_wf (h : memWf s) : memWf (sessionHold s n) := by
  unfold sessionHold
  dsimp only
  split
  · exact h
  · split
    · split
      · exact ite_wf (acceptMsg_wf (refuseHand_wf h)) h
      · exact h
    · exact failIf_wf h

theorem waitHold_wf (h : memWf s) : memWf (waitHold s core slot) := by
  unfold waitHold
  dsimp only
  split
  · exact ite_wf (eventTrap_wf h) h
  · exact ite_wf (eventTrap_wf h) h
  · exact h

theorem execLockholdTimeout_wf {acc : Nat} (h : memWf s) : outWf (execLockholdTimeout core slot acc s) := by
  unfold execLockholdTimeout
  split
  · split
    · split
      · exact outWf_next (waitHold_wf h)
      · exact outWf_ite (outWf_next (holdFault_wf h)) (outWf_next h)
    · split
      · exact outWf_next h
      · exact outWf_next (copyHoldFault_wf h)
  · split
    · exact outWf_next (sessionHold_wf h)
    · split
      · split
        · exact outWf_next h
        · exact outWf_ite (outWf_next (setHead_wf h)) (outWf_next h)
      · split
        · exact outWf_next (failAtoms_wf h)
        · split
          · split
            · exact outWf_next h
            · exact outWf_ite (outWf_next (failRemote_wf h)) (outWf_next h)
          · exact outWf_next h

theorem execPagewaitTimeout_wf (h : memWf s) :
    outWf (execPagewaitTimeout page s) := outWf_ite (outWf_next (pageFails_wf h)) (outWf_next h)

theorem settleSessions_wf (h : memWf s) : memWf (settleSessions s) := by
  unfold settleSessions
  refine foldl_wf _ (fun _ _ hs1 => ?_) _ h
  split
  · exact ite_wf (pumpSession_wf hs1) (pumpSession_wf (runTurn_wf hs1))
  · exact ite_wf hs1 (pumpSession_wf hs1)

theorem settleRemotes_wf (h : memWf s) : memWf (settleRemotes s) := foldl_wf _ (fun _ _ hs1 => tryRemote_wf hs1) _ h

end

section
/-! ### Power -/

theorem wakeBusy_wf {s : State} (h : memWf s) : memWf (wakeBusy s) := foldl_wf _ (fun _ _ hs1 => wakeFor_wf hs1) _ h

end

section
/-! ### Boot -/
variable {lanes : Nat} {s : State} {k : Block}

theorem execPowerOn_wf (h : memWf s) : outWf (execPowerOn lanes s) := outWf_ite (outWf_next h) (outWf_next (restartBoot_wf h))
theorem execPortTrainingRetry_wf (h : memWf s) : outWf (execPortTrainingRetry lanes s) := outWf_ite (outWf_next h) (outWf_next h)
theorem announce_wf {code stat : Nat} {bs : List Byte} (h : memWf s) : memWf (announce s code stat bs) := h
theorem execBootwait_wf (h : memWf s) : outWf (execBootwait s) := outWf_ite (outWf_next (announce_wf h)) (outWf_next h)

theorem refuseWaiting_wf {fuel : Nat} {s : State} (h : memWf s) : memWf (refuseWaiting fuel s) := by
  induction fuel generalizing s with
  | zero => exact h
  | succ k ih =>
    unfold refuseWaiting
    dsimp only
    split
    · exact h
    · split
      · exact h
      · exact ih (acceptMsg_wf (setSession_wf h))

theorem execImageVerify_wf (h : memWf s) : outWf (execImageVerify s) := by
  unfold execImageVerify
  dsimp only
  split
  · exact outWf_next h
  · exact outWf_ite (outWf_next h) (outWf_next (refuseWaiting_wf (acceptMsg_wf (ite_wf h h))))

theorem execBootBringup_wf {r : BistReport} (h : memWf s) :
    outWf (execBootBringup r s) := outWf_ite (outWf_next (bringUp_wf h)) (outWf_next h)

theorem execStopped_wf (h : memWf s) : outWf (execStopped s) := outWf_ite (outWf_next (announce_wf h)) (outWf_next h)

theorem execWarmRestart_wf (h : memWf s) : outWf (execWarmRestart s) := by
  unfold execWarmRestart
  dsimp only
  split
  · exact outWf_next (foldl_wf _ (fun _ _ hs1 => ite_wf (sendPlain_wf hs1) hs1) _ (wakeIf_wf _ h))
  · exact outWf_next h

theorem lost_wf (h : memWf s) : memWf (lost s) := reset_memWf
theorem execPowerRemoved_wf (h : memWf s) : outWf (execPowerRemoved s) := outWf_ite (outWf_next (lost_wf h)) (outWf_next h)
theorem trip_wf (h : memWf s) : memWf (trip s) := lost_wf h
theorem execThermtrip_wf (h : memWf s) : outWf (execThermtrip s) := outWf_ite (outWf_next (trip_wf h)) (outWf_next h)

theorem blockEnters_wf {ok : Bool} {state : BitVec 2} {f : State → State} (hs : memWf s) (hf : ∀ (t : State), memWf t → memWf (f t)) :
    outWf (blockEnters s k ok state f) := outWf_ite (outWf_next (setPower_wf (hf _ hs))) (outWf_next hs)

theorem execClockGatedEntry_wf (h : memWf s) : outWf (execClockGatedEntry k s) := blockEnters_wf h (fun _ ht => ht)
theorem execRetentionEntry_wf (h : memWf s) : outWf (execRetentionEntry k s) := blockEnters_wf h (fun _ ht => ht)

theorem blockLoses_wf (h : memWf s) : memWf (blockLoses k s) := by
  unfold blockLoses
  split <;> exact h

theorem execOffEntry_wf (h : memWf s) : outWf (execOffEntry k s) := blockEnters_wf h (fun _ ht => blockLoses_wf ht)
theorem execWakeRequest_wf (h : memWf s) : outWf (execWakeRequest k s) := outWf_ite (outWf_next (wakeFor_wf h)) (outWf_next h)

theorem execThermalThrottle_wf {temp : Int} (h : memWf s) :
    outWf (execThermalThrottle k temp s) := outWf_ite (outWf_next (trip_wf h)) (outWf_ite (outWf_next (setPower_wf h)) (outWf_next h))

end

section
/-! ### Fabric -/
variable {s : State} {line slice core : Nat} {p : Packet} {a : BitVec 12} {g secs : BitVec 4}

theorem joinFetch_wf (h : memWf s) : memWf (joinFetch s line p) := ite_wf h (send_wf h)

theorem serveReplica_wf (h : memWf s) : memWf (serveReplica s slice line p) := by
  unfold serveReplica
  split
  · exact send_wf h
  · exact joinFetch_wf h

theorem serveSealed_wf (h : memWf s) : memWf (serveSealed s line p) := send_wf (fillL2_wf h)

theorem takeReplica_wf (h : memWf s) : memWf (takeReplica s slice p) := by
  unfold takeReplica
  dsimp only
  split
  · exact h
  · exact sendAll_wf (ite_wf (putReplica_wf h) h)

theorem settleFetches_wf (h : memWf s) : memWf (settleFetches s) := by
  unfold settleFetches
  refine foldl_wf _ (fun _ _ ht => send_wf ?_) _ h
  exact ht

theorem serveCp_wf (h : memWf s) : memWf (serveCp s line p) := send_wf (fillL2_wf h)

theorem serveEntry_wf {k : State → State} (hs : memWf s) (hk : ∀ (t : State), memWf t → memWf (k t)) :
    memWf (serveEntry s line p k) := ite_wf (refuse_wf hs) (withRoom_wf hs (fun _ ht => hk _ (fillL2_wf (serviced_wf ht))))

theorem serveRds_wf (h : memWf s) : memWf (serveRds s line p) := by
  unfold serveRds
  dsimp only
  split
  · exact serveSealed_wf h
  · split
    · exact serveCp_wf h
    · refine serveEntry_wf h (fun _ ht => ?_)
      split
      · exact ite_wf (completeReq_wf ht) (awaitCores_wf ht)
      · split
        · exact completeReq_wf ht
        · exact awaitCores_wf ht

theorem execRds_wf (h : memWf s) : outWf (execRds p s) := by
  unfold execRds
  dsimp only
  refine askedIf_wf h (fun _ ht => ?_)
  split
  · exact serveReplica_wf ht
  · exact serveRds_wf ht

theorem execRdx_wf (h : memWf s) : outWf (execRdx p s) := by
  unfold execRdx
  dsimp only
  refine askedIf_wf h (fun _ ht => ite_wf (serveCp_wf ht) (serveEntry_wf ht (fun _ ht1 => serveExclusive_wf ht1)))

theorem execUpg_wf (h : memWf s) : outWf (execUpg p s) := askedIf_wf h (fun _ ht => serveEntry_wf ht (fun _ ht1 => serveExclusive_wf ht1))

theorem execOwnw_wf (h : memWf s) : outWf (execOwnw p s) := by
  unfold execOwnw
  dsimp only
  refine askedIf_wf h (fun _ ht => ite_wf (send_wf ht) (ite_wf (refuse_wf ht) (serveEntry_wf ht (fun _ ht1 => ite_wf (completeReq_wf ht1)
      (awaitCores_wf ht1)))))

theorem clearPointer_wf (h : memWf s) : memWf (clearPointer s line core) := ite_wf h (ite_wf (setDir_wf h) h)

theorem takeEvict_wf (h : memWf s) :
    memWf (takeEvict s p) := ite_wf (send_wf h) (ite_wf (refuse_wf h) (send_wf (clearPointer_wf (serviced_wf h))))

theorem execEvc_wf (h : memWf s) : outWf (execEvc p s) := askedIf_wf h (fun _ ht => takeEvict_wf ht)
theorem execEvd_wf (h : memWf s) : outWf (execEvd p s) := askedIf_wf h (fun _ ht => takeEvict_wf ht)

theorem execPflr_wf (h : memWf s) : outWf (execPflr p s) := by
  unfold execPflr
  refine askedIf_wf h (fun _ ht => ?_)
  split
  · exact ht
  · exact sendPfl_wf ht

theorem dropFill_wf {r : Request} (h : memWf s) : memWf (dropFill s core r) := ite_wf (dropEmpty_wf h) (addAsks_wf (dropEmpty_wf h))
theorem markSectors_wf {kind : BitVec 2} (h : memWf s) : memWf (markSectors s core line kind a g secs) := h
theorem fillCp_wf (h : memWf s) : memWf (fillCp s core line a g secs) := markSectors_wf (foldl_wf _ (fun _ _ hs1 => holdFresh_wf hs1) _ h)

theorem takeDats_wf (h : memWf s) : memWf (takeDats s p) := by
  unfold takeDats
  dsimp only
  split
  · exact h
  · split
    · exact dropFill_wf (serveAsks_wf (endReq_wf h))
    · split
      · exact ite_wf h (dropFill_wf h)
      · exact ite_wf (ite_wf (holdFresh_wf h) h) h

theorem execDats_wf (h : memWf s) : outWf (execDats p s) := by
  unfold execDats
  refine deliverIf_wf h (fun _ ht => ?_)
  split
  · exact takeReplica_wf ht
  · exact takeDats_wf ht

theorem execDatx_wf (h : memWf s) : outWf (execDatx p s) := by
  unfold execDatx
  refine deliverIf_wf h (fun _ ht => ?_)
  dsimp only
  split
  · exact filled_wf ht
  · split
    · exact lockGranted_wf ht
    · split
      · exact ht
      · split
        · exact dropFill_wf (serveAsks_wf (endReq_wf ht))
        · split
          · exact fillCp_wf (serveAsks_wf (endReq_wf ht))
          · split
            · exact pinLine_wf (serveAsks_wf (endReq_wf ht))
            · exact installLine_wf (serveAsks_wf (endReq_wf ht))

theorem execGntx_wf (h : memWf s) : outWf (execGntx p s) := by
  unfold execGntx
  refine deliverIf_wf h (fun _ ht => ?_)
  dsimp only
  split
  · exact ht
  · exact ite_wf (dropFill_wf (endReq_wf ht)) (serveAsks_wf (installLine_wf (endReq_wf ht)))

theorem execAck_wf (h : memWf s) : outWf (execAck p s) := by
  unfold execAck
  refine deliverIf_wf h (fun _ ht => ite_wf (engAcked_wf ht) (ite_wf (flushAcked_wf ht) (ite_wf (lockAcked_wf ht) (dropEmpty_wf
      (endReq_wf ht)))))

theorem execNack_wf (h : memWf s) : outWf (execNack p s) := deliverIf_wf h (fun _ ht => ite_wf ht (ite_wf ht (State.updCore_wf ht)))

theorem execRequestRetry_wf {txn : Nat} (h : memWf s) : outWf (execRequestRetry core txn s) := by
  unfold execRequestRetry
  dsimp only
  split
  · exact outWf_next h
  · exact outWf_next (send_wf (State.updCore_wf h))

theorem execReservationLapse_wf (h : memWf s) : outWf (execReservationLapse line s) := by
  unfold execReservationLapse
  split
  · exact outWf_next h
  · exact outWf_next (ite_wf (lapse_wf h) h)

theorem execIack_wf (h : memWf s) : outWf (execIack p s) := deliverIf_wf h (fun _ ht => takeAnswer_wf ht)
theorem execRcd_wf (h : memWf s) : outWf (execRcd p s) := deliverIf_wf h (fun _ ht => takeAnswer_wf ht)

theorem execInv_wf (h : memWf s) : outWf (execInv p s) := by
  unfold execInv
  refine deliverIf_wf h (fun _ ht => ?_)
  dsimp only
  exact send_wf (dropLine_wf (markFills_wf ht))

theorem execDwn_wf (h : memWf s) : outWf (execDwn p s) := by
  unfold execDwn
  refine deliverIf_wf h (fun _ ht => ?_)
  dsimp only
  exact ite_wf (send_wf ht) (ite_wf (send_wf (State.updCore_wf ht)) (send_wf ht))

theorem execRcl_wf (h : memWf s) : outWf (execRcl p s) := by
  unfold execRcl
  refine deliverIf_wf h (fun _ ht => ?_)
  dsimp only
  split
  · exact send_wf ht
  · exact send_wf (flushLine_wf _ _ ht)

theorem execOwnx_wf (h : memWf s) : outWf (execOwnx p s) := by
  unfold execOwnx
  refine deliverIf_wf h (fun _ ht => ?_)
  dsimp only
  exact send_wf (foldl_wf _ (fun _ _ hs1 => evictWord_wf _ hs1) _ ht)

theorem execUnassignedMessage_wf (h : memWf s) :
    outWf (execUnassignedMessage p s) := outWf_ite (outWf_next (wakeIf_wf _ (getD_wf (anyArrival_wf h) h))) (outWf_next h)

end

section
/-! ### Integer -/
variable {s : State} {d a b i : BitVec 8} {f : Word → Word → Word → Word × Flags} {sg : Bool}

theorem int2_wf (h : memWf s) : outWf (int2 s d a b f) := by
  unfold int2
  dsimp only
  exact arith_wf h

theorem intI_wf {i : Word} (h : memWf s) : outWf (intI s d a i f) := by
  unfold intI
  dsimp only
  exact arith_wf h

theorem int1_wf {f : Word → Word → Word × Flags} (h : memWf s) : outWf (int1 s d a f) := by
  unfold int1
  dsimp only
  exact arith_wf h

theorem execAdd_wf (h : memWf s) : outWf (execAdd d a b s) := int2_wf h
theorem execSub_wf (h : memWf s) : outWf (execSub d a b s) := int2_wf h
theorem execMul_wf (h : memWf s) : outWf (execMul d a b s) := int2_wf h
theorem execMulhi_wf (h : memWf s) : outWf (execMulhi d a b s) := int2_wf h

theorem execMad_wf (h : memWf s) : outWf (execMad d a b s) := by
  unfold execMad
  dsimp only
  exact arith_wf h

theorem execMin_wf (h : memWf s) : outWf (execMin d a b s) := int2_wf h
theorem execMax_wf (h : memWf s) : outWf (execMax d a b s) := int2_wf h
theorem execAbs_wf (h : memWf s) : outWf (execAbs d a s) := int1_wf h
theorem execNeg_wf (h : memWf s) : outWf (execNeg d a s) := int1_wf h
theorem execAddI_wf (h : memWf s) : outWf (execAddI d a i s) := intI_wf h
theorem execMulI_wf (h : memWf s) : outWf (execMulI d a i s) := intI_wf h
theorem execShl_wf (h : memWf s) : outWf (execShl d a b s) := int2_wf h
theorem execShr_wf (h : memWf s) : outWf (execShr d a b s) := int2_wf h
theorem execSra_wf (h : memWf s) : outWf (execSra d a b s) := int2_wf h
theorem execShlI_wf {i : BitVec 5} (h : memWf s) : outWf (execShlI d a i s) := intI_wf h
theorem execShrI_wf {i : BitVec 5} (h : memWf s) : outWf (execShrI d a i s) := intI_wf h
theorem execSraI_wf {i : BitVec 5} (h : memWf s) : outWf (execSraI d a i s) := intI_wf h
theorem word2_wf {f : Word → Word → Word} (h : memWf s) : outWf (word2 s d a b f) := int2_wf h
theorem word1_wf {f : Word → Word} (h : memWf s) : outWf (word1 s d a f) := int1_wf h
theorem wordI_wf {f : Word → Word → Word} (h : memWf s) : outWf (wordI s d a i f) := intI_wf h
theorem execAnd_wf (h : memWf s) : outWf (execAnd d a b s) := word2_wf h
theorem execOr_wf (h : memWf s) : outWf (execOr d a b s) := word2_wf h
theorem execXor_wf (h : memWf s) : outWf (execXor d a b s) := word2_wf h
theorem execNot_wf (h : memWf s) : outWf (execNot d a s) := word1_wf h
theorem execAndI_wf (h : memWf s) : outWf (execAndI d a i s) := wordI_wf h
theorem execOrI_wf (h : memWf s) : outWf (execOrI d a i s) := wordI_wf h
theorem execXorI_wf (h : memWf s) : outWf (execXorI d a i s) := wordI_wf h
theorem execPopc_wf (h : memWf s) : outWf (execPopc d a s) := word1_wf h
theorem execClz_wf (h : memWf s) : outWf (execClz d a s) := word1_wf h
theorem execBrev_wf (h : memWf s) : outWf (execBrev d a s) := word1_wf h
theorem execBfx_wf (h : memWf s) : outWf (execBfx d a b s) := word2_wf h
theorem execBfi_wf (h : memWf s) : outWf (execBfi d a b s) := arith_wf h
theorem execLdi_wf {i : BitVec 16} (h : memWf s) : outWf (execLdi d i s) := arith_wf h
theorem execLdih_wf {i : BitVec 16} (h : memWf s) : outWf (execLdih d i s) := arith_wf h

theorem execMov_wf (h : memWf s) : outWf (execMov d a s) := by
  unfold execMov
  refine startGroup_wf h (fun _ _ ht => ite_wf (commitLane_wf ht) (ite_wf (commitScal_wf ht) (ite_wf (commitLane_wf ht) (commitUni_wf ht
      (fun _ ht1 => State.updCur_wf ht1)))))

theorem execLeas_wf (h : memWf s) :
    outWf (execLeas d a b s) := startGroup_wf h (fun _ _ ht => ite_wf (commitScal64_wf ht) (commitLane_wf ht))

theorem execSel_wf (h : memWf s) : outWf (execSel d a b s) := by
  unfold execSel
  refine startGroup_wf h (fun _ _ ht => ?_)
  dsimp only
  exact ite_wf (commitScal_wf ht) (commitLane_wf ht)

theorem cmp2_wf {f : Int → Int → Bool} (h : memWf s) : outWf (cmp2 s d a b sg f) := by
  unfold cmp2
  dsimp only
  exact compare_wf h

theorem cmpI_wf {sgn : Bool} {f : Int → Int → Bool} (h : memWf s) : outWf (cmpI s d a i sgn sg f) := by
  unfold cmpI
  dsimp only
  exact compare_wf h

theorem execCmpeq_wf (h : memWf s) : outWf (execCmpeq d a b s) := cmp2_wf h
theorem execCmpne_wf (h : memWf s) : outWf (execCmpne d a b s) := cmp2_wf h
theorem execCmplt_wf (h : memWf s) : outWf (execCmplt d a b s) := cmp2_wf h
theorem execCmple_wf (h : memWf s) : outWf (execCmple d a b s) := cmp2_wf h
theorem execCmpltn_wf (h : memWf s) : outWf (execCmpltn d a b s) := cmp2_wf h
theorem execCmplen_wf (h : memWf s) : outWf (execCmplen d a b s) := cmp2_wf h
theorem execCmpeqI_wf (h : memWf s) : outWf (execCmpeqI d a i s) := cmpI_wf h
theorem execCmpneI_wf (h : memWf s) : outWf (execCmpneI d a i s) := cmpI_wf h
theorem execCmpltI_wf (h : memWf s) : outWf (execCmpltI d a i s) := cmpI_wf h
theorem execCmpleI_wf (h : memWf s) : outWf (execCmpleI d a i s) := cmpI_wf h
theorem execCmpltnI_wf (h : memWf s) : outWf (execCmpltnI d a i s) := cmpI_wf h
theorem execCmplenI_wf (h : memWf s) : outWf (execCmplenI d a i s) := cmpI_wf h

end

section
/-! ### Lanes -/
variable {d a b : BitVec 8} {s : State}

theorem execShfl_wf (h : memWf s) : outWf (execShfl d a b s) := startGroup_wf h (fun _ _ ht => commitLane_wf ht)
theorem execShflx_wf (h : memWf s) : outWf (execShflx d a b s) := startGroup_wf h (fun _ _ ht => commitLane_wf ht)

theorem execBcast_wf (h : memWf s) : outWf (execBcast d a b s) := by
  unfold execBcast
  refine startGroup_wf h (fun _ _ ht => ?_)
  dsimp only
  exact commitLane_wf ht

theorem execMatchv_wf (h : memWf s) : outWf (execMatchv d a s) := by
  unfold execMatchv
  refine startGroup_wf h (fun _ _ ht => ?_)
  dsimp only
  exact ite_wf (ite_wf (retire_wf ht) (commitUni_wf ht (fun _ ht1 => ht1))) (commitLane_wf ht)

theorem vote_wf {sh : Shape} {f : Ctx → Word} (h : memWf s) : outWf (vote s sh d f) := by
  unfold vote
  refine startGroup_wf h (fun _ _ ht => ite_wf (retire_wf ht) (commitUni_wf ht (fun _ ht1 => State.updCur_wf ht1)))

theorem execBallot_wf (h : memWf s) : outWf (execBallot d a s) := by
  unfold execBallot
  refine startGroup_wf h (fun _ _ ht => ?_)
  dsimp only
  exact ite_wf (retire_wf ht) (commitUni_wf ht (fun _ ht1 => State.updCur_wf ht1))

theorem execVany_wf (h : memWf s) : outWf (execVany d a s) := vote_wf h
theorem execVall_wf (h : memWf s) : outWf (execVall d a s) := vote_wf h
theorem execRduni_wf (h : memWf s) : outWf (execRduni d a b s) := vote_wf h

theorem passOver_wf {core slot pc pg : Nat} (h : memWf s) :
    memWf (passOver s core slot pc pg) := foldl_wf _ (fun _ _ hs1 => endWait_wf hs1) _ h

theorem execXpair_wf (h : memWf s) : outWf (execXpair a b s) := by
  unfold execXpair
  refine startGroup_wf h (fun _ _ ht => ?_)
  dsimp only
  exact ite_wf (trapCode_wf ht) (enterWait_wf (passOver_wf (unpair_wf ht)))

theorem execXshfl_wf (h : memWf s) : outWf (execXshfl d a s) := by
  unfold execXshfl
  refine startGroup_wf h (fun _ _ ht => ?_)
  split
  · exact trapCode_wf ht
  · exact enterWait_wf ht

end

section
/-! ### Ortho -/
variable {q : BitVec 1} {t : BitVec 2} {s : State} {a : BitVec 8} {core part : Nat}

theorem execQinit_wf {sp au : BitVec 1} (h : memWf s) : outWf (execQinit q sp au t s) := unitInstr_wf h

theorem execQappend_wf {v : BitVec 8} (h : memWf s) : outWf (execQappend q v a s) := by
  unfold execQappend
  refine startGroup_wf h (fun _ _ ht => ?_)
  dsimp only
  split
  · exact retire_wf ht
  · refine unitStart_wf h ht (fun _ _ _ hu hu1 hu2 => ite_wf (retry_wf hu) (ite_wf (trapCode_wf hu1) (retire_wf (enterUnit_wf hu2))))

theorem applyInstr_wf {i : Instr} (h : memWf s) : outWf (applyInstr s i) := unitInstr_wf h
theorem execQappl_wf (h : memWf s) : outWf (execQappl q t s) := applyInstr_wf h
theorem execQapplt_wf (h : memWf s) : outWf (execQapplt q t s) := applyInstr_wf h
theorem execQappr_wf (h : memWf s) : outWf (execQappr q t s) := applyInstr_wf h
theorem execQapprt_wf (h : memWf s) : outWf (execQapprt q t s) := applyInstr_wf h

theorem execQcount_wf (h : memWf s) : outWf (execQcount q a s) := by
  unfold execQcount
  refine startGroup_wf h (fun _ _ ht => ite_wf (retire_wf ht) (unitStart_wf h ht (fun _ _ _ hu _ hu2 => ite_wf (retry_wf hu) (retire_wf
      (enterUnit_wf hu2)))))

theorem execQcompact_wf (h : memWf s) : outWf (execQcompact q s) := applyInstr_wf h
theorem execQdense_wf (h : memWf s) : outWf (execQdense q t s) := applyInstr_wf h

theorem orthPerform_wf {p : Partition} {o : UnitOp} (h : memWf s) : memWf (orthPerform s core part p o) := by
  unfold orthPerform
  dsimp only
  split
  · exact unitDone_wf (State.updGroup_wf (State.updCore_wf h))
  · exact showRows_wf (ite_wf (pulseFor_wf h) h)

theorem execOrthogonalUnitExecute_wf (h : memWf s) : outWf (execOrthogonalUnitExecute core part s) := by
  unfold execOrthogonalUnitExecute
  dsimp only
  split
  · exact outWf_next h
  · exact outWf_ite (outWf_next h) (outWf_ite (outWf_next (orthPerform_wf h)) (outWf_next h))

end

end Sys2Proof.Machine
end

section
/-! PROOFS. Every operation keeps the canonical form of both memories, part 5 of 5: one lemma for each operation, in the order of the
model's files. Most of them change other parts of the state, through operations that came before; only the writes of Laws/Memory.lean and
the clearing of memory at boot change a memory. -/
namespace Sys2Proof.Machine

section
/-! ### Tasks -/
variable {d a b : BitVec 8} {s : State} {line : Nat} {c : BitVec 16}

theorem execTspawn_wf (h : memWf s) : outWf (execTspawn d a s) := by
  unfold execTspawn
  refine startGroup_wf h (fun _ _ ht => ?_)
  dsimp only
  split
  · exact commitOnce_wf ht (fun _ ht1 => ht1)
  · refine Res.orElse_wf h ht (fun _ => ?_)
    split
    · exact trap_wf ht
    · next e => exact commitOnce_wf (memWf_of_some e (admitTask_wf ht)) (fun _ ht1 => State.updCur_wf ht1)

theorem execTdoneFinal_wf (h : memWf s) : outWf (execTdoneFinal d s) := by
  unfold execTdoneFinal
  refine startGroup_wf h (fun _ _ ht => ite_wf (commitOnce_wf ht (fun _ ht1 => ht1)) (enterWait_wf ht))

theorem execTdoneGrain_wf (h : memWf s) : outWf (execTdoneGrain d s) := by
  unfold execTdoneGrain
  refine startGroup_wf h (fun _ _ ht => ite_wf (commitOnce_wf ht (fun _ ht1 => ht1)) (ite_wf (commitScal_wf ht) (enterWait_wf ht)))

theorem raisePend_wf {t : Nat} (h : memWf s) : memWf (raisePend s t) := by
  unfold raisePend
  split
  · exact setTask_wf h
  · exact hwWrite_wf _ _ h

theorem addDependency_wf {p q : Nat} (h : memWf s) : memWf (addDependency s p q).2 := by
  unfold addDependency
  dsimp only
  split
  · exact h
  · split
    · exact h
    · split
      · exact h
      · split
        · exact h
        · split
          · split
            · exact h
            · exact setTask_wf (setTask_wf (raisePend_wf h))
          · split
            · exact h
            · exact setTask_wf (setTask_wf (raisePend_wf h))

theorem execTdep_wf (h : memWf s) : outWf (execTdep d a b s) := by
  unfold execTdep
  refine startGroup_wf h (fun _ _ ht => ?_)
  dsimp only
  split
  · exact commitOnce_wf ht (fun _ ht1 => ht1)
  · exact Res.orElse_wf h ht (fun _ => Res.orElse_wf h ht (fun _ => commitOnce_wf (addDependency_wf ht) (fun _ ht1 => State.updCur_wf
      ht1)))

theorem unbindLine_wf (h : memWf s) : memWf (unbindLine s line).2 := by
  unfold unbindLine
  split <;> exact h

theorem bindLine_wf {tmpl : Nat} {pool : List Nat} (h : memWf s) : memWf (bindLine s line tmpl pool).2 := by
  unfold bindLine
  dsimp only
  split
  · exact h
  · split
    · exact h
    · split
      · exact h
      · exact setMailbox_wf h

theorem execMbxreg_wf (h : memWf s) : outWf (execMbxreg d a b s) := by
  unfold execMbxreg
  dsimp only
  refine startGroup_wf h (fun _ _ ht => ?_)
  split
  · exact commitOnce_wf ht (fun _ ht1 => ht1)
  · refine Res.orElse_wf h ht (fun _ => ite_wf (commitOnce_wf (unbindLine_wf ht) (fun _ ht1 => State.updCur_wf ht1)) (Res.orElse_wf h ht
      (fun _ => Res.orElse_wf h ht (fun _ => commitOnce_wf (bindLine_wf ht) (fun _ ht1 => State.updCur_wf ht1)))))

theorem setRoute_wf {core n : Nat} {mask : Word} {all : Bool} {param : BitVec 44} (h : memWf s) :
    memWf (setRoute s core n mask all param) := h

theorem execEvroute_wf {n : BitVec 4} (h : memWf s) : outWf (execEvroute n a b s) := by
  unfold execEvroute
  refine startGroup_wf h (fun _ _ ht => ?_)
  dsimp only
  split
  · exact trap_wf ht
  · split
    · exact commitOnce_wf ht (fun _ ht1 => setRoute_wf ht1)
    · split
      · exact trap_wf ht
      · split
        · exact trap_wf ht
        · exact waitXlat_wf h
        · exact commitOnce_wf ht (fun _ ht1 => setRoute_wf ht1)

theorem execEvrouteSignal_wf (h : memWf s) :
    outWf (execEvrouteSignal s) := startGroup_wf h (fun _ _ ht => ite_wf (trap_wf ht) (commitOnce_wf ht (fun _ ht1 => ht1)))

theorem execCsrrd_wf (h : memWf s) : outWf (execCsrrd d c s) := startGroup_wf h (fun _ _ ht => commitScal_wf ht)

theorem execCsrwr_wf (h : memWf s) : outWf (execCsrwr a c s) := by
  unfold execCsrwr
  refine startGroup_wf h (fun _ _ ht => ?_)
  dsimp only
  split
  · exact setModeTo_wf ht
  · exact setFmtTo_wf ht
  · exact commitGroup_wf ht
  · exact commitGroup_wf ht
  · exact commitGroup_wf ht
  · exact commitGroup_wf ht
  · exact commitGroup_wf ht
  · exact commitGroup_wf ht
  · exact ite_wf (trapCode_wf ht) (commitGroup_wf ht)
  · exact commitGroup_wf ht

theorem execPreack_wf (h : memWf s) : outWf (execPreack s) := startGroup_wf h (fun _ _ ht => commitGroup_wf ht)

end

section
/-! ### WatchOps -/
variable {n : BitVec 4} {a b d : BitVec 8} {s : State}

theorem execWpset_wf (h : memWf s) :
    outWf (execWpset n a b s) := startGroup_wf h (fun _ _ ht => commitUni_wf ht (fun _ ht1 => ite_wf ht1 ht1))

theorem execWpclr_wf (h : memWf s) :
    outWf (execWpclr n s) := startGroup_wf h (fun _ _ ht => commitUni_wf ht (fun _ ht1 => ite_wf ht1 ht1))

theorem execWprd_wf (h : memWf s) : outWf (execWprd d n s) := by
  unfold execWprd
  refine startGroup_wf h (fun _ _ ht => ?_)
  dsimp only
  exact commitUni_wf ht (fun _ ht1 => State.updCur_wf ht1)

theorem haltInstr_wf {sh : Shape} {k : Ctx → State → Option (Nat × Nat) → State} (hs : memWf s)
    (hk : ∀ (x : Ctx) (t : State) (o : Option (Nat × Nat)), memWf t → memWf (k x t o)) :
    outWf (haltInstr s sh a k) := by
  unfold haltInstr
  refine startGroup_wf hs (fun _ _ ht => ?_)
  dsimp only
  exact ite_wf (hk _ _ _ ht) (trapCode_wf ht)

theorem execHltrd_wf (h : memWf s) : outWf (execHltrd d a b s) := by
  unfold execHltrd
  refine haltInstr_wf h (fun _ _ _ ht => ?_)
  dsimp only
  exact commitOnce_wf ht (fun _ ht1 => State.updCur_wf ht1)

theorem execHltwr_wf (h : memWf s) : outWf (execHltwr d a b s) := by
  unfold execHltwr
  refine haltInstr_wf h (fun _ _ _ ht => ?_)
  refine commitUni_wf ht (fun _ ht1 => ?_)
  split
  · exact State.setGroup_wf ht1
  · exact ht1

theorem execHltstep_wf (h : memWf s) : outWf (execHltstep a b s) := by
  unfold execHltstep
  refine haltInstr_wf h (fun x t tg ht => commitUni_wf ht (fun u hu => ?_))
  cases haltedGroup u tg with
  | none => exact hu
  | some e =>
    obtain ⟨c, g, k, v⟩ := e
    dsimp only
    cases stepSetup k v (fnat (x.uni b) 5 0) with
    | none => exact hu
    | some k1 => exact agenda_wf (State.setGroup_wf hu)

theorem execHltres_wf (h : memWf s) : outWf (execHltres a s) := by
  unfold execHltres
  refine haltInstr_wf h (fun _ _ _ ht => ?_)
  refine commitUni_wf ht (fun _ ht1 => ?_)
  split
  · exact foldl_wf _ (fun _ _ hs1 => ite_wf (State.setGroup_wf hs1) hs1) _ ht1
  · split
    · exact State.setGroup_wf ht1
    · exact ht1

end

section
/-! ### Dispatch -/

theorem exec_wf {i : Instr} {s : State} (h : memWf s) : outWf (exec i s) := by
  cases i with
  | powerOn => exact execPowerOn_wf h
  | portTrainingRetry => exact execPortTrainingRetry_wf h
  | bootwait => exact execBootwait_wf h
  | fwload => exact execFwload_wf h
  | imageVerify => exact execImageVerify_wf h
  | bootBringup => exact execBootBringup_wf h
  | stopped => exact execStopped_wf h
  | reset => exact execReset_wf h
  | warmRestart => exact execWarmRestart_wf h
  | clockGatedEntry => exact execClockGatedEntry_wf h
  | retentionEntry => exact execRetentionEntry_wf h
  | offEntry => exact execOffEntry_wf h
  | wakeRequest => exact execWakeRequest_wf h
  | thermalThrottle => exact execThermalThrottle_wf h
  | thermtrip => exact execThermtrip_wf h
  | status => exact execStatus_wf h
  | resend => exact execResend_wf h
  | memwr => exact execMemwr_wf h
  | memrd => exact execMemrd_wf h
  | ptwr => exact execPtwr_wf h
  | artwr => exact execArtwr_wf h
  | cbwr => exact execCbwr_wf h
  | launch => exact execLaunch_wf h
  | mail => exact execMail_wf h
  | atom => exact execAtom_wf h
  | preempt => exact execPreempt_wf h
  | query => exact execQuery_wf h
  | attest => exact execAttest_wf h
  | recctlOff => exact execRecctlOff_wf h
  | recctlRecord => exact execRecctlRecord_wf h
  | recctlReplay => exact execRecctlReplay_wf h
  | replayApply => exact execReplayApply_wf h
  | replayMonitorTimeout => exact execReplayMonitorTimeout_wf h
  | badcmd => exact execBadcmd_wf h
  | remoteWrite => exact execRemoteWrite_wf h
  | remoteRead => exact execRemoteRead_wf h
  | pgreq => exact execPgreq_wf h
  | pgrecall => exact execPgrecall_wf h
  | pginv => exact execPginv_wf h
  | pgiack => exact execPgiack_wf h
  | pgxfer => exact execPgxfer_wf h
  | pgdone => exact execPgdone_wf h
  | pgrefuse => exact execPgrefuse_wf h
  | pgack => exact execPgack_wf h
  | pagewaitTimeout => exact execPagewaitTimeout_wf h
  | rds => exact execRds_wf h
  | rdx => exact execRdx_wf h
  | upg => exact execUpg_wf h
  | wrb => exact execWrb_wf h
  | evc => exact execEvc_wf h
  | evd => exact execEvd_wf h
  | ownw => exact execOwnw_wf h
  | fabricAtom => exact execFabricAtom_wf h
  | redn => exact execRedn_wf h
  | lkrqLock => exact execLkrqLock_wf h
  | lkrqTrylock => exact execLkrqTrylock_wf h
  | lkrqUnlock => exact execLkrqUnlock_wf h
  | lkrqProbe => exact execLkrqProbe_wf h
  | lkrqFree => exact execLkrqFree_wf h
  | lkrqUnlink => exact execLkrqUnlink_wf h
  | lkrqAbsent => exact execLkrqAbsent_wf h
  | lkrqResume => exact execLkrqResume_wf h
  | lkrqHoldmove => exact execLkrqHoldmove_wf h
  | pflr => exact execPflr_wf h
  | dats => exact execDats_wf h
  | datx => exact execDatx_wf h
  | gntx => exact execGntx_wf h
  | ack => exact execAck_wf h
  | nack => exact execNack_wf h
  | requestRetry => exact execRequestRetry_wf h
  | reservationLapse => exact execReservationLapse_wf h
  | iack => exact execIack_wf h
  | rcd => exact execRcd_wf h
  | ares => exact execAres_wf h
  | packMessage => exact execPackMessage_wf h
  | dack => exact execDack_wf h
  | inv => exact execInv_wf h
  | dwn => exact execDwn_wf h
  | rcl => exact execRcl_wf h
  | ownx => exact execOwnx_wf h
  | pfl => exact execPfl_wf h
  | drop => exact execDrop_wf h
  | qsw => exact execQsw_wf h
  | quiesceSweepDone => exact execQuiesceSweepDone_wf h
  | unassignedMessage => exact execUnassignedMessage_wf h
  | load => exact execLoad_wf h
  | drain => exact execDrain_wf h
  | wqperf => exact execWqperf_wf h
  | evict => exact execEvict_wf h
  | cpwb => exact execCpwb_wf h
  | wback => exact execWback_wf h
  | discard => exact execDiscard_wf h
  | read => exact execRead_wf h
  | land => exact execLand_wf h
  | finish => exact execFinish_wf h
  | dispatch => exact execDispatch_wf h
  | tileProbeTimeout => exact execTileProbeTimeout_wf h
  | placement => exact execPlacement_wf h
  | halving => exact execHalving_wf h
  | grainClaim => exact execGrainClaim_wf h
  | finalTdoneMark => exact execFinalTdoneMark_wf h
  | instanceFinish => exact execInstanceFinish_wf h
  | quotaCrossing => exact execQuotaCrossing_wf h
  | faultPark => exact execFaultPark_wf h
  | engineStop => exact execEngineStop_wf h
  | prenoteTimeout => exact execPrenoteTimeout_wf h
  | collectorComplete => exact execCollectorComplete_wf h
  | walkComplete => exact execWalkComplete_wf h
  | waitphEnd => exact execWaitphEnd_wf h
  | tagWaitEnd => exact execTagWaitEnd_wf h
  | cntwaitEnd => exact execCntwaitEnd_wf h
  | regacqGrant => exact execRegacqGrant_wf h
  | rvdonateTransfer => exact execRvdonateTransfer_wf h
  | xpairBind => exact execXpairBind_wf h
  | xshflExchange => exact execXshflExchange_wf h
  | lockTimeout => exact execLockTimeout_wf h
  | lockholdTimeout => exact execLockholdTimeout_wf h
  | deadlockWalk => exact execDeadlockWalk_wf h
  | mwaitTimeout => exact execMwaitTimeout_wf h
  | eventFiring => exact execEventFiring_wf h
  | sideTimerExpiry => exact execSideTimerExpiry_wf h
  | frameLanding => exact execFrameLanding_wf h
  | frameDecodeFailure => exact execFrameDecodeFailure_wf h
  | matrixUnitExecute => exact execMatrixUnitExecute_wf h
  | orthogonalUnitExecute => exact execOrthogonalUnitExecute_wf h
  | bra => exact execBra_wf h
  | brp => exact execBrp_wf h
  | jmpr => exact execJmpr_wf h
  | call => exact execCall_wf h
  | ret => exact execRet_wf h
  | jpush => exact execJpush_wf h
  | bdiv => exact execBdiv_wf h
  | join => exact execJoin_wf h
  | exit => exact execExit_wf h
  | yield => exact execYield_wf h
  | nop => exact execNop_wf h
  | trap => exact execTrap_wf h
  | rte => exact execRte_wf h
  | rteSkip => exact execRteSkip_wf h
  | setmodeI => exact execSetmodeI_wf h
  | setmode => exact execSetmode_wf h
  | setfmt => exact execSetfmt_wf h
  | getmode => exact execGetmode_wf h
  | ldtab => exact execLdtab_wf h
  | regacq => exact execRegacq_wf h
  | regrel => exact execRegrel_wf h
  | rvdonate => exact execRvdonate_wf h
  | add => exact execAdd_wf h
  | sub => exact execSub_wf h
  | mul => exact execMul_wf h
  | mulhi => exact execMulhi_wf h
  | mad => exact execMad_wf h
  | min => exact execMin_wf h
  | max => exact execMax_wf h
  | abs => exact execAbs_wf h
  | neg => exact execNeg_wf h
  | and => exact execAnd_wf h
  | or => exact execOr_wf h
  | xor => exact execXor_wf h
  | not => exact execNot_wf h
  | shl => exact execShl_wf h
  | shr => exact execShr_wf h
  | sra => exact execSra_wf h
  | popc => exact execPopc_wf h
  | clz => exact execClz_wf h
  | brev => exact execBrev_wf h
  | bfx => exact execBfx_wf h
  | bfi => exact execBfi_wf h
  | sel => exact execSel_wf h
  | cmpeq => exact execCmpeq_wf h
  | cmpne => exact execCmpne_wf h
  | cmplt => exact execCmplt_wf h
  | cmple => exact execCmple_wf h
  | cmpltn => exact execCmpltn_wf h
  | cmplen => exact execCmplen_wf h
  | ldi => exact execLdi_wf h
  | ldih => exact execLdih_wf h
  | mov => exact execMov_wf h
  | leas => exact execLeas_wf h
  | addI => exact execAddI_wf h
  | mulI => exact execMulI_wf h
  | andI => exact execAndI_wf h
  | orI => exact execOrI_wf h
  | xorI => exact execXorI_wf h
  | shlI => exact execShlI_wf h
  | shrI => exact execShrI_wf h
  | sraI => exact execSraI_wf h
  | cmpeqI => exact execCmpeqI_wf h
  | cmpneI => exact execCmpneI_wf h
  | cmpltI => exact execCmpltI_wf h
  | cmpleI => exact execCmpleI_wf h
  | cmpltnI => exact execCmpltnI_wf h
  | cmplenI => exact execCmplenI_wf h
  | fadd => exact execFadd_wf h
  | fsub => exact execFsub_wf h
  | fmul => exact execFmul_wf h
  | fma => exact execFma_wf h
  | fmin => exact execFmin_wf h
  | fmax => exact execFmax_wf h
  | fneg => exact execFneg_wf h
  | fabs => exact execFabs_wf h
  | fcmpeq => exact execFcmpeq_wf h
  | fcmplt => exact execFcmplt_wf h
  | fcmple => exact execFcmple_wf h
  | fcmpun => exact execFcmpun_wf h
  | frcp => exact execFrcp_wf h
  | frsq => exact execFrsq_wf h
  | fsin => exact execFsin_wf h
  | fcos => exact execFcos_wf h
  | fexp2 => exact execFexp2_wf h
  | flog2 => exact execFlog2_wf h
  | cvt => exact execCvt_wf h
  | qnt => exact execQnt_wf h
  | dqnt => exact execDqnt_wf h
  | pack => exact execPack_wf h
  | unpack => exact execUnpack_wf h
  | shfl => exact execShfl_wf h
  | shflx => exact execShflx_wf h
  | ballot => exact execBallot_wf h
  | vany => exact execVany_wf h
  | vall => exact execVall_wf h
  | matchv => exact execMatchv_wf h
  | rduni => exact execRduni_wf h
  | bcast => exact execBcast_wf h
  | xpair => exact execXpair_wf h
  | xshfl => exact execXshfl_wf h
  | ldb => exact execLdb_wf h
  | ldh => exact execLdh_wf h
  | ldw => exact execLdw_wf h
  | ldd => exact execLdd_wf h
  | ldq => exact execLdq_wf h
  | stb => exact execStb_wf h
  | sth => exact execSth_wf h
  | stw => exact execStw_wf h
  | std => exact execStd_wf h
  | stq => exact execStq_wf h
  | lds => exact execLds_wf h
  | sts => exact execSts_wf h
  | ldacq => exact execLdacq_wf h
  | strel => exact execStrel_wf h
  | pref => exact execPref_wf h
  | fenceA => exact execFenceA_wf h
  | fenceR => exact execFenceR_wf h
  | fenceAr => exact execFenceAr_wf h
  | aadd => exact execAadd_wf h
  | afadd => exact execAfadd_wf h
  | amin => exact execAmin_wf h
  | amax => exact execAmax_wf h
  | aand => exact execAand_wf h
  | aor => exact execAor_wf h
  | axor => exact execAxor_wf h
  | axchg => exact execAxchg_wf h
  | acas => exact execAcas_wf h
  | redadd => exact execRedadd_wf h
  | redfadd => exact execRedfadd_wf h
  | redmin => exact execRedmin_wf h
  | redmax => exact execRedmax_wf h
  | redor => exact execRedor_wf h
  | cpy => exact execCpy_wf h
  | cpys => exact execCpys_wf h
  | tagwany => exact execTagwany_wf h
  | tagwall => exact execTagwall_wf h
  | tagff => exact execTagff_wf h
  | tagclr => exact execTagclr_wf h
  | barinit => exact execBarinit_wf h
  | bararr => exact execBararr_wf h
  | barexp => exact execBarexp_wf h
  | waitph => exact execWaitph_wf h
  | cntwait => exact execCntwait_wf h
  | enq => exact execEnq_wf h
  | deq => exact execDeq_wf h
  | monitor => exact execMonitor_wf h
  | mwait => exact execMwait_wf h
  | anew => exact execAnew_wf h
  | adrop => exact execAdrop_wf h
  | aseal => exact execAseal_wf h
  | aquota => exact execAquota_wf h
  | aquery => exact execAquery_wf h
  | cbsync => exact execCbsync_wf h
  | mloadb => exact execMloadb_wf h
  | mma => exact execMma_wf h
  | mmas => exact execMmas_wf h
  | mmab => exact execMmab_wf h
  | mbyp => exact execMbyp_wf h
  | mdrain => exact execMdrain_wf h
  | mstore => exact execMstore_wf h
  | mzero => exact execMzero_wf h
  | qinit => exact execQinit_wf h
  | qappend => exact execQappend_wf h
  | qappl => exact execQappl_wf h
  | qapplt => exact execQapplt_wf h
  | qappr => exact execQappr_wf h
  | qapprt => exact execQapprt_wf h
  | qcount => exact execQcount_wf h
  | qcompact => exact execQcompact_wf h
  | qdense => exact execQdense_wf h
  | lock => exact execLock_wf h
  | trylock => exact execTrylock_wf h
  | unlock => exact execUnlock_wf h
  | lkprobe => exact execLkprobe_wf h
  | lkfree => exact execLkfree_wf h
  | wpset => exact execWpset_wf h
  | wpclr => exact execWpclr_wf h
  | wprd => exact execWprd_wf h
  | hltrd => exact execHltrd_wf h
  | hltwr => exact execHltwr_wf h
  | hltstep => exact execHltstep_wf h
  | hltres => exact execHltres_wf h
  | tspawn => exact execTspawn_wf h
  | tdoneFinal => exact execTdoneFinal_wf h
  | tdoneGrain => exact execTdoneGrain_wf h
  | tdep => exact execTdep_wf h
  | mbxreg => exact execMbxreg_wf h
  | evroute => exact execEvroute_wf h
  | evrouteSignal => exact execEvrouteSignal_wf h
  | csrrd => exact execCsrrd_wf h
  | csrwr => exact execCsrwr_wf h
  | preack => exact execPreack_wf h
  | mhalt => exact execMhalt_wf h
  | mevwait => exact execMevwait_wf h
  | msignal => exact execMsignal_wf h
  | mtimer => exact execMtimer_wf h
  | mqpush => exact execMqpush_wf h
  | mqpop => exact execMqpop_wf h
  | mqcnt => exact execMqcnt_wf h
  | mtagr => exact execMtagr_wf h
  | mcpy => exact execMcpy_wf h
  | mbarc => exact execMbarc_wf h
  | mavdec => exact execMavdec_wf h
  | rvLui => exact execRvLui_wf h
  | rvAuipc => exact execRvAuipc_wf h
  | rvJal => exact execRvJal_wf h
  | rvJalr => exact execRvJalr_wf h
  | rvBeq => exact execRvBeq_wf h
  | rvBne => exact execRvBne_wf h
  | rvBlt => exact execRvBlt_wf h
  | rvBge => exact execRvBge_wf h
  | rvBltu => exact execRvBltu_wf h
  | rvBgeu => exact execRvBgeu_wf h
  | rvLb => exact execRvLb_wf h
  | rvLh => exact execRvLh_wf h
  | rvLw => exact execRvLw_wf h
  | rvLbu => exact execRvLbu_wf h
  | rvLhu => exact execRvLhu_wf h
  | rvSb => exact execRvSb_wf h
  | rvSh => exact execRvSh_wf h
  | rvSw => exact execRvSw_wf h
  | rvAddi => exact execRvAddi_wf h
  | rvSlti => exact execRvSlti_wf h
  | rvSltiu => exact execRvSltiu_wf h
  | rvXori => exact execRvXori_wf h
  | rvOri => exact execRvOri_wf h
  | rvAndi => exact execRvAndi_wf h
  | rvSlli => exact execRvSlli_wf h
  | rvSrli => exact execRvSrli_wf h
  | rvSrai => exact execRvSrai_wf h
  | rvAdd => exact execRvAdd_wf h
  | rvSub => exact execRvSub_wf h
  | rvSll => exact execRvSll_wf h
  | rvSlt => exact execRvSlt_wf h
  | rvSltu => exact execRvSltu_wf h
  | rvXor => exact execRvXor_wf h
  | rvSrl => exact execRvSrl_wf h
  | rvSra => exact execRvSra_wf h
  | rvOr => exact execRvOr_wf h
  | rvAnd => exact execRvAnd_wf h
  | rvFence f d => exact execRvFence_wf (_f := f) (_d := d) h
  | rvMul => exact execRvMul_wf h
  | rvMulh => exact execRvMulh_wf h
  | rvMulhsu => exact execRvMulhsu_wf h
  | rvMulhu => exact execRvMulhu_wf h
  | rvDiv => exact execRvDiv_wf h
  | rvDivu => exact execRvDivu_wf h
  | rvRem => exact execRvRem_wf h
  | rvRemu => exact execRvRemu_wf h
  | powerRemoved => exact execPowerRemoved_wf h
  | portFailure => exact execPortFailure_wf h
  | coltosReply => exact execColtosReply_wf h
  | sealBroadcast => exact execSealBroadcast_wf h
  | illegalEncoding => exact execIllegalEncoding_wf h
  | sideUnsupportedEncoding w => exact execSideUnsupportedEncoding_wf (_word := w) h
  | recctlBadarg => exact execRecctlBadarg_wf h
  | unreliableDeliveryRequest => exact execUnreliableDeliveryRequest_wf h
  | deviceOnlyCode => exact execDeviceOnlyCode_wf h

end

section
/-! ### Settle -/
variable {s : State}

theorem settleFences_wf (h : memWf s) : memWf (settleFences s) := foldl_wf _ (fun _ _ hs1 => State.updGroup_wf (selfInv_wf hs1)) _ h
theorem settleLookups_wf (h : memWf s) : memWf (settleLookups s) := foldl_wf _ (fun _ _ hs1 => settleAsks_wf hs1) _ h

theorem settleAll_wf (h : memWf s) : memWf (settleAll s) :=
  settleSweeps_wf (settleMarks_wf (settleResv_wf (settleEngines_wf (settleFills_wf (settleFetches_wf (settleLookups_wf
    (settleRemotes_wf (settleSessions_wf (endMonitors_wf (settleFences_wf h))))))))))

theorem passCycles_wf (h : memWf s) : memWf (passCycles s) := wakeBusy_wf (moveNet_wf (passTime_wf h))

end

section
/-! ### Eligible -/
variable {s : State}

theorem tagRequests_wf (h : memWf s) : memWf (tagRequests s) := foldl_wf _ (fun _ _ hs1 => setSlack_wf hs1) _ h
theorem afterTurn_wf (h : memWf s) : memWf (afterTurn s) := passCycles_wf (tagRequests_wf (settleAll_wf h))

end

section
/-! ### Step -/
variable {s : State} {core : Nat}

theorem groupTurn_wf {slot : Nat} (h : memWf s) : outWf (groupTurn s core slot) := by
  have hf : memWf (fetchGroup s core slot).st := fetchGroup_wf h
  unfold groupTurn
  cases e : fetchGroup s core slot with
  | done t => exact outWf_next (settle_wf h (memWf_of_done e hf))
  | word t w =>
    have he : outWf (exec (groupInstr w) t) := exec_wf (memWf_of_word e hf)
    cases e2 : exec (groupInstr w) t with
    | next u => simp only [e2]; exact outWf_next (settle_wf h (memWf_of_next e2 he))
    | fault f => simp only [e2]; exact outWf_fault _
    | refused r => simp only [e2]; exact outWf_refused _

theorem sideTurn_wf {storer : Bool} (h : memWf s) : outWf (sideTurn s core storer) := by
  unfold sideTurn
  split
  · next e => exact outWf_next (memWf_of_done e (fetchSide_wf h))
  · next e => exact exec_wf (memWf_of_word e (fetchSide_wf h))

theorem takeTurn_wf {t : Turn} (h : memWf s) : outWf (takeTurn s t) := by
  unfold takeTurn
  dsimp only
  split
  · exact groupTurn_wf h
  · exact sideTurn_wf h
  · exact outWf_ite (exec_wf h) (outWf_next h)

theorem step_wf (h : memWf s) : outWf (step s) := by
  unfold step
  dsimp only
  cases s.agenda with
  | nil =>
    dsimp only
    split
    · next e => exact outWf_next (afterTurn_wf (memWf_of_next e (takeTurn_wf h)))
    · exact outWf_fault _
    · exact outWf_refused _
  | cons t l =>
    dsimp only
    split
    · next e => exact outWf_next (afterTurn_wf (memWf_of_next e (takeTurn_wf (agenda_wf h))))
    · exact outWf_fault _
    · exact outWf_refused _

end

/-- Settles O57: `step_wf`, by what each turn and each instruction do with the two memories. -/
theorem stepsKeepMemoryCanonical : Obligations.StepsKeepMemoryCanonical := by
  unfold Obligations.StepsKeepMemoryCanonical
  intro s u hl hb e
  exact memWf_of_next e (step_wf ⟨hl, hb⟩)

end Sys2Proof.Machine
end
